-- ==== Sys2Proof/Word.lean ====
section
/-! DEFINITION. The words of the device: bytes, 32-bit registers (R16), and the names of its fixed places. -/

namespace Sys2Proof

/-- One byte. -/
abbrev Byte := BitVec 8

/-- One register of BAR0: every register is 32 bits wide (R16). -/
abbrev Reg := BitVec 32

/-- A time or a duration in whole device-local nanoseconds (R4). -/
abbrev Ns := Nat

/-- Ceiling division. -/
def cdiv (a b : Nat) : Nat := (a + b - 1) / b

/-- The two PCIe ports (R385). -/
inductive Port where
  | p0
  | p1
deriving DecidableEq, Repr

/-- The other port. -/
def Port.other : Port → Port
  | .p0 => .p1
  | .p1 => .p0

/-- A reading path of R462: the two ports and the management view. -/
inductive Path where
  | port (p : Port)
  | mgmt
deriving DecidableEq, Repr

/-- The index of a path's bank. -/
def Path.index : Path → Fin 3
  | .port .p0 => 0
  | .port .p1 => 1
  | .mgmt => 2

/-- The index of a port's bank. -/
def Port.index : Port → Fin 2
  | .p0 => 0
  | .p1 => 1

/-- A context number (R34). -/
abbrev CtxId := Fin 16

end Sys2Proof
end

