-- ==== Sys2Proof/Syntax.lean ====
section
/-! DEFINITION. The commands of the block: one constructor of `Instr` for each row of spec/opcode_table.json, with
the row's operands. What the outside decides (a measured temperature, a test's outcome, the bytes of a packet) is an
operand; what the device decides is in the meaning. -/

namespace Sys2Proof

/-- A command of an admitted step: its context, the admission number of its step and its command index (R325). -/
structure CmdRef where
  ctx  : CtxId
  step : Nat
  idx  : Nat
deriving DecidableEq, Repr

/-- The engines of R44, as a command entry names them (R325). -/
inductive Engine where
  | matrix (core : Nat)
  | vector (core : Nat)
  | dma (complex chan : Nat)
  | update (cluster : Nat)
  | coll (agent : Nat)
deriving DecidableEq, Repr

/-- One intake record as written into a window: every header and trailer field but TYPE, which the row gives, and
the payload bytes (R318). -/
structure RecordIn where
  port    : Port
  ctx     : CtxId
  flags   : BitVec 8
  length  : BitVec 16
  client  : BitVec 8
  hdrZero : BitVec 24
  tag     : BitVec 64
  payload : List Byte
  seq     : BitVec 32
  sealWd  : BitVec 32
  trlZero : BitVec 32
  crc     : BitVec 32
deriving DecidableEq, Repr

/-- A write of one register as the port carries it (R460): the port, the DWORD value, its byte enables and length. -/
structure RegWrite where
  port    : Port
  value   : Reg
  enables : BitVec 4 := 0xF#4
  dwords  : Nat := 1
deriving DecidableEq, Repr

/-- One OXT message as it arrives: `good` says that the UDP checksum and the ICRC are right and that no extension
header or fragment was found (R273); the other fields are those of R276. -/
structure OxtPkt where
  good    : Bool
  port    : Fin 8
  srcAddr : BitVec 128
  srcPort : BitVec 16
  ver     : BitVec 4
  typ     : BitVec 4
  cls     : BitVec 4
  flow    : Fin 8
  retx    : Bool
  srcRank : BitVec 14
  dstRank : BitVec 14
  job     : BitVec 32
  epoch   : BitVec 32
  srcGen  : BitVec 16
  dstGen  : BitVec 16
  psn     : BitVec 32
  ackPsn  : BitVec 32
  credit  : BitVec 16
  step    : BitVec 32
  cmd     : BitVec 12
  reason  : BitVec 4
  slot    : BitVec 16
  offset  : BitVec 32
  payload : List Byte
deriving DecidableEq, Repr

/-- One Riffle frame (R282): `good` says that its FCS is right and `mine` that it is addressed to the port's MAC. -/
structure RiffleFrame where
  good      : Bool
  mine      : Bool
  typ       : BitVec 8
  state     : BitVec 8
  seq       : BitVec 16
  prober    : BitVec 16
  target    : BitVec 16
  job       : BitVec 32
  probeTime : BitVec 64
  echoTime  : BitVec 64
deriving DecidableEq, Repr

/-- One mesh packet (R181): the header fields and the data bytes. `region` is the region of the endpoint that it
addresses, and `write64` the byte enables of TYPE 0x2, one bit for each byte. -/
structure MeshPkt where
  gen     : BitVec 16
  ctx     : CtxId
  typ     : BitVec 4
  lines   : BitVec 6
  src     : BitVec 6
  dst     : BitVec 6
  addr    : BitVec 48
  region  : Option (Fin 4)
  enables : List Bool
  data    : List Byte
  cmd     : Option CmdRef
deriving DecidableEq, Repr

/-- The reduced commit-ready record (R206). -/
structure Reduced where
  ready   : Bool
  stepMin : BitVec 64
  stepMax : BitVec 64
  baseMin : BitVec 64
  baseMax : BitVec 64
  lowBad  : BitVec 15
  epoch   : BitVec 32
deriving DecidableEq, Repr

/-- What waits for peers (R51): a collective command, or the commit-ready exchange of a step. -/
inductive WaitRef where
  | command (c : CmdRef)
  | commitReady (ctx : CtxId) (step : Nat)
deriving DecidableEq, Repr

/-- The checkers of R343 that a command can fail. -/
inductive Checker where
  | checksum
  | combiner
  | vector
  | lockstep
  | update
  | lanes
deriving DecidableEq, Repr

/-- A hardware unit that can fail, be retired or be tested (R347, R372, R413). Clusters are physical, 0 to 27. -/
inductive HwUnit where
  | array (cluster : Fin 28) (core : Fin 2) (slot : Fin 4)
  | cluster (c : Fin 28)
  | region (r : Fin 4)
  | die (d : Fin 2)
  | dmaChannel (complex : Fin 5) (chan : Fin 32)
  | requestLine (complex : Fin 5) (line : Fin 64)
  | agent (r : Fin 4)
  | laneGroup (g : Fin 8)
  | shaEngine (e : Fin 32)
  | d2dModule (m : Fin 48)
  | fordModule (d : Fin 2) (m : Fin 16)
  | hbmChannel (c : Fin 256)
  | device
deriving DecidableEq, Repr

/-- A UCIe module (R184). -/
inductive Module where
  | d2d (m : Fin 48)
  | ford (d : Fin 2) (m : Fin 16)
deriving DecidableEq, Repr

/-- A rung of the ladder with its scope (R367). -/
inductive RungScope where
  | engine (e : Engine)
  | core (c : Nat)
  | cluster (c : Nat)
  | region (r : Fin 4)
  | warm
  | cold
deriving DecidableEq, Repr

/-- Who sends heartbeats on the management ring (R366). -/
inductive Steward where
  | region (r : Fin 4)
  | die (d : Fin 2)
  | device
deriving DecidableEq, Repr

/-- Units that run no commands and are watched against a bound (R366). -/
inductive BoundUnit where
  | sluice
  | weirCommit
  | weirWalk
  | teardown
  | weirRebuild
deriving DecidableEq, Repr

/-- What a read of one physical HBM group finds (R147): the error weight of each data line at the first read and at
the repeat, and whether the group CRC mismatches once the lines are corrected. -/
structure GroupFinding where
  first     : List Nat
  crcFirst  : Bool
  again     : List Nat
  crcAgain  : Bool
deriving DecidableEq, Repr

/-- A bed bank or a core SRAM bank (R119): cluster banks and region banks by physical number, core banks by
physical core. -/
inductive SramBank where
  | clusterBank (c : Fin 28)
  | regionBank (r : Fin 4)
  | coreBank (c : Fin 56)
deriving DecidableEq, Repr

/-- One word the scrub reads: its sub-bank, its row, its device address and its error weight (R138). -/
structure ScrubWord where
  sub    : Nat
  row    : Nat
  addr   : Nat
  weight : Nat
deriving DecidableEq, Repr

/-- One sampled unit (R349): command index and ordinal. -/
structure SampleRef where
  idx     : Nat
  ordinal : Nat
deriving DecidableEq, Repr

/-- The clock domains of R443. -/
inductive Domain where
  | management
  | arithmetic (zone : Fin 4)
  | mesh (m : Fin 3)
  | hbm (stack : Fin 8)
  | ucie (bridge : Fin 3)
  | ethernet (port : Fin 8)
  | pcie (port : Port)
deriving DecidableEq, Repr

/-- Who fetches firmware (R411), by physical number. -/
inductive Fetcher where
  | core (c : Fin 56)
  | regionSteward (r : Fin 4)
  | dieSteward (d : Fin 2)
  | oxbow (c : Fin 28)
deriving DecidableEq, Repr

/-- A flow of OXT, seen from this device (R275): the job context, the peer's rank and the flow number. -/
structure FlowKey where
  ctx  : CtxId
  peer : Nat
  flow : Fin 8
deriving DecidableEq, Repr

/-- The commands: one constructor for each row of spec/opcode_table.json, in its order. -/
inductive Instr where
  | create (r : RecordIn)
  | teardown (r : RecordIn)
  | preempt (r : RecordIn)
  | rebind (r : RecordIn)
  | stepHead (r : RecordIn)
  | commands (r : RecordIn)
  | epoch (r : RecordIn)
  | groupTable (r : RecordIn)
  | peerAddress (r : RecordIn)
  | riffleTargets (r : RecordIn)
  | mirrorConfiguration (r : RecordIn)
  | restore (r : RecordIn)
  | pattern (r : RecordIn)
  | join (r : RecordIn)
  | leave (r : RecordIn)
  | stop (r : RecordIn)
  | manifest (r : RecordIn)
  | load (r : RecordIn)
  | final (r : RecordIn)
  | intakeWindowWrite (port : Port) (ctx : CtxId) (offset : BitVec 16) (bytes : List Byte)
  | manifestVerified
  | stepStart (ctx : CtxId)
  | commandRelease (c : CmdRef)
  | timeSliceBoundary (e : Engine)
  | matrixCommandComplete (c : CmdRef)
  | vectorCommandComplete (c : CmdRef)
  | dmaCommandComplete (c : CmdRef) (hostData : List Byte)
  | updateCommandComplete (c : CmdRef)
  | collectiveCommandComplete (c : CmdRef)
  | overrun (c : CmdRef)
  | checkerMismatch (c : CmdRef) (chk : Checker) (ordinal : Nat) (operands : List Byte)
  | weirPageWrite (c : CmdRef) (page : Nat)
  | commit (ctx : CtxId) (step : Nat)
  | reducedRecord (ctx : CtxId) (step : Nat) (r : Reduced)
  | collectiveDeadline (w : WaitRef) (missing : List Nat)
  | walkComplete (row : Fin 17) (slot : Fin 8)
  | servingPeriodStart (ctx : CtxId)
  | fetchRequest (p : OxtPkt)
  | fetchChunk (p : OxtPkt)
  | fetchAbsent (p : OxtPkt)
  | fetchWaitExpiry (ctx : CtxId) (chunk : Nat)
  | mirrorStreamEnd (ctx : CtxId)
  | mirrorStreamDeadline (ctx : CtxId)
  | mirrorChunk (p : OxtPkt)
  | mirrorDigest (p : OxtPkt)
  | mirrorRepeat (p : OxtPkt)
  | mirrorSeal (p : OxtPkt)
  | mirrorClean (p : OxtPkt)
  | mirrorDiscard (p : OxtPkt)
  | mirrorRefuse (p : OxtPkt)
  | take (p : OxtPkt)
  | none (p : OxtPkt)
  | restoreWaitExpiry (ctx : CtxId) (chunk : Nat)
  | collectiveMessage (p : OxtPkt)
  | stageQueueData (p : OxtPkt)
  | oxtAck (p : OxtPkt)
  | oxtNack (p : OxtPkt)
  | oxtResetNack (p : OxtPkt)
  | oxtAbort (p : OxtPkt)
  | notReadyWaitExpiry (f : FlowKey)
  | retransmitTimeout (f : FlowKey)
  | ackTimer (f : FlowKey)
  | managementRequest (p : OxtPkt)
  | riffleProbe (port : Fin 8) (f : RiffleFrame)
  | riffleEcho (port : Fin 8) (f : RiffleFrame)
  | riffleInterval
  | riffleTimerExpiry (ctx : CtxId) (target : Nat)
  | pfcFrame (port : Fin 8) (priority : Fin 8) (xoff : Bool)
  | pauseStorm (port : Fin 8) (priority : Fin 8)
  | portUp (port : Fin 8) (lanes : BitVec 8)
  | portDown (port : Fin 8)
  | reqRise (complex : Fin 5) (line : Fin 64)
  | dmaBurstComplete (c : CmdRef) (hostData : List Byte)
  | requestLineParityFault (complex : Fin 5) (line : Fin 64)
  | meshPacketArrival (p : MeshPkt)
  | ucieReplayLimit (m : Module)
  | ucieModuleRepair (m : Module) (ok : Bool)
  | ringBreak (ring : Fin 2) (segment : Fin 7)
  | retrainSlot
  | retrainResult (failed : BitVec 8)
  | hbmParityError (chan : Fin 256) (failedAttempts : Nat) (reader : Option CmdRef)
  | hbmGroupRead (group : Nat) (reader : Option CmdRef) (finding : GroupFinding)
  | hbmTemperatureRead (stack : Fin 8) (temp : Nat)
  | hbmScrubGroup (finding : GroupFinding)
  | migrationStart
  | migrationCommit (unreadable : List Nat)
  | sramScrub (bank : SramBank) (words : List ScrubWord)
  | spareRowReplace
  | stepBoundaryRetirement
  | eddyRecomputeComplete (ctx : CtxId) (step : Nat) (katFails : List Bool) (mismatch : Option SampleRef)
      (address : Bool)
  | eddyVote (agreesWithEngine : Bool)
  | checkerRepeat (mismatchAgain : Bool)
  | repeatPending
  | signatureRecordExport
  | watchdogExpiry (e : Engine)
  | rungComplete (rung : RungScope)
  | rungBoundMiss (rung : RungScope)
  | heartbeatMiss (w : Steward)
  | unitBoundMiss (u : BoundUnit)
  | suspectReplayComplete (e : Engine) (ctx : CtxId) (hung hungElsewhere : Bool)
  | quarantineLimit (e : Engine)
  | teardownComplete (ctx : CtxId)
  | ownClaim (w : RegWrite)
  | ownRenew (w : RegWrite)
  | ownRelease (w : RegWrite)
  | ownOffer (w : RegWrite)
  | offerLapse
  | leaseExpiry
  | perst (port : Port)
  | functionLevelReset (port : Port)
  | hotReset (port : Port)
  | pcieLinkTrained (port : Port) (gts width mps : Nat)
  | pcieLinkDown (port : Port)
  | bar4Read (port : Port) (offset len : Nat)
  | bar4Write (port : Port) (offset : Nat) (bytes : List Byte)
  | registerWrite (offset : Nat) (w : RegWrite)
  | fenceRead (port : Port) (row : Fin 17)
  | pwrNowLoRead (port : Port)
  | weirMirCleanLoRead (port : Port)
  | bootJrnSeqLoRead (port : Port)
  | fabFence (w : RegWrite)
  | rcvReset (w : RegWrite)
  | sluClientClear (w : RegWrite)
  | hbmInject (w : RegWrite)
  | intgInject (w : RegWrite)
  | intgCover (w : RegWrite)
  | bootUpdGo (w : RegWrite)
  | imageUpdateDone (programOk : Bool)
  | secSvnCommit (w : RegWrite)
  | keyLoad (w : RegWrite)
  | keyErase (w : RegWrite)
  | attestationGo (w : RegWrite)
  | attestationSigned
  | traceClear (w : RegWrite)
  | pwrgdInRise (straps : BitVec 2)
  | pwrgdInFall
  | resetInNAssert (heldNs : Nat)
  | resetInNRelease (straps : BitVec 2)
  | journalReplayDone (readable : Bool)
  | bootImageVerified
  | firmwareFetchDone (f : Fetcher) (crcOk : Bool)
  | firmwareFetchTimeout (f : Fetcher)
  | hbmTrainingDone (failed : List (Fin 256))
  | hbmInitialised
  | identityKeyDerived
  | startUpTestDone (failed : List HwUnit)
  | weirRebuildDone
  | journalAppend (programOk : Bool)
  | compactionDone (programOk : Bool)
  | areaEraseDone (eraseOk : Bool)
  | timeMark
  | zoneTemperatureRead (zone : Fin 7) (readings : List Nat)
  | powerWindow (watts : Nat)
  | powerLevelFall
  | clockCheck (lost : List Domain)
  | testPortBypassExit
deriving DecidableEq, Repr

end Sys2Proof
end

