-- ==== Sys2Proof/Config.lean ====
section
/-! DEFINITION. What the spec leaves to outside the device or leaves open: constants with no body (free values),
and the figures the spec fixes once and for all. -/

namespace Sys2Proof.Config

/-- A byte whose value the spec calls undefined, at draw `n` and address `a` (R78, R124, R137, R170, R193, R257). -/
opaque freeByte : Nat → Nat → BitVec 8

/-- A word whose value the spec does not state, at draw `n`. -/
opaque freeWord : Nat → BitVec 32

/-- The value of a vector operation whose result the spec does not state for these operands
(opcode, first, second and third operand). -/
opaque freeVec : Nat → BitVec 32 → BitVec 32 → BitVec 32 → BitVec 32

/-- The token a serving template samples at draw `n` for a sequence: the template is a step program of the
planner's and the spec does not give its sampling function (R304). -/
opaque freeToken : Nat → BitVec 32 → BitVec 32

/-- SLH-DSA verification (FIPS 205): parameter set (1 128s, 2 192s, 3 256s), public key, message, signature.
The standard lies outside the spec (R428). -/
opaque slhVerify : Nat → List (BitVec 8) → List (BitVec 8) → List (BitVec 8) → Bool

/-- SLH-DSA-SHA2-128f key generation from SK.seed, SK.prf and PK.seed: the 32-byte public key (R431). -/
opaque slhPublic : List (BitVec 8) → List (BitVec 8) → List (BitVec 8) → BitVec 256

/-- SLH-DSA-SHA2-128f signature of 17,088 bytes under the device identity (R436, R437). -/
opaque slhSign : BitVec 256 → List (BitVec 8) → List (BitVec 8)

/-- The event code that M5 takes for the test port leaving bypass (0) and for a hold boot (1); the spec gives no value (R435). -/
opaque eventCode : Nat → BitVec 32

/-- One management cycle, in ns: the counter advances by 2 (R446). -/
def tick : Nat := 2

/-- Time slice of an engine, ns (R333). -/
def slice : Nat := 250000

/-- The largest offset of a step, ns (R56). -/
def maxOffset : Nat := 60000000000

/-- Bytes of a page (R192). -/
def pageBytes : Nat := 4096

/-- Data bytes of a frame: 15 pages (R144). -/
def frameBytes : Nat := 61440

/-- Physical groups of a channel (R143). -/
def channelGroups : Nat := 4194304

/-- Bytes of one chunk of mirrored state or weights: 64 MiB (R231, R306). -/
def chunkBytes : Nat := 67108864

/-- The seal word of a record trailer (R318). -/
def sealWord : BitVec 32 := 0x5EA1ED01#32

end Sys2Proof.Config
end

