-- ==== Sys2Proof/Machine/Num.lean ====
section
/-! DEFINITION. Exact values, the element formats of R80, and the one rounding of R91. -/

namespace Sys2Proof.Machine

/-- A value: a NaN, an infinity, or the exact rational ± n / d with its sign kept for zero (R82). -/
inductive XVal where
  | nan
  | inf (neg : Bool)
  | fin (neg : Bool) (n d : Nat)
deriving DecidableEq, Repr

/-- The value of a natural number. -/
def XVal.ofNat (n : Nat) : XVal := .fin false n 1

/-- The value of an integer. -/
def XVal.ofInt (i : Int) : XVal := .fin (decide (i < 0)) i.natAbs 1

/-- The signed numerator of a finite value, 0 otherwise. -/
def XVal.num : XVal → Int
  | .fin neg n _ => if neg then -(n : Int) else n
  | _ => 0

/-- The denominator of a finite value, 1 otherwise. -/
def XVal.den : XVal → Nat
  | .fin _ _ d => d
  | _ => 1

/-- Is the value zero? -/
def XVal.isZero : XVal → Bool
  | .fin _ n _ => n == 0
  | _ => false

/-- Is the value a NaN? -/
def XVal.isNan : XVal → Bool
  | .nan => true
  | _ => false

/-- Is the value finite? -/
def XVal.isFin : XVal → Bool
  | .fin .. => true
  | _ => false

/-- The sign bit. -/
def XVal.neg? : XVal → Bool
  | .nan => false
  | .inf neg => neg
  | .fin neg _ _ => neg

/-- The opposite value. -/
def XVal.neg : XVal → XVal
  | .nan => .nan
  | .inf neg => .inf (!neg)
  | .fin neg n d => .fin (!neg) n d

/-- The magnitude. -/
def XVal.abs : XVal → XVal
  | .nan => .nan
  | .inf _ => .inf false
  | .fin _ n d => .fin false n d

/-- The exact sum. A sum of exactly zero whose terms are not all zero is +0 (R82); a sum of zeros is −0 only when
every term is −0 (PRESUMED: IEEE 754, log entry 20). -/
def XVal.add : XVal → XVal → XVal
  | .nan, _ => .nan
  | _, .nan => .nan
  | .inf a, .inf b => if a == b then .inf a else .nan
  | .inf a, _ => .inf a
  | _, .inf b => .inf b
  | .fin a n d, .fin b m e =>
    if n = 0 ∧ m = 0 then .fin (a && b) 0 1
    else
      let l := Nat.lcm d e
      let x : Int := (if a then -1 else 1) * (n * (l / d) : Nat) + (if b then -1 else 1) * (m * (l / e) : Nat)
      .fin (decide (x < 0)) x.natAbs l

/-- The exact difference. -/
def XVal.sub (x y : XVal) : XVal := x.add y.neg

/-- The exact product; zero times infinity is a NaN (R95). -/
def XVal.mul : XVal → XVal → XVal
  | .nan, _ => .nan
  | _, .nan => .nan
  | .inf a, .inf b => .inf (a != b)
  | .inf a, .fin b n _ => if n = 0 then .nan else .inf (a != b)
  | .fin a n _, .inf b => if n = 0 then .nan else .inf (a != b)
  | .fin a n d, .fin b m e => .fin (a != b) (n * m) (d * e)

/-- The exact quotient of a finite value by a nonzero finite one; a NaN otherwise. -/
def XVal.quot : XVal → XVal → XVal
  | .fin a n d, .fin b m e => if m = 0 then .nan else .fin (a != b) (n * e) (d * m)
  | _, _ => .nan

/-- `x × 2^k`. -/
def XVal.scale (k : Int) : XVal → XVal
  | .fin neg n d => if 0 ≤ k then .fin neg (n * 2 ^ k.toNat) d else .fin neg n (d * 2 ^ (-k).toNat)
  | x => x

/-- `x < y` for values that are not NaN; zeros of either sign are equal. -/
def XVal.lt : XVal → XVal → Bool
  | .nan, _ => false
  | _, .nan => false
  | .inf a, .inf b => a && !b
  | .inf a, _ => a
  | _, .inf b => !b
  | x@(.fin _ _ d), y@(.fin _ _ e) => decide (x.num * e < y.num * d)

/-- `floor(log2 (n / d))` of a positive rational. -/
def log2Floor (n d : Nat) : Int :=
  let g : Int := (Nat.log2 n : Int) - Nat.log2 d
  if 0 ≤ g then (if d * 2 ^ g.toNat ≤ n then g else g - 1)
  else (if d ≤ n * 2 ^ (-g).toNat then g else g - 1)

/-- The nearest integer to `n / d`, ties away from zero (R91). -/
def roundNat (n d : Nat) : Nat := (2 * n + d) / (2 * d)

/-- `round (n / d × 2^(-q))`, ties away from zero. -/
def roundAt (q : Int) (n d : Nat) : Nat :=
  if 0 ≤ q then roundNat n (d * 2 ^ q.toNat) else roundNat (n * 2 ^ (-q).toNat) d

/-- The nearest integer to a finite value, ties away from zero; 0 for a special. -/
def XVal.round : XVal → Int
  | .fin neg n d => if neg then -(roundNat n d : Int) else roundNat n d
  | _ => 0

/-- A floating-point format: mantissa bits, the power of two of its smallest subnormal, and the code of its largest
finite magnitude. -/
structure FloatFmt where
  f      : Nat
  qmin   : Int
  maxMag : Nat
deriving DecidableEq, Repr

/-- The formats of R80. -/
def fmtFp32 : FloatFmt := ⟨23, -149, 0x7F7FFFFF⟩
def fmtBf16 : FloatFmt := ⟨7, -133, 0x7F7F⟩
def fmtE4m3 : FloatFmt := ⟨3, -9, 0x7E⟩
def fmtE5m2 : FloatFmt := ⟨2, -16, 0x7B⟩
def fmtE2m3 : FloatFmt := ⟨3, -3, 0x1F⟩
def fmtE3m2 : FloatFmt := ⟨2, -4, 0x1F⟩
def fmtE2m1 : FloatFmt := ⟨1, -1, 0x7⟩

/-- The magnitude code of the value nearest to `n / d`, ties away from zero (R91), without the limit at the top: code
`((q − qmin) << f) + m` stands for `m × 2^q`, in which a carry out of the mantissa is the next exponent. -/
def FloatFmt.roundMag (t : FloatFmt) (n d : Nat) : Nat :=
  if n = 0 then 0
  else
    let q := max (log2Floor n d - t.f) t.qmin
    (q - t.qmin).toNat * 2 ^ t.f + roundAt q n d

/-- The value of a magnitude code (R83): normal or subnormal. -/
def FloatFmt.magValue (t : FloatFmt) (neg : Bool) (c : Nat) : XVal :=
  let e := c / 2 ^ t.f
  let m := c % 2 ^ t.f
  if e = 0 then (XVal.fin neg m 1).scale t.qmin
  else (XVal.fin neg (2 ^ t.f + m) 1).scale (t.qmin + e - 1)

/-- The value of an FP32 word. -/
def fp32Value (w : BitVec 32) : XVal :=
  let c := w.toNat % 2 ^ 31
  let neg := w.msb
  if c < 0x7F800000 then fmtFp32.magValue neg c else if c = 0x7F800000 then .inf neg else .nan

/-- The canonical quiet NaN (R85, R93). -/
def fp32Nan : BitVec 32 := 0x7FC00000#32

/-- The FP32 value nearest to a value: infinity with its sign above the largest finite value, the canonical NaN for a
NaN (R93, R97). -/
def fp32Round : XVal → BitVec 32
  | .nan => fp32Nan
  | .inf neg => if neg then 0xFF800000#32 else 0x7F800000#32
  | .fin neg n d =>
    BitVec.ofNat 32 ((if neg then 2 ^ 31 else 0) + min (fmtFp32.roundMag n d) 0x7F800000)

/-- The value of a BF16 word. -/
def bf16Value (w : BitVec 16) : XVal :=
  let c := w.toNat % 2 ^ 15
  let neg := w.msb
  if c < 0x7F80 then fmtBf16.magValue neg c else if c = 0x7F80 then .inf neg else .nan

/-- The value nearest to `x` in a format with `bits` bits that saturates at its largest finite value (R97), and
whether it saturated. NaN is the caller's case. -/
def satRound (t : FloatFmt) (bits : Nat) : XVal → Nat × Bool
  | .nan => (0, false)
  | .inf neg => ((if neg then 2 ^ (bits - 1) else 0) + t.maxMag, true)
  | .fin neg n d =>
    let c := t.roundMag n d
    ((if neg then 2 ^ (bits - 1) else 0) + min c t.maxMag, decide (t.maxMag < c))

/-- The BF16 word nearest to a value: saturating, NaN as 0x7FC0 (R97); the flag says that it saturated. -/
def bf16Round (x : XVal) : BitVec 16 × Bool :=
  if x.isNan then (0x7FC0#16, false)
  else let r := satRound fmtBf16 16 x; (BitVec.ofNat 16 r.1, r.2)

/-- An integer as a code clamped to `lo .. hi`, and whether the clamp changed it. -/
def clampInt (lo hi v : Int) : Int × Bool := (max lo (min hi v), decide (v < lo ∨ hi < v))

/-- The two's-complement code of an integer in `bits` bits. -/
def intCode (bits : Nat) (v : Int) : Nat := (v % (2 ^ bits : Nat)).toNat

/-- The integer of a code, signed or unsigned. -/
def codeInt (bits : Nat) (signed : Bool) (c : Nat) : Int :=
  let c := c % 2 ^ bits
  if signed && decide (2 ^ (bits - 1) ≤ c) then (c : Int) - (2 ^ bits : Nat) else c

/-! ### Element formats -/

/-- The formats of a tensor (R129): the element formats of R80 with FP32 and INT32. -/
inductive Fmt where
  | e4m3
  | e5m2
  | e2m3
  | e3m2
  | e2m1
  | mxint8
  | int8 (signed : Bool)
  | int4 (signed : Bool)
  | bf16
  | fp32
  | int32
deriving DecidableEq, Repr

/-- Bits of an element. -/
def Fmt.bits : Fmt → Nat
  | .e4m3 => 8
  | .e5m2 => 8
  | .e2m3 => 6
  | .e3m2 => 6
  | .e2m1 => 4
  | .mxint8 => 8
  | .int8 _ => 8
  | .int4 _ => 4
  | .bf16 => 16
  | .fp32 => 32
  | .int32 => 32

/-- The MX formats, whose blocks of 32 share an E8M0 scale (R80). -/
def Fmt.isMx : Fmt → Bool
  | .e4m3 => true
  | .e5m2 => true
  | .e2m3 => true
  | .e3m2 => true
  | .e2m1 => true
  | .mxint8 => true
  | _ => false

/-- The floating-point shape of an MX-FP element format. -/
def Fmt.float? : Fmt → Option FloatFmt
  | .e4m3 => some fmtE4m3
  | .e5m2 => some fmtE5m2
  | .e2m3 => some fmtE2m3
  | .e3m2 => some fmtE3m2
  | .e2m1 => some fmtE2m1
  | _ => none

/-- emax_elem of R96. -/
def Fmt.emaxElem : Fmt → Int
  | .e4m3 => 8
  | .e5m2 => 15
  | .e2m3 => 2
  | .e3m2 => 4
  | .e2m1 => 2
  | _ => 0

/-- The value of an MX element code before its block scale (R80, R83). -/
def Fmt.mxValue (t : Fmt) (c : Nat) : XVal :=
  match t with
  | .e4m3 => if c % 128 = 127 then .nan else fmtE4m3.magValue (decide (128 ≤ c)) (c % 128)
  | .e5m2 =>
    if c % 128 < 0x7C then fmtE5m2.magValue (decide (128 ≤ c)) (c % 128)
    else if c % 128 = 0x7C then .inf (decide (128 ≤ c)) else .nan
  | .e2m3 => fmtE2m3.magValue (decide (32 ≤ c)) (c % 32)
  | .e3m2 => fmtE3m2.magValue (decide (32 ≤ c)) (c % 32)
  | .e2m1 => fmtE2m1.magValue (decide (8 ≤ c)) (c % 8)
  | .mxint8 => (XVal.ofInt (codeInt 8 true c)).scale (-6)
  | _ => .nan

/-- The value of an element of a format without block scales: INT8 and INT4 less their zero point. -/
def Fmt.plainValue (t : Fmt) (zp : Int) (c : Nat) : XVal :=
  match t with
  | .int8 sg => .ofInt (codeInt 8 sg c - zp)
  | .int4 sg => .ofInt (codeInt 4 sg c - zp)
  | .bf16 => bf16Value (BitVec.ofNat 16 c)
  | .fp32 => fp32Value (BitVec.ofNat 32 c)
  | .int32 => .ofInt (codeInt 32 true c)
  | _ => t.mxValue c

/-- The value of an element under an E8M0 scale code (R80, R85): the scale 0xFF makes it a NaN. -/
def mxScaled (t : Fmt) (scale : Nat) (c : Nat) : XVal :=
  if scale = 255 then .nan else (t.mxValue c).scale ((scale : Int) - 127)

/-! ### Output conversion (R95 to R98) -/

/-- One converted element: its code and whether it is counted as clipped (R98). -/
structure Conv where
  code : Nat
  clip : Bool
deriving DecidableEq, Repr

/-- The range of an integer output format. -/
def Fmt.intRange : Fmt → Int × Int
  | .int8 true => (-128, 127)
  | .int8 false => (0, 255)
  | .int4 true => (-8, 7)
  | .int4 false => (0, 15)
  | _ => (-2147483648, 2147483647)

/-- An element of a format without block scales (R95, R97): `zp` is OUT_ZP. -/
def convPlain (t : Fmt) (zp : Int) (y : XVal) : Conv :=
  match t with
  | .fp32 =>
    let w := fp32Round y
    { code := w.toNat, clip := decide (w.toNat % 2 ^ 31 = 0x7F800000) }
  | .bf16 => let r := bf16Round y; { code := r.1.toNat, clip := r.2 }
  | .int8 _ | .int4 _ | .int32 =>
    let zp : Int := if t = .int32 then 0 else zp
    let (lo, hi) := t.intRange
    match y with
    | .nan => { code := intCode t.bits zp, clip := true }
    | .inf neg => { code := intCode t.bits (if neg then lo else hi), clip := true }
    | x => let r := clampInt lo hi (x.round + zp); { code := intCode t.bits r.1, clip := r.2 }
  | _ => { code := 0, clip := false }

/-- The scale exponent X of a block (R96), clamped to −127 .. 127; 0 for a block of zeros. -/
def blockScale (t : Fmt) (ys : List XVal) : Int :=
  let logs := ys.filterMap fun y =>
    match y with
    | .fin _ n d => if n = 0 then none else some (log2Floor n d)
    | _ => none
  match logs.max? with
  | none => 0
  | some m => max (-127) (min 127 (m - t.emaxElem))

/-- An MX element `y × 2^−X` (R96, R97); a NaN is the caller's case in the formats without one. -/
def convMxElem (t : Fmt) (x : Int) (y : XVal) : Conv :=
  match t with
  | .mxint8 =>
    match y with
    | .nan => { code := 0, clip := true }
    | .inf neg => { code := intCode 8 (if neg then -128 else 127), clip := true }
    | v => let r := clampInt (-128) 127 ((v.scale (6 - x)).round); { code := intCode 8 r.1, clip := r.2 }
  | _ =>
    match t.float? with
    | none => { code := 0, clip := false }
    | some ft =>
      match y with
      | .nan => { code := if t = .e4m3 ∨ t = .e5m2 then 0x7F else 0, clip := !(decide (t = .e4m3 ∨ t = .e5m2)) }
      | v => let r := satRound ft t.bits (v.scale (-x)); { code := r.1, clip := r.2 }

/-- A block of an MX output: its scale code and its elements (R96, R97, R98). A NaN in a format without NaN turns the
block to scale 0xFF and code 0; then a NaN or an infinite element is counted and a finite one is not. -/
def convBlock (t : Fmt) (ys : List XVal) : Nat × List Conv :=
  if t ≠ .e4m3 ∧ t ≠ .e5m2 ∧ ys.any XVal.isNan then
    (255, ys.map fun y => { code := 0, clip := !y.isFin })
  else
    let x := blockScale t ys
    ((x + 127).toNat, ys.map (convMxElem t x))

end Sys2Proof.Machine
end

