-- ==== Sys2Proof/Machine/Elem.lean ====
section
/-! DEFINITION. The functions of the vector unit (R103, R104), each rounded once to FP32: exact where the result is
rational, and by integer arithmetic of growing precision until both ends of the error interval round alike. -/

namespace Sys2Proof.Machine

/-! ### Fixed-point arithmetic with `P` fraction bits -/

/-- A finite value in fixed point, rounded down. -/
def toFx (P : Nat) (x : XVal) : Int := x.num * (2 ^ P : Nat) / (x.den : Int)

/-- A product in fixed point. -/
def mulFx (P : Nat) (a b : Int) : Int := a * b / (2 ^ P : Nat)

/-- `Σ r^k / k!` from `term` on, `fuel` more terms. -/
def expTerms (P : Nat) (r : Int) : Nat → Nat → Int → Int → Int
  | 0, _, _, acc => acc
  | fuel + 1, k, term, acc =>
    let t := mulFx P term r / (k : Int)
    expTerms P r fuel (k + 1) t (acc + t)

/-- `n` squarings. -/
def squarings (P : Nat) : Nat → Int → Int
  | 0, v => v
  | n + 1, v => squarings P n (mulFx P v v)

/-- `exp` of a fixed-point argument of magnitude below 256: Taylor at `x / 2^16`, then 16 squarings. -/
def expFx (P : Nat) (x : Int) : Int :=
  let one : Int := (2 ^ P : Nat)
  squarings P 16 (expTerms P (x / 65536) (P / 8 + 4) 1 one one)

/-- `Σ z^(2k+1) / (2k+1)` with sign `sg` to the power `k`: atanh for 1, atan for −1. -/
def oddTerms (P : Nat) (z2 : Int) (sg : Int) : Nat → Nat → Int → Int → Int
  | 0, _, _, acc => acc
  | fuel + 1, k, pow, acc =>
    let p := sg * mulFx P pow z2
    oddTerms P z2 sg fuel (k + 2) p (acc + p / ((k + 2 : Nat) : Int))

/-- `ln 2 = 2 atanh(1/3)`. -/
def ln2Fx (P : Nat) : Int :=
  let z : Int := (2 ^ P : Nat) / 3
  2 * oddTerms P (mulFx P z z) 1 (P / 3 + 4) 1 z z

/-- `ln (n / d)` of a positive rational. -/
def lnFx (P : Nat) (n d : Nat) : Int :=
  let e := log2Floor n d
  let m : Int := if 0 ≤ e then (n * 2 ^ P : Nat) / (d * 2 ^ e.toNat : Nat) else (n * 2 ^ (-e).toNat * 2 ^ P : Nat) / (d : Nat)
  let one : Int := (2 ^ P : Nat)
  let z := (m - one) * one / (m + one)
  e * ln2Fx P + 2 * oddTerms P (mulFx P z z) 1 (P / 3 + 4) 1 z z

/-- `atan (1 / k)`. -/
def atanInv (P k : Nat) : Int :=
  let z : Int := (2 ^ P : Nat) / (k : Int)
  oddTerms P (mulFx P z z) (-1) (P / 4 + 4) 1 z z

/-- π by Machin's formula. -/
def piFx (P : Nat) : Int := 16 * atanInv P 5 - 4 * atanInv P 239

/-- Alternating Taylor terms of sine (`k = 1`, `acc = term = y`) or cosine (`k = 0`, `acc = term = 1`). -/
def trigTerms (P : Nat) (y2 : Int) : Nat → Nat → Int → Int → Int
  | 0, _, _, acc => acc
  | fuel + 1, k, term, acc =>
    let t := -(mulFx P term y2 / (((k + 1) * (k + 2) : Nat) : Int))
    trigTerms P y2 fuel (k + 2) t (acc + t)

/-- The argument reduced to within π of zero. -/
def reduceFx (P : Nat) (x : XVal) : Int :=
  let Q := P + 160
  let xq := toFx Q x
  let tau := 2 * piFx Q
  let k := (2 * xq + tau) / (2 * tau)
  (xq - k * tau) / (2 ^ 160 : Nat)

/-- Sine and cosine of a finite argument in radians. -/
def sinFx (P : Nat) (x : XVal) : Int :=
  let y := reduceFx P x
  trigTerms P (mulFx P y y) (P / 4 + 16) 1 y y
def cosFx (P : Nat) (x : XVal) : Int :=
  let y := reduceFx P x
  let one : Int := (2 ^ P : Nat)
  trigTerms P (mulFx P y y) (P / 4 + 16) 0 one one

/-- `Σ x^(2n+1) / (1·3·5 … (2n+1))`. -/
def phiTerms (P : Nat) (x2 : Int) : Nat → Nat → Int → Int → Int
  | 0, _, _, acc => acc
  | fuel + 1, k, term, acc =>
    let t := mulFx P term x2 / ((k + 2 : Nat) : Int)
    phiTerms P x2 fuel (k + 2) t (acc + t)

/-- The normal distribution function Φ of a finite argument of magnitude below 16. -/
def phiFx (P : Nat) (x : XVal) : Int :=
  let y := toFx P x
  let y2 := mulFx P y y
  let one : Int := (2 ^ P : Nat)
  let root : Int := Nat.sqrt ((2 * piFx P).toNat * 2 ^ P)
  one / 2 + mulFx P (expFx P (-(y2 / 2))) (phiTerms P y2 (P + 512) 1 y y) * one / root

/-- `sigmoid` of a finite argument of magnitude below 128. -/
def sigmoidFx (P : Nat) (x : XVal) : Int :=
  let one : Int := (2 ^ P : Nat)
  one * one / (one + expFx P (-(toFx P x)))

/-- `tanh` of a finite argument of magnitude below 16. -/
def tanhFx (P : Nat) (x : XVal) : Int :=
  let one : Int := (2 ^ P : Nat)
  let e := expFx P (2 * toFx P x)
  (e - one) * one / (e + one)

/-! ### Rounding a real known to an interval -/

/-- The value `v / 2^P`. -/
def ofFx (P : Nat) (v : Int) : XVal := .fin (decide (v < 0)) v.natAbs (2 ^ P)

/-- The FP32 value nearest to a real whose fixed-point approximations `f P` err by less than `2^(−p)` with
`P = p + 320`: the first precision at which both ends of the interval round alike. The list ends far beyond the
precision any FP32 argument needs (log entry 21). -/
def refine (f : Nat → Int) : List Nat → BitVec 32
  | [] => fp32Round (ofFx 2048 (f 2048))
  | p :: ps =>
    let v := f (p + 320)
    let lo := fp32Round (ofFx (p + 320) (v - (2 ^ 320 : Nat)))
    let hi := fp32Round (ofFx (p + 320) (v + (2 ^ 320 : Nat)))
    if lo = hi then lo else refine f ps

/-- The precisions tried. -/
def precisions : List Nat := [200, 384, 768, 1536]

/-- The real number `f` rounded to FP32. -/
def nearest (f : Nat → Int) : BitVec 32 := refine f precisions

/-! ### The functions -/

/-- A constant of FP32. -/
def fp32One : BitVec 32 := 0x3F800000#32

/-- Square root of a positive rational, with a sticky bit below the root's 64 and more bits. -/
def sqrtVal (n d : Nat) : XVal :=
  let k := 256
  let t := n * 4 ^ k / d
  let r := Nat.sqrt t
  if r * r = t ∧ n * 4 ^ k % d = 0 then .fin false r (2 ^ k) else .fin false (2 * r + 1) (2 ^ (k + 1))

/-- The magnitude is at least `k`. -/
def XVal.atLeast (k : Nat) : XVal → Bool
  | .fin _ n d => decide (k * d ≤ n)
  | _ => false

/-- The unary functions of the exponential and divide groups (R103). -/
inductive UnFn where
  | exp
  | sigmoid
  | tanh
  | silu
  | gelu
  | recip
  | sqrt
  | rsqrt
  | log
  | sin
  | cos
deriving DecidableEq, Repr

/-- The opcode of R114. -/
def UnFn.code : UnFn → Nat
  | .exp => 0x30
  | .sigmoid => 0x31
  | .tanh => 0x32
  | .silu => 0x33
  | .gelu => 0x34
  | .recip => 0x39
  | .sqrt => 0x3A
  | .rsqrt => 0x3B
  | .log => 0x3C
  | .sin => 0x3D
  | .cos => 0x3E

/-- A function at an infinity: R104's table; SiLU and GELU at −∞ are values the spec does not state (free, log entry
22); the others are the limits (DEDUCED, log entry 22). -/
def unInf (f : UnFn) (w : BitVec 32) (neg : Bool) : BitVec 32 :=
  match f with
  | .exp => if neg then 0#32 else 0x7F800000#32
  | .sigmoid => if neg then 0#32 else fp32One
  | .tanh => if neg then 0xBF800000#32 else fp32One
  | .silu | .gelu => if neg then Config.freeVec f.code w 0#32 0#32 else 0x7F800000#32
  | .recip => if neg then 0x80000000#32 else 0#32
  | .sqrt => if neg then fp32Nan else 0x7F800000#32
  | .rsqrt => if neg then fp32Nan else 0#32
  | .log => if neg then fp32Nan else 0x7F800000#32
  | .sin | .cos => fp32Nan

/-- A function at a zero of either sign (R104). -/
def unZero (f : UnFn) (neg : Bool) : BitVec 32 :=
  let z : BitVec 32 := if neg then 0x80000000#32 else 0#32
  match f with
  | .exp => fp32One
  | .sigmoid => 0x3F000000#32
  | .tanh | .silu | .gelu | .sqrt | .sin => z
  | .recip | .rsqrt => if neg then 0xFF800000#32 else 0x7F800000#32
  | .log => 0xFF800000#32
  | .cos => fp32One

/-- A function at a finite nonzero value (R104). Far from zero the limits of FP32 decide. -/
def unFin (f : UnFn) (w : BitVec 32) (neg : Bool) (n d : Nat) : BitVec 32 :=
  let x : XVal := .fin neg n d
  let z : BitVec 32 := if neg then 0x80000000#32 else 0#32
  match f with
  | .exp =>
    if x.atLeast 128 then (if neg then 0#32 else 0x7F800000#32) else nearest fun P => expFx P (toFx P x)
  | .sigmoid =>
    if x.atLeast 128 then (if neg then 0#32 else fp32One) else nearest fun P => sigmoidFx P x
  | .tanh =>
    if x.atLeast 16 then (if neg then 0xBF800000#32 else fp32One) else nearest fun P => tanhFx P x
  | .silu =>
    if x.atLeast 128 then (if neg then z else w) else nearest fun P => mulFx P (toFx P x) (sigmoidFx P x)
  | .gelu =>
    if x.atLeast 16 then (if neg then z else w) else nearest fun P => mulFx P (toFx P x) (phiFx P x)
  | .recip => fp32Round (.fin neg d n)
  | .sqrt => if neg then fp32Nan else fp32Round (sqrtVal n d)
  | .rsqrt => if neg then fp32Nan else fp32Round (sqrtVal d n)
  | .log => if neg then fp32Nan else if n = d then 0#32 else nearest fun P => lnFx P n d
  | .sin => nearest fun P => sinFx P x
  | .cos => nearest fun P => cosFx P x

/-- A unary function of FP32 (R104). -/
def unary (f : UnFn) (w : BitVec 32) : BitVec 32 :=
  match fp32Value w with
  | .nan => fp32Nan
  | .inf neg => unInf f w neg
  | .fin neg n d => if n = 0 then unZero f neg else unFin f w neg n d

/-- Rounded sum, difference and product of FP32 words (R93, R103). -/
def fpAdd (a b : BitVec 32) : BitVec 32 := fp32Round ((fp32Value a).add (fp32Value b))
def fpSub (a b : BitVec 32) : BitVec 32 := fp32Round ((fp32Value a).sub (fp32Value b))

/-- Zero times an infinity: no result is stated for the vector unit. -/
def XVal.badProd (x y : XVal) : Bool :=
  match x, y with
  | .inf _, .fin _ n _ => n == 0
  | .fin _ n _, .inf _ => n == 0
  | _, _ => false

/-- Product of FP32 words; 0 × ∞ is a free value (log entry 22). -/
def fpMul (a b : BitVec 32) : BitVec 32 :=
  if (fp32Value a).badProd (fp32Value b) then Config.freeVec 0x03 a b 0#32
  else fp32Round ((fp32Value a).mul (fp32Value b))

/-- `a × b + c` rounded once (R103). -/
def fpFma (a b c : BitVec 32) : BitVec 32 :=
  if (fp32Value a).badProd (fp32Value b) then Config.freeVec 0x04 a b c
  else fp32Round (((fp32Value a).mul (fp32Value b)).add (fp32Value c))

/-- Quotient of FP32 words. A nonzero value by zero is an infinity, as reciprocal(±0) is (R104; DEDUCED); 0 ÷ 0 and
∞ ÷ ∞ are free values (log entry 22). -/
def fpDiv (a b : BitVec 32) : BitVec 32 :=
  match fp32Value a, fp32Value b with
  | .nan, _ => fp32Nan
  | _, .nan => fp32Nan
  | .inf _, .inf _ => Config.freeVec 0x38 a b 0#32
  | .inf p, .fin q _ _ => fp32Round (.inf (p != q))
  | .fin p _ _, .inf q => fp32Round (.fin (p != q) 0 1)
  | .fin p n d, .fin q m e =>
    if m = 0 then (if n = 0 then Config.freeVec 0x38 a b 0#32 else fp32Round (.inf (p != q)))
    else fp32Round (.fin (p != q) (n * e) (d * m))

/-- Larger of two FP32 words (R105): any NaN gives the canonical one; +0 is larger than −0. -/
def fpMax (a b : BitVec 32) : BitVec 32 :=
  let x := fp32Value a
  let y := fp32Value b
  if x.isNan || y.isNan then fp32Nan
  else if x.lt y then b else if y.lt x then a
  else if x.neg? then b else a

/-- Smaller of two FP32 words (R105): −0 is smaller than +0. -/
def fpMin (a b : BitVec 32) : BitVec 32 :=
  let x := fp32Value a
  let y := fp32Value b
  if x.isNan || y.isNan then fp32Nan
  else if x.lt y then a else if y.lt x then b
  else if x.neg? then a else b

/-- The canonical tree T over a nonempty list of `n` values (R106), with `fuel` levels; lower indices form the left
operand. -/
def treeFuel {α : Type} (node : α → α → α) : Nat → Nat → List α → Option α
  | _, _, [] => none
  | _, _, [x] => some x
  | 0, _, x :: _ => some x
  | fuel + 1, n, xs =>
    let h := 2 ^ (Nat.clog 2 n - 1)
    match treeFuel node fuel h (xs.take h), treeFuel node fuel (n - h) (xs.drop h) with
    | some a, some b => some (node a b)
    | some a, none => some a
    | none, r => r

/-- T over the values in ascending index order (R106); none for an empty list. -/
def treeT {α : Type} (node : α → α → α) (xs : List α) : Option α := treeFuel node xs.length xs.length xs

end Sys2Proof.Machine
end

