-- ==== Sys2Proof/Machine/Bytes.lean ====
section
/-! DEFINITION. Byte order (everything the device stores is little-endian), bit fields, and the two hash functions the
spec names: CRC-32C and SHA-256. -/

namespace Sys2Proof.Machine

/-- The number that little-endian bytes spell. -/
def leNat : List Byte → Nat
  | [] => 0
  | b :: bs => b.toNat + 256 * leNat bs

/-- The `n` little-endian bytes of a number. -/
def leBytes : Nat → Nat → List Byte
  | 0, _ => []
  | n + 1, v => BitVec.ofNat 8 v :: leBytes n (v / 256)

/-- The `len` bytes at `off`, short where the list ends. -/
def slice (bs : List Byte) (off len : Nat) : List Byte := (bs.drop off).take len

/-- The little-endian number of `len` bytes at `off`. -/
def field (bs : List Byte) (off len : Nat) : Nat := leNat (slice bs off len)

/-- The bytes at `off` are zero. -/
def zeroAt (bs : List Byte) (off len : Nat) : Bool := field bs off len == 0

/-- Bits `hi : lo` of a number. -/
def bits (v hi lo : Nat) : Nat := v / 2 ^ lo % 2 ^ (hi + 1 - lo)

/-- Bit `i` of a number. -/
def bit (v i : Nat) : Bool := v.testBit i

/-- A flag as a number. -/
def b2n (b : Bool) : Nat := if b then 1 else 0

/-- The number of set bits below `n`. -/
def popcount (v : Nat) : Nat → Nat
  | 0 => 0
  | n + 1 => popcount v n + b2n (v.testBit n)

/-- A counter of 32 bits that stays at its largest value (R398 and the other register tables). -/
def satAdd (r : Reg) (n : Nat) : Reg := BitVec.ofNat 32 (min (r.toNat + n) 0xFFFFFFFF)

/-- One more. -/
def satInc (r : Reg) : Reg := satAdd r 1

/-- A counter of `n` bits that stays at its largest value. -/
def satNat (bits v : Nat) : Nat := min v (2 ^ bits - 1)

/-! ### CRC-32C (R318) -/

/-- One bit of the reflected CRC. -/
def crcBit (poly : BitVec 32) (c : BitVec 32) : BitVec 32 :=
  if c.getLsbD 0 then (c >>> 1) ^^^ poly else c >>> 1

/-- `n` bits. -/
def crcBits (poly : BitVec 32) : Nat → BitVec 32 → BitVec 32
  | 0, c => c
  | n + 1, c => crcBits poly n (crcBit poly c)

/-- CRC-32C: polynomial 0x1EDC6F41 reflected, initial value and final XOR all ones. -/
def crc32c (bs : List Byte) : BitVec 32 :=
  ~~~ (bs.foldl (fun c b => crcBits 0x82F63B78#32 8 (c ^^^ b.zeroExtend 32)) 0xFFFFFFFF#32)

/-! ### SHA-256 (FIPS 180-4) -/

/-- The round constants. -/
def shaK1 : List (BitVec 32) :=
  [0x428a2f98#32, 0x71374491#32, 0xb5c0fbcf#32, 0xe9b5dba5#32, 0x3956c25b#32, 0x59f111f1#32, 0x923f82a4#32,
   0xab1c5ed5#32, 0xd807aa98#32, 0x12835b01#32, 0x243185be#32, 0x550c7dc3#32, 0x72be5d74#32, 0x80deb1fe#32,
   0x9bdc06a7#32, 0xc19bf174#32, 0xe49b69c1#32, 0xefbe4786#32, 0x0fc19dc6#32, 0x240ca1cc#32, 0x2de92c6f#32,
   0x4a7484aa#32, 0x5cb0a9dc#32, 0x76f988da#32, 0x983e5152#32, 0xa831c66d#32, 0xb00327c8#32, 0xbf597fc7#32,
   0xc6e00bf3#32, 0xd5a79147#32, 0x06ca6351#32, 0x14292967#32]
def shaK2 : List (BitVec 32) :=
  [0x27b70a85#32, 0x2e1b2138#32, 0x4d2c6dfc#32, 0x53380d13#32, 0x650a7354#32, 0x766a0abb#32, 0x81c2c92e#32,
   0x92722c85#32, 0xa2bfe8a1#32, 0xa81a664b#32, 0xc24b8b70#32, 0xc76c51a3#32, 0xd192e819#32, 0xd6990624#32,
   0xf40e3585#32, 0x106aa070#32, 0x19a4c116#32, 0x1e376c08#32, 0x2748774c#32, 0x34b0bcb5#32, 0x391c0cb3#32,
   0x4ed8aa4a#32, 0x5b9cca4f#32, 0x682e6ff3#32, 0x748f82ee#32, 0x78a5636f#32, 0x84c87814#32, 0x8cc70208#32,
   0x90befffa#32, 0xa4506ceb#32, 0xbef9a3f7#32, 0xc67178f2#32]

/-- The eight working words. -/
structure ShaState where
  a : BitVec 32
  b : BitVec 32
  c : BitVec 32
  d : BitVec 32
  e : BitVec 32
  f : BitVec 32
  g : BitVec 32
  h : BitVec 32
deriving DecidableEq, Repr

/-- The initial hash value. -/
def shaInit : ShaState :=
  ⟨0x6a09e667#32, 0xbb67ae85#32, 0x3c6ef372#32, 0xa54ff53a#32, 0x510e527f#32, 0x9b05688c#32, 0x1f83d9ab#32,
   0x5be0cd19#32⟩

/-- One round. -/
def shaRound (s : ShaState) (k w : BitVec 32) : ShaState :=
  let t1 := s.h + ((s.e.rotateRight 6) ^^^ (s.e.rotateRight 11) ^^^ (s.e.rotateRight 25))
    + ((s.e &&& s.f) ^^^ (~~~ s.e &&& s.g)) + k + w
  let t2 := ((s.a.rotateRight 2) ^^^ (s.a.rotateRight 13) ^^^ (s.a.rotateRight 22))
    + ((s.a &&& s.b) ^^^ (s.a &&& s.c) ^^^ (s.b &&& s.c))
  ⟨t1 + t2, s.a, s.b, s.c, s.d + t1, s.e, s.f, s.g⟩

/-- The next word of the schedule from the last sixteen, newest last. -/
def shaNext (w : List (BitVec 32)) : BitVec 32 :=
  let g (i : Nat) : BitVec 32 := w.getD i 0#32
  let s0 := ((g 1).rotateRight 7) ^^^ ((g 1).rotateRight 18) ^^^ ((g 1) >>> 3)
  let s1 := ((g 14).rotateRight 17) ^^^ ((g 14).rotateRight 19) ^^^ ((g 14) >>> 10)
  g 0 + s0 + g 9 + s1

/-- The rounds of one block: the window of sixteen words moves by one word a round. -/
def shaRounds : List (BitVec 32) → List (BitVec 32) → ShaState → ShaState
  | [], _, s => s
  | k :: ks, w, s => shaRounds ks (w.drop 1 ++ [shaNext w]) (shaRound s k (w.getD 0 0#32))

/-- One block of sixteen words. -/
def shaBlock (s : ShaState) (w : List (BitVec 32)) : ShaState :=
  let t := shaRounds (shaK1 ++ shaK2) w s
  ⟨s.a + t.a, s.b + t.b, s.c + t.c, s.d + t.d, s.e + t.e, s.f + t.f, s.g + t.g, s.h + t.h⟩

/-- Big-endian words of bytes. -/
def beWords : List Byte → List (BitVec 32)
  | a :: b :: c :: d :: rest => (a ++ b ++ c ++ d) :: beWords rest
  | _ => []

/-- The blocks of a padded message, `n` of them. -/
def shaBlocks : Nat → List (BitVec 32) → ShaState → ShaState
  | 0, _, s => s
  | n + 1, w, s => shaBlocks n (w.drop 16) (shaBlock s (w.take 16))

/-- The padded message: a one bit, zeros, and the length in bits as eight big-endian bytes. -/
def shaPad (bs : List Byte) : List Byte :=
  let z := (119 - bs.length % 64) % 64
  bs ++ [0x80#8] ++ List.replicate z 0#8 ++ (leBytes 8 (8 * bs.length)).reverse

/-- SHA-256: the first byte of the digest is its most significant one. -/
def sha256 (bs : List Byte) : BitVec 256 :=
  let p := shaPad bs
  let s := shaBlocks (p.length / 64) (beWords p) shaInit
  s.a ++ s.b ++ s.c ++ s.d ++ s.e ++ s.f ++ s.g ++ s.h

/-- The bytes of a digest in the order of the standard, first byte first. -/
def digestBytes (d : BitVec 256) : List Byte := (leBytes 32 d.toNat).reverse

/-- A digest from its bytes, first byte first. -/
def digestOf (bs : List Byte) : BitVec 256 := BitVec.ofNat 256 (leNat bs.reverse)

end Sys2Proof.Machine
end

