-- ==== Sys2Proof/Machine/State.lean ====
section
/-! DEFINITION. The state of the device: every register, queue, buffer, counter, mode and pin the spec gives it, as
plain data, and the queue of the commands that wait. -/

namespace Sys2Proof.Machine

/-! ### Outcomes -/

/-- Why the machine stops with a fault. No meaning of this model ends in one: every fault of the spec is an effect on
the state (an abort code, a poisoned word, a fence). -/
inductive Fault where
  /-- Raised by nobody; kept so that the type is inhabited. Safe: a run never ends in it. -/
  | unreachable
deriving DecidableEq, Repr

/-- Why a command has no meaning. -/
inductive Refusal where
  /-- Raised by an arm of `exec` whose row has no meaning yet. Safe: a run ends where the device goes on. -/
  | notModelled (mnemonic : String)
deriving DecidableEq, Repr

/-! ### Codes -/

/-- Result codes of R329. -/
inductive Code where
  | accepted
  | refusedDeadline
  | refusedMemory
  | refusedShape
  | refusedSignature
  | refusedRole
  | refusedGrade
  | committed
  | abortedPreempt
  | abortedFault
  | abortedReset
  | abortedEpoch
  | fenced
  | mirrorLost
deriving DecidableEq, Repr

/-- The value a result entry carries for a code (R329). -/
def Code.value : Code → BitVec 8
  | .accepted => 0x01#8
  | .refusedDeadline => 0x10#8
  | .refusedMemory => 0x11#8
  | .refusedShape => 0x12#8
  | .refusedSignature => 0x13#8
  | .refusedRole => 0x14#8
  | .refusedGrade => 0x15#8
  | .committed => 0x20#8
  | .abortedPreempt => 0x30#8
  | .abortedFault => 0x31#8
  | .abortedReset => 0x32#8
  | .abortedEpoch => 0x33#8
  | .fenced => 0x40#8
  | .mirrorLost => 0x41#8

/-- Reasons of R330. -/
inductive Reason where
  | none
  | overrun
  | writeConflict
  | writeSet
  | versionTable
  | baseVersion
  | commitMismatch
  | nonFinite
  | groupSlots
  | shadowPool
  | carryInLost
  | capacityLost
  | hbmLost
  | bridgeLost
  | groupTable
  | permuteOverlap
  | chunkDigest
  | overlap
  | noContext
  | noContextFree
  | peerReset
  | noSlot
  | kvPool
  | quiescing
  | versions
  | capacity
  | stopping
  | sram
  | accumulator
  | fault
  | peerMissing
deriving DecidableEq, Repr

/-- The value a result entry carries for a reason (R330). -/
def Reason.value : Reason → BitVec 16
  | .none => 0x00#16
  | .overrun => 0x01#16
  | .writeConflict => 0x02#16
  | .writeSet => 0x03#16
  | .versionTable => 0x04#16
  | .baseVersion => 0x05#16
  | .commitMismatch => 0x06#16
  | .nonFinite => 0x07#16
  | .groupSlots => 0x08#16
  | .shadowPool => 0x09#16
  | .carryInLost => 0x0A#16
  | .capacityLost => 0x0B#16
  | .hbmLost => 0x0C#16
  | .bridgeLost => 0x0D#16
  | .groupTable => 0x0E#16
  | .permuteOverlap => 0x0F#16
  | .chunkDigest => 0x10#16
  | .overlap => 0x11#16
  | .noContext => 0x12#16
  | .noContextFree => 0x13#16
  | .peerReset => 0x14#16
  | .noSlot => 0x15#16
  | .kvPool => 0x16#16
  | .quiescing => 0x17#16
  | .versions => 0x18#16
  | .capacity => 0x19#16
  | .stopping => 0x1A#16
  | .sram => 0x1B#16
  | .accumulator => 0x1C#16
  | .fault => 0x1D#16
  | .peerMissing => 0x1E#16

/-! ### What the device sends out -/

/-- AER severities (R393). -/
inductive Severity where
  | correctable
  | nonFatal
deriving DecidableEq, Repr

/-- Everything the device shows to the outside: completions, host writes, interrupts, packets and frames. -/
inductive Output where
  /-- A read completion of BAR0 (R460). -/
  | registerData (port : Port) (value : Reg)
  /-- A read completion of BAR4, with the EP bit (R388). -/
  | apertureData (port : Port) (bytes : List Byte) (ep : Bool)
  /-- Unsupported Request (R388, R460). -/
  | unsupported (port : Port)
  /-- A write to owner-host memory (R303, R329, R360). -/
  | hostWrite (addr : Nat) (bytes : List Byte)
  /-- An MSI-X vector (R393). -/
  | msix (port : Port) (vector : Nat)
  /-- An error reported through AER (R393). -/
  | aer (port : Port) (severity : Severity)
  /-- An OXT message (R276). -/
  | oxt (p : OxtPkt)
  /-- A Riffle frame on a port (R282). -/
  | riffle (port : Fin 8) (f : RiffleFrame)
  /-- A mesh reply packet (R181). -/
  | mesh (p : MeshPkt)
  /-- ACK with its size, or DONE with its ABORT flag, on a request line (R176). -/
  | lineAck (complex : Fin 5) (line : Fin 64) (size : Nat)
  | lineDone (complex : Fin 5) (line : Fin 64) (abort : Bool)
  /-- A management reply to an IPv6 address and UDP port (R288). -/
  | mgmtReply (addr : BitVec 128) (port : BitVec 16) (bytes : List Byte)
deriving DecidableEq, Repr

/-! ### Clock, pins and ownership -/

/-- The device-local counter (R446) and the sideband inputs (R401). -/
structure Clk where
  now    : Ns
  pwrgd  : Bool
  resetN : Bool
  straps : BitVec 2
deriving DecidableEq, Repr

/-- State of a PCIe link (OWN_LINKn, R399). -/
inductive LinkState where
  | down
  | training
  | up
  | limited
deriving DecidableEq, Repr

/-- One PCIe port: OWN_LINKn and PERST#. -/
structure Link where
  state : LinkState
  speed : Nat
  width : Nat
  mps   : Nat
deriving DecidableEq, Repr

/-- Ownership (R391, R398). `offer` is the port offered to, with the end of the offer. -/
structure Own where
  owner    : Option Port
  leaseEnd : Ns
  offer    : Option (Port × Ns)
  term     : Reg
  discards : Reg
  links    : Vector Link 2
deriving DecidableEq, Repr

/-- The settings software writes: every register of access OWN or RW that holds a setting (R463). -/
structure Cfg where
  leaseCfg   : Nat
  aperture   : Vector Nat 2
  poolGib    : Nat
  fabCfg     : Reg
  fabVlan    : Reg
  fabAddr    : Vector Reg 4
  fabMacLo   : Reg
  fabMacHi   : Reg
  fabGwLo    : Reg
  fabGwHi    : Reg
  riffleOn   : Bool
  riffleUs   : Nat
  pwrLimit   : Nat
  ringLo     : Reg
  ringHi     : Reg
  ringLog2   : Nat
  tailLo     : Reg
  tailHi     : Reg
  updAddrLo  : Reg
  updAddrHi  : Reg
  updLen     : Nat
  keyData    : Vector Reg 16
  nonce      : Vector (Vector Reg 8) 2
  traceOn    : Bool
  freezeOn   : Bool
  traceCls   : BitVec 5
  tracePage  : Vector Nat 3
  viewSel    : Vector (Nat × Nat) 3
deriving DecidableEq, Repr

/-- The latches of R462: one of each for each reading path. -/
structure Latches where
  fenceHi : Vector Reg 3
  pwrHi   : Vector Reg 3
  mirHi   : Vector Reg 3
  jrnHi   : Vector Reg 3
deriving DecidableEq, Repr

/-! ### Steps and commands -/

/-- Allocation kinds of R326. -/
inductive AllocKind where
  | committed
  | scratch
  | capture
  | bed
  | weight
  | activation
  | accumulator
deriving DecidableEq, Repr

/-- One range of an allocation table (R326). -/
structure Range where
  start : Nat
  len   : Nat
  kind  : AllocKind
deriving DecidableEq, Repr

/-- A command entry (R325), with its fields as numbers; times in ns. -/
structure Entry where
  desc     : Nat
  release  : Ns
  deadline : Ns
  w        : Ns
  hbm      : Nat
  fabOut   : Nat
  fabIn    : Nat
  hostOut  : Nat
  hostIn   : Nat
  coll     : Ns
  engine   : Engine
  cond     : Bool
  arrays   : Nat
deriving DecidableEq, Repr

/-- Where a command stands. `waiting` has not reached its release; `skipped` never runs (R173, R392). -/
inductive CmdState where
  | waiting
  | ready
  | running
  | suspended
  | done
  | killed
  | skipped
deriving DecidableEq, Repr

/-- A contribution in a collective's STAGE: phase (0 reduce level 1, 1 reduce level 2, 2 gather or move), shard,
position and the bytes so far as pieces (R257). -/
structure Staged where
  phase  : Nat
  shard  : Nat
  pos    : Nat
  pieces : List (Nat × List Byte)
deriving DecidableEq, Repr

/-- A command of a step: its entry, its charged worst case (R45), its progress and what it has gathered. `line` is the
request line that paces it (R167). -/
structure Cmd where
  entry       : Entry
  wPrime      : Ns
  afterCommit : Bool
  hostEnd     : Bool
  state       : CmdState
  ran         : Ns
  since       : Ns
  waitSince   : Option Ns
  position    : Nat
  lineAcked   : Bool
  staged      : List Staged
  saturated   : Bool
  dropped     : Nat × Nat
  gscale      : Option Reg
  copyBack    : Nat
  line        : Option (Fin 5 × Fin 64)
deriving DecidableEq, Repr

/-- The header of a step (R324). -/
structure Header where
  step       : BitVec 64
  base       : BitVec 64
  commitDl   : Ns
  startDelay : Ns
  p          : Nat
  count      : Nat
  follows    : Bool
  allowance  : Nat
  mode       : Nat
  carryIn    : Bool
  job        : Bool
  seqLen     : Nat
  c          : Nat
  alloc      : Nat
  allocCount : Nat
deriving DecidableEq, Repr

/-- What a step is: submitted by the host, a period of a serving pattern, a load part or a restore (R198). -/
inductive StepKind where
  | host
  | period
  | load
  | restore
deriving DecidableEq, Repr

/-- Where a step stands. A `committed` step still has AFTER_COMMIT commands to run. -/
inductive StepState where
  | admitted
  | running
  | prepared
  | committed
deriving DecidableEq, Repr

/-- An admitted step that has not ended. -/
structure Step where
  uid       : Nat
  kind      : StepKind
  hdr       : Header
  tag       : BitVec 64
  seq       : Reg
  client    : Byte
  tL        : Ns
  t0        : Ns
  state     : StepState
  slot      : Option (Fin 8)
  cmds      : List Cmd
  alloc     : List Range
  reverted  : Bool
  condFlag  : Bool
  prepared  : Ns
  sweep     : Bool
  digest    : BitVec 256
  late      : Bool
deriving DecidableEq, Repr

/-- A step whose records are still arriving (R324). -/
structure Assembly where
  header  : List Byte
  entries : List Byte
deriving DecidableEq, Repr

/-- The predecessor of a context's next step (R43): its admission number, its absolute commit deadline, its P, C and
copy-back bytes (R195, R204), and the code it ended with, if it has ended. -/
structure Pred where
  uid      : Nat
  commitDl : Ns
  p        : Nat
  c        : Nat
  copyBack : Nat
  ended    : Option Code
deriving DecidableEq, Repr

/-- The fold demand of R204: the group it folds, the step in whose window it falls, and its charged bytes. -/
structure Fold where
  group : Nat
  by_   : Nat
  start : Ns
  stop  : Ns
  bytes : Nat
deriving DecidableEq, Repr

/-! ### Serving -/

/-- A model profile (R298). -/
structure Profile where
  grade : Nat
  wchg  : Nat
  fb    : Nat
  kvr   : Nat
  kvt   : Nat
  kvw   : Nat
  kvp   : Nat
  kvblk : Nat
  pfq   : Nat
  pfqc  : Nat
  tfix  : Nat
  tseq  : Nat
  tctx  : Nat
  ttok  : Nat
  eos   : BitVec 32
deriving DecidableEq, Repr

/-- A verified manifest (R308): its version, address, sizes, the slot and identity of its key, the digest of its bytes up to the signature, the digest of its first
128 bytes, and LAYOUT_DIGEST. -/
structure Manifest where
  version : BitVec 32
  addr    : Nat
  total   : Nat
  chunks  : Nat
  keySlot : Fin 16
  keyId   : BitVec 256
  body    : BitVec 256
  name    : BitVec 256
  layout  : BitVec 256
deriving DecidableEq, Repr

/-- A model version of a serving context (R294, R306): loading until `resident`, which it became at `since`. `chunks` are those
that committed parts have loaded. `quiesce` is the mode of its switch, `drain` its DRAIN, `switchBy` the period at which a QUIESCE
switch takes effect at the latest, and `drainStep` the period from which its sequences are ended once it is old. -/
structure Model where
  version   : BitVec 32
  profile   : Profile
  base      : Nat
  total     : Nat
  count     : Nat
  chunks    : List Nat
  resident  : Bool
  current   : Bool
  since     : Ns
  quiesce   : Bool
  drain     : Nat
  switchBy  : Nat
  drainStep : Option Nat
  name      : BitVec 256
deriving DecidableEq, Repr

/-- A chunk being fetched (R311): its digest, the holders tried, when it was asked for last, and the pieces. -/
structure Fetch where
  chunk   : Nat
  len     : Nat
  digest  : BitVec 256
  holder  : Nat
  tries   : Nat
  asked   : Ns
  pieces  : List (Nat × List Byte)
  done    : Bool
deriving DecidableEq, Repr

/-- A load part in progress (R306). -/
structure LoadPart where
  uid      : Nat
  version  : BitVec 32
  base     : Nat
  lastPart : Bool
  quiesce  : Bool
  drain    : Nat
  wait     : Ns
  holders  : List Nat
  fetches  : List Fetch
deriving DecidableEq, Repr

/-- A sequence of a serving pattern (R299). `leaving` is the period at which its leave takes effect, `lostAt` the one at which lost
capacity ends it (R302, R315). -/
structure Seqn where
  id       : BitVec 32
  prompt   : List Byte
  promptLen : Nat
  maxNew   : Nat
  sampling : BitVec 64
  joinAt   : Nat
  joined   : Bool
  version  : BitVec 32
  slot     : Nat
  prefilled : Nat
  produced : Nat
  leaving  : Option Nat
  lostAt   : Option Nat
deriving DecidableEq, Repr

/-- A delivery entry (R303). -/
structure Delivery where
  seqId   : BitVec 32
  token   : BitVec 32
  step    : BitVec 32
  version : BitVec 16
  endCode : Nat
  first   : Bool
deriving DecidableEq, Repr

/-- The serving pattern of a context (R295). `t0` is the origin of step 0 and `next` the index of the next period. -/
structure Pattern where
  period   : Ns
  allow    : Nat
  cores    : BitVec 48
  chans    : BitVec 128
  slots    : Nat
  hbmMax   : Nat
  kvGib    : Nat
  p        : Nat
  c        : Nat
  template : Nat
  tlen     : Nat
  t0       : Ns
  next     : Nat
  stopping : Option Nat
  seqs     : List Seqn
deriving DecidableEq, Repr

/-! ### Mirroring and restore -/

/-- The mirror configuration of a context (R230). -/
structure MirrorCfg where
  send      : Option Nat
  interval  : Nat
  minPeriod : Ns
  ranges    : List (Nat × Nat)
  recv      : Option Nat
  slots     : Nat
  slotGib   : Nat
deriving DecidableEq, Repr

/-- A checkpoint being streamed to the partner (R231, R232): its image, the pages that later commits displaced and that are
held for it, whether the stream has ended, and whether the commit of the step after it has come. -/
structure Stream where
  step     : BitVec 64
  version  : BitVec 64
  started  : Ns
  deadline : Ns
  image    : List Host.Cell
  held     : List Nat
  sentAll  : Bool
  nextDone : Bool
deriving DecidableEq, Repr

/-- A checkpoint that this device sent and that is not yet clean (R234). -/
structure Ckpt where
  step   : BitVec 64
  sealed : Bool
  ws     : Nat
deriving DecidableEq, Repr

/-- State of a receive slot (R237). -/
inductive SlotState where
  | free
  | receiving
  | pending
  | clean
deriving DecidableEq, Repr

/-- A chunk of a receive slot or of a restore: pieces, sent digest, verification and how often it was repeated. -/
structure RecvChunk where
  index    : Nat
  pieces   : List (Nat × List Byte)
  digest   : Option (BitVec 256)
  verified : Bool
  repeats  : Nat
deriving DecidableEq, Repr

/-- One receive slot of the mirror region (R233): its group slot on the device row while it receives, and the rank that has
taken it for a restore (R377). -/
structure RecvSlot where
  state   : SlotState
  group   : Option (Fin 8)
  step    : BitVec 64
  sealCount : Option Nat
  chunks  : List RecvChunk
  taken   : Option (CtxId × Nat)
deriving DecidableEq, Repr

/-- The mirror-receive side (R230, R233): the context and rank it serves, its slots, and the checkpoint that it refused
last. -/
structure Recv where
  ctx   : Option CtxId
  rank  : Nat
  gib   : Nat
  slots : List RecvSlot
  refused : Option (BitVec 32)
deriving DecidableEq, Repr

/-- A restore in progress (R376). -/
structure Restore where
  uid     : Nat
  holder  : Nat
  source  : Nat
  step    : BitVec 64
  ranges  : List (Nat × Nat)
  version : BitVec 64
  wait    : Ns
  since   : Ns
  sealed  : Option Nat
  chunks  : List RecvChunk
deriving DecidableEq, Repr

/-! ### Contexts -/

/-- State of a context (R342). -/
inductive CtxState where
  | free
  | active
  | tearing
deriving DecidableEq, Repr

/-- The role of a context (R331). -/
inductive Role where
  | none
  | training
  | serving
deriving DecidableEq, Repr

/-- A peer's address entry (R274). -/
structure Peer where
  addr : BitVec 128
  mac  : BitVec 48
deriving DecidableEq, Repr

/-- A Riffle target (R284): its rank and ports, the sequence number and time of the last probe, and the time its
liveness timer started. -/
structure Target where
  rank     : Nat
  local_   : Fin 8
  peer     : Fin 8
  seq      : BitVec 16
  restart  : Ns
  suspect  : Bool
deriving DecidableEq, Repr

/-- The uncovered tail of a context (R355). -/
structure Tail where
  first  : BitVec 64
  digest : BitVec 256
deriving DecidableEq, Repr

/-- The registers and identity of a context that outlive it (R320, R332, R341). -/
structure CtxRegs where
  seq      : Reg
  consumed : Reg
  gen      : BitVec 16
  drops    : Nat
  lastDrop : Nat
  window   : List Host.Cell
  results  : Nat
  lastCode : Byte
  lastSeq  : Reg
deriving DecidableEq, Repr

/-- The result ring and the delivery ring of a context, with the entries kept for a REBIND (R329, R396). -/
structure Rings where
  base     : Nat
  log2     : Nat
  tail     : Nat
  kept     : List (Nat × List Byte)
  dBase    : Nat
  dLog2    : Nat
  dTail    : Nat
  dCount   : Nat
  dKept    : List (Nat × List Byte)
deriving DecidableEq, Repr

/-- What a context knows of its job (R331, R285, R244, R274). -/
structure Job where
  tag       : BitVec 32
  count     : Nat
  rank      : Option Nat
  epoch     : BitVec 32
  groups    : Option (BitVec 32 × List (List Nat))
  peers     : Option (BitVec 32 × List Peer)
  targets   : List Target
  aheadSeen : List (Nat × BitVec 32)
deriving DecidableEq, Repr

/-- A teardown in progress (R337). -/
structure Tearing where
  code   : Code
  reason : Reason
  since  : Ns
  tag    : BitVec 64
  seq    : Reg
  rowDone : Bool
deriving DecidableEq, Repr

/-- A resident context. `digest` is its predecessor's program digest, `progFirst` and `progLast` the first and last step of that program, and
`swept` the program that a closing sweep has covered (R355). -/
structure Ctx where
  state    : CtxState
  role     : Role
  fenced   : Bool
  unbound  : Bool
  client   : Byte
  genAdv   : Nat
  regs     : CtxRegs
  rings    : Rings
  job      : Job
  asm      : Option Assembly
  steps    : List Step
  pred     : Option Pred
  folds    : List Fold
  alloc    : List Range
  walking  : List Range
  wcFlag   : Bool
  carryOk  : Bool
  final    : Bool
  mirror   : Option MirrorCfg
  stream   : Option Stream
  ckpts    : List Ckpt
  restore  : Option Restore
  pattern  : Option Pattern
  models   : List Model
  manifests : List Manifest
  load     : Option LoadPart
  history  : List (Nat × List (BitVec 32 × BitVec 32))
  digest   : Option (BitVec 256)
  tail     : Option Tail
  tearing  : Option Tearing
  progFirst : BitVec 64
  progLast : BitVec 64
  swept    : Option (BitVec 256)
deriving DecidableEq, Repr

/-! ### Sluice and Weir -/

/-- Counts of one client (R338). -/
structure Client where
  id        : Byte
  resident  : Nat
  admitted  : Nat
  refused   : Nat
  committed : Nat
  aborted   : Nat
deriving DecidableEq, Repr

/-- Sluice (R341). `nextUid` numbers the admitted steps. -/
structure Slu where
  admitting : Bool
  retest    : Bool
  admits    : Reg
  refuses   : Reg
  drops     : Reg
  clients   : List Client
  nextUid   : Nat
deriving DecidableEq, Repr

/-- State of a group slot (R196). -/
inductive GroupState where
  | free
  | open
  | prepared
  | last
  | folding
  | aborting
deriving DecidableEq, Repr

/-- The 4-bit code of a slot's state (R196). -/
def GroupState.code : GroupState → Nat
  | .free => 0
  | .open => 1
  | .prepared => 2
  | .last => 3
  | .folding => 4
  | .aborting => 5

/-- The content of one row of the version table (R196). -/
structure RowData where
  version    : BitVec 64
  slots      : Vector GroupState 8
  lastSlot   : Fin 8
  priorValid : Bool
deriving DecidableEq, Repr

/-- One row: its two copies and whether each still decodes (R197). -/
structure Row where
  a    : RowData
  b    : RowData
  badA : Bool
  badB : Bool
deriving DecidableEq, Repr

/-- A group's copy of one page (R194): its page number, whether it stands in a frame shadow, and its bytes by device
address. -/
structure PageCopy where
  page  : Nat
  frame : Bool
  data  : List Host.Cell
deriving DecidableEq, Repr

/-- A commit group in one slot of one row (R198): the step it belongs to, its limits, its copies, and the time its
walk began. `displaced` counts the old base pages it holds while revertible (R201). -/
structure Group where
  row       : Fin 17
  slot      : Fin 8
  uid       : Nat
  step      : BitVec 64
  tag       : BitVec 64
  seq       : Reg
  p         : Nat
  c         : Nat
  copies    : List PageCopy
  displaced : Nat
  walkFrom  : Ns
deriving DecidableEq, Repr

/-- Weir (R213). -/
structure Weir where
  ready     : Bool
  rebuild   : Bool
  rows      : Vector Row 17
  groups    : List Group
  commits   : Reg
  aborts    : Reg
  reverts   : Reg
  conflicts : Reg
  lateAborts : Reg
  vtFixed   : Nat
  vtLost    : Nat
  mirMiss   : Reg
deriving DecidableEq, Repr

/-! ### Memories -/

/-- The memories (R119, R121, R191). `cells` are the base copies of HBM and the contents of bed and core SRAM by
device address; `poison` the poisoned words (their device addresses); `flips` the lines that carry injected
errors with their weight (R162). `undef` are the ranges whose contents the spec calls undefined, each with the draw that
names its free bytes, newest first. -/
structure Mem where
  cells  : List Host.Cell
  undef  : List (Nat × Nat × Nat)
  poison : List Nat
  flips  : List (Nat × Nat)
  draws  : Nat
deriving DecidableEq, Repr

/-- An HBM channel (R151, R158): whether its last retrain failed, whether it is lost and its failed bursts. -/
structure Channel where
  suspect : Bool
  lost    : Bool
  fails   : List Nat
deriving DecidableEq, Repr

/-- A migration (R160): declared when a channel is lost, and moving the groups of a set of lost channels once the running steps have
ended. -/
inductive Migration where
  | none
  | declared (since : Ns)
  | moving (since : Ns) (set : List Nat)
deriving DecidableEq, Repr

/-- The HBM subsystem (R162). `mapped` are the lost channels already in force; `aside` are the bytes of owner writes to pages
that no context holds yet (log entry 47). -/
structure Hbm where
  ready      : Bool
  initialised : Bool
  chans      : Vector Channel 256
  mapped     : List Nat
  lastFailed : Nat
  migration  : Migration
  temps      : Vector Nat 8
  levels     : Vector Nat 8
  retired    : Nat
  corr       : Reg
  poisoned   : Reg
  crc        : Reg
  retry      : Reg
  retryFail  : Reg
  retrainFail : Reg
  scrubPos   : Nat
  sweeps     : Nat
  inject     : Reg
  slotGroup  : Option Nat
  lineFixes  : List (Nat × Nat)
  aside      : List Host.Cell
deriving DecidableEq, Repr

/-- SRAM repair (R140, R141): corrections of each word, spare rows used by sub-bank, rows to replace. -/
structure Sram where
  fixes    : List (Nat × Nat)
  spares   : List (SramBank × Nat × Nat)
  replace  : List (SramBank × Nat × Nat)
  corr     : Reg
  poisoned : Reg
deriving DecidableEq, Repr

/-! ### Hardware inventory -/

/-- What fuses fix (R9, R28, R429, R431). `oxbow` marks the Oxbow clusters present, `present` every cluster present. -/
structure Fuse where
  arrays   : Nat
  oxbows   : Nat
  stepping : Nat
  control  : BitVec 64
  live     : Vector (BitVec 4) 56
  present  : Vector Bool 28
  oxbow    : Vector Bool 28
  fsv      : Nat
  imageKey : BitVec 256
  secret   : BitVec 256
  romHash  : BitVec 256
  mapHash  : BitVec 256
deriving DecidableEq, Repr

/-- The use of a physical cluster (R22, R122). -/
inductive ClusterUse where
  | logical (n : Nat)
  | checker
  | out
deriving DecidableEq, Repr

/-- The units as they stand (R13, R347, R372, R413). `pendingOut` are the units whose loss takes effect at the next step
boundary. -/
structure Hw where
  live       : Vector (BitVec 4) 56
  use        : Vector ClusterUse 28
  lanes      : BitVec 8
  sha        : BitVec 32
  chanDown   : List (Fin 5 × Fin 32)
  agentDown  : List (Fin 4)
  lineDown   : List (Fin 5 × Fin 64)
  retired    : Bool
  pendingOut : List HwUnit
deriving DecidableEq, Repr

/-! ### Fabric and mesh -/

/-- An Ethernet port (R291): 0 down, 1 training, 2 at 800, 3 at 400 Gb/s; its lanes; when each lossless priority was
paused, and whether that pause has been reported as a storm (R271). -/
structure EthPort where
  state  : Nat
  lanes  : BitVec 8
  pause3 : Option Ns
  pause4 : Option Ns
  storm3 : Bool
  storm4 : Bool
  fec    : Nat
deriving DecidableEq, Repr

/-- A flow (R278, R279): the sending side (`unacked` are the messages sent and not acknowledged, `held` those that wait
for credit) and the receiving side; `dest` is the command that the last message on it names. -/
structure Flow where
  key      : FlowKey
  nextPsn  : BitVec 32
  acked    : BitVec 32
  credit   : Nat
  unacked  : List OxtPkt
  held     : List OxtPkt
  retx     : Nat
  progress : Ns
  wait     : Option Ns
  failed   : Bool
  peerGen  : BitVec 16
  expect   : BitVec 32
  recorded : Option (BitVec 16)
  rxUnacked : Nat
  rxOldest : Ns
  lastNack : Option Ns
  dest     : Option CmdRef
deriving DecidableEq, Repr

/-- The fabric (R289). `probeAt` is the time of the next Riffle probes (R284). -/
structure Fab where
  ports      : Vector EthPort 8
  flows      : List Flow
  suspectLast : Reg
  dropEpoch  : Reg
  dropGen    : Reg
  dropBad    : Reg
  retx       : Reg
  nacks      : Reg
  suspects   : Reg
  echoes     : Reg
  unmatched  : Nat
  probeAt    : Ns
deriving DecidableEq, Repr

/-- A UCIe module (R185). -/
inductive ModState where
  | live
  | repair
  | lost
deriving DecidableEq, Repr

/-- DMA complexes, request lines and bridges (R188). `reqs` are the request lines whose REQ waits. -/
structure Dma where
  ready   : Vector Bool 5
  reqs    : List (Fin 5 × Fin 64)
  bursts  : Reg
  reencode : Nat
  reencodeBad : Nat
  lineFaults : Reg
  nacks   : Reg
  stale   : Reg
  d2d     : Vector ModState 48
  ford    : Vector (Vector ModState 16) 2
  replays : Reg
  repairs : Reg
deriving DecidableEq, Repr

/-- The management ring (R25): broken segments of each of its two rings. -/
structure Ring where
  breaks : List (Fin 2 × Fin 7)
deriving DecidableEq, Repr

/-! ### Integrity -/

/-- A failure-signature record before encoding (R361), and the evidence area that it holds until it is exported (R359). -/
structure Sig where
  kind    : Nat
  seq     : Nat
  time    : Ns
  cls     : Option Nat
  unit    : List Nat
  ctx     : Option (Nat × Nat)
  step    : Option Nat
  job     : Option (Nat × Nat × Nat)
  outcome : Option Nat
  window  : Option (Nat × Nat)
  serving : List (Nat × Nat)
  detail  : List (Nat × Nat)
  evidence : Option (List Byte)
  evstate : Option Nat
  counts  : List (Nat × Nat)
  suspect : Option (Nat × Nat × Nat × Nat)
  effect  : List (Nat × List Nat)
  refers  : Option Nat
  area    : Option Nat
deriving DecidableEq, Repr

/-- A checker mismatch whose unit is to be repeated (R346): the engine that must be idle (none for an Oxbow), the faulty unit, the record
as far as it stands, and the SEQ with which it has been exported while its outcome was pending. -/
structure Repeat where
  engine : Option Engine
  unit   : HwUnit
  since  : Ns
  sig    : Sig
  pending : Option Nat
deriving DecidableEq, Repr

/-- The recompute of one step (R350, R352): the units sampled, whether the sweep covers every key, and the step's program digest. -/
structure Recompute where
  ctx    : CtxId
  step   : Nat
  units  : List SampleRef
  sweep  : Bool
  digest : BitVec 256
  engines : List (Nat × Engine)
deriving DecidableEq, Repr

/-- A mismatch put to the vote (R356). -/
structure Vote where
  ctx   : CtxId
  step  : Nat
  unit  : SampleRef
  engine : Option Engine
deriving DecidableEq, Repr

/-- The integrity system (R362). -/
structure Intg where
  cover    : Option CtxId
  inject   : Reg
  recSeq   : Nat
  records  : List Sig
  lastRec  : List Byte
  ringCount : Nat
  areas    : Vector Bool 8
  repeats  : List Repeat
  transients : List (HwUnit × Nat)
  pending  : List Recompute
  votes    : List Vote
  localised : List Engine
  checksum : Reg
  combiner : Reg
  vector   : Reg
  lockstep : Reg
  update   : Reg
  transient : Reg
  permanent : Reg
  samples  : Reg
  mismatches : Reg
  checkers : Reg
  katFails : Reg
  evDrops  : Reg
  tails    : Reg
deriving DecidableEq, Repr

/-! ### Recovery -/

/-- A rung that is running (R367). `missed` says that it started because the rung below missed its bound; `engine` is the engine that
hung, and `todo` are the suspects of its watchdog (R374). -/
structure Rung where
  scope  : RungScope
  start  : Ns
  missed : Bool
  engine : Option Engine
  todo   : List CtxId
deriving DecidableEq, Repr

/-- A quarantined engine (R374): its suspects, and those still to replay. -/
structure Quarantine where
  engine   : Engine
  since    : Ns
  suspects : List CtxId
  todo     : List CtxId
deriving DecidableEq, Repr

/-- The last kill of a command that an engine was running (R46, R365). An engine that does not obey it shows so at `due`, the running time
1.25 × W + 20 µs of the command; `replay` says that R374 lets the command be replayed. -/
structure Kill where
  engine : Engine
  ctx    : CtxId
  due    : Ns
  replay : Bool
deriving DecidableEq, Repr

/-- Recovery (R382). -/
structure Rcv where
  rungs     : List Rung
  last      : Reg
  counts    : Vector Reg 6
  misses    : Reg
  watchdogs : Reg
  replays   : Reg
  guilty    : Reg
  retires   : Reg
  restores  : Reg
  lost      : Reg
  quarantines : List Quarantine
  missLog   : List (List Nat × Nat × Nat)
  unresolved : List (Engine × Nat)
  dead      : Bool
  tripping  : Bool
  heldMiss  : Option (List Nat × Nat)
  kills     : List Kill
deriving DecidableEq, Repr

/-! ### Power -/

/-- A power and thermal zone (R457). -/
structure Zone where
  temp     : Nat
  thermal  : Nat
  level    : Nat
deriving DecidableEq, Repr

/-- Power, clocks and thermal (R456). `power` is the power level of R453, `raised` when it was required last, `over95`
the end of the last window above 95% of the limit. -/
structure Pwr where
  nowW     : Nat
  zones    : Vector Zone 7
  power    : Nat
  raised   : Ns
  over95   : Ns
  overNow  : Bool
  trip     : Bool
  alert    : Bool
  clkOk    : Bool
  levels   : Reg
  aborts   : Reg
  losses   : Reg
  lostClk  : List Domain
deriving DecidableEq, Repr

/-! ### Security -/

/-- An occupied publisher-key slot (R432). -/
structure Key where
  param : Nat
  bytes : List Byte
deriving DecidableEq, Repr

/-- A request of the verifier (R433): the context whose manifest it checks, the manifest's address and bytes as read,
its record's tag and SEQ, and the key table as it stood when its verification began. -/
structure Verify where
  ctx   : CtxId
  addr  : Nat
  bytes : List Byte
  tag   : BitVec 64
  seq   : Reg
  client : Byte
  keys  : Option (Vector (Option Key) 16)
deriving DecidableEq, Repr

/-- A port's attestation (R436): 0 idle, 1 waiting or signing, 2 ready; the snapshot and the record. -/
structure Attest where
  state  : Nat
  since  : Ns
  fields : List Byte
  record : List Byte
deriving DecidableEq, Repr

/-- Security (R440). -/
structure Sec where
  keys     : Vector (Option Key) 16
  meas     : Vector (BitVec 256) 6
  idReady  : Bool
  idpk     : BitVec 256
  svn      : Nat
  queue    : List Verify
  attest   : Vector Attest 2
  failed   : Reg
  signed   : Reg
deriving DecidableEq, Repr

/-! ### Boot and journal -/

/-- PHASE of BOOT_STATUS (R426). -/
inductive Phase where
  | powerOn
  | flash
  | image
  | training
  | firmware
  | test
  | reconcile
  | ready
  | noImage
  | held
  | retired
deriving DecidableEq, Repr

/-- The code of a phase (R426). -/
def Phase.code : Phase → Nat
  | .powerOn => 0
  | .flash => 1
  | .image => 2
  | .training => 3
  | .firmware => 4
  | .test => 5
  | .reconcile => 6
  | .ready => 7
  | .noImage => 8
  | .held => 9
  | .retired => 10

/-- A journal entry (R418), with what each type carries. -/
inductive JBody where
  | mark (time cold warm : Nat) (rungs : List Nat) (retirements : Nat)
  | retirement (unit : HwUnit) (time : Nat)
  | remap (failed oxbow : Fin 28)
  | spare (bank : SramBank) (sub row : Nat)
  | hbmRow (line : Nat)
  | chanLost (c : Nat) (set : List Nat)
  | modLost (m : Module)
  | ringBreak (ring : Fin 2) (seg : Fin 7)
  | miss (unit : List Nat) (rung time : Nat)
  | signature (bytes : List Byte)
  | grade (arrays ox0 ox1 : Nat)
  | snapshot
  | image (slotB : Bool) (seq : Nat)
deriving DecidableEq, Repr

/-- A journal entry with its number and its pages (R417). -/
structure JEntry where
  seq   : Nat
  pages : Nat
  body  : JBody
deriving DecidableEq, Repr

/-- A journal area (R417, R419): its header's AREA_SEQ and COVERS when valid, its entries, its append page. -/
structure Area where
  header  : Option (Nat × Nat)
  entries : List JEntry
  fill    : Nat
deriving DecidableEq, Repr

/-- The flash on the board (R405): the two image slots and the two journal areas. -/
structure Flash where
  slotA : List Byte
  slotB : List Byte
  areas : Vector Area 2
deriving DecidableEq, Repr

/-- Boot, image and journal (R425). `journal` is the working copy of what the journal says; `queue` are the entries not yet
written. -/
structure Boot where
  phase    : Phase
  err      : Nat
  strap    : BitVec 2
  warm     : Bool
  slotB    : Bool
  validA   : Bool
  validB   : Bool
  tried    : List Bool
  imageSeq : Nat
  store    : List Byte
  mgmt     : Bool
  journal  : List JEntry
  jtime    : Nat
  jrnSeq   : Nat
  active   : Fin 2
  compacting : Bool
  erasing  : Bool
  jrnFault : Bool
  queue    : List JBody
  allowance : Nat
  refilled : Ns
  fetched  : List Fetcher
  fetchBad : List Fetcher
  trained  : Bool
  reconciled : Bool
  start    : Ns
  updState : Nat
  updLen   : Nat
  updAddr  : Nat
  testFails : Reg
  jrnDrops : Reg
  compacts : Reg
  cold     : Reg
  warms    : Reg
  lastMark : Nat
  lifeRungs : List Nat
  lifeRetires : Nat
  below    : Bool
  lastGrade : Nat × Nat × Nat
deriving DecidableEq, Repr

/-- A trace entry (R468). -/
structure Trace where
  time  : Ns
  event : Nat
  ctx   : Nat
  gen   : Nat
  arg   : Nat
deriving DecidableEq, Repr

/-- Telemetry and trace (R467): the entries kept, newest first, the count, and the flags. -/
structure Tel where
  count   : Nat
  entries : List Trace
  frozen  : Bool
  wrapped : Bool
  reqs    : Reg
  drops   : Reg
deriving DecidableEq, Repr

/-! ### The whole -/

/-- The state of the device, and the queue of commands that wait. `out` is what the device has sent to the outside,
oldest first. -/
structure State where
  pending : List Instr
  clk     : Clk
  own     : Own
  cfg     : Cfg
  lat     : Latches
  slu     : Slu
  ctxs    : Vector Ctx 16
  weir    : Weir
  recv    : Recv
  mem     : Mem
  hbm     : Hbm
  sram    : Sram
  fuse    : Fuse
  hw      : Hw
  fab     : Fab
  dma     : Dma
  ring    : Ring
  intg    : Intg
  rcv     : Rcv
  pwr     : Pwr
  sec     : Sec
  flash   : Flash
  boot    : Boot
  tel     : Tel
  out     : List Output
deriving DecidableEq, Repr

/-! ### Reset -/

/-- A context after cold reset: FREE, CTX_SEQn 1 and every other register 0 (R341, R342). -/
def Ctx.reset : Ctx where
  state := .free
  role := .none
  fenced := false
  unbound := false
  client := 0#8
  genAdv := 0
  regs := { seq := 1#32, consumed := 0#32, gen := 0#16, drops := 0, lastDrop := 0, window := [], results := 0,
            lastCode := 0#8, lastSeq := 0#32 }
  rings := { base := 0, log2 := 0, tail := 0, kept := [], dBase := 0, dLog2 := 0, dTail := 0, dCount := 0, dKept := [] }
  job := { tag := 0#32, count := 0, rank := none, epoch := 0#32, groups := none, peers := none, targets := [],
           aheadSeen := [] }
  asm := none
  steps := []
  pred := none
  folds := []
  alloc := []
  walking := []
  wcFlag := false
  carryOk := false
  final := false
  mirror := none
  stream := none
  ckpts := []
  restore := none
  pattern := none
  models := []
  manifests := []
  load := none
  history := []
  digest := none
  tail := none
  tearing := none
  progFirst := 0#64
  progLast := 0#64
  swept := none

/-- A row of the version table after cold reset: VERSION 0 and every slot FREE (R196, R209). -/
def RowData.reset : RowData where
  version := 0#64
  slots := Vector.replicate 8 .free
  lastSlot := 0
  priorValid := false

/-- Both copies of a row hold the same data (R197). -/
def Row.of (d : RowData) : Row := { a := d, b := d, badA := false, badB := false }

/-- The settings after cold reset (R162, R213, R289, R362, R398, R425, R440, R456, R467). -/
def Cfg.reset : Cfg where
  leaseCfg := 10
  aperture := Vector.replicate 2 0
  poolGib := 8
  fabCfg := 0x7E506B00#32
  fabVlan := 0#32
  fabAddr := Vector.replicate 4 0#32
  fabMacLo := 0#32
  fabMacHi := 0#32
  fabGwLo := 0#32
  fabGwHi := 0#32
  riffleOn := false
  riffleUs := 10
  pwrLimit := 1900
  ringLo := 0#32
  ringHi := 0#32
  ringLog2 := 0
  tailLo := 0#32
  tailHi := 0#32
  updAddrLo := 0#32
  updAddrHi := 0#32
  updLen := 0
  keyData := Vector.replicate 16 0#32
  nonce := Vector.replicate 2 (Vector.replicate 8 0#32)
  traceOn := false
  freezeOn := false
  traceCls := 0#5
  tracePage := Vector.replicate 3 0
  viewSel := Vector.replicate 3 (0, 0)

/-- The part the model resets to: a TRL9-192-4 whose seventh cluster of each region is its Oxbow
(DESIGN CHOICE, log entry 4: the spec gives fused figures no value). -/
def Fuse.reset : Fuse where
  arrays := 192
  oxbows := 4
  stepping := 1
  control := 0#64
  live := Vector.replicate 56 0xF#4
  present := Vector.replicate 28 true
  oxbow := Vector.ofFn (fun i : Fin 28 => decide (i.val % 7 = 6))
  fsv := 0
  imageKey := 0#256
  secret := 0#256
  romHash := 0#256
  mapHash := 0#256

/-- Sluice after cold reset. -/
def Slu.reset : Slu where
  admitting := false
  retest := false
  admits := 0#32
  refuses := 0#32
  drops := 0#32
  clients := []
  nextUid := 0

/-- Weir after cold reset: rows cleared (R209). -/
def Weir.reset : Weir where
  ready := false
  rebuild := false
  rows := Vector.replicate 17 (Row.of RowData.reset)
  groups := []
  commits := 0#32
  aborts := 0#32
  reverts := 0#32
  conflicts := 0#32
  lateAborts := 0#32
  vtFixed := 0
  vtLost := 0
  mirMiss := 0#32

/-- HBM after cold reset: not trained, every register 0 (R162). -/
def Hbm.reset : Hbm where
  ready := false
  initialised := false
  chans := Vector.replicate 256 { suspect := false, lost := false, fails := [] }
  mapped := []
  lastFailed := 0
  migration := .none
  temps := Vector.replicate 8 0
  levels := Vector.replicate 8 0
  retired := 0
  corr := 0#32
  poisoned := 0#32
  crc := 0#32
  retry := 0#32
  retryFail := 0#32
  retrainFail := 0#32
  scrubPos := 0
  sweeps := 0
  inject := 0#32
  slotGroup := none
  lineFixes := []
  aside := []

/-- SRAM repair after cold reset. -/
def Sram.reset : Sram where
  fixes := []
  spares := []
  replace := []
  corr := 0#32
  poisoned := 0#32

/-- The units before reconciliation: no logical cluster (ID_CLUSTERS reads 0, R465). -/
def Hw.reset : Hw where
  live := Vector.replicate 56 0#4
  use := Vector.replicate 28 .out
  lanes := 0xFF#8
  sha := 0xFFFFFFFF#32
  chanDown := []
  agentDown := []
  lineDown := []
  retired := false
  pendingOut := []

/-- The fabric after cold reset: every port down (R289, R291). -/
def Fab.reset : Fab where
  ports := Vector.replicate 8 { state := 0, lanes := 0#8, pause3 := none, pause4 := none, storm3 := false, storm4 := false,
                                  fec := 0 }
  flows := []
  suspectLast := 0#32
  dropEpoch := 0#32
  dropGen := 0#32
  dropBad := 0#32
  retx := 0#32
  nacks := 0#32
  suspects := 0#32
  echoes := 0#32
  unmatched := 0
  probeAt := 0

/-- DMA and bridges after cold reset: modules read 0 until bring-up training completes (R188), so none is live. -/
def Dma.reset : Dma where
  ready := Vector.replicate 5 false
  reqs := []
  bursts := 0#32
  reencode := 0
  reencodeBad := 0
  lineFaults := 0#32
  nacks := 0#32
  stale := 0#32
  d2d := Vector.replicate 48 .lost
  ford := Vector.replicate 2 (Vector.replicate 16 .lost)
  replays := 0#32
  repairs := 0#32

/-- Integrity after cold reset (R362). -/
def Intg.reset : Intg where
  cover := none
  inject := 0#32
  recSeq := 0
  records := []
  lastRec := []
  ringCount := 0
  areas := Vector.replicate 8 false
  repeats := []
  transients := []
  pending := []
  votes := []
  localised := []
  checksum := 0#32
  combiner := 0#32
  vector := 0#32
  lockstep := 0#32
  update := 0#32
  transient := 0#32
  permanent := 0#32
  samples := 0#32
  mismatches := 0#32
  checkers := 0#32
  katFails := 0#32
  evDrops := 0#32
  tails := 0#32

/-- Recovery after cold reset (R382). -/
def Rcv.reset : Rcv where
  rungs := []
  last := 0#32
  counts := Vector.replicate 6 0#32
  misses := 0#32
  watchdogs := 0#32
  replays := 0#32
  guilty := 0#32
  retires := 0#32
  restores := 0#32
  lost := 0#32
  quarantines := []
  missLog := []
  unresolved := []
  dead := false
  tripping := false
  heldMiss := none
  kills := []

/-- Power after cold reset (R456, R457). -/
def Pwr.reset : Pwr where
  nowW := 0
  zones := Vector.replicate 7 { temp := 0, thermal := 0, level := 0 }
  power := 0
  raised := 0
  over95 := 0
  overNow := false
  trip := false
  alert := false
  clkOk := false
  levels := 0#32
  aborts := 0#32
  losses := 0#32
  lostClk := []

/-- Security after cold reset: the key table empty and every measurement 32 zero bytes (R432, R435, R440). -/
def Sec.reset : Sec where
  keys := Vector.replicate 16 none
  meas := Vector.replicate 6 0#256
  idReady := false
  idpk := 0#256
  svn := 0
  queue := []
  attest := Vector.replicate 2 { state := 0, since := 0, fields := [], record := [] }
  failed := 0#32
  signed := 0#32

/-- An erased journal area (R417). -/
def Area.erased : Area where
  header := none
  entries := []
  fill := 1

/-- Boot after cold reset (R425, R426). The lifetime counts are loaded by the journal replay. -/
def Boot.reset : Boot where
  phase := .powerOn
  err := 0
  strap := 0#2
  warm := false
  slotB := false
  validA := false
  validB := false
  tried := []
  imageSeq := 0
  store := []
  mgmt := false
  journal := []
  jtime := 0
  jrnSeq := 0
  active := 0
  compacting := false
  erasing := false
  jrnFault := false
  queue := []
  allowance := 409600
  refilled := 0
  fetched := []
  fetchBad := []
  trained := false
  reconciled := false
  start := 0
  updState := 0
  updLen := 0
  updAddr := 0
  testFails := 0#32
  jrnDrops := 0#32
  compacts := 0#32
  cold := 0#32
  warms := 0#32
  lastMark := 0
  lifeRungs := [0, 0, 0, 0, 0, 0]
  lifeRetires := 0
  below := false
  lastGrade := (0, 0, 0)

/-- The device right after reset: power good, RESET_IN_N high, time 0 of the cold boot (R412), every register at the
Reset column of its table, no owner, every context FREE, memory with nothing listed, and no command waiting. -/
def State.reset : State where
  pending := []
  clk := { now := 0, pwrgd := true, resetN := true, straps := 0#2 }
  own := { owner := none, leaseEnd := 0, offer := none, term := 0#32, discards := 0#32,
           links := Vector.replicate 2 { state := .down, speed := 0, width := 0, mps := 0 } }
  cfg := Cfg.reset
  lat := { fenceHi := Vector.replicate 3 0#32, pwrHi := Vector.replicate 3 0#32, mirHi := Vector.replicate 3 0#32,
           jrnHi := Vector.replicate 3 0#32 }
  slu := Slu.reset
  ctxs := Vector.replicate 16 Ctx.reset
  weir := Weir.reset
  recv := { ctx := none, rank := 0, gib := 0, slots := [], refused := none }
  mem := { cells := [], undef := [(0, 960 * 2 ^ 30, 0)], poison := [], flips := [], draws := 1 }
  hbm := Hbm.reset
  sram := Sram.reset
  fuse := Fuse.reset
  hw := Hw.reset
  fab := Fab.reset
  dma := Dma.reset
  ring := { breaks := [] }
  intg := Intg.reset
  rcv := Rcv.reset
  pwr := Pwr.reset
  sec := Sec.reset
  flash := { slotA := [], slotB := [], areas := Vector.replicate 2 Area.erased }
  boot := Boot.reset
  tel := { count := 0, entries := [], frozen := false, wrapped := false, reqs := 0#32, drops := 0#32 }
  out := []

end Sys2Proof.Machine
end

