-- ==== Sys2Proof/Machine/Ops.lean ====
section
/-! DEFINITION. The named operations over the state that every family shares: outputs, counters, contexts, memory,
trace and result entries. -/

namespace Sys2Proof.Machine

/-! ### Outputs -/

/-- Send one output. -/
def State.emit (s : State) (o : Output) : State := { s with out := s.out ++ [o] }

/-- Send outputs in order. -/
def State.emits (s : State) (os : List Output) : State := { s with out := s.out ++ os }

/-- Fire a vector on both ports (R393). -/
def State.msixBoth (s : State) (v : Nat) : State := s.emits [.msix .p0 v, .msix .p1 v]

/-- Fire a vector on the owner's port (R393). -/
def State.msixOwner (s : State) (v : Nat) : State :=
  match s.own.owner with
  | some p => s.emit (.msix p v)
  | none => s

/-- A write discarded because its port is not the owner (R16, R390). -/
def State.discardForeign (s : State) (p : Port) : State := s.emit (.aer p .correctable)

/-- A BAR4 write discarded: counted and reported (R389, R390). -/
def State.discardAperture (s : State) (p : Port) (sev : Severity) : State :=
  { s with own := { s.own with discards := satInc s.own.discards } }.emit (.aer p sev)

/-! ### Power, reset and readiness -/

/-- Main power is on, RESET_IN_N is high, and the device does not hold itself in reset (R5, R373, R401). -/
def State.powered (s : State) : Bool := s.clk.pwrgd && s.clk.resetN && !s.rcv.dead

/-- Is a warm device reset running (R367)? -/
def State.warming (s : State) : Bool := s.rcv.rungs.any fun r => decide (r.scope = .warm)

/-- Is a cold reset running, up to admission (R367)? -/
def State.cooling (s : State) : Bool := s.rcv.rungs.any fun r => decide (r.scope = .cold)

/-- The device has booted and no device reset runs: hosts, fabric and engines are served. -/
def State.up (s : State) : Bool :=
  s.powered && !s.warming && !s.cooling && (s.boot.phase == .ready || s.boot.phase == .retired)

/-- A host command acts only while the device is up (R394, R464); otherwise it is discarded. -/
def State.whenUp (s : State) (f : State → State) : State := if s.up then f s else s

/-- A device event acts only while the device has power and is not held in reset. -/
def State.whenPowered (s : State) (f : State → State) : State := if s.powered then f s else s

/-- May a host's writes reach the device through a port: its link is up and not limited (R386, R464)? -/
def State.linkUp (s : State) (p : Port) : Bool := s.own.links[p.index].state == .up

/-- May a host's register reads reach the device through a port? -/
def State.linked (s : State) (p : Port) : Bool := s.own.links[p.index].state == .up || s.own.links[p.index].state == .limited

/-- A measurement is extended by an event's digest (R435). -/
def State.measure (s : State) (i : Fin 6) (e : BitVec 256) : State :=
  { s with sec := { s.sec with meas := s.sec.meas.set i (sha256 (digestBytes s.sec.meas[i] ++ digestBytes e)) } }

/-- One idle management cycle: the counter advances (R446; log entry 2). -/
def idle (s : State) : State :=
  if s.powered then { s with clk := { s.clk with now := s.clk.now + Config.tick } } else s

/-! ### Contexts, steps and commands -/

/-- A context. -/
def State.ctx (s : State) (c : CtxId) : Ctx := s.ctxs[c]

/-- Replace a context. -/
def State.setCtx (s : State) (c : CtxId) (x : Ctx) : State := { s with ctxs := s.ctxs.set c x }

/-- Change a context. -/
def State.modCtx (s : State) (c : CtxId) (f : Ctx → Ctx) : State := s.setCtx c (f (s.ctx c))

/-- Every context number, ascending. -/
def allCtx : List CtxId := List.finRange 16

/-- Is the context resident (R34, R342)? -/
def Ctx.resident (x : Ctx) : Bool := x.state != .free

/-- Apply an operation for every context, ascending. -/
def State.forCtx (s : State) (f : State → CtxId → State) : State := allCtx.foldl f s

/-- The step of a context with an admission number. -/
def Ctx.step? (x : Ctx) (uid : Nat) : Option Step := x.steps.find? fun t => t.uid == uid

/-- Change one step of a context. -/
def Ctx.modStep (x : Ctx) (uid : Nat) (f : Step → Step) : Ctx :=
  { x with steps := x.steps.map fun t => if t.uid == uid then f t else t }

/-- The step a command reference names. -/
def State.step? (s : State) (r : CmdRef) : Option Step := (s.ctx r.ctx).step? r.step

/-- The command a reference names. -/
def State.cmd? (s : State) (r : CmdRef) : Option Cmd := (s.step? r).bind fun t => t.cmds[r.idx]?

/-- Change one step. -/
def State.modStep (s : State) (c : CtxId) (uid : Nat) (f : Step → Step) : State :=
  s.modCtx c fun x => x.modStep uid f

/-- Change one command. -/
def State.modCmd (s : State) (r : CmdRef) (f : Cmd → Cmd) : State :=
  s.modStep r.ctx r.step fun t => { t with cmds := t.cmds.modify r.idx f }

/-- Every command in the device with its reference: contexts ascending, steps in admission order, then index. -/
def State.allCmds (s : State) : List (CmdRef × Cmd) :=
  allCtx.flatMap fun c =>
    (s.ctx c).steps.flatMap fun t =>
      t.cmds.zipIdx.map fun p => ({ ctx := c, step := t.uid, idx := p.2 }, p.1)

/-- Has the command neither completed, nor been killed, nor been given up (R49)? -/
def Cmd.alive (k : Cmd) : Bool :=
  match k.state with
  | .done | .killed | .skipped => false
  | _ => true

/-- The command running on an engine. -/
def State.running? (s : State) (e : Engine) : Option (CmdRef × Cmd) :=
  s.allCmds.find? fun p => p.2.entry.engine == e && p.2.state == .running

/-- The running time of a command at an instant (R46): suspended time and waits for peers are not in it. -/
def Cmd.runTime (k : Cmd) (now : Ns) : Ns :=
  if k.state = .running ∧ k.waitSince = none then k.ran + (now - k.since) else k.ran

/-! ### KIND and ENGINE of R325 -/

/-- KIND of R325. -/
def engineKind : Engine → Nat
  | .matrix _ => 1
  | .vector _ => 2
  | .dma _ _ => 3
  | .update _ => 4
  | .coll _ => 5

/-- ENGINE of R325: its eight bits as a number (log entry 46). -/
def engineCode : Engine → Nat
  | .matrix c => c
  | .vector c => c
  | .dma x ch => x * 32 + ch
  | .update c => c
  | .coll a => a

/-- The region a logical core, cluster or complex belongs to by its engine; none for the ford die. Logical clusters are
numbered through the regions in ascending physical order (R122); `used` gives each logical cluster's physical one. -/
def State.physCluster? (s : State) (n : Nat) : Option (Fin 28) :=
  (List.finRange 28).find? fun i => s.hw.use[i] == .logical n

/-- The region of a physical cluster: seven clusters a region (R20). -/
def regionOf (c : Fin 28) : Fin 4 := ⟨c.val / 7, by omega⟩

/-- The die of a region (R20). -/
def dieOf (r : Fin 4) : Fin 2 := ⟨r.val / 2, by omega⟩

/-- The region an engine lies in; none on the ford die, or where the logical number does not exist. -/
def State.engineRegion (s : State) : Engine → Option (Fin 4)
  | .matrix c => (s.physCluster? (c / 2)).map regionOf
  | .vector c => (s.physCluster? (c / 2)).map regionOf
  | .update c => (s.physCluster? c).map regionOf
  | .dma x _ => if h : x < 4 then some ⟨x, h⟩ else none
  | .coll a => if h : a < 4 then some ⟨a, h⟩ else none

/-! ### The trace buffer (R467, R468) -/

/-- Write a trace entry of a class (0 commands, 1 steps, 2 resets, 3 fabric, 4 power) when it is enabled. -/
def State.trace (s : State) (cls event ctx arg : Nat) : State :=
  if s.cfg.traceOn && s.cfg.traceCls.getLsbD cls && !s.tel.frozen then
    let gen := if h : ctx < 16 then (s.ctx ⟨ctx, h⟩).regs.gen.toNat else 0
    { s with tel := { s.tel with
        count := s.tel.count + 1
        entries := ({ time := s.clk.now, event := event, ctx := ctx, gen := gen, arg := arg } :: s.tel.entries).take 16384
        wrapped := s.tel.wrapped || decide (16384 ≤ s.tel.entries.length) } }
  else s

/-- The trace stops at the first ABORTED_FAULT or rung start when it is set to (R467). -/
def State.freezeTrace (s : State) : State :=
  if s.cfg.traceOn && s.cfg.freezeOn then { s with tel := { s.tel with frozen := true } } else s

/-- A command's ARG (R468). -/
def Cmd.traceArg (k : Cmd) (idx : Nat) : Nat := idx * 2 ^ 24 + engineCode k.entry.engine * 2 ^ 8 + engineKind k.entry.engine

/-! ### Sparse memory -/

/-- The byte at an address: 0 where nothing is listed. -/
def readCell : List Host.Cell → Nat → Byte
  | [], _ => 0#8
  | (a, v) :: rest, x => if a = x then v else readCell rest x

/-- Write one byte and keep the canonical form: addresses strictly rising, no entry 0. -/
def writeCell : List Host.Cell → Nat → Byte → List Host.Cell
  | [], x, v => if v = 0#8 then [] else [(x, v)]
  | (a, w) :: rest, x, v =>
    if x < a then (if v = 0#8 then (a, w) :: rest else (x, v) :: (a, w) :: rest)
    else if x = a then (if v = 0#8 then rest else (x, v) :: rest)
    else (a, w) :: writeCell rest x v

/-- Write consecutive bytes. -/
def writeCells : List Host.Cell → Nat → List Byte → List Host.Cell
  | cs, _, [] => cs
  | cs, x, v :: vs => writeCells (writeCell cs x v) (x + 1) vs

/-- Drop the cells of a range: it reads zero. -/
def clearCells (cs : List Host.Cell) (start len : Nat) : List Host.Cell :=
  cs.filter fun c => decide (c.1 < start ∨ start + len ≤ c.1)

/-- Every cell of a list written over another list. -/
def overlay (cs : List Host.Cell) (top : List Host.Cell) : List Host.Cell :=
  top.foldl (fun acc c => writeCell acc c.1 c.2) cs

/-- The canonical form of a memory: addresses strictly rising and no entry equal to what an unlisted address reads. -/
abbrev Cells.wf (cs : List Host.Cell) : Prop := cs.Pairwise (fun a b => a.1 < b.1) ∧ ∀ c ∈ cs, c.2 ≠ 0#8

/-- Take a range out of the undefined ranges: what is written there is defined. -/
def carve (start len : Nat) : List (Nat × Nat × Nat) → List (Nat × Nat × Nat)
  | [] => []
  | (a, n, d) :: rest =>
    let left := if a < start then [(a, min n (start - a), d)] else []
    let right := if start + len < a + n then [(max a (start + len), a + n - max a (start + len), d)] else []
    (if start < a + n ∧ a < start + len then left ++ right else [(a, n, d)]) ++ carve start len rest

/-- The base copy at an address: a free byte where the contents are undefined. -/
def Mem.base (m : Mem) (a : Nat) : Byte :=
  match m.undef.find? fun u => decide (u.1 ≤ a ∧ a < u.1 + u.2.1) with
  | some u => Config.freeByte u.2.2 a
  | none => readCell m.cells a

/-- The size of a poisonable unit at an address: a 64-byte line in HBM (R147), an 8-byte word in SRAM (R139). -/
def lineSize (a : Nat) : Nat := if a < 2 ^ 44 then 64 else 8

/-- Does a range touch a poisoned line or word? -/
def Mem.poisoned (m : Mem) (start len : Nat) : Bool :=
  m.poison.any fun p => decide (p < start + len ∧ start < p + lineSize p)

/-- The lines of an HBM group, by data line and check line (R144): data line `n` of group `g` is line 15 g + n. An injected error is
kept under 16 g + n, with 15 for the check line. -/
def flipLine (k : Nat) : Nat := (k / 16 * 15 + k % 16) * 64

/-- A write leaves the injected errors of what it does not rewrite: a data line that is not written whole, and the check line of a
group that it does not touch (R146 to R148). -/
def keepFlips (start len : Nat) (fs : List (Nat × Nat)) : List (Nat × Nat) :=
  fs.filter fun f =>
    if f.1 % 16 = 15 then !(decide (f.1 / 16 * 960 < start + len ∧ start < f.1 / 16 * 960 + 960))
    else !(decide (start ≤ flipLine f.1 ∧ flipLine f.1 + 64 ≤ start + len))

/-- Write bytes to base copies in place. A line or word written whole loses its poison (R139, R147). -/
def Mem.put (m : Mem) (start : Nat) (bs : List Byte) : Mem :=
  { m with
    cells := writeCells m.cells start bs
    undef := carve start bs.length m.undef
    poison := m.poison.filter fun p => !(decide (start ≤ p ∧ p + lineSize p ≤ start + bs.length))
    flips := keepFlips start bs.length m.flips }

/-- The lines that a read finds beyond correction: the poisoned ones, those with an injected weight of 3, and every line of a group whose
check line is wrong (R147; log entry 71). -/
def Mem.badLines (m : Mem) : List Nat :=
  m.poison ++ m.flips.flatMap fun f =>
    if f.1 % 16 = 15 then (List.range 15).map fun n => flipLine (f.1 / 16 * 16 + n)
    else if 3 ≤ f.2 then [flipLine f.1] else []

/-- Clear a range to zero with valid check bits (R125, R192). -/
def Mem.clear (m : Mem) (start len : Nat) : Mem :=
  { m with
    cells := clearCells m.cells start len
    undef := carve start len m.undef
    poison := m.poison.filter fun p => decide (p < start ∨ start + len ≤ p)
    flips := keepFlips start len m.flips }

/-- The contents of a range become undefined (R78, R124, R193). -/
def Mem.forget (m : Mem) (start len : Nat) : Mem :=
  { m with
    cells := clearCells m.cells start len
    undef := (start, len, m.draws) :: carve start len m.undef
    draws := m.draws + 1 }

/-- Put base bytes. -/
def State.putBase (s : State) (start : Nat) (bs : List Byte) : State := { s with mem := s.mem.put start bs }

/-! ### Spaces (R121) -/

/-- The spaces of a device address. -/
inductive Space where
  | hbm
  | bed
  | core
deriving DecidableEq, Repr

/-- The space an address lies in, with the reserved bits of R121 zero. -/
def spaceOf (a : Nat) : Option Space :=
  if a < 960 * 2 ^ 30 then some .hbm
  else if 0xB * 2 ^ 44 ≤ a ∧ a < 0xB * 2 ^ 44 + 28 * 2 ^ 24 then some .bed
  else if 0xC * 2 ^ 44 ≤ a ∧ a < 0xC * 2 ^ 44 + 48 * 2 ^ 22 then some .core
  else none

/-- Is an address in SRAM? -/
def isSram (a : Nat) : Bool := decide (2 ^ 44 ≤ a)

/-- The buffers of core SRAM (R121). -/
inductive Buffer where
  | weight
  | activation
  | accumulator
deriving DecidableEq, Repr

/-- The buffer of a core SRAM offset. -/
def bufferOf (off : Nat) : Buffer :=
  if off < 0x180000 then .weight else if off < 0x380000 then .activation else .accumulator

/-- First address of logical core `n`, of its buffers, and of bed bank `b` (R121). -/
def coreBase (n : Nat) : Nat := 0xC * 2 ^ 44 + n * 2 ^ 22
def accBase (n : Nat) : Nat := coreBase n + 0x380000
def bedBase (b : Nat) : Nat := 0xB * 2 ^ 44 + b * 2 ^ 24

/-- Channels declared lost (R158). -/
def State.lostCount (s : State) : Nat := (s.hbm.chans.toList.filter (·.lost)).length

/-- Journal time in seconds (R420): the powered time carried from boot to boot. -/
def State.jnow (s : State) : Nat := s.boot.jtime + (s.clk.now - s.boot.start) / 1000000000

/-- Lost channels in force (R161). -/
def State.lostChannels (s : State) : Nat := s.hbm.mapped.length

/-- The usable HBM capacity in bytes (R161, R157). -/
def State.usable (s : State) : Nat := (256 - s.lostChannels) * 4194304 * 960 - s.hbm.retired * Config.frameBytes

/-- Do the extents cover every byte from `pos` up to `stop`? One extent is used at each of `fuel` steps. -/
def coverFrom (exts : List (Nat × Nat)) : Nat → Nat → Nat → Bool
  | 0, pos, stop => decide (stop ≤ pos)
  | fuel + 1, pos, stop =>
    if stop ≤ pos then true
    else match exts.find? fun e => decide (e.1 ≤ pos ∧ pos < e.1 + e.2) with
      | none => false
      | some e => coverFrom exts fuel (e.1 + e.2) stop

/-- Do the extents cover a range? -/
def covers (exts : List (Nat × Nat)) (start len : Nat) : Bool := coverFrom exts exts.length start (start + len)

/-- Does an allocation cover a range? -/
def coveredBy (rs : List Range) (start len : Nat) : Bool := covers (rs.map fun r => (r.start, r.len)) start len

/-- The kind of the allocation an address lies in. -/
def kindAt (rs : List Range) (a : Nat) : Option AllocKind :=
  (rs.find? fun r => decide (r.start ≤ a ∧ a < r.start + r.len)).map (·.kind)

/-! ### Result entries (R329) -/

/-- A result entry before encoding. -/
structure Entry64 where
  seq       : Nat
  code      : Code
  kind      : Nat
  flags     : Nat := 0
  tag       : Nat := 0
  step      : Nat := 0
  version   : Nat := 0
  reason    : Reason := .none
  index     : Nat := 0
  shortfall : Nat := 0
  t0        : Nat := 0
  detail    : Nat := 0
deriving DecidableEq, Repr

/-- The 64 bytes of an entry (R329). -/
def Entry64.bytes (e : Entry64) : List Byte :=
  leBytes 4 e.seq ++ [e.code.value] ++ leBytes 1 e.kind ++ leBytes 2 e.flags ++ leBytes 8 e.tag ++ leBytes 8 e.step
    ++ leBytes 8 e.version ++ leBytes 2 e.reason.value.toNat ++ leBytes 2 e.index ++ leBytes 4 0
    ++ leBytes 8 e.shortfall ++ leBytes 8 e.t0 ++ leBytes 8 e.detail

/-- Where a ring entry goes. -/
def ringAddr (base log2 n size : Nat) : Nat := base + n % 2 ^ log2 * size

/-- Write an entry of the result ring: counted and kept always, sent while the context is bound (R329, R396). A free context has no
ring (log entry 55). -/
def State.putEntry (s : State) (c : CtxId) (e : Entry64) : State :=
  let x := s.ctx c
  let n := x.regs.results
  let s' := s.setCtx c { x with
    regs := { x.regs with results := n + 1, lastCode := e.code.value, lastSeq := BitVec.ofNat 32 e.seq }
    rings := { x.rings with kept := (x.rings.kept ++ [(n, e.bytes)]).drop (x.rings.kept.length + 1 - 256) } }
  if x.unbound || x.state == .free then s'
  else (s'.emits [.hostWrite (ringAddr x.rings.base x.rings.log2 n 64) e.bytes,
                  .hostWrite x.rings.tail (leBytes 8 (n + 1))]).msixOwner (4 + c.val)

/-- The committed version of a context as its row holds it (R196). -/
def State.version (s : State) (c : Fin 17) : BitVec 64 := s.weir.rows[c].a.version

/-- The row of a context. -/
def rowOf (c : CtxId) : Fin 17 := ⟨c.val, by omega⟩

/-! ### Per-client counts (R338) -/

/-- Change the counts of a client. -/
def State.modClient (s : State) (id : Byte) (f : Client → Client) : State :=
  let cur := (s.slu.clients.find? fun k => k.id == id).getD
    { id := id, resident := 0, admitted := 0, refused := 0, committed := 0, aborted := 0 }
  let rest := s.slu.clients.filter fun k => k.id != id
  { s with slu := { s.slu with clients := f cur :: rest } }

/-- The count of a client. -/
def State.client (s : State) (id : Byte) : Client :=
  (s.slu.clients.find? fun k => k.id == id).getD
    { id := id, resident := 0, admitted := 0, refused := 0, committed := 0, aborted := 0 }

/-! ### Journal queue -/

/-- An event to be recorded in the journal: it joins the queue of appends (R417, R418). -/
def State.journal (s : State) (b : JBody) : State := { s with boot := { s.boot with queue := s.boot.queue ++ [b] } }

/-- A signature record is made: it waits for export, and vector 2 fires (R358, R360, R393). -/
def State.record (s : State) (g : Sig) : State :=
  let n := s.intg.recSeq + 1
  State.msixBoth { s with intg := { s.intg with
    recSeq := n, records := s.intg.records ++ [{ g with seq := n, time := s.clk.now }] } } 2

/-- An empty record of a kind. -/
def Sig.empty (kind : Nat) : Sig where
  kind := kind
  seq := 0
  time := 0
  cls := none
  unit := []
  ctx := none
  step := none
  job := none
  outcome := none
  window := none
  serving := []
  detail := []
  evidence := none
  evstate := none
  counts := []
  suspect := none
  effect := []
  refers := none
  area := none

end Sys2Proof.Machine
end

