-- ==== Sys2Proof/Machine/Operands.lean ====
section
/-! DEFINITION. Operand forms: tensor descriptors and the blocked layout (R126 to R132), elements and their side data,
what a command reads and writes as extents, and scatter/gather lists (R168). -/

namespace Sys2Proof.Machine

/-! ### Tensor descriptors (R129) -/

/-- A tensor descriptor. -/
structure Tensor where
  base      : Nat
  fmt       : Fmt
  blockAxis : Nat
  side      : Bool
  transpose : Bool
  zp        : Int
  rows      : Nat
  cols      : Nat
  pitch     : Nat
deriving DecidableEq, Repr

/-- The format of a code (R129). -/
def fmtOf (code : Nat) (signed : Bool) : Option Fmt :=
  match code with
  | 0 => some .fp32
  | 1 => some .bf16
  | 2 => some .e4m3
  | 3 => some .e5m2
  | 4 => some .e2m3
  | 5 => some .e3m2
  | 6 => some .e2m1
  | 7 => some .mxint8
  | 8 => some (.int8 signed)
  | 9 => some (.int4 signed)
  | 10 => some .int32
  | _ => none

/-- Is a format an INT8 or INT4 storage form? -/
def Fmt.isInt : Fmt → Bool
  | .int8 _ => true
  | .int4 _ => true
  | _ => false

/-- The 32 bytes of a descriptor, read as one number. -/
def parseTensorNat (v : Nat) : Option Tensor :=
  match fmtOf (bits v 51 48) (bit v 53) with
  | none => none
  | some f =>
    let zpRaw := bits v 63 56
    let t : Tensor :=
      { base := bits v 47 0, fmt := f, blockAxis := bits v 52 52, side := bit v 54, transpose := bit v 55,
        zp := if f.isInt then codeInt f.bits (bit v 53) zpRaw else 0,
        rows := bits v 84 64, cols := bits v 116 96, pitch := bits v 143 128 }
    if bits v 95 85 = 0 ∧ bits v 127 117 = 0 ∧ bits v 255 144 = 0 ∧ bits v 5 0 = 0
        ∧ 1 ≤ t.rows ∧ t.rows ≤ 1048576 ∧ 1 ≤ t.cols ∧ t.cols ≤ 1048576 then some t
    else none

/-- A descriptor from its bytes; none is a shape failure (R129). -/
def parseTensor (bs : List Byte) : Option Tensor := if bs.length = 32 then parseTensorNat (leNat bs) else none

/-! ### Layout (R126, R127, R130) -/

/-- Element bytes of a tile. -/
def Fmt.tileBytes (f : Fmt) : Nat := 2048 * f.bits

/-- Side bytes of a tile (R127). -/
def Tensor.sideBytes (t : Tensor) : Nat :=
  if t.fmt.isMx then 512
  else if !t.side then 0
  else match t.fmt with
    | .bf16 => 512
    | .int8 _ | .int4 _ => 128
    | _ => 0

/-- The stride of R127. -/
def Tensor.plainStride (t : Tensor) : Nat := t.fmt.tileBytes + t.sideBytes

/-- The boundary of a resident tile (R130). -/
def Fmt.boundary : Fmt → Nat
  | .e2m1 => 8192
  | .int4 _ => 8192
  | _ => 16384

/-- Does the tensor lie in a weight or activation buffer? -/
def Tensor.inBuffer (t : Tensor) : Bool :=
  decide (spaceOf t.base = some .core) && decide (bufferOf (t.base % 2 ^ 22) ≠ .accumulator)

/-- The stride between tiles (R126). -/
def Tensor.stride (t : Tensor) : Nat :=
  if t.inBuffer then cdiv t.plainStride t.fmt.boundary * t.fmt.boundary else t.plainStride

/-- A tensor in a weight or activation buffer starts on its boundary (R130). -/
def Tensor.aligned (t : Tensor) : Bool := !t.inBuffer || decide (t.base % 2 ^ 22 % t.fmt.boundary = 0)

/-- Tiles from one tile row to the next. -/
def Tensor.tilePitch (t : Tensor) : Nat := if t.pitch = 0 then cdiv t.cols 128 else t.pitch

/-- The address of a tile. -/
def Tensor.tileAddr (t : Tensor) (p q : Nat) : Nat := t.base + (p * t.tilePitch + q) * t.stride

/-- The index of an element within its tile. -/
def tileIndex (i j : Nat) : Nat := 64 * (16 * (i / 8) + j / 8) + 8 * (i % 8) + j % 8

/-- The row and column of an index within its tile. -/
def tileRow (e : Nat) : Nat := 8 * (e / 64 / 16) + e % 64 / 8
def tileCol (e : Nat) : Nat := 8 * (e / 64 % 16) + e % 8

/-- The tiles of a tensor with their first address. -/
def Tensor.tiles (t : Tensor) : List (Nat × Nat) :=
  (List.range (cdiv t.rows 128)).flatMap fun p => (List.range (cdiv t.cols 128)).map fun q => (p, q)

/-- The extents of a tensor: element and side bytes of every tile, joined where tiles follow one another. -/
def Tensor.extents (t : Tensor) : List (Nat × Nat) :=
  if t.stride = t.plainStride ∧ t.tilePitch = cdiv t.cols 128 then
    [(t.base, cdiv t.rows 128 * cdiv t.cols 128 * t.stride)]
  else if t.stride = t.plainStride then
    (List.range (cdiv t.rows 128)).map fun p => (t.tileAddr p 0, cdiv t.cols 128 * t.stride)
  else t.tiles.map fun pq => (t.tileAddr pq.1 pq.2, t.plainStride)

/-! ### Reading elements -/

/-- A view of memory. -/
abbrev View := Nat → Byte

/-- Bytes of a view. -/
def View.bytes (v : View) (a len : Nat) : List Byte := (List.range len).map fun i => v (a + i)

/-- The code of the element at index `e` of a tile that starts at `a` (R81). -/
def View.code (v : View) (a bitsPer e : Nat) : Nat :=
  let lo := e * bitsPer
  leNat (v.bytes (a + lo / 8) ((lo + bitsPer + 7) / 8 - lo / 8)) / 2 ^ (lo % 8) % 2 ^ bitsPer

/-- The code stored at (row, column), and the address of its tile. -/
def Tensor.codeAt (t : Tensor) (v : View) (r c : Nat) : Nat :=
  v.code (t.tileAddr (r / 128) (c / 128)) t.fmt.bits (tileIndex (r % 128) (c % 128))

/-- The side byte of a stored element: its block's scale or exponent field (R127). -/
def Tensor.sideAt (t : Tensor) (v : View) (r c : Nat) : Nat :=
  let a := t.tileAddr (r / 128) (c / 128) + t.fmt.tileBytes
  let i := r % 128
  let j := c % 128
  (v (a + (if t.blockAxis = 0 then 128 * (i / 32) + j else 128 * (j / 32) + i))).toNat

/-- The zero point of a stored column (R88, R132). -/
def Tensor.zpAt (t : Tensor) (v : View) (r c : Nat) : Int :=
  if t.fmt.isInt && t.side then
    let signed := match t.fmt with
      | .int8 sg | .int4 sg => sg
      | _ => false
    codeInt t.fmt.bits signed (v (t.tileAddr (r / 128) (c / 128) + t.fmt.tileBytes + c % 128)).toNat
  else t.zp

/-- Rows and columns as the loader delivers them (R130). -/
def Tensor.vRows (t : Tensor) : Nat := if t.transpose then t.cols else t.rows
def Tensor.vCols (t : Tensor) : Nat := if t.transpose then t.rows else t.cols

/-- The stored place of a delivered element. -/
def Tensor.place (t : Tensor) (r c : Nat) : Nat × Nat := if t.transpose then (c, r) else (r, c)

/-- The exact value of a stored element (R80, R102); zero beyond the tensor (R128). -/
def Tensor.storedValue (t : Tensor) (v : View) (r c : Nat) : XVal :=
  if t.rows ≤ r ∨ t.cols ≤ c then .fin false 0 1
  else if t.fmt.isMx then mxScaled t.fmt (t.sideAt v r c) (t.codeAt v r c)
  else t.fmt.plainValue (if t.fmt.isInt then t.zpAt v r c else 0) (t.codeAt v r c)

/-- The exact value of a delivered element. -/
def Tensor.value (t : Tensor) (v : View) (r c : Nat) : XVal :=
  let p := t.place r c
  t.storedValue v p.1 p.2

/-! ### Writing tensors (R95 to R99, R128) -/

/-- A byte of a packed list of codes of `bitsPer` bits (R81). -/
def packByte (code : Nat → Nat) (bitsPer i : Nat) : Byte :=
  let lo := 8 * i / bitsPer
  let hi := (8 * i + 7) / bitsPer
  let v := ((List.range (hi + 1 - lo)).map fun k => code (lo + k) * 2 ^ (k * bitsPer)).sum
  BitVec.ofNat 8 (v / 2 ^ (8 * i - lo * bitsPer))

/-- What a writer stores: the exact value of each element and OUT_ZP of each column. -/
structure Source where
  val : Nat → Nat → XVal
  zp  : Nat → Int

/-- The values of the block of an element, zeros beyond the tensor (R96). -/
def Tensor.blockVals (t : Tensor) (y : Nat → Nat → XVal) (r c : Nat) : List XVal :=
  (List.range 32).map fun k =>
    let r' := if t.blockAxis = 0 then r / 32 * 32 + k else r
    let c' := if t.blockAxis = 0 then c else c / 32 * 32 + k
    if t.rows ≤ r' ∨ t.cols ≤ c' then .fin false 0 1 else y r' c'

/-- The converted element at (row, column): code and clip flag; zero beyond the tensor (R128). -/
def Tensor.conv (t : Tensor) (src : Source) (r c : Nat) : Conv :=
  if t.rows ≤ r ∨ t.cols ≤ c then { code := 0, clip := false }
  else if t.fmt.isMx then
    ((convBlock t.fmt (t.blockVals src.val r c)).2)[if t.blockAxis = 0 then r % 32 else c % 32]?.getD
      { code := 0, clip := false }
  else convPlain t.fmt (src.zp c) (src.val r c)

/-- E_f of a block of BF16 codes (R86): the largest exponent field of those that are not specials, 0 counted as 1. -/
def blockExponent (codes : List Nat) : Nat :=
  ((codes.filterMap fun w => let e := w / 128 % 256; if e = 255 then none else some (max 1 e)).max?).getD 1

/-- Row and column of the first element that side byte `o` of a tile stands for (R127). An INT zero point stands for a column. -/
def Tensor.sideFor (t : Tensor) (p q o : Nat) : Nat × Nat :=
  let block := t.fmt.isMx || t.fmt == .bf16
  (128 * p + (if !block then 0 else if t.blockAxis = 0 then 32 * (o / 128) else o % 128),
   128 * q + (if !block then o % 128 else if t.blockAxis = 0 then o % 128 else 32 * (o / 128)))

/-- Side byte `o` of a tile after a write: `new` where its block or column meets the tensor, else as it was, since nothing of a block
beyond the tensor is written (R96, log entry 108). -/
def Tensor.sideOr (t : Tensor) (v : View) (p q o : Nat) (new : Byte) : Byte :=
  let rc := t.sideFor p q o
  if t.rows ≤ rc.1 ∨ t.cols ≤ rc.2 then v (t.tileAddr p q + t.fmt.tileBytes + o) else new

/-- The side byte that a writer stores at offset `o` of a tile's side data. -/
def Tensor.sideByte (t : Tensor) (src : Source) (p q o : Nat) : Byte :=
  let x := o % 128
  let r := (t.sideFor p q o).1
  let c := (t.sideFor p q o).2
  if t.fmt.isMx then BitVec.ofNat 8 (convBlock t.fmt (t.blockVals src.val r c)).1
  else if t.fmt = .bf16 then
    BitVec.ofNat 8 (blockExponent ((t.blockVals src.val r c).map fun y => (bf16Round y).1.toNat))
  else BitVec.ofNat 8 (intCode 8 (src.zp (128 * q + x)))

/-- The bytes of one tile; `v` is what the tile held. -/
def Tensor.tileOut (t : Tensor) (v : View) (src : Source) (p q : Nat) : List Byte :=
  let code (e : Nat) : Nat := (t.conv src (128 * p + tileRow e) (128 * q + tileCol e)).code
  (List.range t.fmt.tileBytes).map (packByte code t.fmt.bits)
    ++ (List.range t.sideBytes).map fun o => t.sideOr v p q o (t.sideByte src p q o)

/-- The writes of a whole tensor. -/
def Tensor.writes (t : Tensor) (v : View) (src : Source) : List (Nat × List Byte) :=
  t.tiles.map fun pq => (t.tileAddr pq.1 pq.2, t.tileOut v src pq.1 pq.2)

/-- The writes of a whole tensor whose codes are given: a move that changes no bit. -/
def Tensor.writesCodes (t : Tensor) (v : View) (code : Nat → Nat → Nat) : List (Nat × List Byte) :=
  t.tiles.map fun pq =>
    let at_ (e : Nat) : Nat :=
      let r := 128 * pq.1 + tileRow e
      let c := 128 * pq.2 + tileCol e
      if t.rows ≤ r ∨ t.cols ≤ c then 0 else code r c
    let blockCodes (o : Nat) : List Nat := (List.range 32).map fun k =>
      let r := 128 * pq.1 + (if t.blockAxis = 0 then 32 * (o / 128) + k else o % 128)
      let c := 128 * pq.2 + (if t.blockAxis = 0 then o % 128 else 32 * (o / 128) + k)
      if t.rows ≤ r ∨ t.cols ≤ c then 0 else code r c
    (t.tileAddr pq.1 pq.2,
      (List.range t.fmt.tileBytes).map (packByte at_ t.fmt.bits)
        ++ (List.range t.sideBytes).map fun o =>
          t.sideOr v pq.1 pq.2 o (if t.fmt = .bf16 then BitVec.ofNat 8 (blockExponent (blockCodes o)) else 0#8))

/-- The clips of a column (R98). -/
def Tensor.clips (t : Tensor) (src : Source) (c : Nat) : Nat :=
  ((List.range t.rows).filter fun r => (t.conv src r c).clip).length

/-! ### Where objects may lie (R480) -/

/-- Conditions of R480 on one extent: one space, in core SRAM one buffer of one core, in HBM below the capacity, and
wholly within an allocation. -/
def extentOk (usable : Nat) (alloc : List Range) (start len : Nat) : Bool :=
  decide (0 < len) &&
  (match spaceOf start, spaceOf (start + len - 1) with
    | some .hbm, some .hbm => decide (start + len ≤ usable)
    | some .bed, some .bed => true
    | some .core, some .core =>
      decide (start / 2 ^ 22 = (start + len - 1) / 2 ^ 22)
        && decide (bufferOf (start % 2 ^ 22) = bufferOf ((start + len - 1) % 2 ^ 22))
    | _, _ => false)
  && coveredBy alloc start len

/-- A tensor lies as R480 and R130 require. -/
def Tensor.lies (usable : Nat) (alloc : List Range) (t : Tensor) : Bool :=
  t.aligned
  && (match t.extents.head?, t.extents.getLast? with
    | some a, some z => decide (spaceOf a.1 = spaceOf (z.1 + z.2 - 1))
        && (spaceOf a.1 != some .core || decide (a.1 / 2 ^ 22 = (z.1 + z.2 - 1) / 2 ^ 22
          ∧ bufferOf (a.1 % 2 ^ 22) = bufferOf ((z.1 + z.2 - 1) % 2 ^ 22)))
    | _, _ => false)
  && t.extents.all fun e => extentOk usable alloc e.1 e.2

/-! ### Scatter/gather lists (R168) -/

/-- An entry of a list. -/
structure SgEntry where
  addr : Nat
  len  : Nat
deriving DecidableEq, Repr

/-- An entry from its 16 bytes; none where a reserved field is not zero or the length is 0. -/
def parseSg (mem : Bool) (bs : List Byte) : Option SgEntry :=
  let e : SgEntry := { addr := field bs 0 8, len := field bs 8 4 }
  if zeroAt bs 12 4 && decide (0 < e.len) && (!mem || decide (e.addr < 2 ^ 48)) && decide (bs.length = 16) then some e
  else none

/-- The entries of a list. -/
def readSg (v : View) (a n : Nat) (mem : Bool) : Option (List SgEntry) :=
  (List.range n).mapM fun i => parseSg mem (v.bytes (a + 16 * i) 16)

/-- The bytes that a list of extents names, in order. -/
def gather (v : View) (es : List SgEntry) : List Byte := es.flatMap fun e => v.bytes e.addr e.len

/-- Bytes laid over a list of extents in order. -/
def scatter : List SgEntry → List Byte → List (Nat × List Byte)
  | [], _ => []
  | e :: es, bs => (e.addr, bs.take e.len) :: scatter es (bs.drop e.len)

end Sys2Proof.Machine
end

