-- ==== Sys2Proof/Machine/Weir.lean ====
section
/-! DEFINITION. Weir (R191 to R216): lookups, shadows, and the row writes that open, prepare, commit, abort, revert and
free a commit group. -/

namespace Sys2Proof.Machine

/-! ### The version table -/

/-- A row as a read decodes it (R197). -/
def State.row (s : State) (r : Fin 17) : RowData := s.weir.rows[r].a

/-- One row write: both copies in one cycle (R197). -/
def State.writeRow (s : State) (r : Fin 17) (f : RowData → RowData) : State :=
  { s with weir := { s.weir with rows := s.weir.rows.set r (Row.of (f (s.row r))) } }

/-- A row is lost when its copies differ or a copy is uncorrectable (R197). -/
def State.rowLost (s : State) (r : Fin 17) : Bool :=
  let w := s.weir.rows[r]
  w.badA || w.badB || w.a != w.b

/-- The state of a slot. -/
def State.slot (s : State) (r : Fin 17) (k : Fin 8) : GroupState := (s.row r).slots[k]

/-- Set a slot's state. -/
def RowData.setSlot (d : RowData) (k : Fin 8) (g : GroupState) : RowData := { d with slots := d.slots.set k g }

/-- The group in a slot of a row. -/
def State.group? (s : State) (r : Fin 17) (k : Fin 8) : Option Group :=
  s.weir.groups.find? fun g => g.row == r && g.slot == k

/-- The group of a step. -/
def State.groupOf (s : State) (c : CtxId) (t : Step) : Option Group := t.slot.bind fun k => s.group? (rowOf c) k

/-- Change the group in a slot. -/
def State.modGroup (s : State) (r : Fin 17) (k : Fin 8) (f : Group → Group) : State :=
  { s with weir := { s.weir with groups := s.weir.groups.map fun g => if g.row == r && g.slot == k then f g else g } }

/-- The lowest FREE slot of a row. -/
def State.freeSlot (s : State) (r : Fin 17) : Option (Fin 8) := (List.finRange 8).find? fun k => s.slot r k == .free

/-- The slot of a row in a state. -/
def State.slotIn (s : State) (r : Fin 17) (g : GroupState) : Option (Fin 8) :=
  (List.finRange 8).find? fun k => s.slot r k == g

/-- Groups of a row that are OPEN or PREPARED. -/
def State.openIn (s : State) (r : Fin 17) : Nat :=
  ((List.finRange 8).filter fun k => s.slot r k == .open || s.slot r k == .prepared).length

/-- Groups OPEN or PREPARED over all rows (R214). -/
def State.openAll (s : State) : Nat := ((List.finRange 17).map s.openIn).sum

/-! ### Lookup (R194) -/

/-- A group's byte at an address, when it holds a copy of the page. -/
def Group.byte? (g : Group) (a : Nat) : Option Byte :=
  (g.copies.find? fun p => p.page == a / Config.pageBytes).map fun p => readCell p.data a

/-- Does a group hold a copy of a page? -/
def Group.holds (g : Group) (page : Nat) : Bool := g.copies.any fun p => p.page == page

/-- The byte that a group in a state holds at an address. -/
def State.heldIn (s : State) (st : GroupState) (a : Nat) : Option Byte :=
  (s.weir.groups.filter fun g => s.slot g.row g.slot == st).findSome? fun g => g.byte? a

/-- The committed view of one byte: the LAST copy, else the FOLDING copy, else the base copy (R194). -/
def State.committed (s : State) (a : Nat) : Byte :=
  (s.heldIn .last a).getD ((s.heldIn .folding a).getD (s.mem.base a))

/-- One byte as a command of a group reads it (R194): the group's copy, else the committed view. -/
def State.viewByte (s : State) (g : Option Group) (a : Nat) : Byte :=
  if isSram a then s.mem.base a else (g.bind fun g => g.byte? a).getD (s.committed a)

/-- Bytes in a view. -/
def State.viewBytes (s : State) (g : Option Group) (start len : Nat) : List Byte :=
  (List.range len).map fun i => s.viewByte g (start + i)

/-- Bytes in the committed view. -/
def State.committedBytes (s : State) (start len : Nat) : List Byte := s.viewBytes none start len

/-- The cells of a page in the committed view, for the creation copy. -/
def State.pageCells (s : State) (page : Nat) : List Host.Cell :=
  writeCells [] (page * Config.pageBytes) (s.committedBytes (page * Config.pageBytes) Config.pageBytes)

/-- Does a read of a range meet a word or line beyond correction: in the base copies that it uses (R139, R147)? -/
def State.readsPoison (s : State) (g : Option Group) (start len : Nat) : Bool :=
  s.mem.badLines.any fun p =>
    decide (p < start + len ∧ start < p + lineSize p)
      && (isSram p || !((g.any fun g => g.holds (p / Config.pageBytes))
        || (s.heldIn .last p).isSome || (s.heldIn .folding p).isSome))

/-! ### Pool accounting (R200, R201) -/

/-- Page shadows and frame-shadow pages of a group. -/
def Group.pageShadows (g : Group) : Nat := (g.copies.filter fun p => !p.frame).length
def Group.frameShadows (g : Group) : Nat := (g.copies.filter fun p => p.frame).length

/-- Pool pages a group has taken: a pool frame for each frame shadow, and whole pool frames for its page shadows. -/
def Group.taken (g : Group) : Nat := g.frameShadows + 15 * cdiv g.pageShadows 15

/-- Pool pages that the page shadows of a LAST or FOLDING group hold. -/
def Group.heldPages (g : Group) : Nat := 15 * cdiv g.pageShadows 15

/-- Pool pages (R201). -/
def State.poolPages (s : State) : Nat := s.cfg.poolGib * 262144

/-- Pool pages in use now. -/
def State.poolUsed (s : State) : Nat :=
  (s.weir.groups.map fun g =>
    match s.slot g.row g.slot with
    | .open | .prepared => if g.row = 16 then 0 else g.taken
    | .last => g.displaced + g.heldPages
    | .folding => g.heldPages
    | _ => 0).sum

/-- Displaced pages held by LAST groups (R213). -/
def State.poolPrior (s : State) : Nat :=
  (s.weir.groups.map fun g => if s.slot g.row g.slot = .last then g.displaced else 0).sum

/-! ### Folding (R203) -/

/-- A copy becomes the base of its page. -/
def Mem.foldPage (m : Mem) (p : PageCopy) : Mem :=
  let m' := m.clear (p.page * Config.pageBytes) Config.pageBytes
  { m' with cells := overlay m'.cells p.data, flips := m.flips }

/-- Fold copies into the base. -/
def State.foldPages (s : State) (ps : List PageCopy) : State := { s with mem := ps.foldl Mem.foldPage s.mem }

/-- The pages of a device frame. -/
def framePages (page : Nat) : List Nat := (List.range 15).map fun i => page / 15 * 15 + i

/-- Inline fold (R194): when LAST and FOLDING both hold a copy of a page, the FOLDING copy is folded first, with its
whole frame where it is a frame shadow. -/
def State.inlineFold (s : State) (r : Fin 17) (page : Nat) : State :=
  match s.slotIn r .last, s.slotIn r .folding with
  | some kl, some kf =>
    match s.group? r kl, s.group? r kf with
    | some gl, some gf =>
      if gl.holds page && gf.holds page then
        let whole := gf.copies.any fun p => p.page == page && p.frame
        let moved := gf.copies.filter fun p => if whole then p.page / 15 == page / 15 && p.frame else p.page == page
        let kept := gf.copies.filter fun p => !(moved.contains p)
        (s.foldPages moved).modGroup r kf fun g => { g with copies := kept }
      else s
    | _, _ => s
  | _, _ => s

/-! ### Writing (R194, R200) -/

/-- The page parts of an extent. -/
def pageParts : Nat → Nat → List Byte → List (Nat × List Byte)
  | 0, _, _ => []
  | fuel + 1, start, bs =>
    if bs.isEmpty then []
    else
      let n := Config.pageBytes - start % Config.pageBytes
      (start, bs.take n) :: pageParts fuel (start + n) (bs.drop n)

/-- The shadow of a page for a write of a command whose write extents are `exts`: taken when the group holds none.
Answers the reason of the detected fault where the write may not be made. -/
def State.shadowFor (s : State) (c : CtxId) (k : Fin 8) (exts : List (Nat × Nat)) (page : Nat) : State × Option Reason :=
  let r := rowOf c
  match s.group? r k with
  | none => (s, some .fault)
  | some g =>
    if s.slot r k != .open && s.slot r k != .prepared then (s, some .fault)
    else if g.holds page then (s, none)
    else if s.weir.groups.any fun o => o.row == r && o.slot != k
        && (s.slot r o.slot == .open || s.slot r o.slot == .prepared) && o.holds page then
      ({ s with weir := { s.weir with conflicts := satInc s.weir.conflicts } }, some .writeConflict)
    else
      let alloc := (s.ctx c).alloc
      let frame := covers exts (page / 15 * Config.frameBytes) Config.frameBytes
        && (framePages page).all (fun p => kindAt alloc (p * Config.pageBytes) == some .committed)
        && !((framePages page).any fun p => g.holds p)
      let s1 := if frame then (framePages page).foldl (fun t p => t.inlineFold r p) s else s.inlineFold r page
      let full := covers exts (page * Config.pageBytes) Config.pageBytes
      let fresh := if frame then (framePages page).map fun p => { page := p, frame := true, data := [] }
        else [{ page := page, frame := false, data := if full then [] else s1.pageCells page }]
      let g' := { g with copies := g.copies ++ fresh }
      if g.p < g'.taken ∨ g.c < g'.pageShadows then
        ({ s with weir := { s.weir with conflicts := satInc s.weir.conflicts } }, some .writeSet)
      else (s1.modGroup r k fun g => { g with copies := g.copies ++ fresh }, none)

/-- Write bytes of one page into the group's copy. -/
def State.putCopy (s : State) (c : CtxId) (k : Fin 8) (start : Nat) (bs : List Byte) : State :=
  s.modGroup (rowOf c) k fun g => { g with copies := g.copies.map fun p =>
    if p.page == start / Config.pageBytes then { p with data := writeCells p.data start bs } else p }

/-- A write of one page part or SRAM extent by a command of a group (R191, R193, R194). -/
def State.writePart (s : State) (c : CtxId) (k : Fin 8) (exts : List (Nat × Nat)) (part : Nat × List Byte) :
    State × Option Reason :=
  let alloc := (s.ctx c).alloc
  if isSram part.1 then
    if coveredBy alloc part.1 part.2.length then (s.putBase part.1 part.2, none) else (s, some .fault)
  else
    match kindAt alloc part.1 with
    | some .committed =>
      let r := s.shadowFor c k exts (part.1 / Config.pageBytes)
      if r.2.isSome then r else (r.1.putCopy c k part.1 part.2, none)
    | some .scratch | some .capture => (s.putBase part.1 part.2, none)
    | _ => (s, some .fault)

/-- The parts of a list of extents: HBM by page, SRAM as it stands. -/
def splitParts (ws : List (Nat × List Byte)) : List (Nat × List Byte) :=
  ws.flatMap fun w => if isSram w.1 then [w] else pageParts (w.2.length + 1) w.1 w.2

/-- Every write of a command, in order, up to the first that may not be made. -/
def State.writeParts (c : CtxId) (k : Fin 8) (exts : List (Nat × Nat)) :
    List (Nat × List Byte) → State → State × Option Reason
  | [], s => (s, none)
  | w :: ws, s =>
    let r := s.writePart c k exts w
    if r.2.isSome then r else State.writeParts c k exts ws r.1

/-- The writes of a command as extents with their bytes. -/
def State.writeAll (s : State) (c : CtxId) (k : Fin 8) (ws : List (Nat × List Byte)) : State × Option Reason :=
  State.writeParts c k (ws.map fun w => (w.1, w.2.length)) (splitParts ws) s

/-! ### Row writes (R196 to R205) -/

/-- A group takes a slot at its T0. -/
def State.openGroup (s : State) (g : Group) : State :=
  let s' := s.writeRow g.row fun d => d.setSlot g.slot .open
  { s' with weir := { s'.weir with groups := s'.weir.groups ++ [g] } }

/-- The group has every command complete and every check passed (R206). -/
def State.prepareGroup (s : State) (r : Fin 17) (k : Fin 8) : State := s.writeRow r fun d => d.setSlot k .prepared

/-- A commit (R202, R378): one row write. `version` is the new VERSION and `prior` the new PRIOR_VALID. The previous LAST
group starts to fold and gives its displaced pages back. -/
def State.commitGroup (s : State) (r : Fin 17) (k : Fin 8) (version : BitVec 64) (prior : Bool) : State :=
  let now := s.clk.now
  let old := s.slotIn r .last
  let s1 := s.writeRow r fun d =>
    let d1 : RowData := match old with
      | some o => RowData.setSlot d o GroupState.folding
      | none => d
    { RowData.setSlot d1 k GroupState.last with version := version, lastSlot := k, priorValid := prior }
  let s2 := match old with
    | some o => s1.modGroup r o fun g => { g with displaced := 0, walkFrom := now }
    | none => s1
  let s3 := s2.modGroup r k fun g => { g with displaced := if prior then g.frameShadows else 0 }
  { s3 with weir := { s3.weir with commits := satInc s3.weir.commits } }

/-- An abort (R203): one row write; the copies are no longer seen. -/
def State.abortGroup (s : State) (r : Fin 17) (k : Fin 8) : State :=
  let now := s.clk.now
  let s1 := (s.writeRow r fun d => d.setSlot k .aborting).modGroup r k fun g =>
    { g with copies := [], displaced := 0, walkFrom := now }
  { s1 with weir := { s1.weir with aborts := satInc s1.weir.aborts } }

/-- A revert (R205): one row write. -/
def State.revertGroup (s : State) (r : Fin 17) (version : BitVec 64) : State :=
  match s.slotIn r .last with
  | none => s
  | some k =>
    let now := s.clk.now
    let s1 := (s.writeRow r fun d => { d.setSlot k .aborting with version := version, priorValid := false }).modGroup r k
      fun g => { g with copies := [], displaced := 0, walkFrom := now }
    { s1 with weir := { s1.weir with reverts := satInc s1.weir.reverts } }

/-- The row write of a teardown (R337): every slot ABORTING, VERSION and PRIOR_VALID 0. A slot that is FREE stays FREE. -/
def State.dropRow (s : State) (r : Fin 17) : State :=
  let now := s.clk.now
  let n := ((List.finRange 8).filter fun k => s.slot r k == .open || s.slot r k == .prepared).length
  let s1 := s.writeRow r fun d =>
    { d with version := 0#64, priorValid := false,
             slots := d.slots.map fun g => if g = .free then .free else .aborting }
  { s1 with weir := { s1.weir with
      aborts := satAdd s1.weir.aborts n
      groups := s1.weir.groups.map fun g =>
        if g.row == r then { g with copies := [], displaced := 0, walkFrom := now } else g } }

/-- The bound of a walk (R203): 20 µs + 2 ns × P + 8 ns × C, with C 0 for an abort. -/
def walkBound (p c : Nat) : Nat := 20000 + 2 * p + 8 * c

/-- A walk ends (R203): the copies of a FOLDING group become base copies, and the slot becomes FREE. -/
def State.endWalk (s : State) (r : Fin 17) (k : Fin 8) : State :=
  let s1 : State := match s.group? r k with
    | some g => if s.slot r k = .folding then s.foldPages g.copies else s
    | none => s
  let s2 := s1.writeRow r fun d => d.setSlot k .free
  { s2 with weir := { s2.weir with groups := s2.weir.groups.filter fun g => !(g.row == r && g.slot == k) } }

end Sys2Proof.Machine
end

