-- ==== Sys2Proof/Machine/Place.lean ====
section
/-! DEFINITION. Where HBM groups lie (R144, R145, R159), and the error that a test arms (R162). -/

namespace Sys2Proof.Machine

/-- The group of a device address (R144). Weir's page map is the identity in this model (log entry 70). -/
def groupOfAddr (a : Nat) : Nat := a / 960

/-- The channel and local index of a group with every channel live (R145). -/
def homePlace (g : Nat) : Nat × Nat := ((g % 256 + 97 * (g / 256)) % 256, g / 256)

/-- The channel and local index of a group while some channels are lost (R159). -/
def placeGroup (lost : List Nat) (g : Nat) : Nat × Nat :=
  let h := homePlace g
  let n := lost.length
  let q := 4194304 - n * 16384
  let down := (List.range 256).filter lost.contains
  let live := (List.range 256).filter fun c => !lost.contains c
  match down.findIdx? (· == h.1) with
  | some k =>
    let j := k * q + h.2
    (live.getD (j % (256 - n)) 0, q + j / (256 - n))
  | none => h

/-- Is a physical group number valid (R145)? -/
def State.groupValid (s : State) (g : Nat) : Bool := decide (g < (256 - s.lostChannels) * 4194304)

/-- The groups that extents of HBM touch. -/
def groupsTouched (exts : List (Nat × Nat)) : List Nat :=
  exts.flatMap fun e =>
    if e.2 = 0 ∨ isSram e.1 then []
    else (List.range ((e.1 + e.2 - 1) / 960 + 1 - e.1 / 960)).map fun i => e.1 / 960 + i

/-- The data line of a group that an extent touches first. -/
def lineIn (g : Nat) (exts : List (Nat × Nat)) : Nat :=
  match exts.find? fun e => decide (e.1 < (g + 1) * 960 ∧ g * 960 < e.1 + e.2) with
  | some e => (max e.1 (g * 960) - g * 960) / 64
  | none => 0

/-- The armed error goes into a write when the write reaches its channel: into the check line, or into the first data line written of the
first such group; the register then clears (R162; DESIGN CHOICE, log entry 77). -/
def State.injectWrite (s : State) (exts : List (Nat × Nat)) : State :=
  let w := (s.hbm.inject.toNat / 256) % 4
  if w = 0 then s
  else
    match (groupsTouched exts).find? fun g => (placeGroup s.hbm.mapped g).1 == s.hbm.inject.toNat % 256 with
    | none => s
    | some g =>
      let k := g * 16 + (if s.hbm.inject.getLsbD 10 then 15 else lineIn g exts)
      { s with
        hbm := { s.hbm with inject := 0#32 }
        mem := { s.mem with flips := (k, w) :: s.mem.flips.filter fun f => f.1 != k } }

end Sys2Proof.Machine
end

