-- ==== Sys2Proof/Machine/Net.lean ====
section
/-! DEFINITION. Sending and receiving over OXT flows (R272 to R281) and reporting suspicions (R287): the operations
that the collective engine, mirroring, fetching and the step machinery share. -/

namespace Sys2Proof.Machine

/-- Packets of a message: at most 8,192 payload bytes each, and one for an empty message (R272). -/
def pktCount (p : OxtPkt) : Nat := max 1 (cdiv p.payload.length 8192)

/-- A flow as it opens (R278): credit 16, no packet sent, generations unknown. -/
def Flow.fresh (k : FlowKey) : Flow where
  key := k
  nextPsn := 0#32
  acked := 0xFFFFFFFF#32
  credit := 16
  unacked := []
  held := []
  retx := 0
  progress := 0
  wait := none
  failed := false
  peerGen := 0#16
  expect := 0#32
  recorded := none
  rxUnacked := 0
  rxOldest := 0
  lastNack := none
  dest := none

/-- The state of a flow. -/
def State.flow (s : State) (k : FlowKey) : Flow := (s.fab.flows.find? fun f => f.key == k).getD (Flow.fresh k)

/-- Replace a flow. -/
def State.setFlow (s : State) (f : Flow) : State :=
  { s with fab := { s.fab with flows := f :: s.fab.flows.filter fun g => g.key != f.key } }

/-- The port that carries a flow: its own while up, else the next live port in ascending order, wrapping (R275). -/
def State.flowPort (s : State) (n : Fin 8) : Option (Fin 8) :=
  ((List.finRange 8).map fun i => n + i).find? fun p => decide (2 ≤ s.fab.ports[p].state)

/-- The local address of the device (R273). -/
def State.ipv6 (s : State) : BitVec 128 :=
  s.cfg.fabAddr[0] ++ s.cfg.fabAddr[1] ++ s.cfg.fabAddr[2] ++ s.cfg.fabAddr[3]

/-- The UDP source port of a flow (R273). -/
def oxtSrcPort (f src dst : Nat) : BitVec 16 := BitVec.ofNat 16 (0xC000 + f * 2048 + (src ^^^ dst) % 2048)

/-- The packets a receiver grants (R278): 128, and 0 while the command that the flow's last message names has been admitted
and has not started. -/
def State.grant (s : State) (w : Flow) : Nat :=
  match w.dest.bind s.cmd? with
  | some k => if k.state = .waiting ∨ k.state = .ready then 0 else 128
  | none => 128

/-- An OXT packet of a job context to a peer, with the header fields that R276 draws from the context and the flow. -/
def State.oxtPkt (s : State) (c : CtxId) (peer : Nat) (f : Fin 8) (typ cls : Nat) (psn : BitVec 32) : OxtPkt :=
  let x := s.ctx c
  let w := s.flow ⟨c, peer, f⟩
  let rank := x.job.rank.getD 0
  { good := true, port := (s.flowPort f).getD f, srcAddr := s.ipv6, srcPort := oxtSrcPort f.val rank peer,
    ver := 1#4, typ := BitVec.ofNat 4 typ, cls := BitVec.ofNat 4 cls, flow := f, retx := false,
    srcRank := BitVec.ofNat 14 rank, dstRank := BitVec.ofNat 14 peer, job := x.job.tag, epoch := x.job.epoch,
    srcGen := x.regs.gen, dstGen := w.peerGen, psn := psn, ackPsn := w.expect - 1#32,
    credit := BitVec.ofNat 16 (s.grant w), step := 0#32, cmd := 0#12, reason := 0#4, slot := 0#16, offset := 0#32,
    payload := [] }

/-- May a fenced or unranked context send (R286)? -/
def Ctx.maySend (x : Ctx) : Bool := x.state == .active && !x.fenced && x.job.tag != 0#32 && x.job.rank.isSome

/-- Packets of a flow that are outstanding. -/
def Flow.outstanding (f : Flow) : Nat := (f.unacked.map pktCount).sum

/-- Does the credit let a message leave? A message larger than the whole credit leaves on an empty flow. -/
def Flow.fits (f : Flow) (p : OxtPkt) : Bool :=
  decide (f.outstanding + pktCount p ≤ f.credit) || (f.unacked.isEmpty && decide (0 < f.credit))

/-- Hand a message to its flow: it takes the next PSNs, and leaves at once while the credit lasts (R278). -/
def State.sendOnFlow (s : State) (c : CtxId) (p : OxtPkt) : State :=
  let w := s.flow ⟨c, p.dstRank.toNat, p.flow⟩
  let p := { p with psn := w.nextPsn }
  let w1 := { w with nextPsn := w.nextPsn + BitVec.ofNat 32 (pktCount p) }
  if w.failed then s
  else if w.held.isEmpty && w.fits p then
    (s.setFlow { w1 with unacked := w.unacked ++ [p]
                         progress := if w.unacked.isEmpty then s.clk.now else w.progress }).emit (.oxt p)
  else s.setFlow { w1 with held := w.held ++ [p] }

/-- Send messages that waited for credit, oldest first. -/
def State.releaseHeld (s : State) (k : FlowKey) : State :=
  let w := s.flow k
  w.held.foldl (fun t p =>
    let v := t.flow k
    if v.fits p && decide (v.held.head? = some p) then
      (t.setFlow { v with unacked := v.unacked ++ [p], held := v.held.drop 1
                          progress := if v.unacked.isEmpty then t.clk.now else v.progress }).emit (.oxt p)
    else t) s

/-- An ACK of everything received in order (R278). -/
def State.sendAck (s : State) (k : FlowKey) : State :=
  let w := s.flow k
  (s.setFlow { w with rxUnacked := 0 }).emit (.oxt (s.oxtPkt k.ctx k.peer k.flow 1 0 0#32))

/-- A command has started: the flows that wait for it are granted credit again (R278). -/
def State.grantFlows (s : State) (r : CmdRef) : State :=
  (s.fab.flows.filter fun f => f.dest == some r).foldl (fun t f => t.sendAck f.key) s

/-- Send a DATA message of a class on a flow. `tweak` fills the fields that the message itself decides. -/
def State.sendData (s : State) (c : CtxId) (peer : Nat) (f : Fin 8) (cls : Nat) (tweak : OxtPkt → OxtPkt) : State :=
  if (s.ctx c).maySend && decide (peer ≠ (s.ctx c).job.rank.getD 0) then
    s.sendOnFlow c (tweak (s.oxtPkt c peer f 0 cls 0#32))
  else s

/-- A message of at most 1 MiB, number `i` of a command to one peer, goes on flow (i + DST_RANK) mod 8 (R279). -/
def flowFor (i peer : Nat) : Fin 8 := ⟨(i + peer) % 8, Nat.mod_lt _ (by decide)⟩

/-- The pieces of a transfer: at most 1 MiB each, with their offsets. -/
def pieces (size : Nat) : Nat → Nat → List Byte → List (Nat × List Byte)
  | 0, _, _ => []
  | fuel + 1, off, bs =>
    if bs.isEmpty then [] else (off, bs.take size) :: pieces size fuel (off + size) (bs.drop size)

/-- The messages of a transfer. -/
def messages (bs : List Byte) : List (Nat × List Byte) :=
  if bs.isEmpty then [(0, [])] else pieces 1048576 (bs.length + 1) 0 bs

/-- Send a transfer of a command to one peer as messages (R279). -/
def State.sendTransfer (s : State) (c : CtxId) (peer cls : Nat) (tweak : OxtPkt → OxtPkt) (bs : List Byte) : State :=
  (messages bs).zipIdx.foldl (fun t m =>
    t.sendData c peer (flowFor m.2 peer) cls fun p =>
      { tweak p with offset := BitVec.ofNat 32 m.1.1, payload := m.1.2 }) s

/-- The ranks of a context's current epoch other than its own. -/
def Ctx.otherRanks (x : Ctx) : List Nat := (List.range x.job.count).filter fun r => x.job.rank != some r

/-- The abort message of R51 for a step, to every other rank of the epoch. -/
def State.sendAborts (s : State) (c : CtxId) (step : BitVec 64) : State :=
  (s.ctx c).otherRanks.foldl (fun t r =>
    if (t.ctx c).maySend then
      t.sendOnFlow c { t.oxtPkt c r (flowFor 0 r) 4 4 0#32 with step := step.setWidth 32
                                                                slot := BitVec.ofNat 16 ((t.ctx c).job.rank.getD 0) }
    else t) s

/-- The kinds of suspicion (R287), coded 1 to 6 in its order. -/
inductive Suspicion where
  | riffle
  | timeout
  | flowFailed
  | epochAhead
  | pauseStorm
  | fencedSeen
deriving DecidableEq, Repr

/-- The code of a kind. -/
def Suspicion.code : Suspicion → Nat
  | .riffle => 1
  | .timeout => 2
  | .flowFailed => 3
  | .epochAhead => 4
  | .pauseStorm => 5
  | .fencedSeen => 6

/-- FAB_SUSPECT_LAST (R289): bits 31:28 the kind, bits 27:14 context and port, bits 13:0 the rank. The split of bits
27:14 is the model's: the port in bits 16:14 and the context in bits 20:17 (DESIGN CHOICE, log entry 31). -/
def suspectWord (k : Suspicion) (ctx port rank : Nat) : Nat := k.code * 2 ^ 28 + ctx * 2 ^ 17 + port * 2 ^ 14 + rank

/-- Report a suspicion to both hosts (R287): FAB_SUSPECT_LAST, a signature record of KIND 4 and vector 1. -/
def State.suspect (s : State) (k : Suspicion) (c : Option CtxId) (rank portOrFlow epoch : Nat) : State :=
  let ctx := (c.map fun i => i.val).getD 0
  let w := suspectWord k ctx portOrFlow rank
  let s1 := { s with fab := { s.fab with suspectLast := BitVec.ofNat 32 w, suspects := satInc s.fab.suspects } }
  let s2 := s1.record { Sig.empty 4 with
    ctx := c.map fun i => (i.val, (s.ctx i).regs.gen.toNat)
    suspect := some (k.code, rank, portOrFlow, epoch) }
  (s2.msixBoth 1).trace 3 0x31 ctx w

end Sys2Proof.Machine
end

