-- ==== Sys2Proof/Machine/Reduce.lean ====
section
/-! DEFINITION. Lane values and reductions (R102, R105 to R108), which the vector unit and the collective engine share. -/

namespace Sys2Proof.Machine

/-! ### Values of a lane -/

/-- A value of a lane: 32 raw bits, and whether they are an INT32 that has not entered floating-point arithmetic
(R102). -/
structure Lane where
  word  : BitVec 32
  isInt : Bool
deriving DecidableEq, Repr

/-- An FP32 lane. -/
def Lane.ofFp (w : BitVec 32) : Lane := ⟨w, false⟩

/-- The FP32 value of a lane: an INT32 is rounded when it enters floating-point arithmetic (R102). -/
def Lane.fp (l : Lane) : BitVec 32 := if l.isInt then fp32Round (.ofInt l.word.toInt) else l.word

/-- The exact value of a lane, as a writer takes it. -/
def Lane.val (l : Lane) : XVal := if l.isInt then .ofInt l.word.toInt else fp32Value l.word

/-! ### Reductions (R105, R106) -/

/-- Node of argmax or argmin on (lane, index): a NaN wins over every value; equal values and NaNs go to the lower index,
which is the left operand. -/
def argNode (better : XVal → XVal → Bool) (l r : BitVec 32 × Nat) : BitVec 32 × Nat :=
  let x := fp32Value l.1
  let y := fp32Value r.1
  if x.isNan then l else if y.isNan then r else if better y x then r else l

/-- The result of a reduction over the lanes of a row or column, in ascending index order: the lane, and whether an INT32
sum saturated (R105). The result of argmax and argmin is the index (log entry 25). -/
def reduceLanes (op : Nat) (ls : List Lane) : Lane × Bool :=
  let fp (node : BitVec 32 → BitVec 32 → BitVec 32) : Lane × Bool :=
    (.ofFp ((treeT node (ls.map Lane.fp)).getD 0#32), false)
  let raw (node : BitVec 32 → BitVec 32 → BitVec 32) : Lane × Bool :=
    (⟨(treeT node (ls.map (·.word))).getD 0#32, true⟩, false)
  match op with
  | 0 => fp fpAdd
  | 1 =>
    let v := clampInt (-2147483648) 2147483647 ((ls.map fun l => l.word.toInt).sum)
    (⟨BitVec.ofInt 32 v.1, true⟩, v.2)
  | 2 => fp fpMax
  | 3 => fp fpMin
  | 4 => (⟨BitVec.ofNat 32 (((treeT (argNode fun y x => x.lt y) (ls.zipIdx.map fun p => (p.1.fp, p.2))).map (·.2)).getD 0), true⟩, false)
  | 5 => (⟨BitVec.ofNat 32 (((treeT (argNode fun y x => y.lt x) (ls.zipIdx.map fun p => (p.1.fp, p.2))).map (·.2)).getD 0), true⟩, false)
  | 6 => raw (· &&& ·)
  | 7 => raw (· ||| ·)
  | _ => raw (· ^^^ ·)

/-- FP32 sum of a list by the canonical tree. -/
def sumTree (ws : List (BitVec 32)) : BitVec 32 := (treeT fpAdd ws).getD 0#32

/-- FP32 maximum of a list by the canonical tree. -/
def maxTree (ws : List (BitVec 32)) : BitVec 32 := (treeT fpMax ws).getD 0#32

/-! ### Elements as lanes -/

/-- A tensor's element as a lane: INT32 raw, every other format converted to FP32. -/
def Tensor.lane32 (t : Tensor) (v : View) (r c : Nat) : Lane :=
  let r' := if t.vRows = 1 then 0 else r
  let c' := if t.vCols = 1 then 0 else c
  match t.fmt with
  | .int32 =>
    let p := t.place r' c'
    ⟨BitVec.ofNat 32 (t.codeAt v p.1 p.2), true⟩
  | _ => .ofFp (fp32Round (t.value v r' c'))

end Sys2Proof.Machine
end

