-- ==== Sys2Proof/Machine/Coll.lean ====
section
/-! DEFINITION. The collective engine (R244, R252 to R264, R483): descriptors, what each member sends to each other, what has
arrived, and the result of a command. -/

namespace Sys2Proof.Machine

/-! ### The descriptor (R252, R253) -/

/-- A collective descriptor. -/
structure CollDesc where
  op       : Nat
  group    : Nat
  redop    : Nat
  peer     : Nat
  queue    : Nat
  parts    : Nat
  cap      : Nat
  tcount   : Nat
  buf      : Nat
  depth    : Nat
  k        : Nat
  inA      : Nat
  outA     : Nat
  partList : Nat
  stage    : Nat
  table    : Nat
  routes   : Nat
  capture  : Nat
deriving DecidableEq, Repr

/-- A value that is in range when used and zero otherwise. -/
def usedRange (used : Bool) (lo hi x : Nat) : Bool := if used then decide (lo ≤ x ∧ x ≤ hi) else x == 0

/-- The field rules of R252, R253 and R260. -/
def CollDesc.ok (d : CollDesc) : Bool :=
  let pair := d.op == 7 || d.op == 8
  let moe := d.op == 5 || d.op == 6
  let reduces := d.op == 0 || d.op == 1
  decide (d.op ≤ 8) && decide (d.group < 64) && decide (d.redop ≤ 6)
  && (reduces || d.redop == 0)
  && usedRange pair 0 16383 d.peer && usedRange pair 0 15 d.queue
  && (if reduces then decide (d.parts ≤ 64) else d.parts == 0)
  && usedRange (d.op == 5) 1 65536 d.cap
  && (if d.op = 4 then decide (1 ≤ d.tcount ∧ d.tcount ≤ 65536) else moe || d.tcount == 0)
  && usedRange pair 1 (2 ^ 32 - 1) d.buf && usedRange pair 1 16 d.depth && usedRange moe 1 8 d.k
  && (!pair || decide (1 + cdiv 6080000 d.buf ≤ d.depth))
  && ([d.inA, d.outA, d.partList, d.stage, d.table, d.routes, d.capture].all fun a => decide (a < 2 ^ 48))
  && ((d.parts == 0) == (d.partList == 0))
  && ((d.inA != 0) == (d.parts == 0 && d.op != 4 && d.op != 8))
  && ((d.outA != 0) == (d.op != 4 && d.op != 7))
  && ((d.stage != 0) || !(reduces || d.op == 8))
  && ((d.table != 0) == (d.op == 4 || moe)) && ((d.routes != 0) == moe)

/-- A collective descriptor from its 128 bytes; none is a shape failure. -/
def parseColl (bs : List Byte) : Option CollDesc :=
  let d : CollDesc :=
    { op := field bs 1 1, group := field bs 2 1, redop := field bs 3 1, peer := field bs 4 2, queue := field bs 6 1,
      parts := field bs 7 1, cap := field bs 8 4, tcount := field bs 12 4, buf := field bs 16 4, depth := field bs 20 1,
      k := field bs 21 1, inA := field bs 32 8, outA := field bs 40 8, partList := field bs 48 8, stage := field bs 56 8,
      table := field bs 64 8, routes := field bs 72 8, capture := field bs 80 8 }
  if bs.length = 128 ∧ field bs 0 1 = 5 ∧ zeroAt bs 22 10 ∧ zeroAt bs 88 40 ∧ d.ok then some d else none

/-- A move of a PERMUTE table (R264). -/
structure Move where
  src  : Nat
  from_ : Nat
  dst  : Nat
  to_  : Nat
  len  : Nat
deriving DecidableEq, Repr

/-- A collective command with what it names read: tensors, the words of a dispatch table, the moves of a PERMUTE, the
members of its group in list order and the list position of this device. -/
structure CollJob where
  d       : CollDesc
  inT     : Option Tensor
  out     : Option Tensor
  parts   : List Tensor
  partDescs : List Nat
  stage   : Option Tensor
  routes  : Option Tensor
  capture : Option Tensor
  table   : List Nat
  moves   : List Move
  members : List Nat
  pos     : Option Nat
deriving DecidableEq, Repr

/-- A move from its 32 bytes (R264): source position, source address, destination position, destination address and
length, each little-endian, at offsets 0, 8, 4, 16 and 24 (DESIGN CHOICE, log entry 37: the spec gives no offsets). -/
def parseMove (bs : List Byte) : Move where
  src := field bs 0 4
  from_ := field bs 8 8
  dst := field bs 4 4
  to_ := field bs 16 8
  len := field bs 24 4

/-- An optional tensor: nothing at address 0. -/
def readTensor (v : View) (a : Nat) : Option (Option Tensor) :=
  if a = 0 then some none else (parseTensor (v.bytes a 32)).map some

/-- Read a collective command of a member list. -/
def readColl (v : View) (desc : Nat) (groups : List (List Nat)) (rank : Nat) : Option CollJob := do
  let d ← parseColl (v.bytes desc 128)
  let inT ← readTensor v d.inA
  let out ← readTensor v d.outA
  let addrs := (List.range d.parts).map fun i => leNat (v.bytes (d.partList + 8 * i) 8)
  let parts ← addrs.mapM fun a => parseTensor (v.bytes a 32)
  let stage ← readTensor v d.stage
  let routes ← readTensor v d.routes
  let capture ← readTensor v d.capture
  let members := groups.getD d.group []
  some { d := d, inT := inT, out := out, parts := parts, partDescs := addrs, stage := stage, routes := routes,
         capture := capture
         table := if d.op = 4 then [] else (List.range d.tcount).map fun i => leNat (v.bytes (d.table + 4 * i) 4)
         moves := if d.op = 4 then (List.range d.tcount).map fun i => parseMove (v.bytes (d.table + 32 * i) 32) else []
         members := members
         pos := members.findIdx? fun r => r == rank }

/-- The device's own contribution as a tensor shape: IN, or the shape of the parts (R483). -/
def CollJob.contrib (j : CollJob) : Option Tensor := j.inT.orElse fun _ => j.parts.head?

/-- Is the reduction bitwise? -/
def CollJob.bitwise (j : CollJob) : Bool := decide (4 ≤ j.d.redop)

/-- Elements of a tensor. -/
def Tensor.count (t : Tensor) : Nat := t.rows * t.cols

/-- Members G, the flattened length N and the shard length L (R254). The N of an ALL_GATHER is that of its OUT. -/
def CollJob.g (j : CollJob) : Nat := j.members.length
def CollJob.n (j : CollJob) : Nat :=
  ((if j.d.op = 2 then j.out else j.contrib).map Tensor.count).getD 0
def CollJob.l (j : CollJob) : Nat := cdiv (cdiv j.n j.g) 16 * 16

/-- The true length of a shard; it may be empty. -/
def CollJob.size (j : CollJob) (s : Nat) : Nat := min ((s + 1) * j.l) j.n - s * j.l

/-- Block results of a group beyond 128 (R255, R257). -/
def CollJob.blocks (j : CollJob) : Nat := if j.g ≤ 128 then 0 else cdiv j.g 128

/-- Bytes of STAGE that a reduction needs (R257). -/
def CollJob.stageNeed (j : CollJob) : Nat := (j.g + j.blocks) * j.l * 4

/-- Bytes of a tensor as its extents hold them. -/
def Tensor.bytesLen (t : Tensor) : Nat := (t.extents.map (·.2)).sum

/-- The tensors a command names. -/
def CollJob.tensors (j : CollJob) : List Tensor :=
  j.inT.toList ++ j.out.toList ++ j.parts ++ j.stage.toList ++ j.routes.toList ++ j.capture.toList

/-- The descriptors and tables a command names. -/
def CollJob.descExtents (j : CollJob) (desc : Nat) : List (Nat × Nat) :=
  [(desc, 128)] ++ (if j.d.parts = 0 then [] else [(j.d.partList, 8 * j.d.parts)])
  ++ ([j.d.inA, j.d.outA, j.d.stage, j.d.routes, j.d.capture] ++ j.partDescs).filterMap
      (fun a => if a = 0 then none else some (a, 32))
  ++ (if j.d.tcount = 0 then [] else [(j.d.table, (if j.d.op = 4 then 32 else 4) * j.d.tcount)])

/-- Do the formats go with REDOP (R483)? -/
def CollJob.formatsOk (j : CollJob) : Bool :=
  let ins := j.inT.toList ++ j.parts
  let float := fun (t : Tensor) => t.fmt == .fp32 || t.fmt == .bf16
  if j.d.op = 0 ∨ j.d.op = 1 then
    if j.d.redop = 1 then (ins ++ j.out.toList).all fun t => t.fmt == .int32
    else if j.bitwise then
      (ins.all fun t => t.fmt == .fp32 || t.fmt == .int32)
        && (j.out.toList.all fun t => (ins.head?.map fun i => i.fmt == t.fmt).getD false)
    else (ins ++ j.out.toList).all float
  else
    (ins ++ j.out.toList).all (fun t => float t || t.fmt == .int32)
      && (j.out.toList.all fun t => (j.inT.map fun i => i.fmt == t.fmt).getD true)

/-- The shape rules of R253 to R257, R262 and R483. -/
def CollJob.shapeOk (j : CollJob) : Bool :=
  j.formatsOk && (j.tensors.all fun t => !t.transpose)
  && (j.parts.all fun t => (j.parts.head?.map fun u => t.rows == u.rows && t.cols == u.cols && t.fmt == u.fmt).getD true)
  && (match j.d.op with
    | 0 => (j.out.map fun o => (j.contrib.map fun c => o.rows == c.rows && o.cols == c.cols).getD false).getD false
    | 1 => (j.out.map fun o => o.count == j.l).getD false
    | _ => true)
  && (match j.stage with
    | some t => if j.d.op = 8 then decide (j.d.depth * j.d.buf ≤ t.bytesLen) else decide (j.stageNeed ≤ t.bytesLen)
        || decide (1 < j.d.op)
    | none => true)
  && (match j.capture, j.out with
    | some c, some o => c.rows == o.rows && c.cols == o.cols && c.fmt == o.fmt
    | _, _ => true)
  && (j.d.op != 7 && j.d.op != 8 || (decide (j.d.peer < j.g) && j.pos != some j.d.peer))
  && (j.table.all fun w => w / 2 ^ 22 % 2 ^ 9 == 0)
  && (match j.routes, j.inT with
    | some r, some i => (r.fmt == .int32 || r.fmt == .fp32) && r.cols == 2 * j.d.k && (j.d.op != 5 || r.rows == i.rows)
    | some _, none => false
    | none, _ => true)
  && (j.moves.all fun m => decide (m.src < j.g ∧ m.dst < j.g ∧ 1 ≤ m.len))

/-! ### Element bytes -/

/-- The code of a tensor's element in row order. -/
def Tensor.codeOfIdx (t : Tensor) (v : View) (i : Nat) : Nat := t.codeAt v (i / t.cols) (i % t.cols)

/-- A lane of a code of a collective's tensor; bitwise reductions and INT32 take the word as it is. -/
def codeLane (f : Fmt) (raw : Bool) (w : Nat) : Lane :=
  if raw || f == .int32 then ⟨BitVec.ofNat 32 w, true⟩
  else if f = .bf16 then .ofFp (fp32Round (bf16Value (BitVec.ofNat 16 w)))
  else .ofFp (BitVec.ofNat 32 w)

/-- The operator of R105 for a REDOP. -/
def redopCode (r : Nat) : Nat := if r ≤ 3 then r else r + 2

/-- A reduction whose INT32 sum leaves 32 bits before the last level: R255 says both levels equal the whole tree, yet its
messages carry 4 bytes; the value is free (log entry 38). -/
def narrowed (r : Lane × Bool) : Lane :=
  if r.2 then ⟨Config.freeVec 0xE1 r.1.word 0#32 0#32, true⟩ else r.1

/-- Bytes of a contribution's element as it travels: IN's own, or 4 where local parts are reduced first. -/
def CollJob.eIn (j : CollJob) : Nat := if j.parts.isEmpty then ((j.contrib.map fun t => t.fmt.bits / 8).getD 4) else 4

/-- The bytes of element `i` of the device's contribution (R252, R256, R483). -/
def CollJob.elemBytes (j : CollJob) (v : View) (i : Nat) : List Byte :=
  match j.inT with
  | some t => leBytes (t.fmt.bits / 8) (t.codeOfIdx v i)
  | none => leBytes 4 (narrowed (reduceLanes (redopCode j.d.redop)
      (j.parts.map fun t => codeLane t.fmt j.bitwise (t.codeOfIdx v i)))).word.toNat

/-- The bytes of elements `[a, a + len)` of the contribution. -/
def CollJob.rangeBytes (j : CollJob) (v : View) (a len : Nat) : List Byte :=
  (List.range len).flatMap fun i => j.elemBytes v (a + i)

/-- The device's contribution to a shard. -/
def CollJob.shardBytes (j : CollJob) (v : View) (s : Nat) : List Byte := j.rangeBytes v (s * j.l) (j.size s)

/-- Lanes of bytes of `e` bytes an element. -/
def CollJob.lanes (j : CollJob) (e : Nat) (bs : List Byte) : List Lane :=
  let f : Fmt := if e = 2 then .bf16 else ((j.contrib.map (·.fmt)).getD .fp32)
  (List.range (bs.length / e)).map fun i => codeLane (if e = 4 ∧ f = .bf16 then .fp32 else f) j.bitwise (field bs (e * i) e)

/-- The code of a reduced lane in OUT's format (R256). -/
def outCode (t : Tensor) (l : Lane) : Nat := if l.isInt then l.word.toNat else (convPlain t.fmt 0 l.val).code

/-! ### Streams between members -/

/-- A segment of what one member sends another: 0 a contribution to a shard, 1 a block's result, 2 a reduced shard
(R254, R255). -/
structure Seg where
  phase : Nat
  shard : Nat
  len   : Nat
deriving DecidableEq, Repr

/-- Bytes of an element of OUT. -/
def CollJob.eOut (j : CollJob) : Nat := (j.out.map fun t => t.fmt.bits / 8).getD 4

/-- Members of a block. -/
def CollJob.blockSize (j : CollJob) (b : Nat) : Nat := min 128 (j.g - 128 * b)

/-- The shards that a position reduces at level 1 (R255). -/
def CollJob.levelShards (j : CollJob) (p : Nat) : List Nat :=
  if j.g ≤ 128 then [p] else (List.range j.g).filter fun s => decide (s % j.blockSize (p / 128) = p % 128)

/-- The position that holds a block's result of a shard. -/
def CollJob.levelOwner (j : CollJob) (b s : Nat) : Nat := 128 * b + s % j.blockSize b

/-- What position `q` sends to position `p`, in the order of the OFFSETs of one transfer: contributions, block results, the
reduced shard (DESIGN CHOICE, log entry 35). -/
def CollJob.segs (j : CollJob) (q p : Nat) : List Seg :=
  let one := if j.g ≤ 128 then [(⟨0, p, j.size p * j.eIn⟩ : Seg)]
    else if q / 128 = p / 128 then (j.levelShards p).map fun s => ⟨0, s, j.size s * j.eIn⟩ else []
  let two := if j.g ≤ 128 ∨ j.levelOwner (q / 128) p ≠ q then [] else [(⟨1, p, j.size p * 4⟩ : Seg)]
  let three := if j.d.op = 0 then [(⟨2, q, j.size q * j.eOut⟩ : Seg)] else []
  one ++ two ++ three

/-- The OFFSET of a segment. -/
def segOff : List Seg → Nat → Nat → Nat
  | [], _, _ => 0
  | s :: ss, ph, sh => if s.phase = ph ∧ s.shard = sh then 0 else s.len + segOff ss ph sh

/-- What has arrived from a position. -/
def Cmd.arrived (k : Cmd) (q : Nat) : List (Nat × List Byte) :=
  ((k.staged.find? fun s => s.phase == 0 && s.pos == q).map (·.pieces)).getD []

/-- The bytes of a range of a transfer, once all of them have arrived. -/
def pieceBytes (ps : List (Nat × List Byte)) (off len : Nat) : Option (List Byte) :=
  if covers (ps.map fun p => (p.1, p.2.length)) off len then
    some ((List.range len).map fun i =>
      ((ps.find? fun p => decide (p.1 ≤ off + i ∧ off + i < p.1 + p.2.length)).map fun p =>
        p.2.getD (off + i - p.1) 0#8).getD 0#8)
  else none

/-- The bytes of a segment from `q`, at this device's position `p`. -/
def CollJob.segBytes (j : CollJob) (k : Cmd) (q p phase shard len : Nat) : Option (List Byte) :=
  pieceBytes (k.arrived q) (segOff (j.segs q p) phase shard) len

/-- A contribution to a shard that position `p` reduces: its own from memory, another's as it arrived. -/
def CollJob.contribution (j : CollJob) (v : View) (k : Cmd) (p q s : Nat) : Option (List Lane) :=
  if q = p then some (j.lanes j.eIn (j.shardBytes v s))
  else (j.segBytes k q p 0 s (j.size s * j.eIn)).map (j.lanes j.eIn)

/-- T over contributions in list order, element by element (R255, R256). -/
def CollJob.reduce (j : CollJob) (len : Nat) (cs : List (List Lane)) : List (Lane × Bool) :=
  (List.range len).map fun i => reduceLanes (redopCode j.d.redop) (cs.map fun c => c.getD i (.ofFp 0#32))

/-- The result of level 1 for a shard at position `p` (R255): over the whole list, or over its block. -/
def CollJob.level1 (j : CollJob) (v : View) (k : Cmd) (p s : Nat) : Option (List (Lane × Bool)) :=
  let b := if j.g ≤ 128 then 0 else p / 128
  let m := if j.g ≤ 128 then j.g else j.blockSize b
  ((List.range m).mapM fun i => j.contribution v k p (128 * b + i) s).map (j.reduce (j.size s))

/-- The reduced shard of position `p` (R255). -/
def CollJob.reduced (j : CollJob) (v : View) (k : Cmd) (p : Nat) : Option (List (Lane × Bool)) :=
  if j.g ≤ 128 then j.level1 v k p p
  else
    ((List.range j.blocks).mapM fun b =>
      let q := j.levelOwner b p
      if q = p then (j.level1 v k p p).map fun r => r.map narrowed
      else (j.segBytes k q p 1 p (j.size p * 4)).map (j.lanes 4)).map (j.reduce (j.size p))

/-! ### Routing (R262, R263) -/

/-- A route: token, route index, expert position and slot, its place among the source's tokens for that slot, gate. -/
structure Route where
  token : Nat
  idx   : Nat
  pos   : Nat
  slot  : Nat
  place : Nat
  gate  : BitVec 32
deriving DecidableEq, Repr

/-- Whether a route is kept, over capacity, or to no expert. -/
inductive Routed where
  | kept (r : Route)
  | over
  | empty
deriving DecidableEq, Repr

/-- Expert slots of a position: every entry of the dispatch table at it, empty ones too. -/
def CollJob.slotsOf (j : CollJob) (p : Nat) : Nat :=
  (j.table.map fun w => if w % 2 ^ 14 = p then w / 2 ^ 14 % 2 ^ 8 + 1 else 0).foldl max 0

/-- CAP of a DISPATCH, or the tokens of each source in a slot of a COMBINE's input. -/
def CollJob.capOf (j : CollJob) : Nat :=
  if j.d.op = 5 then j.d.cap
  else ((j.inT.map (·.rows)).getD 0) / (max 1 (j.slotsOf (j.pos.getD 0) * j.g))

/-- Every route of this source in ascending token and route index. -/
def CollJob.routed (j : CollJob) (v : View) : List Routed :=
  match j.routes with
  | none => []
  | some t =>
    ((List.range t.rows).flatMap fun tok => (List.range j.d.k).map fun i => (tok, i)).foldl (fun acc ti =>
      let e := t.codeAt v ti.1 (2 * ti.2)
      let w := j.table.getD e (2 ^ 31)
      if w / 2 ^ 31 = 1 then acc ++ [.empty]
      else
        let p := w % 2 ^ 14
        let s := w / 2 ^ 14 % 2 ^ 8
        let n := (acc.filter fun r => match r with
          | .kept q => q.pos == p && q.slot == s
          | _ => false).length
        if j.capOf ≤ n then acc ++ [.over]
        else acc ++ [.kept { token := ti.1, idx := ti.2, pos := p, slot := s, place := n,
                             gate := BitVec.ofNat 32 (t.codeAt v ti.1 (2 * ti.2 + 1)) }]) []

/-- The routes that are kept. -/
def keptRoutes (rs : List Routed) : List Route := rs.filterMap fun r => match r with
  | .kept q => some q
  | _ => none

/-- Routes over capacity and routes to no expert (R262). -/
def dropCounts (rs : List Routed) : Nat × Nat :=
  ((rs.filter fun r => r == .over).length, (rs.filter fun r => r == .empty).length)

/-- Columns and element bytes of a token. -/
def CollJob.tokenBytes (j : CollJob) : Nat := ((j.inT.map fun t => t.cols * (t.fmt.bits / 8)).getD 0)

/-- The bytes of a row of IN. -/
def CollJob.rowBytes (j : CollJob) (v : View) (r : Nat) : List Byte :=
  match j.inT with
  | some t => (List.range t.cols).flatMap fun c => leBytes (t.fmt.bits / 8) (t.codeAt v r c)
  | none => []

/-! ### What leaves at the start, and what is awaited -/

/-- A part of a transfer: its OFFSET and bytes. -/
abbrev Part := Nat × List Byte

/-- Memory of a PERMUTE's sources is the committed view of version B (R264). -/
def moveBytes (committed : Nat → Nat → List Byte) (m : Move) : List Byte := committed m.from_ m.len

/-- Moves between two positions, in table order. -/
def CollJob.movesOf (j : CollJob) (q p : Nat) : List Move := j.moves.filter fun m => m.src == q && m.dst == p

/-- Parts at consecutive OFFSETs. -/
def layParts : Nat → List (List Byte) → List Part
  | _, [] => []
  | off, b :: bs => (off, b) :: layParts (off + b.length) bs

/-- What position `p` (this device) sends to position `q` when the command starts (R254). The IN of an ALL_GATHER is the member's shard, or
the whole tensor with its shard in place (DEDUCED, log entry 111). -/
def CollJob.initialParts (j : CollJob) (v : View) (committed : Nat → Nat → List Byte) (p q : Nat) : List Part :=
  match j.d.op with
  | 0 | 1 => ((j.segs p q).filter fun s => s.phase == 0).map fun s =>
      (segOff (j.segs p q) 0 s.shard, j.shardBytes v s.shard)
  | 2 => if j.inT.map Tensor.count = some j.n then [(0, j.shardBytes v p)]
    else [(0, j.rangeBytes v 0 (min (j.size p) ((j.inT.map Tensor.count).getD 0)))]
  | 3 => [(0, j.shardBytes v q)]
  | 4 => layParts 0 ((j.movesOf p q).map (moveBytes committed))
  | 5 =>
    let rs := keptRoutes (j.routed v)
    (List.range (j.slotsOf q)).map fun s =>
      (s * j.d.cap * j.tokenBytes,
        (rs.filter fun r => r.pos == q && r.slot == s).flatMap fun r => j.rowBytes v r.token)
  | 6 => [(0, (List.range (j.slotsOf p)).flatMap fun s => (List.range j.capOf).flatMap fun i =>
      j.rowBytes v (s * j.g * j.capOf + q * j.capOf + i))]
  | _ => []

/-- A slot's tokens of one source of a DISPATCH: the pieces from the slot's place on, up to the first shorter than a whole
message, which ends them (DESIGN CHOICE, log entry 39). -/
def slotPieces (ps : List (Nat × List Byte)) : Nat → Nat → Option (List Byte)
  | 0, _ => none
  | fuel + 1, off =>
    match ps.find? fun p => p.1 == off with
    | none => none
    | some p => if p.2.length < 1048576 then some p.2 else (slotPieces ps fuel (off + 1048576)).map (p.2 ++ ·)

/-- The tokens that position `q` sent to a slot of this device. -/
def CollJob.slotTokens (j : CollJob) (v : View) (k : Cmd) (p q s : Nat) : Option (List Byte) :=
  if q = p then
    some (((keptRoutes (j.routed v)).filter fun r => r.pos == p && r.slot == s).flatMap fun r => j.rowBytes v r.token)
  else slotPieces (k.arrived q) (k.staged.length + 65537) (s * j.d.cap * j.tokenBytes)

/-- Bytes awaited from position `q` by an operation whose length is known. -/
def CollJob.awaited (j : CollJob) (q p : Nat) : Nat :=
  match j.d.op with
  | 2 => j.size q * j.eOut
  | 3 => j.size p * j.eOut
  | 4 => ((j.movesOf q p).map (·.len)).sum
  | 6 => j.slotsOf q * j.capOf * j.tokenBytes
  | _ => 0

/-- A whole transfer from `q`: this device's own bytes, or those that have arrived. -/
def CollJob.transfer (j : CollJob) (v : View) (committed : Nat → Nat → List Byte) (k : Cmd) (p q : Nat) :
    Option (List Byte) :=
  if q = p then some ((j.initialParts v committed p p).flatMap (·.2)) else pieceBytes (k.arrived q) 0 (j.awaited q p)

/-! ### Results -/

/-- The codes that a command delivers, in OUT's row order, with the saturation flag; none while a contribution misses. -/
def CollJob.delivered (j : CollJob) (v : View) (committed : Nat → Nat → List Byte) (k : Cmd) (p : Nat) :
    Option (List Nat × Bool) :=
  match j.out with
  | none => some ([], false)
  | some o =>
    let codes := fun (e : Nat) (bs : List Byte) => (List.range (bs.length / e)).map fun i => field bs (e * i) e
    match j.d.op with
    | 0 => do
      let own ← j.reduced v k p
      let all ← (List.range j.g).mapM fun q =>
        if q = p then some (own.map fun l => outCode o l.1)
        else (j.segBytes k q p 2 q (j.size q * j.eOut)).map (codes j.eOut)
      some (all.flatten, own.any (·.2))
    | 1 => do
      let own ← j.reduced v k p
      some (own.map fun l => outCode o l.1, own.any (·.2))
    | 2 | 3 => do
      let all ← (List.range j.g).mapM fun q => j.transfer v committed k p q
      some (all.flatMap (codes j.eOut), false)
    | 5 => do
      let slots ← (List.range (j.slotsOf p)).mapM fun s => (List.range j.g).mapM fun q => do
        let bs ← j.slotTokens v k p q s
        let row := codes j.eOut bs
        some (row ++ List.replicate (j.d.cap * o.cols - row.length) 0)
      some ((slots.map List.flatten).flatten, false)
    | 6 => do
      let all ← (List.range j.g).mapM fun q => j.transfer v committed k p q
      let rs := j.routed v
      let toks := (List.range ((j.routes.map (·.rows)).getD 0)).flatMap fun tok =>
        (List.range o.cols).map fun c =>
          let terms := (List.range j.d.k).map fun i =>
            match (keptRoutes rs).find? fun r => r.token == tok && r.idx == i with
            | some r =>
              let w := field (all.getD r.pos []) (((r.slot * j.capOf + r.place) * o.cols + c) * j.eOut) j.eOut
              Lane.ofFp (fpMul r.gate (codeLane o.fmt false w).fp)
            | none => Lane.ofFp 0#32
          (convPlain o.fmt 0 (reduceLanes 0 terms).1.val).code
      some (toks, false)
    | 8 => (pieceBytes (k.arrived 0) 0 (o.count * j.eOut)).map fun bs => (codes j.eOut bs, false)
    | _ => some ([], false)

/-- The bytes a PERMUTE places at its destinations on this device: every move to it, in table order. -/
def CollJob.placed (j : CollJob) (v : View) (committed : Nat → Nat → List Byte) (k : Cmd) (p : Nat) :
    Option (List (Nat × List Byte)) := do
  let all ← (List.range j.g).mapM fun q => do
    let bs ← j.transfer v committed k p q
    some (scatter ((j.movesOf q p).map fun m => { addr := m.to_, len := m.len }) bs)
  some all.flatten

/-- Do two destination ranges of this device overlap (R264)? -/
def overlapping : List (Nat × Nat) → Bool
  | [] => false
  | a :: rest => (rest.any fun b => decide (a.1 < b.1 + b.2 ∧ b.1 < a.1 + a.2)) || overlapping rest

/-- The destination ranges of this device. -/
def CollJob.dests (j : CollJob) (p : Nat) : List (Nat × Nat) :=
  (j.moves.filter fun m => m.dst == p).map fun m => (m.to_, m.len)

/-- Writes of a list of codes to a tensor, zero beyond the list. -/
def codeWrites (v : View) (t : Tensor) (cs : List Nat) : List (Nat × List Byte) := t.writesCodes v fun r c => cs.getD (r * t.cols + c) 0

/-! ### Running on the device -/

/-- Read a collective command as its agent does. -/
def State.collJob (s : State) (c : CtxId) (t : Step) (k : Cmd) : Option CollJob :=
  let x := s.ctx c
  match readColl (s.viewByte (s.groupOf c t)) k.entry.desc ((x.job.groups.map (·.2)).getD []) (x.job.rank.getD 0xFFFF) with
  | none => none
  | some j => if j.shapeOk then some j else none

/-- The committed view as PERMUTE reads it. -/
def State.commitView (s : State) : Nat → Nat → List Byte := fun a n => s.committedBytes a n

/-- The view of a step. -/
def State.stepView (s : State) (c : CtxId) (t : Step) : View := s.viewByte (s.groupOf c t)

/-- Send parts of a command's transfer to a member as messages of at most 1 MiB (R279); `n` counts the messages already
sent to it. -/
def State.sendParts (s : State) (c : CtxId) (t : Step) (idx peer pos cls : Nat) (n : Nat) (parts : List Part) : State :=
  ((parts.flatMap fun p => (messages p.2).map fun m => (p.1 + m.1, m.2)).zipIdx).foldl (fun u m =>
    u.sendData c peer (flowFor (n + m.2) peer) cls fun p =>
      { p with step := t.hdr.step.setWidth 32, cmd := BitVec.ofNat 12 idx, slot := BitVec.ofNat 16 pos,
               offset := BitVec.ofNat 32 m.1.1, payload := m.1.2 }) s

/-- A marker of a command: 1 block results sent, 2 reduced shard sent, 8 a SEND's buffer sent (its number in `pos`), 9 its
credit returned. -/
def Cmd.marked (k : Cmd) (phase : Nat) : Bool := k.staged.any fun s => s.phase == phase

/-- Set a marker. -/
def Cmd.mark (k : Cmd) (phase pos : Nat) : Cmd :=
  { k with staged := k.staged ++ [{ phase := phase, shard := 0, pos := pos, pieces := [] }] }

/-- Stop or start the wait for a peer: waiting time is not running time (R46, R51). -/
def Cmd.setWait (k : Cmd) (now : Ns) (wait : Bool) : Cmd :=
  if wait then (if k.waitSince.isSome then k else { k with ran := k.runTime now, waitSince := some now })
  else if k.waitSince.isSome then { k with since := now, waitSince := none } else k

/-- Has everything arrived that the result needs? -/
def CollJob.ready (j : CollJob) (v : View) (committed : Nat → Nat → List Byte) (k : Cmd) (p : Nat) : Bool :=
  (j.delivered v committed k p).isSome && (j.d.op != 4 || (j.placed v committed k p).isSome)

/-- What the engine does as contributions arrive: block results and reduced shards leave as soon as they are computed, and
the wait for peers ends with the last contribution (R51, R254, R255). -/
def State.collAdvance (s : State) (r : CmdRef) : State :=
  match s.step? r, s.cmd? r with
  | some t, some k =>
    match s.collJob r.ctx t k with
    | none => s
    | some j =>
      match j.pos with
      | none => s
      | some p =>
        let v := s.stepView r.ctx t
        let s1 : State :=
          if (j.d.op = 0 ∨ j.d.op = 1) ∧ !k.marked 1 ∧ 128 < j.g then
            match (j.levelShards p).mapM fun sh => (j.level1 v k p sh).map fun l => (sh, l) with
            | none => s
            | some ls =>
              (ls.foldl (fun u sl =>
                if sl.1 = p then u
                else u.sendParts r.ctx t r.idx (j.members.getD sl.1 0) p 0 64
                  [(segOff (j.segs p sl.1) 1 sl.1, sl.2.flatMap fun l => leBytes 4 (narrowed l).word.toNat)]) s).modCmd r
                fun k => k.mark 1 0
          else s
        let s2 : State :=
          if j.d.op = 0 ∧ !k.marked 2 then
            match j.reduced v k p, j.out with
            | some l, some o =>
              let bs := l.flatMap fun x => leBytes j.eOut (outCode o x.1)
              ((List.range j.g).foldl (fun u q =>
                if q = p then u
                else u.sendParts r.ctx t r.idx (j.members.getD q 0) p 0 128 [(segOff (j.segs p q) 2 p, bs)]) s1).modCmd r
                fun k => k.mark 2 0
            | _, _ => s1
          else s1
        if j.d.op = 7 then s2
        else s2.modCmd r fun k => k.setWait s.clk.now (k.state == .running && !(j.ready v s.commitView k p))
  | _, _ => s

/-- Buffers of a stage queue that this step's SENDs hold: sent and their credit not returned (R260). -/
def State.heldBuffers (s : State) (c : CtxId) (t : Step) (peer queue : Nat) : List Nat :=
  t.cmds.flatMap fun k =>
    if engineKind k.entry.engine = 5 ∧ !k.marked 9 then
      match s.collJob c t k with
      | some j => if j.d.op = 7 ∧ j.d.peer = peer ∧ j.d.queue = queue then
          (k.staged.filter fun x => x.phase == 8).map (·.pos) else []
      | none => []
    else []

/-- A SEND places its buffer when it holds a credit, and waits for one otherwise, leaving its engine to other commands
(R260, R261). -/
def State.sendBuffer (s : State) (r : CmdRef) (t : Step) (j : CollJob) : State :=
  let held := s.heldBuffers r.ctx t j.d.peer j.d.queue
  match (List.range j.d.depth).find? fun b => !(held.contains b) with
  | some b =>
    (s.sendParts r.ctx t r.idx (j.members.getD j.d.peer 0) b 1 0
      [(0, j.rangeBytes (s.stepView r.ctx t) 0 ((j.inT.map Tensor.count).getD 0))]).modCmd r fun k => k.mark 8 b
  | none => s.modCmd r fun k =>
      { k with state := .suspended, ran := k.runTime s.clk.now, waitSince := some s.clk.now }

/-- A collective command starts: what it contributes leaves, and it waits for what it needs (R51, R254, R257). A replay
communicates nothing (R241). -/
def State.collStart (s0 : State) (r : CmdRef) : State :=
  let s := s0.grantFlows r
  match s.step? r, s.cmd? r with
  | some t, some k =>
    if t.hdr.mode = 4 ∨ engineKind k.entry.engine ≠ 5 then s
    else match s.collJob r.ctx t k with
      | none => s
      | some j =>
        match j.pos with
        | none => s
        | some p =>
          if j.d.op = 7 then s.sendBuffer r t j
          else
            let v := s.stepView r.ctx t
            let s1 := (List.range j.g).foldl (fun u q =>
              if q = p then u
              else u.sendParts r.ctx t r.idx (j.members.getD q 0) p 0 0 (j.initialParts v s.commitView p q)) s
            s1.collAdvance r
  | _, _ => s

/-- A suspended collective command resumes: a SEND that has not placed its buffer tries again, any other waits for what is
still missing (R259). -/
def State.collResume (s : State) (r : CmdRef) : State :=
  match s.step? r, s.cmd? r with
  | some t, some k =>
    if t.hdr.mode = 4 ∨ engineKind k.entry.engine ≠ 5 then s
    else match s.collJob r.ctx t k with
      | some j => if j.d.op = 7 then (if k.marked 8 then s else s.sendBuffer r t j) else s.collAdvance r
      | none => s
  | _, _ => s

/-- Has every packet of a command been acknowledged (R279)? -/
def State.sentAcked (s : State) (r : CmdRef) (t : Step) : Bool :=
  s.fab.flows.all fun f => f.key.ctx != r.ctx || (f.unacked ++ f.held).all fun p =>
    !(p.typ == 0#4 && decide (p.cls.toNat ≤ 1) && p.step == t.hdr.step.setWidth 32 && p.cmd == BitVec.ofNat 12 r.idx)

end Sys2Proof.Machine
end

