-- ==== Sys2Proof/Machine/Steps.lean ====
section
/-! DEFINITION. The life of a step once admitted: engines choosing commands, aborts with what they take with them, and
the commit (R37 to R47, R124, R197 to R207, R219, R329, R333). -/

namespace Sys2Proof.Machine

/-! ### Engines choose (R46, R47, R333) -/

/-- Absolute deadline of a command. -/
def Step.deadline (t : Step) (k : Cmd) : Ns := t.t0 + k.entry.deadline

/-- Absolute release of a command. -/
def Step.release (t : Step) (k : Cmd) : Ns := t.t0 + k.entry.release

/-- The engine is in the scope of a running rung below the device rungs (R369), or quarantined (R374). -/
def State.engineBlocked (s : State) (e : Engine) : Bool :=
  (s.rcv.quarantines.any fun q => q.engine == e)
  || s.rcv.rungs.any fun r =>
    match r.scope with
    | .engine f => f == e
    | .core n => e == .matrix n || e == .vector n
    | .cluster n =>
      match e with
      | .matrix m | .vector m => m / 2 == n
      | .update m => m == n
      | _ => false
    | .region g => s.engineRegion e == some g
    | .warm | .cold => true

/-- An engine choice: the command with its absolute deadline. -/
structure Choice where
  ref : CmdRef
  dl  : Ns
deriving DecidableEq, Repr

/-- Earliest absolute deadline first, then context number, then command index (R47). -/
def Choice.le (a b : Choice) : Bool :=
  decide (a.dl < b.dl)
  || (a.dl == b.dl && (decide (a.ref.ctx < b.ref.ctx)
    || (a.ref.ctx == b.ref.ctx && decide (a.ref.idx ≤ b.ref.idx))))

/-- Every command that could run now, in the order of R47. -/
def State.ready (s : State) : List Choice :=
  let cs := allCtx.flatMap fun c =>
    (s.ctx c).steps.flatMap fun t =>
      t.cmds.zipIdx.filterMap fun p =>
        if p.1.waitSince = none ∧ (p.1.state = .ready ∨ p.1.state = .suspended) then
          some { ref := { ctx := c, step := t.uid, idx := p.2 }, dl := t.deadline p.1 }
        else none
  cs.mergeSort Choice.le

/-- The gradient scale that an update command reads at its start (R226, R228): 1.0 where GSCALE_ADDR is 0. -/
def State.scaleAt (s : State) (c : CtxId) (t : Step) (k : Cmd) : Reg :=
  let g := s.groupOf c t
  let a := leNat (s.viewBytes g (k.entry.desc + 8) 8)
  if a = 0 then 0x3F800000#32 else BitVec.ofNat 32 (leNat (s.viewBytes g a 4))

/-- Start or resume a command on its engine. -/
def State.startCmd (s : State) (r : CmdRef) : State :=
  match s.step? r, s.cmd? r with
  | some t, some k =>
    let ev := if k.state = .suspended then 4 else 1
    let scale := if engineKind k.entry.engine = 4 ∧ k.gscale = none then some (s.scaleAt r.ctx t k) else k.gscale
    let s1 := (s.modCmd r fun k => { k with state := .running, since := s.clk.now, gscale := scale }).trace 0 ev r.ctx.val
      (k.traceArg r.idx)
    if k.state = .suspended then s1.collResume r else s1.collStart r
  | _, _ => s

/-- Every idle engine takes the first command that is ready for it (R333). -/
def State.dispatch (s : State) : State :=
  s.ready.foldl (fun t ch =>
    match t.cmd? ch.ref with
    | some k =>
      if (t.running? k.entry.engine).isNone && !t.engineBlocked k.entry.engine then t.startCmd ch.ref else t
    | none => t) s

/-! ### Step ends -/

/-- Move the fields of a step's end into an entry (R329). -/
def Step.entry (t : Step) (code : Code) (kind : Nat) : Entry64 where
  seq := t.seq.toNat
  code := code
  kind := kind
  flags := b2n t.reverted + 2 * b2n t.late + (if t.hdr.mode = 4 then 4 else 0)
  tag := t.tag.toNat
  step := t.hdr.step.toNat
  t0 := t.t0

/-- Count an abort for the client (R338). -/
def Client.addAborted (k : Client) : Client := { k with aborted := satNat 16 (k.aborted + 1) }

/-- Count a commit. -/
def Client.addCommitted (k : Client) : Client := { k with committed := satNat 16 (k.committed + 1) }

/-- The SRAM and scratch ranges of an allocation. -/
def volatileRanges (rs : List Range) : List Range :=
  rs.filter fun r => match r.kind with
    | .committed | .capture => false
    | _ => true

/-- What an abort of a started step leaves undefined: the context's SRAM (R124) and its scratch (R193). -/
def State.forgetVolatile (s : State) (c : CtxId) : State :=
  { s with mem := (volatileRanges (s.ctx c).alloc).foldl (fun m r => m.forget r.start r.len) s.mem }

/-- A command is killed: it writes nothing further (R78, R117, R178, R229, R259). -/
def Cmd.kill (k : Cmd) : Cmd :=
  match k.state with
  | .done | .killed | .skipped => k
  | .waiting | .ready => { k with state := .skipped }
  | .running | .suspended => { k with state := .killed, staged := [], waitSince := none }

/-- The kill of a running command, as its engine's watchdog remembers it (R365, R374). -/
def Cmd.killed (k : Cmd) (c : CtxId) (now : Ns) : Kill where
  engine := k.entry.engine
  ctx := c
  due := now + cdiv (5 * k.entry.w + 80000 - 4 * k.runTime now) 4
  replay := engineKind k.entry.engine != 5 && decide (k.entry.w ≤ 100000000)

/-- Engines whose running commands are killed: each watchdog runs on until the kill takes effect (R365). -/
def State.noteKills (s : State) (ks : List Kill) : State :=
  { s with rcv := { s.rcv with kills := (s.rcv.kills.filter fun o => !(ks.any fun k => k.engine == o.engine)) ++ ks } }

/-- Commands of a step that were under way. -/
def Step.started (t : Step) : Bool := t.state != .admitted

/-- Does an abort of the step tell the other ranks (R51, R259, R375)? -/
def Step.tells (t : Step) : Bool :=
  t.started && (t.hdr.job || t.cmds.any fun k => engineKind k.entry.engine == 5)

/-- End one admitted or running step with an abort code (R37, R203, R219). `index` is the failing command, rank or slot. -/
def State.abortOne (s : State) (c : CtxId) (t : Step) (code : Code) (reason : Reason) (index : Nat) (tell : Bool) :
    State :=
  let r := rowOf c
  let s1 := match t.slot with
    | some k => s.abortGroup r k
    | none => s
  let s2 := if t.started then s1.forgetVolatile c else s1
  let killed := t.cmds.zipIdx.filter fun p => p.1.state = .running || p.1.state = .suspended
  let s3 := killed.foldl (fun u p => u.trace 0 5 c.val (p.1.traceArg p.2)) s2
  let s3 := s3.emits (killed.filterMap fun p =>
    if p.1.lineAcked then p.1.line.map fun l => .lineDone l.1 l.2 true else none)
  let s3 := s3.noteKills (killed.filterMap fun p =>
    if p.1.state = .running then some (p.1.killed c s.clk.now) else none)
  let s4 := if tell && t.tells then s3.sendAborts c t.hdr.step else s3
  let s5 := s4.modCtx c fun x =>
    { x with
      steps := x.steps.filter fun u => u.uid != t.uid
      wcFlag := false
      carryOk := if t.started then false else x.carryOk
      folds := x.folds.filter fun f => f.by_ != t.uid
      restore := if t.kind = .restore then none else x.restore
      load := if t.kind = .load then none else x.load
      models := if t.kind = .load then x.models.filter fun m => m.resident || !m.chunks.isEmpty else x.models
      pred := x.pred.map fun p => if p.uid = t.uid then { p with ended := some code } else p }
  let s6 := s5.modClient (s5.ctx c).client Client.addAborted
  let s7 := (s6.trace 1 0x12 c.val (t.hdr.step.toNat % 2 ^ 28 * 256 + code.value.toNat))
  let s8 := if code = .abortedFault then s7.freezeTrace else s7
  s8.putEntry c { t.entry code 1 with version := (s8.version r).toNat, reason := reason, index := index }

/-- The steps of a context that follow an aborted one, in admission order: each that follows its predecessor ends with
the predecessor's code, and so on down the chain (R43). -/
def State.abortFollowers (c : CtxId) (code : Code) (tell : Bool) : List Step → Bool → State → State
  | [], _, s => s
  | t :: rest, prev, s =>
    if t.state = .committed then State.abortFollowers c code tell rest prev s
    else if prev && t.hdr.follows && decide (t.state = .admitted) then
      State.abortFollowers c code tell rest true (s.abortOne c t code .none 0 tell)
    else State.abortFollowers c code tell rest false s

/-- Abort a step and what follows it (R43). A committed step is not aborted: its commit stands. -/
def State.abortStep (s : State) (c : CtxId) (uid : Nat) (code : Code) (reason : Reason) (index : Nat)
    (tell : Bool := true) : State :=
  match (s.ctx c).step? uid with
  | none => s
  | some t =>
    if t.state = .committed then s
    else
      let later := ((s.ctx c).steps.dropWhile fun u => u.uid != uid).drop 1
      State.abortFollowers c code tell later true (s.abortOne c t code reason index tell)

/-- The AFTER_COMMIT commands that remain of a committed step are given up (R207, R392): nothing runs further and no
completion entry is written. -/
def State.dropTail (s : State) (c : CtxId) (uid : Nat) : State :=
  s.modCtx c fun x => { x with steps := x.steps.filter fun t => !(t.uid == uid && t.state == .committed) }

/-- Abort every step of a context that has not committed, and give up the rest of those that have. -/
def State.abortAll (s : State) (c : CtxId) (code : Code) (reason : Reason) (index : Nat) (tell : Bool) : State :=
  let ts := (s.ctx c).steps
  ts.foldl (fun u t =>
    match (u.ctx c).step? t.uid with
    | some v => if v.state = .committed then u.dropTail c v.uid else u.abortOne c v code reason index tell
    | none => u) s

/-- A command ends as a detected fault: its step aborts with ABORTED_FAULT. A committed step keeps its commit, and
its AFTER_COMMIT commands are given up. -/
def State.faultCmd (s : State) (r : CmdRef) (reason : Reason) : State :=
  ((s.abortStep r.ctx r.step .abortedFault reason r.idx).dropTail r.ctx r.step).dispatch

/-! ### Commit -/

/-- Commands that gate the commit have all completed (R173, R202). -/
def Step.gateDone (t : Step) : Bool := t.cmds.all fun k => k.afterCommit || k.state == .done

/-- No AFTER_COMMIT command is left to run. -/
def Step.tailOver (t : Step) : Bool := t.cmds.all fun k => !k.afterCommit || !k.alive

/-- Every AFTER_COMMIT command has completed. -/
def Step.tailDone (t : Step) : Bool := t.cmds.all fun k => !k.afterCommit || k.state == .done

/-- Do AFTER_COMMIT commands exist? -/
def Step.hasTail (t : Step) : Bool := t.cmds.any fun k => k.afterCommit

/-- The changes that a step's commit makes to its context (R43, R124, R219, R326). -/
def Ctx.committedStep (x : Ctx) (t : Step) : Ctx :=
  { x with
    wcFlag := true
    carryOk := true
    alloc := if t.kind = .host then t.alloc else x.alloc
    pred := x.pred.map fun p => if p.uid = t.uid then { p with ended := some .committed } else p
    steps := if t.tailOver then x.steps.filter fun u => u.uid != t.uid
      else (x.modStep t.uid fun u => { u with state := .committed }).steps }

/-- The parts of the ranges of `old` that `new` does not list. -/
def minusRanges (old new : List Range) : List (Nat × Nat) :=
  (new.foldl (fun acc q => carve q.start q.len acc) (old.map fun r => (r.start, r.len, 0))).map fun u => (u.1, u.2.1)

/-- Give ranges a zero-filled base with no further copy: pages that are allocated (R192, R326), and SRAM and pages that
are released (R337). -/
def State.zeroRanges (s : State) (rs : List (Nat × Nat)) : State :=
  { s with
    mem := rs.foldl (fun m r => m.clear r.1 r.2) s.mem
    weir := { s.weir with groups := s.weir.groups.map fun g =>
      { g with copies := g.copies.filter fun p =>
          !(rs.any fun r => decide (r.1 ≤ p.page * Config.pageBytes ∧ p.page * Config.pageBytes < r.1 + r.2)) } } }

/-- A step commits (R202): the row write, the result entry and the counts. `version` and `prior` are as R202, or as R378
for a RESTORE. -/
def State.commitStep (s : State) (c : CtxId) (t : Step) (version : BitVec 64) (prior : Bool) : State :=
  match t.slot with
  | none => s
  | some k =>
    let r := rowOf c
    let s1 := s.commitGroup r k version prior
    let dropped := if t.kind = .host then minusRanges (s1.ctx c).alloc t.alloc else []
    let s2 := (s1.zeroRanges dropped).modCtx c fun x => x.committedStep t
    let s3 := s2.modClient (s2.ctx c).client Client.addCommitted
    let s4 := s3.trace 1 0x11 c.val (t.hdr.step.toNat % 2 ^ 28 * 256 + Code.committed.value.toNat)
    if t.kind = .period then s4
    else s4.putEntry c { t.entry .committed 1 with version := version.toNat }

/-! ### Steps' slots and origins -/

/-- A step's header for a step that no STEP_HEAD record carries. -/
def Header.inner (step : BitVec 64) (commitDl : Ns) (p c : Nat) : Header where
  step := step
  base := 0#64
  commitDl := commitDl
  startDelay := 0
  p := p
  count := 0
  follows := false
  allowance := 1
  mode := 0
  carryIn := false
  job := false
  seqLen := 1
  c := c
  alloc := 0
  allocCount := 0

/-- The group that a step opens in a slot. -/
def Step.group (t : Step) (c : CtxId) (k : Fin 8) : Group where
  row := rowOf c
  slot := k
  uid := t.uid
  step := t.hdr.step
  tag := t.tag
  seq := t.seq
  p := t.hdr.p
  c := t.hdr.c
  copies := []
  displaced := 0
  walkFrom := 0

end Sys2Proof.Machine
end

