-- ==== Sys2Proof/Machine/Timing.lean ====
section
/-! DEFINITION. The timing promise: charged worst cases, pool rates, and the admission tests (R41 to R50, R55, R199,
R201, R204, R296, R335). -/

namespace Sys2Proof.Machine

/-! ### Rates (R50, R161, R185, R268, R386) -/

/-- A rate in bytes for each ns, as a fraction. -/
structure Rate where
  num : Nat
  den : Nat
deriving DecidableEq, Repr

/-- Is a number of bytes more than a rate carries in a time? -/
def Rate.exceeded (r : Rate) (bytes : Nat) (t : Ns) : Bool := decide (r.num * t < bytes * r.den)

/-- Bytes beyond what a rate carries in a time, rounded up. -/
def Rate.excess (r : Rate) (bytes : Nat) (t : Ns) : Nat := cdiv (bytes * r.den - r.num * t) r.den

/-- Live die-bridge modules, and live modules of a ford bridge (R185). -/
def State.d2dLive (s : State) : Nat := (s.dma.d2d.toList.filter fun m => m == .live).length
def State.fordLive (s : State) (d : Fin 2) : Nat := (s.dma.ford[d].toList.filter fun m => m == .live).length

/-- The HBM multiplier of R185, over 44. -/
def State.bridgeFactor (s : State) : Nat := min 44 (s.d2dLive - 1)

/-- The fabric and host multiplier of R185, over 8: the smaller of the two ford bridges' (DEDUCED, log entry 32). -/
def State.fordFactor (s : State) : Nat := min 8 (min (s.fordLive 0 - 1) (s.fordLive 1 - 1))

/-- The counted HBM rate (R50, R161, R185); 0 once seventeen channels are lost. -/
def State.hbmRate (s : State) : Rate :=
  { num := if 17 ≤ s.lostCount then 0 else 19200 * (256 - s.lostChannels) * s.bridgeFactor, den := 256 * 44 }

/-- The rate of an Ethernet port in Gb/s. -/
def EthPort.gbps (p : EthPort) : Nat := match p.state with
  | 2 => 800
  | 3 => 400
  | _ => 0

/-- The counted fabric rate of each direction (R268). -/
def State.fabRate (s : State) : Rate :=
  { num := 95 * (s.fab.ports.toList.map EthPort.gbps).sum * s.fordFactor, den := 100 * 8 * 8 }

/-- A link's rate over the slowest full rate: 4 for ×16 at 64 GT/s, 2 for half of it, 1 for ×8 at 32 GT/s (R386). -/
def Link.units (l : Link) : Nat :=
  if l.state = .up then (if 16 ≤ l.width then 2 else 1) * (if l.speed = 2 then 2 else 1) else 0

/-- OWN_HOST_GBS (R386, R398): the counted host rate of the owner's port, 0 with no owner. A link that is down leaves the
counted rate as it was trained last (DEDUCED, log entry 33). -/
def State.hostGbs (s : State) : Nat :=
  match s.own.owner with
  | none => 0
  | some p =>
    let l := s.own.links[p.index]
    25 * ({ l with state := .up }).units

/-- The counted host rate of each direction (R50, R185, R386). -/
def State.hostRate (s : State) : Rate := { num := s.hostGbs * s.fordFactor, den := 8 }

/-! ### Items of the admitted set (R49) -/

/-- The pools of R48. -/
inductive Pool where
  | hbm
  | fabOut
  | fabIn
  | hostOut
  | hostIn
deriving DecidableEq, Repr

/-- The pools in the order of R48. -/
def allPools : List Pool := [.hbm, .fabOut, .fabIn, .hostOut, .hostIn]

/-- The code of a pool in DETAIL: its position in R48. -/
def Pool.code : Pool → Nat
  | .hbm => 0
  | .fabOut => 1
  | .fabIn => 2
  | .hostOut => 3
  | .hostIn => 4

/-- The counted rate of a pool. -/
def State.poolRate (s : State) : Pool → Rate
  | .hbm => s.hbmRate
  | .fabOut | .fabIn => s.fabRate
  | .hostOut | .hostIn => s.hostRate

/-- One item of the admitted set: a command, a fold demand or a period item, in absolute time. -/
structure Item where
  ctx     : CtxId
  ref     : Option CmdRef
  engine  : Option Engine
  rel     : Ns
  dl      : Ns
  w       : Ns
  stretch : Nat
  usesHbm : Bool
  charged : Ns
  hbm     : Nat
  fabOut  : Nat
  fabIn   : Nat
  hostOut : Nat
  hostIn  : Nat
deriving DecidableEq, Repr

/-- The bytes of an item in a pool. -/
def Item.bytes (i : Item) : Pool → Nat
  | .hbm => i.hbm
  | .fabOut => i.fabOut
  | .fabIn => i.fabIn
  | .hostOut => i.hostOut
  | .hostIn => i.hostIn

/-- The stretch factor k of an allowance, in hundredths (R45). -/
def stretchOf : Nat → Nat
  | 0 => 100
  | 1 => 105
  | _ => 115

/-- The context-switch cost C of an engine (R45). -/
def switchCost : Engine → Ns
  | .matrix _ => 6000
  | _ => 2000

/-- W′ (R45, R335): `m` says that another context's admitted work on the engine overlaps the command's interval. -/
def chargedW (w stretch : Nat) (usesHbm : Bool) (e : Engine) (m : Bool) : Ns :=
  let kw := cdiv (w * stretch) 100
  kw + (if usesHbm then 1500 * cdiv kw 32000 else 0) + (if m then switchCost e * cdiv kw 250000 else 0)

/-- A command as an item. Its copy-back bytes count in the fold's window (R204). -/
def cmdItem (c : CtxId) (t : Step) (idx : Nat) (k : Cmd) : Item where
  ctx := c
  ref := some { ctx := c, step := t.uid, idx := idx }
  engine := some k.entry.engine
  rel := t.release k
  dl := t.deadline k
  w := k.entry.w
  stretch := stretchOf t.hdr.allowance
  usesHbm := k.entry.hbm != 0
  charged := k.wPrime
  hbm := k.entry.hbm - k.copyBack
  fabOut := k.entry.fabOut
  fabIn := k.entry.fabIn
  hostOut := k.entry.hostOut
  hostIn := k.entry.hostIn

/-- A demand without an engine. -/
def poolItem (c : CtxId) (rel dl : Ns) (hbm hostOut : Nat) : Item where
  ctx := c
  ref := none
  engine := none
  rel := rel
  dl := dl
  w := 0
  stretch := 100
  usesHbm := false
  charged := 0
  hbm := hbm
  fabOut := 0
  fabIn := 0
  hostOut := hostOut
  hostIn := 0

/-- The commands of a step that are still in the admitted set. -/
def Step.items (c : CtxId) (t : Step) : List Item :=
  if t.kind = .period then []
  else t.cmds.zipIdx.filterMap fun p => if p.1.alive then some (cmdItem c t p.2 p.1) else none

/-- The fold demands of a context (R204). -/
def Ctx.foldItems (c : CtxId) (x : Ctx) : List Item := x.folds.map fun f => poolItem c f.start f.stop f.bytes 0

/-- The period items of a standing pattern up to a time, one period beyond it (R296). -/
def Pattern.items (c : CtxId) (p : Pattern) (upTo : Ns) : List Item :=
  let first := p.t0 + p.next * p.period
  let n := (upTo - first) / p.period + 2
  (List.range n).flatMap fun i =>
    let t := first + i * p.period
    [poolItem c (t + 3000) (t + p.period - 7000) p.hbmMax 0,
     poolItem c (t + p.period - 5000) (t + p.period) 0 (16 * p.slots + 8)]

/-- The latest deadline of some items. -/
def lastDl (is : List Item) : Ns := (is.map (·.dl)).foldl max 0

/-- The admitted set without patterns: every step but those that `skip` names. -/
def State.stepItems (s : State) (skip : CtxId → Step → Bool) : List Item :=
  allCtx.flatMap fun c =>
    let x := s.ctx c
    (x.steps.filter fun t => !(skip c t)).flatMap (Step.items c) ++ Ctx.foldItems c x

/-- The period items of every standing pattern, up to a time. -/
def State.patternItems (s : State) (upTo : Ns) : List Item :=
  allCtx.flatMap fun c => match (s.ctx c).pattern with
    | some p => p.items c upTo
    | none => []

/-! ### The tests of R48 -/

/-- A refusal of R48: the failing test (0 engine, 1 pool, 2 command), the engine or pool, the command, the shortfall. -/
structure Shortfall where
  test  : Nat
  which : Nat
  index : Nat
  short : Nat
deriving DecidableEq, Repr

/-- Do two half-open intervals overlap (R45)? -/
def overlaps (a b c d : Ns) : Bool := decide (a < d ∧ c < b)

/-- Does another context's item on the engine overlap (m of R45)? -/
def sharedWith (all : List Item) (i : Item) : Bool :=
  all.any fun o => o.engine == i.engine && o.engine.isSome && o.ctx != i.ctx && overlaps i.rel i.dl o.rel o.dl

/-- W′ over a set, never lowered (R49). -/
def raise (all : List Item) (i : Item) : Item :=
  match i.engine with
  | none => i
  | some e => { i with charged := max i.charged (chargedW i.w i.stretch i.usesHbm e (sharedWith all i)) }

/-- The engine's 8 bits in DETAIL (R329). -/
def engineDetail (e : Engine) : Nat := engineCode e

/-- The blocking term of an engine: another context's admitted item overlaps a new item there. -/
def blocking (all new : List Item) (e : Engine) : Ns :=
  if new.any fun i => i.engine == some e && sharedWith all i then Config.slice + switchCost e else 0

/-- The window test of one engine over the items on it. -/
def engineTest (e : Engine) (on : List Item) (b : Ns) : Option Shortfall :=
  on.findSome? fun x => on.findSome? fun y =>
    if x.rel < y.dl then
      let inside := on.filter fun i => decide (x.rel ≤ i.rel ∧ i.dl ≤ y.dl)
      let demand := (inside.map (·.charged)).sum
      if !inside.isEmpty && decide (y.dl - x.rel < demand + b) then
        some { test := 0, which := engineDetail e,
               index := ((inside.head?.bind (·.ref)).map (·.idx)).getD 0, short := demand + b - (y.dl - x.rel) }
      else none
    else none

/-- The test of one command by itself. -/
def commandTest (i : Item) (b : Ns) : Option Shortfall :=
  if i.dl < i.rel + i.charged + b then
    some { test := 2, which := (i.engine.map engineDetail).getD 0, index := (i.ref.map (·.idx)).getD 0,
           short := i.rel + i.charged + b - i.dl }
  else none

/-- The window test of one pool. -/
def poolTest (rate : Rate) (p : Pool) (all : List Item) : Option Shortfall :=
  let on := all.filter fun i => i.bytes p != 0
  on.findSome? fun x => on.findSome? fun y =>
    if x.rel < y.dl then
      let inside := on.filter fun i => decide (x.rel ≤ i.rel ∧ i.dl ≤ y.dl)
      let bytes := (inside.map (·.bytes p)).sum
      if rate.exceeded bytes (y.dl - x.rel) then
        some { test := 1, which := p.code, index := ((inside.findSome? (·.ref)).map (·.idx)).getD 0,
               short := rate.excess bytes (y.dl - x.rel) }
      else none
    else none

/-- The engines that items use, each once. -/
def enginesOf (is : List Item) : List Engine := (is.filterMap (·.engine)).eraseDups

/-- R48 and R49: the new items with the admitted set, or the first test that fails. On success, every item with its
raised W′. -/
def admitTest (rate : Pool → Rate) (old new : List Item) : Except Shortfall (List Item) :=
  let all := (old ++ new).map (raise (old ++ new))
  let newR := all.drop old.length
  match (enginesOf new).findSome? fun e =>
      engineTest e (all.filter fun i => i.engine == some e) (blocking all newR e) with
  | some f => .error f
  | none =>
    let touched := all.filter fun i => match i.engine with
      | some e => (enginesOf new).contains e
      | none => false
    match touched.findSome? fun i => commandTest i ((i.engine.map (blocking all newR)).getD 0) with
    | some f => .error f
    | none =>
      match allPools.findSome? fun p => poolTest (rate p) p all with
      | some f => .error f
      | none => .ok all

/-- Give every admitted command the W′ of a passed test (R49). -/
def State.applyRaised (s : State) (is : List Item) : State :=
  is.foldl (fun t i => match i.ref with
    | some r => t.modCmd r fun k => { k with wPrime := max k.wPrime i.charged }
    | none => t) s

/-! ### Engines held by patterns (R296) -/

/-- Does a standing pattern hold an engine? -/
def Pattern.holds (p : Pattern) : Engine → Bool
  | .matrix n | .vector n => p.cores.toNat.testBit n
  | .dma x ch => decide (x < 4) && p.chans.toNat.testBit (32 * x + ch)
  | _ => false

/-- Does another context's pattern hold an engine? -/
def State.heldByOther (s : State) (c : CtxId) (e : Engine) : Bool :=
  allCtx.any fun d => d != c && (match (s.ctx d).pattern with
    | some p => p.holds e
    | none => false)

/-! ### Group slots and the pool over time (R199, R201) -/

/-- The span of one group: OPEN from `t0` to `dl`, then LAST, then FOLDING. -/
structure Span where
  t0   : Ns
  dl   : Ns
  p    : Nat
  c    : Nat
  held : Nat
deriving DecidableEq, Repr

/-- The planned span of a step. -/
def Step.span (t : Step) : Span where
  t0 := t.t0
  dl := t.t0 + t.hdr.commitDl
  p := t.hdr.p
  c := t.hdr.c
  held := t.hdr.p

/-- The pages of page shadows that a planned group holds while it folds. -/
def Span.foldHeld (g : Span) : Nat := min g.p (15 * cdiv g.c 15)

/-- The pool pages one context's groups hold at an instant: the LAST group now, then its admitted groups in order; each
holds P while open, its held pages as LAST until the next commit deadline, and its page shadows until its fold bound. -/
def spansAt (t : Ns) (lastHeld : Nat) (lastP lastC : Nat) : List Span → Nat
  | [] => lastHeld
  | g :: rest =>
    (if t < g.dl then lastHeld
     else if t < g.dl + walkBound lastP lastC then min lastHeld (15 * cdiv lastC 15) else 0)
    + (if t < g.t0 then 0 else if t < g.dl then g.p else 0)
    + (if g.dl ≤ t then spansAt t g.held g.p g.c rest else (rest.map fun r => if r.t0 ≤ t ∧ t < r.dl then r.p else 0).sum)

/-- The spans of a context: its steps that have not committed. -/
def Ctx.spans (x : Ctx) : List Span := (x.steps.filter fun t => t.state != .committed && t.kind != .period).map Step.span

/-- What the LAST and FOLDING groups of a row hold now, and the LAST group's P and C. -/
def State.lastNow (s : State) (r : Fin 17) : Nat × Nat × Nat :=
  match (s.slotIn r .last).bind (s.group? r) with
  | some g => (g.displaced + g.heldPages, g.p, g.pageShadows)
  | none => (0, 0, 0)

/-- The pool pages that FOLDING groups of a row hold at an instant, until their bound. -/
def State.foldingAt (s : State) (r : Fin 17) (t : Ns) : Nat :=
  ((s.weir.groups.filter fun g => g.row == r && s.slot r g.slot == .folding).map fun g =>
    if t < g.walkFrom + walkBound g.p g.pageShadows then g.heldPages else 0).sum

/-- The pages of the mirrored state of a context (R232). -/
def MirrorCfg.pages (m : MirrorCfg) : Nat := (m.ranges.map fun r => cdiv r.2 Config.pageBytes).sum

/-- The held pages that a context's streams count at an instant (R232): the mirrored state from a checkpoint's commit, done
or planned, until its stream's deadline. -/
def Ctx.heldForMirror (x : Ctx) (t : Ns) : Nat :=
  match x.mirror with
  | none => 0
  | some m =>
    let live := (x.stream.map fun st => decide (t < st.deadline)).getD false
    let planned := x.steps.any fun u =>
      let d := u.t0 + u.hdr.commitDl
      u.kind == .host && u.hdr.mode != 4 && u.state != .committed && u.hdr.step.toNat % m.interval == 0
        && decide (d ≤ t ∧ t < d + m.interval * m.minPeriod)
    if m.send.isSome && (live || planned) then m.pages else 0

/-- Pool pages planned at an instant over every context, one of them with extra spans (R201). A standing pattern counts
two PERIOD_P: the open period and the held pages of the one before. -/
def State.poolAt (s : State) (c : CtxId) (extra : List Span) (t : Ns) : Nat :=
  (allCtx.map fun d =>
    let x := s.ctx d
    let r := rowOf d
    let l := s.lastNow r
    spansAt t l.1 l.2.1 l.2.2 (x.spans ++ if d = c then extra else []) + s.foldingAt r t + x.heldForMirror t
      + (match x.pattern with
        | some p => 2 * p.p
        | none => 0)).sum

/-- The most pool pages planned at any instant that matters for a new group: the T0 of each group from its own on. -/
def State.poolPeak (s : State) (c : CtxId) (g : Span) : Nat :=
  let all := allCtx.flatMap fun d => (s.ctx d).spans
  let times := g.t0 :: (all ++ [g]).flatMap fun h => [h.t0, h.dl]
  ((times.filter fun t => decide (s.clk.now ≤ t)).map (s.poolAt c [g])).foldl max 0

/-- Slots of a row in use at the T0 of a new group (R199), each group taken to commit. -/
def State.slotsAt (s : State) (c : CtxId) (t : Ns) : Nat :=
  let r := rowOf c
  let spans := (s.ctx c).spans.filter fun g => decide (s.clk.now ≤ g.dl)
  let firstDl := (spans.head?.map (·.dl))
  let now := ((List.finRange 8).filter fun k =>
    match s.slot r k with
    | .free | .open | .prepared => false
    | .last => match firstDl with
      | some d => decide (t < d + walkBound ((s.group? r k).map (·.p) |>.getD 0) ((s.group? r k).map Group.pageShadows |>.getD 0))
      | none => true
    | .folding => decide (t < ((s.group? r k).map fun g => g.walkFrom + walkBound g.p g.pageShadows).getD 0)
    | .aborting => decide (t < ((s.group? r k).map fun g => g.walkFrom + walkBound g.p 0).getD 0)).length
  let planned := (spans.zipIdx.filter fun p =>
    match spans[p.2 + 1]? with
    | some n => decide (p.1.t0 ≤ t ∧ t < n.dl + walkBound p.1.p p.1.c)
    | none => decide (p.1.t0 ≤ t)).length
  now + planned

/-- Groups of a context open together with a span (R199): a standing pattern counts one. -/
def State.openWith (s : State) (c : CtxId) (g : Span) : Nat :=
  let x := s.ctx c
  (x.spans.filter fun h => overlaps g.t0 g.dl h.t0 h.dl).length
    + (if x.pattern.isSome then 1 else 0)

end Sys2Proof.Machine
end

