-- ==== Sys2Proof/Machine/Engines.lean ====
section
/-! DEFINITION. What every engine shares: when a running command may complete, how its end moves its step on, and what a
command reads and writes (R44 to R47, R173, R194, R202, R206, R329). -/

namespace Sys2Proof.Machine

/-! ### The end of a command -/

/-- A commit-ready record as bytes: STEP, BASE, LOW_BAD, READY, in the order of R206's table, little-endian
(DESIGN CHOICE, log entry 34: the spec gives the fields and no layout). -/
def commitReady (step base : BitVec 64) (lowBad : Nat) : List Byte :=
  leBytes 8 step.toNat ++ leBytes 8 base.toNat ++ leBytes 2 lowBad ++ leBytes 1 1

/-- The group of a job step becomes PREPARED; LOW_BAD names the own rank while a mismatch of the context waits for its vote
(DEDUCED, log entry 52), and the commit-ready record goes to the member at list position 0 of the job
group, which reduces it (R206, R244, R255). -/
def State.prepareStep (s : State) (c : CtxId) (t : Step) : State :=
  match t.slot with
  | none => s
  | some k =>
    let s1 := (s.prepareGroup (rowOf c) k).modStep c t.uid fun u => { u with state := .prepared, prepared := s.clk.now }
    let low := if s.intg.votes.any fun v => v.ctx == c then ((s.ctx c).job.rank.getD 0x7FFF) else 0x7FFF
    s1.sendData c 0 (flowFor 0 0) 4 fun p =>
      { p with step := t.hdr.step.setWidth 32, slot := BitVec.ofNat 16 ((s.ctx c).job.rank.getD 0)
               payload := commitReady t.hdr.step t.hdr.base low }

/-- What follows when a command of a step has completed: a job step whose gating commands are all done becomes
PREPARED, and a committed step with no AFTER_COMMIT command left ends, with a completion entry when all of them are done (R206, R329,
R392). -/
def State.afterCmd (s : State) (c : CtxId) (uid : Nat) : State :=
  match (s.ctx c).step? uid with
  | none => s
  | some t =>
    match t.state with
    | .running => if t.hdr.job && t.gateDone then s.prepareStep c t else s
    | .committed =>
      if t.tailOver then
        let s1 := s.modCtx c fun x => { x with steps := x.steps.filter fun u => u.uid != uid }
        if t.kind = .period || !t.tailDone then s1
        else s1.putEntry c { t.entry .committed 2 with version := (s1.version (rowOf c)).toNat }
      else s
    | _ => s

/-- A command completes (R46): it leaves the admitted set, and its engine, which has obeyed every earlier kill, takes the next one. -/
def State.finishCmd (s : State) (r : CmdRef) : State :=
  let s1 := s.modCmd r fun k =>
    { k with state := .done, ran := k.runTime s.clk.now, waitSince := none,
             staged := k.staged.filter (fun x => decide (8 ≤ x.phase)) }
  let s2 := match s1.cmd? r with
    | some k => s1.trace 0 2 r.ctx.val (k.traceArg r.idx)
    | none => s1
  let s3 := match s1.cmd? r with
    | some k => { s2 with rcv := { s2.rcv with kills := s2.rcv.kills.filter fun o => o.engine != k.entry.engine } }
    | none => s2
  (s3.afterCmd r.ctx r.step).dispatch

/-- May a running command complete now: it is running and not waiting for a peer, it has run at least as long as its
engine needs, and it has not overrun (R46). -/
def Cmd.mayEnd (k : Cmd) (now minTime : Ns) : Bool :=
  k.state == .running && k.waitSince == none && decide (minTime ≤ k.runTime now) && decide (k.runTime now ≤ k.wPrime)

/-- The engine's own time where it is stated in cycles of a clock of `mhz`, rounded up to ns. -/
def cyclesNs (cycles mhz : Nat) : Ns := cdiv (cycles * 1000) mhz

/-- What a command does when it completes: the state after its writes, and the reason of a detected fault. -/
abbrev Effect := State → Step → Cmd → State × Option Reason

/-- Complete a command of an engine kind: nothing happens unless it may end; a detected fault aborts its step, with the counts
that the fault has made and the writes before it. -/
def State.completeCmd (s : State) (r : CmdRef) (kind : Nat) (minTime : State → Step → Cmd → Ns) (eff : Effect) : State :=
  match s.step? r, s.cmd? r with
  | some t, some k =>
    if s.up ∧ engineKind k.entry.engine = kind ∧ k.mayEnd s.clk.now (minTime s t k) then
      let e := eff s t k
      match e.2 with
      | some reason => e.1.faultCmd r reason
      | none => e.1.finishCmd r
    else s
  | _, _ => s

/-! ### What a command reads -/

/-- The view of a command: its group's copies over the committed view (R194). -/
def State.cmdView (s : State) (c : CtxId) (t : Step) : View := s.viewByte (s.groupOf c t)

/-- May the command read these extents: within the context's allocation and free of poison (R121, R139, R147)? -/
def State.canRead (s : State) (c : CtxId) (t : Step) (exts : List (Nat × Nat)) : Bool :=
  exts.all fun e => extentOk s.usable (s.ctx c).alloc e.1 e.2 && !s.readsPoison (s.groupOf c t) e.1 e.2

/-- A write of one part by a command of a replay (R241): scratch and SRAM in place; a committed or capture page ends the
command with reason "write set", which WEIR_CONFLICT_COUNT counts (R213). -/
def State.replayPart (s : State) (c : CtxId) (w : Nat × List Byte) : State × Option Reason :=
  let alloc := (s.ctx c).alloc
  if isSram w.1 then
    if coveredBy alloc w.1 w.2.length then (s.putBase w.1 w.2, none) else (s, some .fault)
  else
    match kindAt alloc w.1 with
    | some .scratch => (s.putBase w.1 w.2, none)
    | some .committed | some .capture =>
      ({ s with weir := { s.weir with conflicts := satInc s.weir.conflicts } }, some .writeSet)
    | _ => (s, some .fault)

/-- Every write of a command of a replay, up to the first that may not be made. -/
def State.replayParts (c : CtxId) : List (Nat × List Byte) → State → State × Option Reason
  | [], s => (s, none)
  | w :: ws, s =>
    let r := s.replayPart c w
    if r.2.isSome then r else State.replayParts c ws r.1

/-- Write the outputs of a command of a running step (R191, R194, R241). A step with no slot that is not a replay writes
no device memory. -/
def State.cmdPut (s : State) (c : CtxId) (t : Step) (ws : List (Nat × List Byte)) : State × Option Reason :=
  if t.hdr.mode = 4 then State.replayParts c (splitParts ws) s
  else match t.slot with
    | some k => s.writeAll c k ws
    | none => if ws.isEmpty then (s, none) else (s, some .fault)

/-- The outputs of a command, with the error that a test has armed (R162). -/
def State.cmdWrite (s : State) (c : CtxId) (t : Step) (ws : List (Nat × List Byte)) : State × Option Reason :=
  let r := s.cmdPut c t ws
  (r.1.injectWrite (ws.map fun w => (w.1, w.2.length)), r.2)

/-- The tensor a descriptor address names, as a command reads it; none for address 0 or a bad descriptor. -/
def View.tensor? (v : View) (a : Nat) : Option Tensor := if a = 0 then none else parseTensor (v.bytes a 32)

/-! ### What a command names (R480) -/

/-- The objects that a command names: what it reads, what it writes, and bytes it may stage. -/
structure Footprint where
  reads  : List (Nat × Nat)
  writes : List (Nat × Nat)
deriving DecidableEq, Repr

/-- The footprint of nothing. -/
def Footprint.none : Footprint := ⟨[], []⟩

/-- Extents of an optional tensor. -/
def optExtents (t : Option Tensor) : List (Nat × Nat) := (t.map Tensor.extents).getD []

end Sys2Proof.Machine
end

