-- ==== Sys2Proof/Machine/Oxt.lean ====
section
/-! DEFINITION. OXT on the receiving side and the flow timers (R207, R275 to R281): the receive checks, acknowledgement,
retransmission, peer resets and abort messages. -/

namespace Sys2Proof.Machine

/-! ### Serial arithmetic -/

/-- `a` lies at or before `b` on the 32-bit circle. -/
def serialLe (a b : BitVec 32) : Bool := decide ((b - a).toNat < 2 ^ 31)

/-- `new` is newer than `old`: 1 to 32,767 generations ahead, 0x0000 skipped (R281). -/
def genNewer (new old : BitVec 16) : Bool :=
  let d := (new - old).toNat - (if new.toNat < old.toNat then 1 else 0)
  new != 0#16 && decide (1 ≤ d ∧ d ≤ 32767)

/-! ### Replies -/

/-- The flow a packet arrives on, seen from this device. -/
def pktKey (c : CtxId) (p : OxtPkt) : FlowKey := ⟨c, p.srcRank.toNat, p.flow⟩

/-- A NACK of reason gap, at most one per flow per 2 µs (R281). -/
def State.sendGap (s : State) (k : FlowKey) : State :=
  let w := s.flow k
  if (w.lastNack.map fun t => decide (s.clk.now < t + 2000)).getD false then s
  else (s.setFlow { w with lastNack := some s.clk.now }).emit (.oxt (s.oxtPkt k.ctx k.peer k.flow 2 0 0#32))

/-- A RESET_NACK carrying the current generation (R281), counted in FAB_RESET_NACK_COUNT. -/
def State.sendResetNack (s : State) (k : FlowKey) : State :=
  State.emit { s with fab := { s.fab with nacks := satInc s.fab.nacks } } (.oxt (s.oxtPkt k.ctx k.peer k.flow 3 0 0#32))

/-! ### Acknowledgement of what was sent -/

/-- ACK_PSN and CREDIT of an arriving packet (R278): messages up to ACK_PSN are done, and progress restarts the timer. -/
def State.applyAck (s : State) (k : FlowKey) (p : OxtPkt) : State :=
  let w := s.flow k
  let rest := w.unacked.filter fun m => !(serialLe (m.psn + BitVec.ofNat 32 (pktCount m - 1)) p.ackPsn)
  let moved := decide (rest.length < w.unacked.length)
  (s.setFlow { w with
    unacked := rest
    acked := if serialLe w.acked p.ackPsn then p.ackPsn else w.acked
    credit := min 128 p.credit.toNat
    peerGen := p.srcGen
    retx := if moved then 0 else w.retx
    progress := if moved then s.clk.now else w.progress }).releaseHeld k

/-! ### The receive checks (R281) -/

/-- The job context that holds a packet's JOB, if it is not fenced. -/
def State.jobCtx (s : State) (p : OxtPkt) : Option CtxId :=
  allCtx.find? fun c => let x := s.ctx c
    x.resident && !x.fenced && x.job.tag == p.job && p.job != 0#32

/-- The first row: checksums, VER, TYPE and CLASS. -/
def pktSound (p : OxtPkt) : Bool :=
  p.good && p.ver == 1#4 && decide (p.typ.toNat ≤ 4) && decide (p.cls.toNat ≤ 5)

/-- Count a bad packet. -/
def State.dropBad (s : State) : State := { s with fab := { s.fab with dropBad := satInc s.fab.dropBad } }

/-- Count a packet dropped for its epoch. -/
def State.dropEpoch (s : State) : State := { s with fab := { s.fab with dropEpoch := satInc s.fab.dropEpoch } }

/-- Count a packet dropped for its generation. -/
def State.dropGen (s : State) : State := { s with fab := { s.fab with dropGen := satInc s.fab.dropGen } }

/-- The generation recorded for a rank. -/
def State.recordedGen (s : State) (c : CtxId) (rank : Nat) : Option (BitVec 16) :=
  (s.fab.flows.find? fun f => f.key.ctx == c && f.key.peer == rank && f.recorded.isSome).bind (·.recorded)

/-- Record a rank's generation: the flow of the packet has it, and where it is new every flow from the rank restarts at PSN 0
(R281; DEDUCED, log entry 40: the generation is the rank's). -/
def State.recordGen (s : State) (k : FlowKey) (g : BitVec 16) (restart : Bool) : State :=
  let s1 := s.setFlow { s.flow k with recorded := some g }
  if restart then
    { s1 with fab := { s1.fab with flows := s1.fab.flows.map fun f =>
        if f.key.ctx == k.ctx && f.key.peer == k.peer then { f with recorded := some g, expect := 0#32, rxUnacked := 0 }
        else f } }
  else s1

/-- A packet of a higher epoch: counted, and a suspicion once per rank and epoch. -/
def State.aheadEpoch (s : State) (c : CtxId) (p : OxtPkt) : State :=
  let x := s.ctx c
  let s1 := s.dropEpoch
  if x.job.aheadSeen.contains (p.srcRank.toNat, p.epoch) then s1
  else
    (s1.modCtx c fun x => { x with job := { x.job with aheadSeen := x.job.aheadSeen ++ [(p.srcRank.toNat, p.epoch)] } }).suspect
      .epochAhead (some c) p.srcRank.toNat 0 p.epoch.toNat

/-- The rows of R281 up to DST_GEN: the context of a packet that may be executed, and the state after the checks. -/
def State.judge (s : State) (p : OxtPkt) : State × Option CtxId :=
  if !pktSound p then (s.dropBad, none)
  else match s.jobCtx p with
    | none => (s.dropBad, none)
    | some c =>
      let x := s.ctx c
      if x.job.epoch.toNat < p.epoch.toNat then (s.aheadEpoch c p, none)
      else if p.epoch.toNat < x.job.epoch.toNat then (s.dropEpoch, none)
      else
        let k := pktKey c p
        let seen := s.recordedGen c p.srcRank.toNat
        match seen with
        | some g =>
          if p.srcGen ≠ g ∧ !genNewer p.srcGen g then (s.dropGen, none)
          else
            let s1 := s.recordGen k p.srcGen (p.srcGen != g)
            if p.dstGen ≠ 0#16 ∧ p.dstGen ≠ x.regs.gen then (s1.sendResetNack k, none) else (s1, some c)
        | none =>
          let s1 := s.recordGen k p.srcGen false
          if p.dstGen ≠ 0#16 ∧ p.dstGen ≠ x.regs.gen then (s1.sendResetNack k, none) else (s1, some c)

/-- The collective commands that a message belongs to: running commands of a step with that STEP and CMD. -/
def State.commandOf (s : State) (c : CtxId) (p : OxtPkt) : Option CmdRef :=
  ((s.ctx c).steps.find? fun t => t.hdr.step.setWidth 32 == p.step && (t.cmds[p.cmd.toNat]?).isSome).map fun t =>
    { ctx := c, step := t.uid, idx := p.cmd.toNat }

/-- Take a message in order: the flow expects the next PSN, and an ACK leaves after 16 unacknowledged packets (R278). -/
def State.takeInOrder (s : State) (k : FlowKey) (p : OxtPkt) : State :=
  let w := s.flow k
  let n := w.rxUnacked + pktCount p
  let s1 := s.setFlow { w with
    expect := w.expect + BitVec.ofNat 32 (pktCount p)
    dest := if p.cls.toNat ≤ 1 then s.commandOf k.ctx p else w.dest
    rxUnacked := n
    rxOldest := if w.rxUnacked = 0 then s.clk.now else w.rxOldest }
  if 16 ≤ n then s1.sendAck k else s1

/-- A DATA or ABORT message of the row's TYPE and CLASS arrives (R281). `known` says whether a running or admitted command
matches; `act` is what writing it does. -/
def State.receive (s : State) (p : OxtPkt) (typ cls : Nat) (known : State → CtxId → Bool) (act : State → CtxId → State) :
    State :=
  if !s.up then s
  else if pktSound p && (p.typ != BitVec.ofNat 4 typ || p.cls != BitVec.ofNat 4 cls) then s
  else
    let j := s.judge p
    match j.2 with
    | none => j.1
    | some c =>
      let k := pktKey c p
      let s1 := j.1.applyAck k p
      let w := s1.flow k
      if p.psn = w.expect then
        let s2 := s1.takeInOrder k p
        if known s2 c then act s2 c
        else { s2 with fab := { s2.fab with unmatched := s2.fab.unmatched + 1 } }
      else if serialLe w.expect p.psn then s1.sendGap k
      else s1.sendAck k

/-! ### ACK, NACK and the flow timers (R278, R279) -/

/-- Retransmit everything not acknowledged (R279): go-back-N, counted by packet. -/
def State.retransmit (s : State) (k : FlowKey) : State :=
  let w := s.flow k
  let n := (w.unacked.map pktCount).sum
  let s1 := s.setFlow { w with retx := w.retx + 1, progress := s.clk.now, wait := none }
  State.emits { s1 with fab := { s1.fab with retx := satAdd s1.fab.retx n } }
    (w.unacked.map fun p => .oxt { p with retx := true })

/-- A flow fails (R279): every command on it ends, its step aborts naming the rank, and the failure is a suspicion. -/
def State.failFlow (s : State) (k : FlowKey) : State :=
  let w := s.flow k
  let refs := (w.unacked.filter fun p => decide (p.cls.toNat ≤ 1)).filterMap (s.commandOf k.ctx)
  let ready := (w.unacked.filter fun p => p.cls == 4#4 && p.typ == 0#4).filterMap fun p =>
    (s.ctx k.ctx).steps.find? fun t => t.state == .prepared && t.hdr.step.setWidth 32 == p.step
  let s1 := s.setFlow { w with failed := true, unacked := [], held := [] }
  let s2 := (refs.map (·.step) ++ ready.map (·.uid)).eraseDups.foldl
    (fun u uid => u.abortStep k.ctx uid .abortedFault .fault k.peer) s1
  (s2.suspect .flowFailed (some k.ctx) k.peer k.flow.val (s2.ctx k.ctx).job.epoch.toNat).dispatch

/-- An ACK arrives (R278). -/
def execOxtAck (p : OxtPkt) (s : State) : Host.Outcome State Fault Refusal :=
  .next <| if !s.up then s else
    let j := s.judge { p with typ := 1#4 }
    match j.2 with
    | some c => j.1.applyAck (pktKey c p) p
    | none => j.1

/-- A NACK arrives (R279): REASON 0 (gap) retransmits, REASON 1 (not ready) waits 4 µs first. -/
def execOxtNack (p : OxtPkt) (s : State) : Host.Outcome State Fault Refusal :=
  .next <| if !s.up then s else
    let j := s.judge { p with typ := 2#4 }
    match j.2 with
    | some c =>
      let k := pktKey c p
      let s1 := j.1.applyAck k p
      let w := s1.flow k
      if p.reason = 1#4 then s1.setFlow { w with wait := some (s.clk.now + 4000) }
      else if w.unacked.isEmpty then s1
      else if 7 ≤ w.retx then s1.failFlow k
      else s1.retransmit k
    | none => j.1

/-- A RESET_NACK arrives (R281): the new generation is recorded, and the command it answers ends as a detected peer
reset, its step naming the rank. -/
def execOxtResetNack (p : OxtPkt) (s : State) : Host.Outcome State Fault Refusal :=
  .next <| if !s.up then s else
    let j := s.judge { p with typ := 3#4, dstGen := 0#16 }
    match j.2 with
    | some c =>
      let k := pktKey c p
      let w := j.1.flow k
      let refs := (w.unacked.filter fun m => decide (m.cls.toNat ≤ 1)).filterMap (j.1.commandOf c)
      let s1 := j.1.setFlow { w with peerGen := p.srcGen, unacked := [], held := [], nextPsn := 0#32, retx := 0 }
      ((refs.map (·.step)).eraseDups.foldl (fun u uid => u.abortStep c uid .abortedFault .peerReset k.peer) s1).dispatch
    | none => j.1

/-- An ABORT message arrives for a step (R51, R207, R375): the step aborts, naming the rank, with reason "peer reset" (the message
carries no reason of its own); for a step that has committed it is
counted as a late abort. -/
def State.abortMessage (s : State) (c : CtxId) (p : OxtPkt) : State :=
  let late := s.weir.groups.any fun g => g.row == rowOf c && g.step.setWidth 32 == p.step
    && (s.slot g.row g.slot == .last || s.slot g.row g.slot == .folding)
  match (s.ctx c).steps.find? fun t => t.hdr.step.setWidth 32 == p.step && t.state != .committed with
  | some t => (s.abortStep c t.uid .abortedFault .peerReset p.srcRank.toNat false).dispatch
  | none =>
    if late then
      let s1 : State := { s with weir := { s.weir with lateAborts := satInc s.weir.lateAborts } }
      s1.modCtx c fun x =>
        { x with steps := x.steps.map fun (t : Step) =>
            if t.hdr.step.setWidth 32 == p.step then { t with late := true } else t }
    else s

/-- An ABORT message arrives. -/
def execOxtAbort (p : OxtPkt) (s : State) : Host.Outcome State Fault Refusal :=
  .next (s.receive p 4 4 (fun _ _ => true) fun t c => t.abortMessage c p)

/-- The 4 µs wait after a NACK of reason not ready ends (R279). -/
def execNotReadyWaitExpiry (k : FlowKey) (s : State) : Host.Outcome State Fault Refusal :=
  .next <| if !s.up then s else
    match (s.flow k).wait with
    | some t =>
      if t ≤ s.clk.now then (if 7 ≤ (s.flow k).retx then s.failFlow k else s.retransmit k) else s
    | none => s

/-- 20 µs pass without progress (R279): the flow retransmits, or fails once one packet has been retransmitted 7 times. -/
def execRetransmitTimeout (k : FlowKey) (s : State) : Host.Outcome State Fault Refusal :=
  .next <| if !s.up then s else
    let w := s.flow k
    if w.unacked.isEmpty || w.wait.isSome || decide (s.clk.now < w.progress + 20000) then s
    else if 7 ≤ w.retx then s.failFlow k
    else s.retransmit k

/-- An ACK is sent 2 µs after the oldest unacknowledged packet (R278). -/
def execAckTimer (k : FlowKey) (s : State) : Host.Outcome State Fault Refusal :=
  .next <| if !s.up then s else
    let w := s.flow k
    if 0 < w.rxUnacked ∧ w.rxOldest + 2000 ≤ s.clk.now then s.sendAck k else s

end Sys2Proof.Machine
end

