-- ==== Sys2Proof/Machine/Collective.lean ====
section
/-! DEFINITION. Collective commands as they run (R51, R241, R242, R254 to R263): their completion, the messages that arrive for
them, and their deadline. -/

namespace Sys2Proof.Machine

/-! ### Completion -/

/-- The 4-byte words of lanes. -/
def laneBytes (ls : List Lane) : List Byte := ls.flatMap fun l => leBytes 4 l.word.toNat

/-- What STAGE holds once the command has completed (R257): every contribution in the slot of its position, then the block
results (log entry 41: the model writes them when the command completes). -/
def CollJob.stageWrites (j : CollJob) (v : View) (k : Cmd) (p : Nat) : List (Nat × List Byte) :=
  match j.stage with
  | none => []
  | some t =>
    if 1 < j.d.op then []
    else
      let slot := fun (i : Nat) (ls : List Lane) => (t.base + 4 * j.l * i, laneBytes ls)
      let b := if j.g ≤ 128 then 0 else p / 128
      let m := if j.g ≤ 128 then j.g else j.blockSize b
      let ones := (j.levelShards p).zipIdx.flatMap fun si =>
        (List.range m).filterMap fun i =>
          if si.2 * m + i < j.g then
            (j.contribution v k p (128 * b + i) si.1).map (slot (si.2 * m + i))
          else none
      let twos := (List.range j.blocks).filterMap fun i =>
        if j.levelOwner i p = p then (j.level1 v k p p).map fun r => slot (j.g + i) (r.map narrowed)
        else (j.segBytes k (j.levelOwner i p) p 1 p (j.size p * 4)).map fun bs => slot (j.g + i) (j.lanes 4 bs)
      (ones ++ twos).filter fun w => !w.2.isEmpty

/-- The bytes of a capture of a PERMUTE: what arrives, in table order (DESIGN CHOICE, log entry 42). -/
def CollJob.captureMoves (j : CollJob) (v : View) (p : Nat) : List (Nat × List Byte) :=
  match j.capture with
  | none => []
  | some t =>
    let ds := j.dests p
    scatter (ds.map fun d => { addr := d.1, len := d.2 }) (v.bytes t.base ((ds.map (·.2)).sum))

/-- The codes of a capture tensor. -/
def Tensor.allCodes (t : Tensor) (v : View) : List Nat := (List.range t.count).map (t.codeOfIdx v)

/-- The writes of a command that has everything, and its saturation flag; in a replay the capture stands for what would be
communicated (R241, R242). -/
def CollJob.results (j : CollJob) (v : View) (committed : Nat → Nat → List Byte) (k : Cmd) (p : Nat) (replay : Bool) :
    Option (List (Nat × List Byte) × Bool) :=
  if replay then
    if j.d.op = 4 then some (j.captureMoves v p, false)
    else match j.out, j.capture with
      | some o, some c => some (codeWrites v o (c.allCodes v), false)
      | _, _ => some ([], false)
  else do
    let d ← j.delivered v committed k p
    let moved ← if j.d.op = 4 then j.placed v committed k p else some []
    let cap := match j.capture with
      | some c => if j.d.op = 4 then [(c.base, moved.flatMap (·.2))] else codeWrites v c d.1
      | none => []
    some ((match j.out with
        | some o => codeWrites v o d.1
        | none => []) ++ moved ++ cap ++ j.stageWrites v k p, d.2)

/-- The memory a command reads besides descriptors. -/
def CollJob.reads (j : CollJob) : List (Nat × Nat) :=
  optExtents j.inT ++ j.parts.flatMap Tensor.extents ++ optExtents j.routes
  ++ (j.moves.filter fun m => some m.src == j.pos).map fun m => (m.from_, m.len)

/-- Return the credit of the buffer that a RECV took (R260): an empty stage-queue message with its buffer and command
(DESIGN CHOICE, log entry 36). -/
def State.returnCredit (s : State) (r : CmdRef) (t : Step) (j : CollJob) : State :=
  let peer := j.members.getD j.d.peer 0
  s.sendData r.ctx peer (flowFor 0 peer) 1 fun p =>
    { p with step := t.hdr.step.setWidth 32, cmd := BitVec.ofNat 12 r.idx, slot := BitVec.ofNat 16 (j.pos.getD 0) }

/-- What a collective command does when it completes. -/
def collEffect (r : CmdRef) : Effect := fun s t k =>
  match s.collJob r.ctx t k with
  | none => (s, some .fault)
  | some j =>
    match j.pos with
    | none => (s, none)
    | some p =>
      if !s.canRead r.ctx t (j.descExtents k.entry.desc ++ j.reads) then (s, some .fault)
      else if j.d.op = 4 ∧ overlapping (j.dests p) then (s, some .permuteOverlap)
      else
        let v := s.cmdView r.ctx t
        match j.results v s.commitView k p (t.hdr.mode == 4) with
        | none => (s, some .fault)
        | some w =>
          let e := s.cmdWrite r.ctx t w.1
          let s1 := e.1.modCmd r fun k => { k with saturated := w.2, dropped := dropCounts (j.routed v) }
          (if j.d.op = 8 && t.hdr.mode != 4 then s1.returnCredit r t j else s1, e.2)

/-- Is a collective command done: every packet it sent is acknowledged (R279), a SEND has placed its buffer, and everything
it needs has arrived? -/
def State.collDone (s : State) (r : CmdRef) : Bool :=
  match s.step? r, s.cmd? r with
  | some t, some k =>
    match s.collJob r.ctx t k with
    | none => true
    | some j =>
      match j.pos with
      | none => true
      | some p => t.hdr.mode == 4
        || (s.sentAcked r t && (if j.d.op = 7 then k.marked 8 else j.ready (s.stepView r.ctx t) s.commitView k p))
  | _, _ => false

/-- A collective command completes (R254): 2 µs at least (R258). -/
def execCollectiveCommandComplete (r : CmdRef) (s : State) : Host.Outcome State Fault Refusal :=
  .next <| if s.collDone r then s.completeCmd r 5 (fun _ _ _ => 2000) (collEffect r) else s

/-! ### Messages -/

/-- The running or admitted collective command that a message names (R257, R281). -/
def State.collOf (s : State) (c : CtxId) (p : OxtPkt) : Option (CmdRef × Step × Cmd) := do
  let r ← s.commandOf c p
  let t ← s.step? r
  let k ← s.cmd? r
  if k.alive && engineKind k.entry.engine == 5 && t.hdr.mode != 4 then some (r, t, k) else none

/-- Add a piece that arrived from a position. -/
def Cmd.stagePiece (k : Cmd) (pos off : Nat) (bs : List Byte) : Cmd :=
  if k.staged.any fun s => s.phase == 0 && s.pos == pos then
    { k with staged := k.staged.map fun s =>
        if s.phase == 0 && s.pos == pos then { s with pieces := s.pieces ++ [(off, bs)] } else s }
  else { k with staged := k.staged ++ [{ phase := 0, shard := 0, pos := pos, pieces := [(off, bs)] }] }

/-- Count a message that fills nothing (R257). -/
def State.dropMessage (s : State) : State := { s with fab := { s.fab with unmatched := s.fab.unmatched + 1 } }

/-- A contribution is staged in the slot of its list position; a second one for the same place is dropped and counted, and the
first stands (R257). -/
def State.stageMessage (s : State) (c : CtxId) (p : OxtPkt) : State :=
  match s.collOf c p with
  | none => s.dropMessage
  | some (r, t, k) =>
    match s.collJob c t k with
    | none => s.dropMessage
    | some j =>
      let pos := p.slot.toNat
      if j.g ≤ pos ∨ j.d.op = 7 ∨ j.d.op = 8 ∨ ((k.arrived pos).any fun x => x.1 == p.offset.toNat) then s.dropMessage
      else (s.modCmd r fun k => k.stagePiece pos p.offset.toNat p.payload).collAdvance r

/-- A collective contribution arrives (R257, R281). -/
def execCollectiveMessage (p : OxtPkt) (s : State) : Host.Outcome State Fault Refusal :=
  .next (s.receive p 0 0 (fun t c => (t.collOf c p).isSome) fun t c => t.stageMessage c p)

/-- A SEND's credit comes back: waiting SENDs of the step may try again (R260, R261). -/
def State.creditBack (s : State) (c : CtxId) (r : CmdRef) : State :=
  let s1 := s.modCmd r fun k => k.mark 9 0
  (s1.modStep c r.step fun t => { t with cmds := t.cmds.map fun k =>
    if k.state = .suspended ∧ k.waitSince.isSome ∧ engineKind k.entry.engine = 5 then { k with waitSince := none } else k }).dispatch

/-- A buffer arrives in a stage queue: beyond DEPTH or BUF it ends the RECV as a detected fault (R253), otherwise it is
written to its buffer of STAGE (R260). -/
def State.queueData (s : State) (c : CtxId) (p : OxtPkt) : State :=
  match s.commandOf c p with
  | none => s.dropMessage
  | some r =>
    match s.step? r, s.cmd? r with
    | some t, some k =>
      match s.collJob c t k with
      | none => s.dropMessage
      | some j =>
        if j.d.op = 7 then (if p.payload.isEmpty && k.marked 8 then s.creditBack c r else s.dropMessage)
        else if j.d.op ≠ 8 ∨ !k.alive then s.dropMessage
        else
          let b := p.slot.toNat
          let off := p.offset.toNat
          if j.d.depth ≤ b ∨ j.d.buf < off + p.payload.length then s.faultCmd r .fault
          else if (k.arrived 0).any fun x => x.1 == off then s.dropMessage
          else
            let s1 := match j.stage with
              | some t => s.putBase (t.base + b * j.d.buf + off) p.payload
              | none => s
            (s1.modCmd r fun k => k.stagePiece 0 off p.payload).collAdvance r
    | _, _ => s.dropMessage

/-- A SEND buffer arrives in a stage queue at the receiver (R260, R281). -/
def execStageQueueData (p : OxtPkt) (s : State) : Host.Outcome State Fault Refusal :=
  .next (s.receive p 0 1 (fun t c => (t.commandOf c p).isSome) fun t c => t.queueData c p)

/-! ### The collective deadline (R51) -/

/-- Report a timeout suspicion for each missing rank (R287). -/
def State.missingRanks (s : State) (c : CtxId) (missing : List Nat) : State :=
  missing.foldl (fun u r => u.suspect .timeout (some c) r 0 (u.ctx c).job.epoch.toNat) s

/-- A wait for peers ends at its collective deadline or at the command's own, whichever is earlier; the commit-ready wait at
2 ms or the commit deadline (R51, R206). -/
def State.waitOver (s : State) : WaitRef → Bool
  | .command r =>
    match s.step? r, s.cmd? r with
    | some t, some k =>
      match k.waitSince with
      | some w => k.alive && decide (min (w + k.entry.coll) (t.deadline k) ≤ s.clk.now)
      | none => false
    | _, _ => false
  | .commitReady c uid =>
    match (s.ctx c).step? uid with
    | some t => t.state == .prepared && decide (min (t.prepared + 2000000) (t.t0 + t.hdr.commitDl) ≤ s.clk.now)
    | none => false

/-- A collective or commit-ready wait passes its deadline: the step aborts and names the missing ranks (R51). -/
def execCollectiveDeadline (w : WaitRef) (missing : List Nat) (s : State) : Host.Outcome State Fault Refusal :=
  .next <| if !s.up || !s.waitOver w then s else
    let at_ : CtxId × Nat := match w with
      | .command r => (r.ctx, r.step)
      | .commitReady c uid => (c, uid)
    ((s.abortStep at_.1 at_.2 .abortedFault .peerMissing (missing.headD 0)).missingRanks at_.1 missing).dispatch

end Sys2Proof.Machine
end

