-- ==== Sys2Proof/Machine/Dma.lean ====
section
/-! DEFINITION. DMA commands (R165 to R178, R183, R438, R482): descriptor, shape rules, the cut into bursts, and the
bytes a burst or a command moves. -/

namespace Sys2Proof.Machine

/-- A channel descriptor (R167). -/
structure DmaDesc where
  srcList     : Nat
  dstList     : Nat
  srcCount    : Nat
  dstCount    : Nat
  total       : Nat
  swap        : Nat
  srcKind     : Nat
  dstKind     : Nat
  afterCommit : Bool
  paced       : Bool
  reqLine     : Nat
  burstLines  : Nat
deriving DecidableEq, Repr

/-- The 64 bytes of a descriptor as one number; none for a reserved or out-of-range field. -/
def parseDmaNat (v : Nat) : Option DmaDesc :=
  let d : DmaDesc :=
    { srcList := bits v 47 0, dstList := bits v 95 48, srcCount := bits v 111 96, dstCount := bits v 127 112,
      total := bits v 167 128, swap := bits v 175 173, srcKind := bits v 181 180, dstKind := bits v 183 182,
      afterCommit := bit v 184, paced := bit v 185, reqLine := bits v 191 186, burstLines := bits v 207 200 }
  if bits v 172 168 = 0 ∧ bits v 179 176 = 0 ∧ bits v 199 192 = 0 ∧ bits v 511 208 = 0
      ∧ 1 ≤ d.burstLines ∧ d.burstLines ≤ 64 ∧ 1 ≤ d.total ∧ d.srcKind ≤ 2 ∧ d.dstKind ≤ 2
      ∧ d.srcList % 64 = 0 ∧ d.dstList % 64 = 0
      ∧ (d.srcKind = 2 ∨ (1 ≤ d.srcCount ∧ d.srcCount ≤ 4096))
      ∧ (d.dstKind = 2 ∨ (1 ≤ d.dstCount ∧ d.dstCount ≤ 4096)) then some d
  else none

/-- A channel descriptor from its bytes. -/
def parseDma (bs : List Byte) : Option DmaDesc := if bs.length = 64 then parseDmaNat (leNat bs) else none

/-- Is a request line open to step programs (R175)? -/
def lineOpen (complex line : Nat) : Bool :=
  if complex < 4 then
    if line < 48 then line % 8 != 4 && line % 8 != 5 && line % 8 != 7 else decide (56 ≤ line ∧ line ≤ 61)
  else decide (line < 60)

/-- Does a line carry data at a destination peripheral: only the SHA-256 engines (R482, R438). -/
def lineHashes (complex line : Nat) : Bool := decide (complex = 4 ∧ 20 ≤ line ∧ line ≤ 51)

/-- The multiple TOTAL_BYTES must be (R171). -/
def swapUnit : Nat → Nat
  | 0 => 1
  | 1 => 2
  | 2 => 4
  | 3 => 4
  | _ => 8

/-- A DMA command with its lists read. -/
structure DmaJob where
  d   : DmaDesc
  src : List SgEntry
  dst : List SgEntry
deriving DecidableEq, Repr

/-- Read a command's descriptor and lists. A peripheral end has no list. -/
def readDma (v : View) (desc : Nat) : Option DmaJob := do
  let d ← parseDma (v.bytes desc 64)
  let src ← if d.srcKind = 2 then some [] else readSg v d.srcList d.srcCount (d.srcKind == 0)
  let dst ← if d.dstKind = 2 then some [] else readSg v d.dstList d.dstCount (d.dstKind == 0)
  some { d := d, src := src, dst := dst }

/-- The length of a list. -/
def sgTotal (es : List SgEntry) : Nat := (es.map (·.len)).sum

/-- The extents of a memory list. -/
def sgExtents (es : List SgEntry) : List (Nat × Nat) := es.map fun e => (e.addr, e.len)

/-- The memory a command reads: descriptor, lists and source. -/
def DmaJob.reads (j : DmaJob) (desc : Nat) : List (Nat × Nat) :=
  [(desc, 64)]
  ++ (if j.d.srcKind = 2 then [] else [(j.d.srcList, 16 * j.d.srcCount)])
  ++ (if j.d.dstKind = 2 then [] else [(j.d.dstList, 16 * j.d.dstCount)])
  ++ (if j.d.srcKind = 0 then sgExtents j.src else [])

/-- The memory a command writes: its destination, or the digest of a hashing line. -/
def DmaJob.writes (j : DmaJob) : List (Nat × Nat) :=
  if j.d.dstKind = 0 then sgExtents j.dst else if j.d.dstKind = 2 then [(j.d.dstList, 32)] else []

/-- The shape rules of R168, R169, R171, R173 and R482 for a command of a complex and channel. -/
def DmaJob.shapeOk (j : DmaJob) (complex chan : Nat) (commitDl : Ns) (e : Entry) : Bool :=
  let d := j.d
  (d.srcKind == 2 || sgTotal j.src == d.total) && (d.dstKind == 2 || sgTotal j.dst == d.total)
  && d.srcKind != 2
  && (d.dstKind != 2 || (d.paced && lineHashes complex d.reqLine))
  && (complex == 4 || (d.srcKind != 1 && d.dstKind != 1))
  && !(complex == 4 && decide (28 ≤ chan))
  && (!d.paced || lineOpen complex d.reqLine)
  && d.total % swapUnit d.swap == 0
  && (d.dstKind != 1 || d.afterCommit)
  && (!d.afterCommit || decide (commitDl ≤ e.release))
  && ((d.srcKind != 1 && d.dstKind != 1) || decide (d.total ≤ 64 * 2 ^ 30))

/-! ### Bursts (R170) -/

/-- The length of the burst at a position: the entry left over at both ends and the 4 KiB boundaries limit it. -/
def left (es : List SgEntry) (pos : Nat) : Option (Nat × Nat) :=
  match es with
  | [] => none
  | e :: rest => if pos < e.len then some (e.addr + pos, e.len - pos) else left rest (pos - e.len)

/-- Bytes up to the next 4 KiB boundary. -/
def toBoundary (a : Nat) : Nat := 4096 - a % 4096

/-- The length of the burst that starts at stream position `pos`. -/
def DmaJob.burst (j : DmaJob) (pos : Nat) : Nat :=
  let n0 := min (j.d.burstLines * 64) (j.d.total - pos)
  let n1 := match left j.src pos with
    | some (a, l) => min n0 (min l (toBoundary a))
    | none => n0
  match left j.dst pos with
  | some (a, l) => min n1 (min l (toBoundary a))
  | none => n1

/-- The lengths of the bursts from a position on. -/
def DmaJob.bursts (j : DmaJob) : Nat → Nat → List Nat
  | 0, _ => []
  | fuel + 1, pos => if j.d.total ≤ pos then [] else j.burst pos :: j.bursts fuel (pos + max 1 (j.burst pos))

/-- Does a list of memory entries touch HBM? -/
def touchesHbm (es : List SgEntry) : Bool := es.any fun e => decide (spaceOf e.addr = some .hbm)

/-- B of R183 in quarter bytes a mesh cycle (a host end at full link carries 55). -/
def State.pathRate (s : State) (complex : Nat) (j : DmaJob) : Nat :=
  let hbm := (j.d.srcKind == 0 && touchesHbm j.src) || (j.d.dstKind == 0 && touchesHbm j.dst)
  let sram := (j.d.srcKind == 0 && (j.src.any fun e => isSram e.addr))
    || (j.d.dstKind == 0 && (j.dst.any fun e => isSram e.addr))
  let host := 55 * s.hostGbs / 25
  let mem := if sram && !hbm then 128 else if complex = 4 then 4096 else 512
  let both := if sram && hbm then (if complex = 4 then 4096 else 512) else mem
  if j.d.srcKind = 1 ∨ j.d.dstKind = 1 then (if sram && !hbm then min 128 host else host) else both

/-- The channel's time (R174), in mesh cycles, for an unpaced command; a paced one takes at least its fixed cycles. -/
def State.dmaCycles (s : State) (complex : Nat) (j : DmaJob) : Nat :=
  if j.d.paced then 630
  else 630 + ((j.bursts (j.d.total + 1) 0).map fun n => max (cdiv (4 * n) (max 1 (s.pathRate complex j))) 16).sum

/-! ### Moving bytes -/

/-- Output byte `i` of the stream is input byte `i XOR swap` (R171), for the bytes `[pos, pos + n)`. -/
def swapped (input : Nat → Byte) (swap pos n : Nat) : List Byte := (List.range n).map fun i => input ((pos + i) ^^^ swap)

/-- The entries of a list cut to the stream positions `[pos, pos + n)`. -/
def cutList : List SgEntry → Nat → Nat → List SgEntry
  | [], _, _ => []
  | e :: es, pos, n =>
    if n = 0 then []
    else if e.len ≤ pos then cutList es (pos - e.len) n
    else
      let m := min n (e.len - pos)
      { addr := e.addr + pos, len := m } :: cutList es 0 (n - m)

/-- The byte of a source list at a stream position. -/
def sgByte (v : View) (es : List SgEntry) (pos : Nat) : Byte :=
  match left es pos with
  | some (a, _) => v a
  | none => 0#8

/-- Bytes that fall where the source and destination overlap are undefined (R170): each is a free byte. -/
def overlapFree (draw : Nat) (src : List SgEntry) (w : Nat × List Byte) : Nat × List Byte :=
  (w.1, w.2.zipIdx.map fun p =>
    if src.any fun e => decide (e.addr ≤ w.1 + p.2 ∧ w.1 + p.2 < e.addr + e.len) then Config.freeByte draw (w.1 + p.2)
    else p.1)

/-- Re-encodes of a burst (R172): one where bytes are rearranged or an end is not on an 8-byte boundary. -/
def reencodes (j : DmaJob) (pos n : Nat) : Bool :=
  j.d.swap != 0 || n % 8 != 0
  || (match left j.src pos with | some (a, _) => a % 8 != 0 | none => false)
  || (match left j.dst pos with | some (a, _) => a % 8 != 0 | none => false)

/-- Count bursts from a position (R188). -/
def State.countBursts (s : State) (j : DmaJob) : List Nat → Nat → State
  | [], _ => s
  | n :: ns, pos =>
    ({ s with dma := { s.dma with
        bursts := satInc s.dma.bursts
        reencode := if reencodes j pos n then satNat 24 (s.dma.reencode + 1) else s.dma.reencode } }).countBursts j ns
      (pos + n)

/-- The source byte of a stream: memory of the command's view, or host data, of which the operand holds the bytes from
`from_` on. -/
def DmaJob.input (j : DmaJob) (v : View) (host : List Byte) (from_ : Nat) (pos : Nat) : Byte :=
  if j.d.srcKind = 1 then host.getD (pos - from_) 0#8 else sgByte v j.src pos

/-- Move the bytes `[pos, pos + n)` of a command: device memory through Weir, host memory by writes of the ford complex.
Answers the reason of a detected fault. -/
def State.dmaMove (s : State) (c : CtxId) (t : Step) (j : DmaJob) (host : List Byte) (pos n : Nat) :
    State × Option Reason :=
  let v := s.cmdView c t
  let part := cutList j.src pos n
  -- the swap unit may reach beyond the burst: the whole unit's source is checked
  if j.d.srcKind = 0 && !s.canRead c t (sgExtents part) then (s, some .fault)
  else
    let out := swapped (j.input v host (pos / 8 * 8)) j.d.swap pos n
    match j.d.dstKind with
    | 0 =>
      let ws := scatter (cutList j.dst pos n) out
      let both := j.d.srcKind = 0
      let ws' := if both then ws.map (overlapFree s.mem.draws j.src) else ws
      let s1 := { s with mem := { s.mem with draws := s.mem.draws + 1 } }
      s1.cmdWrite c t ws'
    | 1 => (s.emits ((scatter (cutList j.dst pos n) out).map fun w => .hostWrite w.1 w.2), none)
    | _ => (s, none)

/-- A hashing line writes the digest of the whole stream once the last byte has passed (R438). -/
def State.dmaHash (s : State) (c : CtxId) (t : Step) (j : DmaJob) (host : List Byte) : State × Option Reason :=
  if j.d.dstKind = 2 then
    let out := swapped (j.input (s.cmdView c t) host 0) j.d.swap 0 j.d.total
    s.cmdWrite c t [(j.d.dstList, digestBytes (sha256 out))]
  else (s, none)

/-- The complex and channel of a DMA engine. -/
def dmaPlace : Engine → Nat × Nat
  | .dma x ch => (x, ch)
  | _ => (0, 0)

/-- Re-read what a DMA command names and check what it may read (R480, R121). -/
def State.dmaJob (s : State) (c : CtxId) (t : Step) (k : Cmd) : Option DmaJob :=
  let v := s.cmdView c t
  match readDma v k.entry.desc with
  | none => none
  | some j =>
    let p := dmaPlace k.entry.engine
    if s.canRead c t ([(k.entry.desc, 64)] ++ j.reads k.entry.desc |>.take 3)
        && j.shapeOk p.1 p.2 t.hdr.commitDl k.entry then some j else none

/-- A line of a complex, from the numbers of a command. -/
def lineOf (complex line : Nat) : Fin 5 × Fin 64 := (⟨complex % 5, Nat.mod_lt _ (by decide)⟩, ⟨line % 64, Nat.mod_lt _ (by decide)⟩)

/-- ACK a request of a paced command with the size of its next burst (R176). -/
def State.ackLine (s : State) (r : CmdRef) (j : DmaJob) (l : Fin 5 × Fin 64) (pos : Nat) : State :=
  let s1 := { s with dma := { s.dma with reqs := s.dma.reqs.filter fun q => q != l } }
  (s1.emit (.lineAck l.1 l.2 (j.burst pos))).modCmd r fun k => { k with lineAcked := true }

/-- Does a paced command hold a request: acknowledged, or waiting on its line? -/
def State.requested (s : State) (k : Cmd) (l : Fin 5 × Fin 64) : Bool := k.lineAcked || s.dma.reqs.contains l

/-- One burst of a running command ends: its bytes are written and DONE is issued (R170, R176). -/
def execDmaBurstComplete (r : CmdRef) (host : List Byte) (s : State) : Host.Outcome State Fault Refusal :=
  .next <| match s.step? r, s.cmd? r with
  | some t, some k =>
    if s.up = true ∧ engineKind k.entry.engine = 3 ∧ k.mayEnd s.clk.now 0 then
      match s.dmaJob r.ctx t k with
      | none => s.faultCmd r .fault
      | some j =>
        let l := lineOf (dmaPlace k.entry.engine).1 j.d.reqLine
        if j.d.total ≤ k.position ∨ (j.d.paced ∧ !s.requested k l) then s
        else
          let s0 := if j.d.paced && !k.lineAcked then s.ackLine r j l k.position else s
          let n := j.burst k.position
          let m := s0.dmaMove r.ctx t j host k.position n
          match m.2 with
          | some reason => m.1.faultCmd r reason
          | none =>
            let s1 := (m.1.countBursts j [n] k.position).modCmd r fun k =>
              { k with position := k.position + n, lineAcked := false }
            if j.d.paced then s1.emit (.lineDone l.1 l.2 false) else s1
    else s
  | _, _ => s

/-- What is left of an unpaced command is moved when it completes; the bursts of a paced one have all been requested. -/
def dmaEffect (host : List Byte) (r : CmdRef) : Effect := fun s t k =>
  match s.dmaJob r.ctx t k with
  | none => (s, some .fault)
  | some j =>
    let n := j.d.total - k.position
    let m := if j.d.paced then (s, none) else s.dmaMove r.ctx t j host k.position n
    match m.2 with
    | some reason => (m.1, some reason)
    | none =>
      let s1 := if j.d.paced then m.1 else m.1.countBursts j (j.bursts (j.d.total + 1) k.position) k.position
      s1.dmaHash r.ctx t j host

/-- The time a DMA command needs (R174). -/
def dmaMinTime (s : State) (c : CtxId) (t : Step) (k : Cmd) : Ns :=
  match s.dmaJob c t k with
  | none => 0
  | some j => cyclesNs (s.dmaCycles (dmaPlace k.entry.engine).1 j) 1800

/-- May a paced command end: every burst has been requested and moved (R176). -/
def State.dmaPacedDone (s : State) (r : CmdRef) : Bool :=
  match s.step? r, s.cmd? r with
  | some t, some k =>
    match s.dmaJob r.ctx t k with
    | none => true
    | some j => !j.d.paced || decide (j.d.total ≤ k.position)
  | _, _ => false

/-- A DMA command completes (R170, R173, R174). -/
def execDmaCommandComplete (r : CmdRef) (host : List Byte) (s : State) : Host.Outcome State Fault Refusal :=
  .next <| if s.dmaPacedDone r then s.completeCmd r 3 (fun s t k => dmaMinTime s r.ctx t k) (dmaEffect host r) else s

/-- A peripheral raises REQ (R176): the complex acknowledges one burst of the running command that the line paces;
otherwise the request waits. A disabled line is not seen. -/
def execReqRise (complex : Fin 5) (line : Fin 64) (s : State) : Host.Outcome State Fault Refusal :=
  .next <| s.whenPowered fun s =>
    if s.hw.lineDown.contains (complex, line) then s
    else
      let hit := s.allCmds.find? fun p =>
        p.2.line == some (complex, line) && p.2.state == .running && !p.2.lineAcked
      match hit with
      | some p =>
        match s.step? p.1 with
        | some t =>
          match s.dmaJob p.1.ctx t p.2 with
          | some j => if p.2.position < j.d.total then s.ackLine p.1 j (complex, line) p.2.position else s
          | none => s
        | none => s
      | none =>
        if s.dma.reqs.contains (complex, line) then s
        else { s with dma := { s.dma with reqs := s.dma.reqs ++ [(complex, line)] } }

/-- A parity fault of a line (R177): the command on it ends as a detected fault, the line stays disabled, and the fault is
counted. -/
def execRequestLineParityFault (complex : Fin 5) (line : Fin 64) (s : State) : Host.Outcome State Fault Refusal :=
  .next <| s.whenPowered fun s =>
    if s.hw.lineDown.contains (complex, line) then s
    else
      let s1 := { s with
        hw := { s.hw with lineDown := s.hw.lineDown ++ [(complex, line)] }
        dma := { s.dma with lineFaults := satInc s.dma.lineFaults, reqs := s.dma.reqs.filter fun q => q != (complex, line) } }
      let hit := s.allCmds.find? fun p =>
        p.2.line == some (complex, line) && (p.2.state == .running || p.2.state == .suspended)
      match hit with
      | some p => s1.faultCmd p.1 .fault
      | none => s1

end Sys2Proof.Machine
end

