-- ==== Sys2Proof/Machine/Matrix.lean ====
section
/-! DEFINITION. Matrix commands (R57 to R78, R83 to R99, R133 to R136, R481): descriptor and shape rules, the exact
block sums, the combiner, the accumulator regions, and the outputs of the quantise/rescale unit. -/

namespace Sys2Proof.Machine

/-! ### The descriptor (R75) -/

/-- A group entry. -/
structure MatGroup where
  rowBands : Nat
  colBands : Nat
  unit     : Nat
  tokens   : Nat
  weights  : Nat
  acts     : Nat
  out      : Nat
deriving DecidableEq, Repr

/-- A matrix descriptor. -/
structure MatDesc where
  broadcast  : Bool
  ownStreams : Bool
  acc        : Bool
  out2       : Bool
  outAxis    : Nat
  clipAdd    : Bool
  fill       : Bool
  spill      : Bool
  groups     : Nat
  held       : Bool
  m          : Nat
  k          : Nat
  n          : Nat
  accLen     : Nat
  unit       : Nat
  regTokens  : Nat
  weights    : Nat
  acts       : Nat
  out        : Nat
  out_2      : Nat
  rescale    : Nat
  clips      : Nat
  fillT      : Nat
  spillT     : Nat
  gs         : List MatGroup
deriving DecidableEq, Repr

/-- A group entry from its 32 bytes. -/
def parseMatGroup (bs : List Byte) : MatGroup where
  rowBands := field bs 0 1
  colBands := field bs 1 1
  unit := field bs 2 2
  tokens := field bs 4 2
  weights := field bs 8 8
  acts := field bs 16 8
  out := field bs 24 8

/-- The ranges of a group entry. -/
def MatGroup.ok (g : MatGroup) (bs : List Byte) : Bool :=
  decide (1 ≤ g.rowBands ∧ g.rowBands < 16 ∧ 1 ≤ g.colBands ∧ g.colBands < 16 ∧ g.unit < 128
    ∧ 1 ≤ g.tokens ∧ g.tokens ≤ 1024 ∧ g.weights < 2 ^ 48 ∧ g.acts < 2 ^ 48 ∧ g.out < 2 ^ 48) && zeroAt bs 6 2

/-- A matrix descriptor from its bytes; none for a nonzero reserved byte or a field out of range. -/
def parseMatrix (bs : List Byte) : Option MatDesc :=
  let fl := field bs 1 1
  let groups := field bs 2 1
  let entry (g : Nat) : List Byte := slice bs (128 + 32 * g) 32
  let d : MatDesc :=
    { broadcast := bit fl 0, ownStreams := bit fl 1, acc := bit fl 2, out2 := bit fl 3, outAxis := bits fl 4 4,
      clipAdd := bit fl 5, fill := bit fl 6, spill := bit fl 7, groups := groups, held := field bs 3 1 == 1,
      m := field bs 4 4, k := field bs 8 4, n := field bs 12 4, accLen := field bs 16 4, unit := field bs 20 2,
      regTokens := field bs 22 2, weights := field bs 32 8, acts := field bs 40 8, out := field bs 48 8,
      out_2 := field bs 56 8, rescale := field bs 64 8, clips := field bs 72 8, fillT := field bs 80 8,
      spillT := field bs 88 8, gs := (List.range groups).map fun g => parseMatGroup (entry g) }
  if bs.length = 256 ∧ field bs 0 1 = 1 ∧ groups ≤ 4 ∧ field bs 3 1 ≤ 1 ∧ zeroAt bs 24 8 ∧ zeroAt bs 96 32
      ∧ d.weights < 2 ^ 48 ∧ d.acts < 2 ^ 48 ∧ d.out < 2 ^ 48 ∧ d.out_2 < 2 ^ 48 ∧ d.rescale < 2 ^ 48
      ∧ d.clips < 2 ^ 48 ∧ d.fillT < 2 ^ 48 ∧ d.spillT < 2 ^ 48
      ∧ (groups ≠ 0 ∨ (1 ≤ d.m ∧ d.m ≤ 1048576 ∧ 1 ≤ d.k ∧ d.k ≤ 1048576 ∧ 1 ≤ d.n ∧ d.n ≤ 1048576 ∧ d.unit < 128
        ∧ 1 ≤ d.regTokens ∧ d.regTokens ≤ 1024))
      ∧ ((List.range 4).all fun g => if g < groups then (parseMatGroup (entry g)).ok (entry g)
          else zeroAt bs (128 + 32 * g) 32) then some d
  else none

/-! ### Modes (R59) -/

/-- The cell modes of R59. -/
inductive Mode where
  | mxfp
  | mxint
  | int8
  | bf16
deriving DecidableEq, Repr

/-- The mode of a pairing of formats; none for a pairing that R59 does not list. -/
def modeOf (w a : Fmt) : Option Mode :=
  match w.float?, a.float? with
  | some _, some _ => some .mxfp
  | _, _ =>
    if w = .mxint8 ∧ a = .mxint8 then some .mxint
    else if w.isInt && a.isInt then some .int8
    else if w = .bf16 ∧ a = .bf16 then some .bf16
    else none

/-- Stream cycles for a number of tokens (R59). -/
def Mode.stream : Mode → Nat → Nat
  | .mxfp, m => cdiv m 2
  | .mxint, m => m
  | .int8, m => m
  | .bf16, m => 4 * m

/-! ### The products of a command -/

/-- One product: its tensors, its shape, and the first output channel in the rescale table and clip vector (R481). -/
structure Prod where
  w     : Tensor
  a     : Tensor
  o     : Option Tensor
  m     : Nat
  k     : Nat
  n     : Nat
  chan0 : Nat
  unit  : Nat
  bands : Nat
deriving DecidableEq, Repr

/-- A matrix command with its tensors read. -/
structure MatJob where
  d     : MatDesc
  prods : List Prod
  o2    : Option Tensor
  fill  : Option Tensor
  spill : Option Tensor
deriving DecidableEq, Repr

/-- The products of a packed command: K and N are the delivered shape of a group's weights (R481). -/
def packedProds (v : View) : List MatGroup → Nat → Option (List Prod)
  | [], _ => some []
  | g :: gs, chan => do
    let w ← v.tensor? g.weights
    let a ← v.tensor? g.acts
    let o ← v.tensor? g.out
    let rest ← packedProds v gs (chan + w.vCols)
    some ({ w := w, a := a, o := some o, m := g.tokens, k := w.vRows, n := w.vCols, chan0 := chan, unit := g.unit,
            bands := popcount g.colBands 4 } :: rest)

/-- A tensor that is named only when a flag is set: the flag and the address agree. -/
def optTensor (v : View) (used : Bool) (a : Nat) : Option (Option Tensor) :=
  if used then (v.tensor? a).map some else if a = 0 then some none else none

/-- Read a matrix command. -/
def readMatrix (v : View) (desc : Nat) : Option MatJob := do
  let d ← parseMatrix (v.bytes desc 256)
  let o2 ← optTensor v d.out2 d.out_2
  let fill ← optTensor v d.fill d.fillT
  let spill ← optTensor v d.spill d.spillT
  if d.groups = 0 then
    let w ← v.tensor? d.weights
    let a ← v.tensor? d.acts
    let o ← optTensor v (d.out != 0) d.out
    some { d := d, o2 := o2, fill := fill, spill := spill,
           prods := [{ w := w, a := a, o := o, m := d.m, k := d.k, n := d.n, chan0 := 0, unit := d.unit, bands := 4 }] }
  else
    let ps ← packedProds v d.gs 0
    some { d := d, o2 := o2, fill := fill, spill := spill, prods := ps }

/-- Output channels over all products. -/
def MatJob.channels (j : MatJob) : Nat := (j.prods.map (·.n)).sum

/-- The mode of a command. -/
def MatJob.mode (j : MatJob) : Option Mode := j.prods.head?.bind fun p => modeOf p.w.fmt p.a.fmt

/-- Region units of one slot. -/
def MatDesc.slotUnits (d : MatDesc) : Nat := cdiv d.regTokens 32 * 4

/-- The accumulator units of a command on `arrays` slots: first unit and number (R70, R75). -/
def MatJob.regions (j : MatJob) (arrays : Nat) : List (Nat × Nat) :=
  if j.d.groups = 0 then (List.range arrays).map fun i => (j.d.unit + i * j.d.slotUnits, j.d.slotUnits)
  else j.prods.map fun p => (p.unit, cdiv p.m 32 * p.bands)

/-- The tensors a command names. -/
def MatJob.tensors (j : MatJob) : List Tensor :=
  (j.prods.flatMap fun p => [p.w, p.a] ++ p.o.toList) ++ j.o2.toList ++ j.fill.toList ++ j.spill.toList

/-- The descriptors a command names, as extents. -/
def MatJob.descExtents (j : MatJob) (desc : Nat) : List (Nat × Nat) :=
  let d := j.d
  [(desc, 256)]
  ++ ((if d.groups = 0 then [d.weights, d.acts, d.out] else d.gs.flatMap fun g => [g.weights, g.acts, g.out])
      ++ [d.out_2, d.fillT, d.spillT]).filterMap fun a => if a = 0 then none else some (a, 32)

/-- What a command reads besides descriptors. -/
def MatJob.reads (j : MatJob) : List (Nat × Nat) :=
  (j.prods.flatMap fun p => p.w.extents ++ p.a.extents) ++ optExtents j.fill
  ++ (if j.d.rescale = 0 then [] else [(j.d.rescale, 8 * j.channels)])
  ++ (if j.d.clips ≠ 0 ∧ j.d.clipAdd then [(j.d.clips, 4 * j.channels)] else [])

/-- What a command writes. -/
def MatJob.writesTo (j : MatJob) (arrays core : Nat) : List (Nat × Nat) :=
  (j.prods.flatMap fun p => optExtents p.o) ++ optExtents j.o2 ++ optExtents j.spill
  ++ (if j.d.clips = 0 then [] else [(j.d.clips, 4 * j.channels)])
  ++ (j.regions arrays).map fun r => (accBase core + 4096 * r.1, 4096 * r.2)

/-- Blocks of a weight tensor lie along the contraction as read, those of a stream too (R129, R131). -/
def axisOk (t : Tensor) (wantRows : Bool) : Bool :=
  !t.fmt.isMx || decide ((t.blockAxis = 0) = (wantRows != t.transpose))

/-- Two masks share no band. -/
def disjointMasks : List Nat → Bool
  | [] => true
  | m :: ms => (ms.all fun n => m &&& n == 0) && disjointMasks ms

/-- The shape rules of R59, R70, R71, R73, R90, R131, R133 and R481 on `arrays` arrays of a core. -/
def MatJob.shapeOk (j : MatJob) (arrays : Nat) : Bool :=
  let d := j.d
  match j.mode with
  | none => false
  | some mode =>
    let outT := j.prods.filterMap (·.o)
    let accFmt : Fmt := if mode = .int8 then .int32 else .fp32
    (j.prods.all fun p =>
      modeOf p.w.fmt p.a.fmt == some mode
      && (j.prods.all fun q => q.w.fmt == p.w.fmt && q.a.fmt == p.a.fmt)
      && p.w.vRows == p.k && p.w.vCols == p.n && p.a.vRows == p.m && p.a.vCols == p.k
      && axisOk p.w true && axisOk p.a false
      && (p.o.toList ++ (if d.groups = 0 then j.o2.toList ++ j.fill.toList ++ j.spill.toList else [])).all fun t =>
        t.rows == p.m && t.cols == p.n)
    && (j.fill.toList ++ j.spill.toList).all (fun t => t.fmt == accFmt)
    && (j.regions arrays).all (fun r => decide (r.1 + r.2 ≤ 128))
    && (mode == .int8 || d.accLen == 0)
    && (mode != .int8 || j.prods.all fun p => decide (d.accLen + p.k ≤ 32768))
    && (!d.fill || d.acc)
    && (if d.groups = 0 then
          (!outT.isEmpty || ((d.held || d.spill) && !d.out2 && d.rescale == 0 && d.clips == 0))
          && (!d.broadcast || d.ownStreams)
          && (!(d.acc && !d.fill) ||
              (decide (d.m ≤ d.regTokens)
                && (if d.broadcast then decide (d.n ≤ 128) else decide (cdiv d.n 128 ≤ arrays))))
        else
          !d.out2 && !d.fill && !d.spill && !d.held
          && disjointMasks (d.gs.map (·.rowBands)) && disjointMasks (d.gs.map (·.colBands))
          && (d.gs.zip j.prods).all fun gp =>
            decide (gp.2.k ≤ 32 * popcount gp.1.rowBands 4 ∧ gp.2.n ≤ 32 * popcount gp.1.colBands 4))

/-! ### Time (R67) -/

/-- Cycles of one pass but the last. -/
def passCycles (mode : Mode) (s : Nat) : Nat := if mode = .bf16 then s + 128 else max s 128

/-- Cycles of an array that runs the chunks in turn for each of `tiles` output tiles, `kt` k-tiles each. -/
def arrayCycles (mode : Mode) (tiles kt : Nat) (chunks : List Nat) : Nat :=
  if tiles = 0 ∨ chunks = [] then 0
  else
    let ss := chunks.map mode.stream
    let last := ss.getLast?.getD 0
    128 + tiles * kt * (ss.map (passCycles mode)).sum - passCycles mode last + last + 256

/-- The chunks of M tokens (R70). -/
def chunksOf (m reg : Nat) : List Nat := (List.range (cdiv m reg)).map fun i => min reg (m - i * reg)

/-- The cycles of a command (R67): descriptor and completion, and the slowest array. -/
def MatJob.cycles (j : MatJob) (arrays : Nat) : Nat :=
  match j.mode with
  | none => 140
  | some mode =>
    if j.d.groups ≠ 0 then
      140 + 128 + ((j.prods.map fun p => mode.stream p.m).foldl max 0) + 256
    else
      let nt := cdiv j.d.n 128
      let kt := cdiv j.d.k 128
      let cs := chunksOf j.d.m j.d.regTokens
      let per := (List.range arrays).map fun i =>
        if j.d.broadcast then
          arrayCycles mode nt kt ((cs.zipIdx.filter fun c => c.2 % arrays == i).map (·.1))
        else arrayCycles mode ((nt + arrays - 1 - i) / arrays) kt cs
      140 + per.foldl max 0

/-! ### Block sums (R60, R61, R83 to R89) -/

/-- The exact sum of some values. -/
def sumX (xs : List XVal) : XVal := xs.foldl XVal.add (.fin false 0 1)

/-- An element in the lane: its code's value without scale; zero beyond the tensor. -/
def Tensor.lane (t : Tensor) (v : View) (r c : Nat) : XVal :=
  let p := t.place r c
  if t.rows ≤ p.1 ∨ t.cols ≤ p.2 then .fin false 0 1 else t.fmt.mxValue (t.codeAt v p.1 p.2)

/-- The scale of a delivered element. -/
def Tensor.scaleOf (t : Tensor) (v : View) (r c : Nat) : Nat :=
  let p := t.place r c
  t.sideAt v p.1 p.2

/-- The BF16 code of a delivered element; zero beyond the tensor. -/
def Tensor.codeOf (t : Tensor) (v : View) (r c : Nat) : Nat :=
  let p := t.place r c
  if t.rows ≤ p.1 ∨ t.cols ≤ p.2 then 0 else t.codeAt v p.1 p.2

/-- The aligned magnitude with its sign of a BF16 code under a block exponent field (R86); a special enters as zero. -/
def alignBf16 (ef w : Nat) : Int :=
  let e := w / 128 % 256
  if e = 255 then 0
  else
    let s8 := (if e = 0 then 0 else 128) + w % 128
    let d := ef - max 1 e
    let a := if d ≤ 8 then s8 * 2 ^ (8 - d) else roundNat s8 (2 ^ (d - 8))
    if 32768 ≤ w then -(a : Int) else a

/-- Block `b` of 32 contraction indices for one output element in an MX mode; none when the block is special (R85). -/
def mxBlock (v : View) (p : Prod) (b m n : Nat) : Option XVal :=
  let ks := (List.range 32).map fun i => 32 * b + i
  let ks := ks.filter fun k => decide (k < p.k)
  let ws := ks.map fun k => p.w.lane v k n
  let as := ks.map fun k => p.a.lane v m k
  let sw := p.w.scaleOf v (32 * b) n
  let sa := p.a.scaleOf v m (32 * b)
  if sw = 255 ∨ sa = 255 ∨ ws.any (fun x => !x.isFin) ∨ as.any (fun x => !x.isFin) then none
  else some ((sumX ((ws.zip as).map fun x => x.1.mul x.2)).scale ((sw : Int) + sa - 254))

/-- The same in aligned-block BF16 (R86, R87). -/
def bfBlock (v : View) (p : Prod) (b m n : Nat) : Option XVal :=
  let ks := ((List.range 32).map fun i => 32 * b + i).filter fun k => decide (k < p.k)
  let ws := ks.map fun k => p.w.codeOf v k n
  let as := ks.map fun k => p.a.codeOf v m k
  if (ws ++ as).any fun w => decide (w / 128 % 256 = 255) then none
  else
    let ew := blockExponent ws
    let ea := blockExponent as
    let sum := ((ws.zip as).map fun x => alignBf16 ew x.1 * alignBf16 ea x.2).sum
    some ((XVal.ofInt sum).scale ((ew : Int) + ea - 284))

/-- The lane sum of one k-tile in INT8 mode (R88). -/
def intTile (v : View) (p : Prod) (t m n : Nat) : Int :=
  let ks := ((List.range 128).map fun i => 128 * t + i).filter fun k => decide (k < p.k)
  (ks.map fun k => (p.w.value v k n).num * (p.a.value v m k).num).sum

/-! ### The combiner (R61) -/

/-- One add of the combiner: a special block makes the value the canonical NaN for good; a zero leaves it unchanged. -/
def combine (acc : BitVec 32) : Option XVal → BitVec 32
  | none => fp32Nan
  | some x => if x.isZero then acc else fp32Round ((fp32Value acc).add x)

/-- The accumulator value of an output element in a floating mode: blocks in ascending contraction index. -/
def accFloat (mode : Mode) (v : View) (p : Prod) (init : BitVec 32) (m n : Nat) : BitVec 32 :=
  (List.range (cdiv p.k 32)).foldl (fun acc b =>
    combine acc (if mode = .bf16 then bfBlock v p b m n else mxBlock v p b m n)) init

/-- One add of INT8 mode: saturating at the INT32 range, with a mark that it did (R61). -/
def combineInt (acc : Int × Bool) (x : Int) : Int × Bool :=
  let r := clampInt (-2147483648) 2147483647 (acc.1 + x)
  (r.1, acc.2 || r.2)

/-- The accumulator value of an output element in INT8 mode. -/
def accInt (v : View) (p : Prod) (init : Int) (m n : Nat) : Int × Bool :=
  (List.range (cdiv p.k 128)).foldl (fun acc t => combineInt acc (intTile v p t m n)) (init, false)

/-! ### Regions (R75, R133) -/

/-- The address of an output element's value in the region its tile and chunk use. -/
def MatJob.accAddr (j : MatJob) (core arrays : Nat) (p : Prod) (m n : Nat) : Nat :=
  if j.d.groups = 0 then
    let slot := (if j.d.broadcast then m / j.d.regTokens else n / 128) % max 1 arrays
    let mm := m % j.d.regTokens
    let c := n % 128
    accBase core + 4096 * (j.d.unit + slot * j.d.slotUnits + mm / 32 * 4 + c / 32) + 4 * (32 * (mm % 32) + c % 32)
  else accBase core + 4096 * (p.unit + m / 32 * p.bands + n / 32) + 4 * (32 * (m % 32) + n % 32)

/-- The value an element starts from: +0, the fill tensor's, or the region's (R61, R134). -/
def MatJob.initial (j : MatJob) (v : View) (core arrays : Nat) (p : Prod) (m n : Nat) : BitVec 32 :=
  if !j.d.acc then 0#32
  else match j.fill with
    | some t => BitVec.ofNat 32 (t.codeAt v m n)
    | none => BitVec.ofNat 32 (leNat (v.bytes (j.accAddr core arrays p m n) 4))

/-- The finished accumulator word of an element, and whether an INT32 add of it saturated. -/
def MatJob.result (j : MatJob) (v : View) (mode : Mode) (core arrays : Nat) (p : Prod) (m n : Nat) : BitVec 32 × Bool :=
  let i := j.initial v core arrays p m n
  if mode = .int8 then
    let r := accInt v p i.toInt m n
    (BitVec.ofInt 32 r.1, r.2)
  else (accFloat mode v p i m n, false)

/-- The value of an accumulator word. -/
def accValue (mode : Mode) (w : BitVec 32) : XVal := if mode = .int8 then .ofInt w.toInt else fp32Value w

/-! ### Outputs (R95 to R99) -/

/-- The rescale entry of a channel: SCALE and the OUT_ZP byte; 1.0 and 0 with no table (R95). -/
def MatJob.scaleEntry (j : MatJob) (v : View) (chan : Nat) : BitVec 32 × Nat :=
  if j.d.rescale = 0 then (fp32One, 0)
  else
    let e := leNat (v.bytes (j.d.rescale + 8 * chan) 8)
    (BitVec.ofNat 32 (e / 2 ^ 32), bits e 31 24)

/-- OUT_ZP as an integer of the output tensor's signedness (R95). -/
def outZp (t : Tensor) (raw : Nat) : Int :=
  match t.fmt with
  | .int8 sg => codeInt 8 sg raw
  | .int4 sg => codeInt 4 sg raw
  | _ => 0

/-- y = acc × SCALE; a NaN or infinite SCALE makes it a NaN (R95). -/
def rescaled (mode : Mode) (acc scale : BitVec 32) : XVal :=
  let s := fp32Value scale
  if s.isFin then (accValue mode acc).mul s else .nan

/-- The source of an output tensor of a product. -/
def MatJob.source (j : MatJob) (v : View) (mode : Mode) (core arrays : Nat) (p : Prod) (t : Tensor) : Source where
  val m n := rescaled mode (j.result v mode core arrays p m n).1 (j.scaleEntry v (p.chan0 + n)).1
  zp n := outZp t (j.scaleEntry v (p.chan0 + n)).2

/-- An output tensor with the block axis the command selects: 0 channel (columns), 1 token (rows) (R96). -/
def withAxis (t : Tensor) (axis : Nat) : Tensor := { t with blockAxis := if axis = 0 then 1 else 0 }

/-- The clips of a channel (R98): saturated or infinite as written, an infinite accumulator value, or a saturated INT32
one; each element once. -/
def MatJob.clipCount (j : MatJob) (v : View) (mode : Mode) (core arrays : Nat) (p : Prod) (t : Tensor) (n : Nat) : Nat :=
  let src := j.source v mode core arrays p t
  ((List.range p.m).filter fun m =>
    let r := j.result v mode core arrays p m n
    (t.conv src m n).clip || r.2 || (mode != .int8 && decide (r.1.toNat % 2 ^ 31 = 0x7F800000))).length

/-- The clip-count vector as written (R99). -/
def MatJob.clipWrites (j : MatJob) (v : View) (mode : Mode) (core arrays : Nat) : List (Nat × List Byte) :=
  if j.d.clips = 0 then []
  else j.prods.filterMap fun p => p.o.map fun o =>
    (j.d.clips + 4 * p.chan0, (List.range p.n).flatMap fun n =>
      let old := if j.d.clipAdd then leNat (v.bytes (j.d.clips + 4 * (p.chan0 + n)) 4) else 0
      leBytes 4 (satNat 32 (old + j.clipCount v mode core arrays p (withAxis o j.d.outAxis) n)))

/-- The regions' values as the command leaves them: every tile and chunk in turn, so the last that uses a place
stands (R70, R133). -/
def MatJob.regionWrites (j : MatJob) (v : View) (mode : Mode) (core arrays : Nat) : List (Nat × List Byte) :=
  j.prods.flatMap fun p =>
    (List.range p.m).flatMap fun m => (List.range p.n).map fun n =>
      (j.accAddr core arrays p m n, leBytes 4 (j.result v mode core arrays p m n).1.toNat)

/-- Every write of a command. -/
def MatJob.writes (j : MatJob) (v : View) (mode : Mode) (core arrays : Nat) : List (Nat × List Byte) :=
  (j.prods.flatMap fun p =>
    (match p.o with
      | some o => let t := withAxis o j.d.outAxis; t.writes v (j.source v mode core arrays p t)
      | none => [])
    ++ (match j.o2 with
      | some o => let t := withAxis o (1 - j.d.outAxis); t.writes v (j.source v mode core arrays p t)
      | none => [])
    ++ (match j.spill with
      | some t => t.writes v { val := fun m n => accValue mode (j.result v mode core arrays p m n).1, zp := fun _ => 0 }
      | none => []))
  ++ j.clipWrites v mode core arrays ++ j.regionWrites v mode core arrays

/-- The logical core of an engine. -/
def coreOf : Engine → Nat
  | .matrix n => n
  | .vector n => n
  | _ => 0

/-- Read a matrix command as its core does, with what it may read. -/
def State.matJob (s : State) (c : CtxId) (t : Step) (k : Cmd) : Option MatJob :=
  match readMatrix (s.cmdView c t) k.entry.desc with
  | none => none
  | some j =>
    if j.shapeOk k.entry.arrays && s.canRead c t (j.descExtents k.entry.desc ++ j.reads) then some j else none

/-- What a matrix command does when it completes (R61, R69, R95, R134). -/
def matrixEffect (c : CtxId) : Effect := fun s t k =>
  match s.matJob c t k with
  | none => (s, some .fault)
  | some j =>
    match j.mode with
    | none => (s, some .fault)
    | some mode => s.cmdWrite c t (j.writes (s.cmdView c t) mode (coreOf k.entry.engine) k.entry.arrays)

/-- The time a matrix command needs (R67). -/
def matrixMinTime (s : State) (c : CtxId) (t : Step) (k : Cmd) : Ns :=
  match s.matJob c t k with
  | none => 0
  | some j => cyclesNs (j.cycles k.entry.arrays) 1400

/-- A matrix command completes (R61, R69). -/
def State.matrixComplete (s : State) (r : CmdRef) : State :=
  (s.completeCmd r 1 (fun s t k => matrixMinTime s r.ctx t k) (matrixEffect r.ctx))

end Sys2Proof.Machine
end

