-- ==== Sys2Proof/Machine/Update.lean ====
section
/-! DEFINITION. The update unit (R218, R224 to R229): its descriptor, its rules, and the completion of an update
command. -/

namespace Sys2Proof.Machine

/-! ### The descriptor (R226, R228) -/

/-- An update descriptor. `addrs` are MASTER, M, V, CARRY, GRAD, WORK0, WORK1. -/
structure UpdDesc where
  rule   : Nat
  acc    : Bool
  nf     : Bool
  n      : Nat
  gscale : Nat
  addrs  : List Nat
  lr     : BitVec 32
  beta1  : BitVec 32
  omb1   : BitVec 32
  beta2  : BitVec 32
  omb2   : BitVec 32
  eps    : BitVec 32
  wd     : BitVec 32
  bc1    : BitVec 32
  bc2    : BitVec 32
deriving DecidableEq, Repr

/-- The tensors a rule uses besides working copies, in the order of R228 (R225). -/
def ruleUses (rule : Nat) : List Bool :=
  match rule with
  | 0 => [true, false, false, false, false]
  | 1 => [true, true, false, false, true]
  | 2 => [true, true, true, false, true]
  | 3 => [true, true, true, true, true]
  | 4 => [true, true, true, false, true]
  | _ => [true, true, false, false, true]

/-- An update descriptor from its 128 bytes; none is a shape failure (R228). -/
def parseUpdate (bs : List Byte) : Option UpdDesc :=
  let fp := fun a => BitVec.ofNat 32 (field bs a 4)
  let flags := field bs 2 1
  let d : UpdDesc :=
    { rule := field bs 1 1, acc := flags % 2 == 1, nf := flags / 2 % 2 == 1, n := field bs 4 4, gscale := field bs 8 8,
      addrs := (List.range 7).map fun i => field bs (16 + 8 * i) 8,
      lr := fp 72, beta1 := fp 76, omb1 := fp 80, beta2 := fp 84, omb2 := fp 88, eps := fp 92, wd := fp 96,
      bc1 := fp 100, bc2 := fp 104 }
  if bs.length = 128 ∧ field bs 0 1 = 4 ∧ d.rule ≤ 5 ∧ flags < 4 ∧ (d.acc = false ∨ d.rule = 3) ∧ zeroAt bs 3 1
      ∧ zeroAt bs 108 20 ∧ 1 ≤ d.n ∧ d.n ≤ 2 ^ 30 ∧ (d.addrs.all fun a => decide (a < 2 ^ 48))
      ∧ ((List.zipWith (fun u a => u == decide (a ≠ 0)) (ruleUses d.rule) d.addrs).all id) then some d
  else none

/-- An update command with its tensors read. -/
structure UpdJob where
  d      : UpdDesc
  master : Tensor
  m      : Option Tensor
  v      : Option Tensor
  carry  : Option Tensor
  grad   : Option Tensor
  work0  : Option Tensor
  work1  : Option Tensor
deriving DecidableEq, Repr

/-- Read an update command. -/
def readUpdate (v : View) (desc : Nat) : Option UpdJob := do
  let d ← parseUpdate (v.bytes desc 128)
  let opt := fun (i : Nat) =>
    let a := d.addrs.getD i 0
    if a = 0 then some none else (v.tensor? a).map some
  let master ← v.tensor? (d.addrs.getD 0 0)
  let m ← opt 1
  let vv ← opt 2
  let carry ← opt 3
  let grad ← opt 4
  let w0 ← opt 5
  let w1 ← opt 6
  some { d := d, master := master, m := m, v := vv, carry := carry, grad := grad, work0 := w0, work1 := w1 }

/-- The tensors of a command. -/
def UpdJob.tensors (j : UpdJob) : List Tensor :=
  [j.master] ++ j.m.toList ++ j.v.toList ++ j.carry.toList ++ j.grad.toList ++ j.work0.toList ++ j.work1.toList

/-- The descriptors it names. -/
def UpdJob.descExtents (j : UpdJob) (desc : Nat) : List (Nat × Nat) :=
  [(desc, 128)] ++ j.d.addrs.filterMap fun a => if a = 0 then none else some (a, 32)

/-- What it reads besides descriptors. -/
def UpdJob.reads (j : UpdJob) : List (Nat × Nat) :=
  (if j.d.gscale = 0 then [] else [(j.d.gscale, 4)])
  ++ (if j.d.acc then [] else j.master.extents ++ optExtents j.m ++ optExtents j.v)
  ++ optExtents j.carry ++ optExtents j.grad

/-- What it writes: REFRESH its working copies only; an accumulation the carry only (R227). -/
def UpdJob.writesTo (j : UpdJob) : List (Nat × Nat) :=
  if j.d.acc then optExtents j.carry
  else (if j.d.rule = 0 then [] else j.master.extents ++ optExtents j.m ++ optExtents j.v ++ optExtents j.carry)
    ++ optExtents j.work0 ++ optExtents j.work1

/-- The shape rules of R218 and R226: an MX weight has two copies, one of each block axis (log entry 142). -/
def UpdJob.shapeOk (j : UpdJob) : Bool :=
  let state : Fmt := if j.d.rule = 4 then .bf16 else .fp32
  (j.tensors.all fun t => t.rows * t.cols == j.d.n && !t.transpose)
  && ((j.m.toList ++ j.v.toList ++ j.carry.toList ++ j.grad.toList).all fun t =>
      t.rows == j.master.rows && t.cols == j.master.cols)
  && j.master.fmt == .fp32
  && ((j.m.toList ++ j.v.toList).all fun t => t.fmt == state)
  && (j.carry.toList.all fun t => t.fmt == .fp32)
  && (j.grad.toList.all fun t => t.fmt == .fp32 || t.fmt == .bf16)
  && (j.work0.toList.all fun t => t.fmt == .bf16 || t.fmt.isMx)
  && (match j.work0, j.work1 with
      | some w, some t => w.fmt.isMx && t.fmt.isMx && w.blockAxis != t.blockAxis
      | some w, none => !w.fmt.isMx
      | none, some _ => false
      | none, none => true)

/-! ### One parameter (R227) -/

/-- The values of one parameter. -/
structure Param where
  w : BitVec 32
  m : BitVec 32
  v : BitVec 32
  carry : BitVec 32
  g : BitVec 32
deriving DecidableEq, Repr

/-- The sign of LION's update: ±0.0 gives +0.0 and a NaN the canonical one. -/
def lionSign (x : BitVec 32) : BitVec 32 :=
  let y := fp32Value x
  if y.isNan then fp32Nan else if y.isZero then 0#32 else if y.neg? then 0xBF800000#32 else fp32One

/-- A word as a BF16 tensor keeps it, widened again. -/
def bf16Keep (x : BitVec 32) : BitVec 32 := fp32Round (bf16Value (bf16Round (fp32Value x)).1)

/-- The update of one parameter: `p.g` is the gradient as read, `gs` the gradient scale. -/
def UpdDesc.param (d : UpdDesc) (gs : BitVec 32) (p : Param) : Param :=
  let g0 := fpMul p.g gs
  let g := if d.rule = 3 then fpAdd p.carry g0 else g0
  if d.rule = 0 then p
  else if d.acc then { p with g := g, carry := g }
  else
    let adam := decide (d.rule = 2 ∨ d.rule = 3 ∨ d.rule = 4)
    let m1 := fpAdd (fpMul d.beta1 p.m) (fpMul d.omb1 g)
    let v1 := fpAdd (fpMul d.beta2 p.v) (fpMul d.omb2 (fpMul g g))
    let m := if adam then m1
      else if d.rule = 5 then fpAdd (fpMul d.beta2 p.m) (fpMul d.omb2 g)
      else fpAdd (fpMul d.beta1 p.m) g
    let v := if adam then v1 else p.v
    let u := if adam then fpDiv (fpMul m1 d.bc1) (fpAdd (unary .sqrt (fpMul v1 d.bc2)) d.eps)
      else if d.rule = 5 then lionSign m1 else m
    { w := fpSub p.w (fpMul d.lr (fpAdd u (fpMul d.wd p.w))), m := m, v := v,
      carry := if d.rule = 3 then 0#32 else p.carry, g := g }

/-- A value of a parameter that R227 tests for a NaN or infinity. -/
def Param.bad (p : Param) : Bool := [p.g, p.w, p.m, p.v, p.carry].any fun x => !(fp32Value x).isFin

/-- A parameter with its state as ADAMW-16 stores it. -/
def UpdDesc.stored (d : UpdDesc) (p : Param) : Param :=
  if d.rule = 4 then { p with m := bf16Keep p.m, v := bf16Keep p.v } else p

/-! ### The command -/

/-- Element `i` of a tensor in row order, as FP32. -/
def Tensor.elem (t : Tensor) (v : View) (i : Nat) : BitVec 32 := fp32Round (t.value v (i / t.cols) (i % t.cols))

/-- An optional tensor's element; +0.0 where the rule uses none. -/
def optElem (t : Option Tensor) (v : View) (i : Nat) : BitVec 32 := (t.map fun x => x.elem v i).getD 0#32

/-- Parameter `i` as memory holds it. -/
def UpdJob.readParam (j : UpdJob) (v : View) (i : Nat) : Param where
  w := if j.d.acc then 0#32 else j.master.elem v i
  m := if j.d.acc then 0#32 else optElem j.m v i
  v := if j.d.acc then 0#32 else optElem j.v v i
  carry := optElem j.carry v i
  g := optElem j.grad v i

/-- Parameter `i` as the command leaves it. -/
def UpdJob.param (j : UpdJob) (v : View) (gs : BitVec 32) (i : Nat) : Param := j.d.param gs (j.readParam v i)

/-- The writes of an FP32 value of each parameter to a tensor: in its format by R91, or in blocks by R96. -/
def paramWrites (v : View) (t : Tensor) (f : Nat → BitVec 32) : List (Nat × List Byte) :=
  t.writes v { val := fun r c => fp32Value (f (r * t.cols + c)), zp := fun _ => 0 }

/-- The writes to an optional tensor. -/
def optWrites (v : View) (t : Option Tensor) (f : Nat → BitVec 32) : List (Nat × List Byte) :=
  match t with
  | some t => paramWrites v t f
  | none => []

/-- Every write of a command. -/
def UpdJob.writes (j : UpdJob) (v : View) (gs : BitVec 32) : List (Nat × List Byte) :=
  let p := j.param v gs
  if j.d.acc then optWrites v j.carry fun i => (p i).carry
  else (if j.d.rule = 0 then [] else
      paramWrites v j.master (fun i => (p i).w) ++ optWrites v j.m (fun i => (p i).m) ++ optWrites v j.v (fun i => (p i).v)
        ++ optWrites v j.carry (fun i => (p i).carry))
    ++ optWrites v j.work0 (fun i => (p i).w) ++ optWrites v j.work1 fun i => (p i).w

/-- Does a non-finite value end the step (R227)? -/
def UpdJob.nonFinite (j : UpdJob) (v : View) (gs : BitVec 32) : Bool :=
  j.d.nf && (List.range j.d.n).any fun i => (j.d.stored (j.param v gs i)).bad

/-- Read an update command as its unit does. -/
def State.updJob (s : State) (c : CtxId) (t : Step) (k : Cmd) : Option UpdJob :=
  match readUpdate (s.cmdView c t) k.entry.desc with
  | none => none
  | some j => if j.shapeOk && s.canRead c t (j.descExtents k.entry.desc ++ j.reads) then some j else none

/-- What an update command does when it completes (R227). -/
def updateEffect (c : CtxId) : Effect := fun s t k =>
  match s.updJob c t k with
  | none => (s, some .fault)
  | some j =>
    let gs := k.gscale.getD fp32One
    let v := s.cmdView c t
    if j.nonFinite v gs then (s, some .nonFinite) else s.cmdWrite c t (j.writes v gs)

/-- The time an update command needs (R224). -/
def updateMinTime (s : State) (c : CtxId) (t : Step) (k : Cmd) : Ns :=
  match s.updJob c t k with
  | none => 0
  | some j => cyclesNs (140 + cdiv j.d.n 4 + 64) 1400

/-- An update command completes (R224 to R227). -/
def execUpdateCommandComplete (r : CmdRef) (s : State) : Host.Outcome State Fault Refusal :=
  .next (s.completeCmd r 4 (fun s t k => updateMinTime s r.ctx t k) (updateEffect r.ctx))

end Sys2Proof.Machine
end

