-- ==== Sys2Proof/Machine/Vector.lean ====
section
/-! DEFINITION. The vector unit (R101 to R118): its descriptor, its operations and reductions, the standard sequences,
its time, and the completion of a vector command. -/

namespace Sys2Proof.Machine

/-! ### The descriptor (R114) -/

/-- An operation word of a pass chain. -/
structure ChainOp where
  op  : Nat
  a   : Nat
  b   : Nat
  c   : Nat
  dst : Nat
deriving DecidableEq, Repr

/-- A scalar operation word. -/
structure ScalarOp where
  op  : Nat
  a   : Nat
  b   : Nat
  dst : Nat
deriving DecidableEq, Repr

/-- A reduction that a pass feeds: operator and source operand. -/
structure Feed where
  op  : Nat
  src : Nat
deriving DecidableEq, Repr

/-- A pass entry. -/
structure Pass where
  ops   : List ChainOp
  treeA : Option Feed
  treeB : Option Feed
  cols  : Option Feed
  sops  : List ScalarOp
  imm0  : BitVec 32
  imm1  : BitVec 32
deriving DecidableEq, Repr

/-- A vector descriptor. -/
structure VecDesc where
  seq      : Nat
  passes   : List Pass
  pgrad    : Bool
  keepmask : Bool
  rows     : Nat
  n        : Nat
  c        : BitVec 32
  eps      : BitVec 32
  offset   : Nat
  parts    : Nat
  partList : Nat
  opds     : List Nat
  save     : Nat
deriving DecidableEq, Repr

/-- The class cost of an opcode (R103); none for an opcode that does not exist. -/
def opCost (op : Nat) : Option Nat :=
  if 0x01 ≤ op ∧ op ≤ 0x11 then some 1
  else if 0x20 ≤ op ∧ op ≤ 0x26 then some 1
  else if 0x30 ≤ op ∧ op ≤ 0x34 then some 2
  else if 0x38 ≤ op ∧ op ≤ 0x3E then some 4
  else none

/-- How many sources an opcode reads. -/
def opArity (op : Nat) : Nat :=
  if op = 0x04 ∨ op = 0x0D ∨ op = 0x0E then 3
  else if op = 0x07 ∨ op = 0x08 ∨ op = 0x0F ∨ op = 0x10 ∨ op = 0x11 ∨ op = 0x23 ∨ (0x30 ≤ op ∧ op ≤ 0x34)
      ∨ (0x39 ≤ op ∧ op ≤ 0x3E) then 1
  else 2

/-- An operand code that exists. -/
def srcOk (x : Nat) : Bool :=
  decide (x ≤ 7 ∨ (0x10 ≤ x ∧ x ≤ 0x17) ∨ (0x20 ≤ x ∧ x ≤ 0x29) ∨ (0x30 ≤ x ∧ x ≤ 0x33))

/-- A source of a scalar operation: one value per row, so no temporary and no element index (log entry 24). -/
def scalarSrcOk (x : Nat) : Bool := srcOk x && !decide ((0x10 ≤ x ∧ x ≤ 0x17) ∨ x = 0x32)

/-- A destination of a chain operation: a tensor or a temporary (log entry 24). -/
def dstOk (x : Nat) : Bool := decide (x ≤ 7 ∨ (0x10 ≤ x ∧ x ≤ 0x17))

/-- A fed reduction: operator and source must exist where it is fed. -/
def parseFeed (used : Bool) (op src : Nat) : Option (Option Feed) :=
  if !used then some none else if op ≤ 8 ∧ srcOk src then some (some { op := op, src := src }) else none

/-- A pass entry from its 96 bytes. -/
def parsePass (bs : List Byte) : Option Pass := do
  let f := field bs 1 1
  let nops := field bs 0 1
  let nsc := f / 16 % 8
  let ops := (List.range nops).map fun i =>
    ({ op := field bs (8 + 8 * i) 1, a := field bs (9 + 8 * i) 1, b := field bs (10 + 8 * i) 1,
       c := field bs (11 + 8 * i) 1, dst := field bs (12 + 8 * i) 1 } : ChainOp)
  let sops := (List.range nsc).map fun i =>
    ({ op := field bs (72 + 4 * i) 1, a := field bs (73 + 4 * i) 1, b := field bs (74 + 4 * i) 1,
       dst := field bs (75 + 4 * i) 1 } : ScalarOp)
  let ta ← parseFeed (f % 2 == 1) (field bs 2 1) (field bs 3 1)
  let tb ← parseFeed (f / 2 % 2 == 1) (field bs 4 1) (field bs 5 1)
  let tc ← parseFeed (f / 4 % 2 == 1) (field bs 6 1) (field bs 7 1)
  if 1 ≤ nops ∧ nops ≤ 8 ∧ f / 8 % 2 = 0 ∧ f / 128 = 0 ∧ nsc ≤ 4
      ∧ (ops.all fun o => (opCost o.op).isSome && srcOk o.a && dstOk o.dst
          && (opArity o.op < 2 || srcOk o.b) && (opArity o.op < 3 || srcOk o.c))
      ∧ ((List.range nops).all fun i => zeroAt bs (13 + 8 * i) 3)
      ∧ (sops.all fun o => (opCost o.op).isSome && opArity o.op ≤ 2 && scalarSrcOk o.a
          && (opArity o.op < 2 || scalarSrcOk o.b) && decide (0x20 ≤ o.dst ∧ o.dst ≤ 0x27)) then
    some { ops := ops, treeA := ta, treeB := tb, cols := tc, sops := sops,
           imm0 := BitVec.ofNat 32 (field bs 88 4), imm1 := BitVec.ofNat 32 (field bs 92 4) }
  else none

/-- A vector descriptor from its 512 bytes; none is a shape failure (R114, R118). -/
def parseVector (bs : List Byte) : Option VecDesc := do
  let seq := field bs 1 1
  let np := if seq = 0 then field bs 2 1 else 0
  let flags := field bs 3 1
  let passes ← (List.range np).mapM fun p => parsePass (slice bs (128 + 96 * p) 96)
  let d : VecDesc :=
    { seq := seq, passes := passes, pgrad := flags % 2 == 1, keepmask := flags / 2 % 2 == 1, rows := field bs 4 4,
      n := field bs 8 4, c := BitVec.ofNat 32 (field bs 12 4), eps := BitVec.ofNat 32 (field bs 16 4),
      offset := field bs 20 4, parts := field bs 24 1, partList := field bs 32 8,
      opds := (List.range 8).map fun i => field bs (40 + 8 * i) 8, save := field bs 104 8 }
  if bs.length = 512 ∧ field bs 0 1 = 2 ∧ seq ≤ 6 ∧ (seq ≠ 0 ∨ (1 ≤ np ∧ np ≤ 4)) ∧ flags < 4
      ∧ 1 ≤ d.rows ∧ d.rows ≤ 1048576 ∧ 1 ≤ d.n ∧ d.n ≤ 1048576
      ∧ (d.parts = 0 ∨ (2 ≤ d.parts ∧ d.parts ≤ 64)) ∧ (d.parts ≠ 0 ∨ d.partList = 0)
      ∧ zeroAt bs 25 7 ∧ zeroAt bs 112 16 ∧ (seq ≠ 0 ∨ zeroAt bs (128 + 96 * np) (384 - 96 * np)) then some d
  else none

/-! ### A command with its tensors -/

/-- A vector command with its tensors read: the operands by number and the parts in list order. -/
structure VecJob where
  d     : VecDesc
  opds  : List (Option Tensor)
  parts : List Tensor
  descs : List Nat
deriving DecidableEq, Repr

/-- An operand: nothing at address 0, a tensor otherwise. -/
def readOpd (v : View) (a : Nat) : Option (Option Tensor) := if a = 0 then some none else (v.tensor? a).map some

/-- Read a vector command. -/
def readVector (v : View) (desc : Nat) : Option VecJob := do
  let d ← parseVector (v.bytes desc 512)
  let opds ← d.opds.mapM (readOpd v)
  let addrs := (List.range d.parts).map fun i => leNat (v.bytes (d.partList + 8 * i) 8)
  let parts ← addrs.mapM fun a => v.tensor? a
  some { d := d, opds := opds, parts := parts, descs := d.opds.filter (· != 0) ++ addrs }

/-- An operand's tensor. -/
def VecJob.opd (j : VecJob) (i : Nat) : Option Tensor := (j.opds[i]?).getD none

/-- The operands a command writes (R113, R114): the destinations of its chains and the column partials of a program
of passes (log entry 25); the output and the partials of a standard sequence. -/
def VecJob.outs (j : VecJob) : List Nat :=
  if j.d.seq = 0 then
    ((j.d.passes.flatMap fun (p : Pass) => (p.ops.map ChainOp.dst).filter fun x => decide (x ≤ 7))
      ++ (if j.d.passes.any fun p => p.cols.isSome then [6] else [])).eraseDups
  else [2] ++ (if j.d.pgrad && (j.d.seq == 4 || j.d.seq == 6) then [6] else [])
    ++ (if j.d.pgrad && j.d.seq == 4 then [7] else [])

/-- The operands a command reads. -/
def VecJob.ins (j : VecJob) : List Nat :=
  match j.d.seq with
  | 0 => ((j.d.passes.flatMap fun (p : Pass) =>
      (p.ops.flatMap fun (o : ChainOp) => [o.a] ++ (if 2 ≤ opArity o.op then [o.b] else []) ++ (if 3 ≤ opArity o.op then [o.c] else []))
      ++ (p.sops.flatMap fun (o : ScalarOp) => [o.a] ++ if 2 ≤ opArity o.op then [o.b] else [])
      ++ (p.treeA.toList ++ p.treeB.toList ++ p.cols.toList).map Feed.src).filter fun x => decide (x ≤ 7)).eraseDups
  | 1 => [0] ++ if j.d.keepmask then [5] else []
  | 2 => [0, 1]
  | 3 => [0, 3, 4]
  | 4 => [0, 1, 3]
  | 5 => [0, 3]
  | _ => [0, 1, 3]

/-- Bytes of a row's saved statistics (R114): two FP32 words, one for RMS normalisation. -/
def VecDesc.saveRow (d : VecDesc) : Nat := if d.seq = 5 ∨ d.seq = 6 then 4 else 8

/-- Does the command read the saved statistics: the two normalisations' backward sequences (R111, R112)? -/
def VecDesc.readsSave (d : VecDesc) : Bool := d.seq == 4 || d.seq == 6

/-- Does the command write them? -/
def VecDesc.writesSave (d : VecDesc) : Bool := d.save != 0 && (d.seq == 0 || d.seq == 1 || d.seq == 3 || d.seq == 5)

/-- The saved statistics as extents. -/
def VecDesc.saveExtents (d : VecDesc) : List (Nat × Nat) := [(d.save, d.rows * d.saveRow)]

/-- The descriptors a command names. -/
def VecJob.descExtents (j : VecJob) (desc : Nat) : List (Nat × Nat) :=
  [(desc, 512)] ++ (if j.d.parts = 0 then [] else [(j.d.partList, 8 * j.d.parts)]) ++ j.descs.map fun a => (a, 32)

/-- What a command reads besides descriptors. -/
def VecJob.reads (j : VecJob) : List (Nat × Nat) :=
  (j.ins.flatMap fun i => if i = 0 ∧ j.d.parts ≠ 0 then [] else optExtents (j.opd i))
  ++ j.parts.flatMap Tensor.extents ++ if j.d.readsSave then j.d.saveExtents else []

/-- What a command writes. -/
def VecJob.writesTo (j : VecJob) : List (Nat × Nat) :=
  (j.outs.flatMap fun i => optExtents (j.opd i)) ++ if j.d.writesSave then j.d.saveExtents else []

/-- The tensors a command uses. -/
def VecJob.tensors (j : VecJob) : List Tensor := (j.ins ++ j.outs).filterMap j.opd ++ j.parts

/-- A format the unit writes (R102). -/
def Fmt.vectorOut : Fmt → Bool
  | .int4 _ => false
  | _ => true

/-- The extents of a tensor fit `rows` by `n`, broadcast where they are 1 (R114). -/
def Tensor.fits (t : Tensor) (rows n : Nat) : Bool := (t.vRows == rows || t.vRows == 1) && (t.vCols == n || t.vCols == 1)

/-- The shape rules of R102 and R114: every operand used is there and fits, an output of a sequence is whole, partials are
one row, and backward normalisation names its statistics. -/
def VecJob.shapeOk (j : VecJob) : Bool :=
  (j.ins.all fun i => (i == 0 && j.d.parts != 0) || (match j.opd i with
    | some t => t.fits j.d.rows j.d.n
    | none => false))
  && (j.parts.all fun t => t.fits j.d.rows j.d.n)
  && (j.outs.all fun i => match j.opd i with
    | some t => t.fmt.vectorOut && t.fits j.d.rows j.d.n
        && (j.d.seq == 0 || i != 2 || (t.vRows == j.d.rows && t.vCols == j.d.n))
        && (i != 6 && i != 7 || !(j.d.pgrad && j.d.seq != 0) || (t.vRows == 1 && t.vCols == j.d.n))
    | none => j.d.seq == 0 && i == 6)
  && (!j.d.readsSave || j.d.save != 0)

/-! ### Operations on lanes -/

/-- A mask value. -/
def maskWord (b : Bool) : BitVec 32 := if b then fp32One else 0#32

/-- A comparison (R103): 0 or 1; which, where an operand is a NaN, the spec does not state (log entry 26). -/
def compareFp (op : Nat) (p : XVal → XVal → Bool) (a b : BitVec 32) : BitVec 32 :=
  let x := fp32Value a
  let y := fp32Value b
  if x.isNan || y.isNan then maskWord ((Config.freeVec op a b 0#32).getLsbD 0) else maskWord (p x y)

/-- A shift (R103); by 32 or more the spec states no result (log entry 26). -/
def shiftWord (op : Nat) (a b : BitVec 32) : BitVec 32 :=
  if 32 ≤ b.toNat then Config.freeVec op a b 0#32
  else if op = 0x24 then a <<< b.toNat else if op = 0x25 then a >>> b.toNat else a.sshiftRight b.toNat

/-- A canonical NaN, or the word with its sign changed. -/
def onMagnitude (f : BitVec 32 → BitVec 32) (a : BitVec 32) : BitVec 32 := if (fp32Value a).isNan then fp32Nan else f a

/-- The unary function of an opcode. -/
def unFnOf (op : Nat) : Option UnFn :=
  [UnFn.exp, .sigmoid, .tanh, .silu, .gelu, .recip, .sqrt, .rsqrt, .log, .sin, .cos].find? fun f => f.code == op

/-- One operation (R103, R114) on lane values; `i` is the element index. -/
def laneOp (op i : Nat) (a b c : Lane) : Lane :=
  match op with
  | 0x01 => .ofFp (fpAdd a.fp b.fp)
  | 0x02 => .ofFp (fpSub a.fp b.fp)
  | 0x03 => .ofFp (fpMul a.fp b.fp)
  | 0x04 => .ofFp (fpFma a.fp b.fp c.fp)
  | 0x05 => .ofFp (fpMin a.fp b.fp)
  | 0x06 => .ofFp (fpMax a.fp b.fp)
  | 0x07 => .ofFp (onMagnitude (fun w => w &&& 0x7FFFFFFF#32) a.fp)
  | 0x08 => .ofFp (onMagnitude (fun w => w ^^^ 0x80000000#32) a.fp)
  | 0x09 => .ofFp (onMagnitude (fun w => (w &&& 0x7FFFFFFF#32) ||| (b.fp &&& 0x80000000#32)) a.fp)
  | 0x0A => .ofFp (compareFp op (fun x y => x.lt y) a.fp b.fp)
  | 0x0B => .ofFp (compareFp op (fun x y => !(y.lt x)) a.fp b.fp)
  | 0x0C => .ofFp (compareFp op (fun x y => !(x.lt y) && !(y.lt x)) a.fp b.fp)
  | 0x0D => if (fp32Value a.fp).isZero then c else b
  | 0x0E =>
    if (fp32Value c.fp).lt (fp32Value b.fp) then .ofFp (Config.freeVec op a.fp b.fp c.fp)
    else .ofFp (fpMin (fpMax a.fp b.fp) c.fp)
  | 0x0F => a
  | 0x10 => a
  | 0x11 => .ofFp (compareFp op (fun x y => !(y.lt x)) (fp32Round (.ofNat i)) a.fp)
  | 0x20 => ⟨a.word &&& b.word, a.isInt⟩
  | 0x21 => ⟨a.word ||| b.word, a.isInt⟩
  | 0x22 => ⟨a.word ^^^ b.word, a.isInt⟩
  | 0x23 => ⟨~~~a.word, a.isInt⟩
  | 0x24 => ⟨shiftWord op a.word b.word, a.isInt⟩
  | 0x25 => ⟨shiftWord op a.word b.word, a.isInt⟩
  | 0x26 => ⟨shiftWord op a.word b.word, a.isInt⟩
  | 0x38 => .ofFp (fpDiv a.fp b.fp)
  | _ => match unFnOf op with
    | some f => .ofFp (unary f a.fp)
    | none => a

/-! ### Reading operands (R102, R107) -/

/-- The operator that combines parts: TREE_A of the first pass of a program, sum otherwise (log entry 25). -/
def VecDesc.partOp (d : VecDesc) : Nat := ((d.passes.head?).bind fun p => p.treeA.map (·.op)).getD 0

/-- An operand at an element of memory as the command found it. OPD0 of a command that combines parts is T over the parts
in list order (R107, R108). -/
def VecJob.elem (j : VecJob) (v : View) (i r c : Nat) : Lane :=
  if i = 0 ∧ j.d.parts ≠ 0 then (reduceLanes j.d.partOp (j.parts.map fun t => t.lane32 v r c)).1
  else match j.opd i with
    | some t => t.lane32 v r c
    | none => .ofFp 0#32

/-- A row of an operand as FP32. -/
def VecJob.rowFp (j : VecJob) (v : View) (i r : Nat) : List (BitVec 32) :=
  (List.range j.d.n).map fun c => (j.elem v i r c).fp

/-! ### A program of passes (SEQ 0) -/

/-- The values of one row as its passes go on: scalars, tree results, the tensors written so far, the columns' sources of
the last pass that fed them, and the saturation flag. -/
structure RowRun where
  sc   : List Lane
  ta   : Lane
  tb   : Lane
  outs : List (Nat × List Lane)
  cols : List Lane
  colOp : Option Nat
  sat  : Bool
deriving DecidableEq, Repr

/-- A temporary or scalar that nothing has written holds a value that the spec does not state (log entry 26). -/
def freshLane (code r i : Nat) : Lane := .ofFp (Config.freeVec (0x100 + code) (BitVec.ofNat 32 r) (BitVec.ofNat 32 i) 0#32)

/-- What a later pass reads back of a tensor that an earlier pass of the row wrote: the value as stored (R102). Where the
blocks of an MX tensor run over rows, the block is not complete and the value is free (log entry 26). -/
def rereadLane (t : Tensor) (r : Nat) (row : List Lane) (i : Nat) : Lane :=
  let l := row.getD i (.ofFp 0#32)
  let src : Source := { val := fun a b => (row.getD (if t.transpose then a else b) (.ofFp 0#32)).val, zp := fun _ => 0 }
  let p := t.place r i
  match t.fmt with
  | .fp32 => .ofFp l.fp
  | .int32 => ⟨BitVec.ofNat 32 (t.conv src p.1 p.2).code, true⟩
  | f =>
    if f.isMx then
      if (t.blockAxis = 0) = !t.transpose then
        .ofFp (Config.freeVec 0xF0 l.word (BitVec.ofNat 32 r) (BitVec.ofNat 32 i))
      else
        let b := convBlock f (t.blockVals src.val p.1 p.2)
        .ofFp (fp32Round (mxScaled f b.1 (t.conv src p.1 p.2).code))
    else .ofFp (fp32Round (f.plainValue 0 (t.conv src p.1 p.2).code))

/-- A source operand at an element: `tmp` are the lane's temporaries, `st` the row as it stood before the pass. -/
def VecJob.source (j : VecJob) (v : View) (p : Pass) (r i : Nat) (tmp : List (Nat × Lane)) (st : RowRun) (code : Nat) :
    Lane :=
  if code ≤ 7 then
    match st.outs.find? fun o => o.1 == code, j.opd code with
    | some o, some t => rereadLane t r o.2 i
    | _, _ => j.elem v code r i
  else if code ≤ 0x17 then ((tmp.find? fun x => x.1 == code).map (·.2)).getD (freshLane code r i)
  else if code ≤ 0x27 then (st.sc[code - 0x20]?).getD (freshLane code r i)
  else match code with
    | 0x28 => st.ta
    | 0x29 => st.tb
    | 0x30 => .ofFp p.imm0
    | 0x31 => .ofFp p.imm1
    | 0x32 => ⟨BitVec.ofNat 32 i, true⟩
    | _ => ⟨BitVec.ofNat 32 r, true⟩

/-- The chain of a pass on one element: temporaries and tensors it wrote, newest first. -/
def VecJob.chain (j : VecJob) (v : View) (p : Pass) (r i : Nat) (st : RowRun) : List (Nat × Lane) :=
  p.ops.foldl (fun tmp o =>
    let g := fun code => j.source v p r i (tmp.filter fun x => decide (7 < x.1)) st code
    (o.dst, laneOp o.op i (g o.a) (g o.b) (g o.c)) :: tmp) []

/-- What a fed reduction sees at an element: a tensor the chain has just written is its new value. -/
def VecJob.fed (j : VecJob) (v : View) (p : Pass) (r i : Nat) (st : RowRun) (done : List (Nat × Lane)) (code : Nat) : Lane :=
  match done.find? fun x => x.1 == code with
  | some x => x.2
  | none => j.source v p r i done st code

/-- The scalar operations after a pass's trees have drained. -/
def VecJob.scalars (j : VecJob) (v : View) (p : Pass) (r : Nat) (st : RowRun) : RowRun :=
  p.sops.foldl (fun s o =>
    let g := fun code => j.source v p r 0 [] s code
    { s with sc := s.sc.set (o.dst - 0x20) (laneOp o.op 0 (g o.a) (g o.b) (.ofFp 0#32)) }) st

/-- One pass over a row. -/
def VecJob.pass (j : VecJob) (v : View) (r : Nat) (st : RowRun) (p : Pass) : RowRun :=
  let lanes := (List.range j.d.n).map fun i => j.chain v p r i st
  let wrote := ((p.ops.map (·.dst)).filter (· ≤ 7)).eraseDups
  let outs := wrote.map fun o => (o, lanes.map fun l => ((l.find? fun x => x.1 == o).map (·.2)).getD (.ofFp 0#32))
  let feed := fun (f : Feed) => (lanes.zipIdx.map fun l => j.fed v p r l.2 st l.1 f.src)
  let a := p.treeA.map fun f => reduceLanes f.op (feed f)
  let b := p.treeB.map fun f => reduceLanes f.op (feed f)
  let st1 : RowRun :=
    { sc := st.sc
      ta := (a.map (·.1)).getD st.ta
      tb := (b.map (·.1)).getD st.tb
      outs := outs ++ st.outs.filter fun o => !(wrote.contains o.1)
      cols := (p.cols.map feed).getD st.cols
      colOp := (p.cols.map (·.op)).orElse fun _ => st.colOp
      sat := st.sat || (a.map (·.2)).getD false || (b.map (·.2)).getD false }
  j.scalars v p r st1

/-- A row before its first pass. -/
def RowRun.start (r : Nat) : RowRun where
  sc := (List.range 8).map fun k => freshLane (0x20 + k) r 0
  ta := freshLane 0x28 r 0
  tb := freshLane 0x29 r 0
  outs := []
  cols := []
  colOp := none
  sat := false

/-- A row of a program. -/
def VecJob.runRow (j : VecJob) (v : View) (r : Nat) : RowRun := j.d.passes.foldl (fun st p => j.pass v r st p) (RowRun.start r)

/-! ### The standard sequences (R109 to R113), FP32 throughout -/

/-- The values of one row of a sequence: its output, its statistics, and the columns' sources for dγ and dβ. -/
structure SeqRow where
  out   : List (BitVec 32)
  stats : List (BitVec 32)
  dg    : List (BitVec 32)
  db    : List (BitVec 32)
deriving DecidableEq, Repr

/-- −∞. -/
def fp32NegInf : BitVec 32 := 0xFF800000#32

/-- The width as FP32. -/
def fpWidth (n : Nat) : BitVec 32 := fp32Round (.ofNat n)

/-- Softmax forward (R109). -/
def softmaxRow (c : BitVec 32) (x : List (BitVec 32)) (keep : List Bool) : SeqRow :=
  let xs := List.zipWith (fun w k => if k then fpMul w c else fp32NegInf) x keep
  let m := maxTree xs
  let e := List.zipWith (fun w k => if k then unary .exp (fpSub (fpMul w c) m) else 0#32) x keep
  let s := sumTree e
  { out := if m = fp32NegInf then x.map fun _ => 0#32 else e.map fun w => fpDiv w s, stats := [m, s], dg := [], db := [] }

/-- Softmax backward (R110). -/
def softmaxBackRow (c : BitVec 32) (y dy : List (BitVec 32)) : SeqRow :=
  let g := sumTree (List.zipWith fpMul y dy)
  { out := List.zipWith (fun a b => fpMul (fpMul a (fpSub b g)) c) y dy, stats := [], dg := [], db := [] }

/-- Layer normalisation forward (R111). -/
def layerRow (eps : BitVec 32) (x gamma beta : List (BitVec 32)) : SeqRow :=
  let n := fpWidth x.length
  let mu := fpDiv (sumTree x) n
  let var := fpDiv (sumTree (x.map fun w => fpMul (fpSub w mu) (fpSub w mu))) n
  let rstd := unary .rsqrt (fpAdd var eps)
  { out := List.zipWith fpAdd (List.zipWith (fun w g => fpMul (fpMul (fpSub w mu) rstd) g) x gamma) beta
    stats := [mu, rstd], dg := [], db := [] }

/-- Layer normalisation backward (R111, R113). -/
def layerBackRow (mu rstd : BitVec 32) (x dy gamma : List (BitVec 32)) : SeqRow :=
  let n := fpWidth x.length
  let xh := x.map fun w => fpMul (fpSub w mu) rstd
  let gd := List.zipWith fpMul dy gamma
  let a := fpDiv (sumTree gd) n
  let b := fpDiv (sumTree (List.zipWith fpMul gd xh)) n
  { out := List.zipWith (fun g h => fpMul rstd (fpSub (fpSub g a) (fpMul h b))) gd xh
    stats := [], dg := List.zipWith fpMul dy xh, db := dy }

/-- RMS normalisation forward (R112). -/
def rmsRow (eps : BitVec 32) (x gamma : List (BitVec 32)) : SeqRow :=
  let rstd := unary .rsqrt (fpAdd (fpDiv (sumTree (x.map fun w => fpMul w w)) (fpWidth x.length)) eps)
  { out := List.zipWith (fun w g => fpMul (fpMul w rstd) g) x gamma, stats := [rstd], dg := [], db := [] }

/-- RMS normalisation backward (R112, R113). -/
def rmsBackRow (rstd : BitVec 32) (x dy gamma : List (BitVec 32)) : SeqRow :=
  let xh := x.map fun w => fpMul w rstd
  let gd := List.zipWith fpMul dy gamma
  let b := fpDiv (sumTree (List.zipWith fpMul gd xh)) (fpWidth x.length)
  { out := List.zipWith (fun g h => fpMul rstd (fpSub g (fpMul h b))) gd xh
    stats := [], dg := List.zipWith fpMul dy xh, db := [] }

/-- The keep mask of a row (R109, R114): the mask operand, or the causal rule i ≤ row + OFFSET. -/
def VecJob.keep (j : VecJob) (v : View) (r : Nat) : List Bool :=
  (List.range j.d.n).map fun i =>
    if j.d.keepmask then !(fp32Value (j.elem v 5 r i).fp).isZero else decide (i ≤ r + j.d.offset)

/-- A saved statistic of a row. -/
def VecJob.saved (j : VecJob) (v : View) (r k : Nat) : BitVec 32 :=
  BitVec.ofNat 32 (leNat (v.bytes (j.d.save + r * j.d.saveRow + 4 * k) 4))

/-- A row of a standard sequence. -/
def VecJob.seqRow (j : VecJob) (v : View) (r : Nat) : SeqRow :=
  let x := j.rowFp v 0 r
  match j.d.seq with
  | 1 => softmaxRow j.d.c x (j.keep v r)
  | 2 => softmaxBackRow j.d.c x (j.rowFp v 1 r)
  | 3 => layerRow j.d.eps x (j.rowFp v 3 r) (j.rowFp v 4 r)
  | 4 => layerBackRow (j.saved v r 0) (j.saved v r 1) x (j.rowFp v 1 r) (j.rowFp v 3 r)
  | 5 => rmsRow j.d.eps x (j.rowFp v 3 r)
  | _ => rmsBackRow (j.saved v r 0) x (j.rowFp v 1 r) (j.rowFp v 3 r)

/-! ### What a command writes -/

/-- The writes of an output from its rows of lanes. A broadcast axis takes the last value written to it. -/
def laneWrites (v : View) (t : Tensor) (rows : List (List Lane)) : List (Nat × List Byte) :=
  let get (r c : Nat) : Lane :=
    let r' := if t.vRows = 1 then rows.length - 1 else r
    let row := rows.getD r' []
    row.getD (if t.vCols = 1 then row.length - 1 else c) (.ofFp 0#32)
  t.writes v { val := fun a b => (if t.transpose then get b a else get a b).val, zp := fun _ => 0 }

/-- Column reductions over the rows (R106, R113), with the saturation flag. -/
def columns (op n : Nat) (rows : List (List Lane)) : List (Lane × Bool) :=
  (List.range n).map fun c => reduceLanes op (rows.map fun r => r.getD c (.ofFp 0#32))

/-- The writes of a program of passes and its saturation flag. -/
def VecJob.programWrites (j : VecJob) (v : View) : List (Nat × List Byte) × Bool :=
  let rows := (List.range j.d.rows).map (j.runRow v)
  let outs := (j.outs.filterMap fun o =>
    match j.opd o, rows.all fun r => (r.outs.any fun x => x.1 == o) with
    | some t, true => some (laneWrites v t (rows.map fun r => ((r.outs.find? fun x => x.1 == o).map (·.2)).getD []))
    | _, _ => none).flatten
  let colOp := rows.head?.bind (·.colOp)
  let cols := (colOp.map fun op => columns op j.d.n (rows.map (·.cols))).getD []
  let colW := match j.opd 6, colOp with
    | some t, some _ => laneWrites v t [cols.map (·.1)]
    | _, _ => []
  let save := if j.d.writesSave then
      [(j.d.save, rows.flatMap fun r => (r.sc.take 2).flatMap fun l => leBytes 4 l.fp.toNat)] else []
  (outs ++ colW ++ save, rows.any (·.sat) || cols.any (·.2))

/-- The writes of a standard sequence. -/
def VecJob.sequenceWrites (j : VecJob) (v : View) : List (Nat × List Byte) :=
  let rows := (List.range j.d.rows).map (j.seqRow v)
  let fp := fun (ws : List (BitVec 32)) => ws.map Lane.ofFp
  let out := match j.opd 2 with
    | some t => laneWrites v t (rows.map fun r => fp r.out)
    | none => []
  let part := fun (i : Nat) (f : SeqRow → List (BitVec 32)) =>
    if j.outs.contains i then
      match j.opd i with
      | some t => laneWrites v t [(columns 0 j.d.n (rows.map fun r => fp (f r))).map (·.1)]
      | none => []
    else []
  let save := if j.d.writesSave then
      [(j.d.save, rows.flatMap fun r => r.stats.flatMap fun w => leBytes 4 w.toNat)] else []
  out ++ part 6 (·.dg) ++ part 7 (·.db) ++ save

/-- Every write of a command, and its saturation flag. -/
def VecJob.writes (j : VecJob) (v : View) : List (Nat × List Byte) × Bool :=
  if j.d.seq = 0 then j.programWrites v else (j.sequenceWrites v, false)

/-! ### Time (R115) and completion -/

/-- Σ c_p, P_r and n_s of a command (R115). -/
def VecDesc.costs (d : VecDesc) : Nat × Nat × Nat :=
  match d.seq with
  | 0 => ((d.passes.map fun p => (p.ops.map fun o => (opCost o.op).getD 0).sum).sum,
          (d.passes.filter fun p => p.treeA.isSome || p.treeB.isSome).length, (d.passes.map fun p => p.sops.length).sum)
  | 1 => (11, 2, 0)
  | 2 => (4, 1, 0)
  | 3 => (7, 2, 4)
  | 4 => (if d.pgrad then 12 else 11, 1, 2)
  | 5 => (3, 1, 3)
  | _ => (if d.pgrad then 9 else 8, 1, 1)

/-- Cycles of a command (R115). -/
def VecDesc.cycles (d : VecDesc) : Nat :=
  let k := d.costs
  140 + d.rows * (cdiv d.n 128 * k.1 + 24 * k.2.1 + 4 * k.2.2)

/-- Read a vector command as its unit does. -/
def State.vecJob (s : State) (c : CtxId) (t : Step) (k : Cmd) : Option VecJob :=
  match readVector (s.cmdView c t) k.entry.desc with
  | none => none
  | some j => if j.shapeOk && s.canRead c t (j.descExtents k.entry.desc ++ j.reads) then some j else none

/-- What a vector command does when it completes. -/
def vectorEffect (r : CmdRef) : Effect := fun s t k =>
  match s.vecJob r.ctx t k with
  | none => (s, some .fault)
  | some j =>
    let w := j.writes (s.cmdView r.ctx t)
    let e := s.cmdWrite r.ctx t w.1
    (e.1.modCmd r fun k => { k with saturated := w.2 }, e.2)

/-- The time a vector command needs (R115). -/
def vectorMinTime (s : State) (c : CtxId) (t : Step) (k : Cmd) : Ns :=
  match s.vecJob c t k with
  | none => 0
  | some j => cyclesNs j.d.cycles 1400

/-- A vector command completes (R101 to R115). -/
def State.vectorComplete (s : State) (r : CmdRef) : State :=
  (s.completeCmd r 2 (fun s t k => vectorMinTime s r.ctx t k) (vectorEffect r))

end Sys2Proof.Machine
end

