-- ==== Sys2Proof/Machine/Cover.lean ====
section
/-! DEFINITION. What Eddy checks (R234, R348 to R355): working Oxbows and rates, the sample units of a step, and the coverage
of a context's program. -/

namespace Sys2Proof.Machine

/-! ### Rates (R348) -/

/-- The working Oxbows of a die. -/
def State.oxbows (s : State) (d : Fin 2) : List (Fin 28) :=
  (List.finRange 28).filter fun c =>
    s.hw.use[c] == .checker && dieOf (regionOf c) == d

/-- M of a region: 64, 128, or 0 for unchecked. -/
def State.rate (s : State) (r : Fin 4) : Nat :=
  match (s.oxbows (dieOf r)).length with
  | 0 => 0
  | 1 => 128
  | _ => 64

/-- Is some region checked at half rate (W_s of R234)? -/
def State.halfRate (s : State) : Bool := (List.finRange 4).any fun r => s.rate r == 128

/-- A region from a unit's ordinal (R349). -/
def regionMod (n : Nat) : Fin 4 := ⟨n % 4, Nat.mod_lt _ (by decide)⟩

/-! ### Sample units (R349, R350) -/

/-- Units of a matrix command: output tiles by token chunks; a packed command has one for each group. -/
def MatJob.units (j : MatJob) : Nat :=
  if j.d.groups = 0 then cdiv j.d.n 128 * cdiv j.d.m j.d.regTokens else j.prods.length

/-- Units of a command, as its descriptor in the step's view gives them. -/
def State.unitsOf (s : State) (c : CtxId) (t : Step) (k : Cmd) : Nat :=
  let v := s.stepView c t
  match k.entry.engine with
  | .matrix _ => ((readMatrix v k.entry.desc).map MatJob.units).getD 0
  | .vector _ => ((readVector v k.entry.desc).map fun j => cdiv j.d.rows 128).getD 0
  | .update _ => ((readUpdate v k.entry.desc).map fun j => cdiv j.d.n 16384).getD 0
  | .dma _ _ => ((readDma v k.entry.desc).map fun j => cdiv j.d.total 65536).getD 0
  | .coll _ =>
    match s.collJob c t k with
    | some j => if j.d.op ≤ 1 then ((j.pos.map fun p => cdiv (j.size p) 4096).getD 0) else 0
    | none => 0

/-- The key u of a unit. -/
def unitKey (idx ordinal : Nat) : Nat := (idx * 131 + ordinal) % 128

/-- The region a unit belongs to (R349). -/
def State.unitRegion (s : State) (e : Engine) (ordinal : Nat) : Fin 4 :=
  match e with
  | .coll _ => regionMod ordinal
  | _ => (s.engineRegion e).getD (regionMod ordinal)

/-- The units sampled of a step: those whose key satisfies u mod M = s mod M in their region, or every unit of a closing
sweep. -/
def State.sampled (s : State) (c : CtxId) (t : Step) (sweep : Bool) : List SampleRef :=
  t.cmds.zipIdx.flatMap fun p =>
    (List.range (s.unitsOf c t p.1)).filterMap fun o =>
      let m := s.rate (s.unitRegion p.1.entry.engine o)
      if m ≠ 0 ∧ (sweep = true ∨ unitKey p.2 o % m = t.hdr.step.toNat % m) then some { idx := p.2, ordinal := o } else none

/-- Eddy takes up a step's recomputes once the step has committed, or a replay has ended (R350, R352). A step with nothing to
recompute is a recompute too: CLEAN waits for it (R234). -/
def State.takeUp (s : State) (c : CtxId) (t : Step) (sweep : Bool) : State :=
  let r : Recompute :=
    { ctx := c, step := t.hdr.step.toNat, units := s.sampled c t sweep, sweep := sweep, digest := t.digest
      engines := t.cmds.zipIdx.map fun p => (p.2, p.1.entry.engine) }
  { s with intg := { s.intg with pending := s.intg.pending ++ [r] } }

/-! ### Programs and tails (R355) -/

/-- The program digest of a step: SHA-256 of its command entries with RELEASE and DEADLINE zero, then its allocation table
as written. -/
def programDigest (entries : List (List Byte)) (table : List Byte) : BitVec 256 :=
  sha256 (entries.flatMap (fun e =>
    let v := leNat e
    leBytes 64 (v - bits v 463 392 * 2 ^ 392)) ++ table)

/-- The largest M in force, which bounds the tail; 64 where nothing is checked. -/
def State.tailRate (s : State) : Nat :=
  let m := ((List.finRange 4).map s.rate).foldl max 0
  if m = 0 then 64 else m

/-- At a program change the old program's last M − 1 steps become the uncovered tail, unless a closing sweep covers that
program already. An earlier tail keeps its first step. -/
def State.programChange (s : State) (c : CtxId) : State :=
  let x := s.ctx c
  match x.digest with
  | none => s
  | some old =>
    if x.swept = some old then s.modCtx c fun x => { x with swept := none }
    else
      let first := max x.progFirst.toNat (x.progLast.toNat + 2 - s.tailRate)
      let s1 := s.modCtx c fun x =>
        { x with tail := some { first := (x.tail.map (·.first)).getD (BitVec.ofNat 64 first), digest := old } }
      { s1 with intg := { s1.intg with tails := satInc s1.intg.tails } }

/-- The program of an admitted step becomes its context's, with the tail that a change leaves. A step of the same program ends
the cover of an earlier sweep; a replay leaves it. -/
def State.admitProgram (s : State) (c : CtxId) (digest : BitVec 256) (step : BitVec 64) (replay : Bool) : State :=
  let x := s.ctx c
  if x.digest = some digest then
    (if replay then s else s.modCtx c fun x => { x with swept := none, progLast := step })
  else (s.programChange c).modCtx c fun x => { x with digest := some digest, progFirst := step, progLast := step }

/-- Does an uncovered tail keep checkpoint `n` from becoming clean? -/
def Ctx.tailHolds (x : Ctx) (n : BitVec 64) : Bool :=
  match x.tail with
  | some t => decide (t.first.toNat ≤ n.toNat)
  | none => false

end Sys2Proof.Machine
end

