-- ==== Sys2Proof/Machine/Shape.lean ====
section
/-! DEFINITION. How a step's records read (R44, R217, R324 to R326): the header, the command entries, the allocation table,
and what each command's descriptors name, judged for REFUSED_SHAPE (R327, R480). -/

namespace Sys2Proof.Machine

/-! ### The header (R44, R217, R324) -/

/-- The 64 header bytes; none for a field out of range or a reserved bit that is not zero. -/
def parseHeader (bs : List Byte) : Option Header :=
  let v := leNat bs
  let h : Header :=
    { step := BitVec.ofNat 64 (bits v 63 0), base := BitVec.ofNat 64 (bits v 127 64)
      commitDl := bits v 163 128, startDelay := bits v 227 192
      p := bits v 287 256, count := bits v 300 288
      follows := bit v 320, allowance := bits v 322 321, mode := bits v 325 323, carryIn := bit v 326
      job := bit v 327, seqLen := bits v 348 328, c := bits v 383 352
      alloc := bits v 431 384, allocCount := bits v 479 448 }
  if bs.length = 64 ∧ bits v 191 164 = 0 ∧ bits v 255 228 = 0 ∧ bits v 319 301 = 0 ∧ bits v 351 349 = 0
      ∧ bits v 447 432 = 0 ∧ bits v 511 480 = 0
      ∧ 1000 ≤ h.commitDl ∧ h.commitDl ≤ Config.maxOffset ∧ h.startDelay ≤ 100000000
      ∧ 1 ≤ h.count ∧ h.count ≤ 4096 ∧ 1 ≤ h.allocCount ∧ h.allocCount ≤ 4096
      ∧ h.allowance ≤ 2 ∧ h.mode ≤ 4 ∧ h.c ≤ h.p
      ∧ 1 ≤ h.seqLen ∧ h.seqLen ≤ (if h.mode = 0 then 262144 else 1048576) then some h
  else none

/-! ### Command entries (R325) -/

/-- The engine of an entry: KIND and ENGINE in range. -/
def parseEngine (kind e : Nat) : Option Engine :=
  match kind with
  | 1 => if e < 48 then some (.matrix e) else none
  | 2 => if e < 48 then some (.vector e) else none
  | 3 => if e / 32 < 5 then some (.dma (e / 32) (e % 32)) else none
  | 4 => if e < 24 then some (.update e) else none
  | 5 => if e < 4 then some (.coll e) else none
  | _ => none

/-- A command entry; COLL_DEADLINE 0 stands for 2 ms. -/
def parseEntry (bs : List Byte) : Option Entry :=
  let v := leNat bs
  match parseEngine (bits v 3 0) (bits v 15 8) with
  | none => none
  | some e =>
    let cd := bits v 155 129
    let t : Entry :=
      { desc := bits v 511 464, release := bits v 463 428, deadline := bits v 427 392, w := bits v 391 356
        hbm := bits v 355 316, fabOut := bits v 315 276, fabIn := bits v 275 236
        hostOut := bits v 235 196, hostIn := bits v 195 156
        coll := if cd = 0 then 2000000 else cd
        engine := e, cond := bit v 7, arrays := bits v 6 4 }
    if bs.length = 64 ∧ bits v 128 16 = 0
        ∧ t.release ≤ Config.maxOffset ∧ 1000 ≤ t.deadline ∧ t.deadline ≤ Config.maxOffset
        ∧ 100 ≤ t.w ∧ t.w ≤ Config.maxOffset
        ∧ t.hbm ≤ 960 * 2 ^ 30 ∧ t.fabOut ≤ 960 * 2 ^ 30 ∧ t.fabIn ≤ 960 * 2 ^ 30
        ∧ t.hostOut ≤ 64 * 2 ^ 30 ∧ t.hostIn ≤ 64 * 2 ^ 30
        ∧ (if engineKind e = 5 then cd = 0 ∨ (100000 ≤ cd ∧ cd ≤ 100000000) else cd = 0)
        ∧ (if engineKind e = 1 then 1 ≤ t.arrays ∧ t.arrays ≤ 4 else t.arrays = 0)
        ∧ t.desc % 64 = 0 then some t
    else none

/-- Bytes cut into entries of a size. -/
def chop (size : Nat) : Nat → List Byte → List (List Byte)
  | 0, _ => []
  | fuel + 1, bs => if bs.length < size ∨ size = 0 then [] else bs.take size :: chop size fuel (bs.drop size)

/-- The entries of a run of bytes. -/
def entriesOf (size : Nat) (bs : List Byte) : List (List Byte) := chop size (bs.length + 1) bs

/-! ### The allocation table (R123, R326) -/

/-- Does a logical cluster, core or bed bank exist? -/
def State.clusterExists (s : State) (n : Nat) : Bool := (s.physCluster? n).isSome
def State.coreExists (s : State) (n : Nat) : Bool := s.clusterExists (n / 2)
def State.bankExists (s : State) (b : Nat) : Bool := if b < 24 then s.clusterExists b else decide (b < 28)

/-- Every bed bank that a range touches exists. -/
def State.banksExist (s : State) (start len : Nat) : Bool :=
  let a := (start - bedBase 0) / 2 ^ 24
  let z := (start + len - 1 - bedBase 0) / 2 ^ 24
  (List.range (z + 1 - a)).all fun i => s.bankExists (a + i)

/-- The allocation kind of a buffer. -/
def Buffer.kind : Buffer → AllocKind
  | .weight => .weight
  | .activation => .activation
  | .accumulator => .accumulator

/-- One entry of the table, on existing memory, in whole units, of the kind of its space. -/
def State.parseRange (s : State) (bs : List Byte) : Option Range :=
  let v := leNat bs
  let a := bits v 63 0
  let n := bits v 103 64
  let z := a + n - 1
  if bits v 127 108 ≠ 0 ∨ n = 0 ∨ bs.length ≠ 16 then none
  else match bits v 107 104, spaceOf a, spaceOf z with
    | k, some .hbm, some .hbm =>
      if k ≤ 2 ∧ a % 4096 = 0 ∧ n % 4096 = 0 ∧ a + n ≤ s.usable then
        some { start := a, len := n, kind := if k = 0 then .committed else if k = 1 then .scratch else .capture }
      else none
    | 3, some .bed, some .bed =>
      if a % 65536 = 0 ∧ n % 65536 = 0 ∧ s.banksExist a n then some { start := a, len := n, kind := .bed } else none
    | k, some .core, some .core =>
      let b := bufferOf (a % 2 ^ 22)
      let kb := match b with
        | .weight => 4
        | .activation => 5
        | .accumulator => 6
      if a % 4096 = 0 ∧ n % 4096 = 0 ∧ a / 2 ^ 22 = z / 2 ^ 22 ∧ bufferOf (z % 2 ^ 22) = b ∧ k = kb
          ∧ s.coreExists ((a - coreBase 0) / 2 ^ 22) then
        some { start := a, len := n, kind := b.kind }
      else none
    | _, _, _ => none

/-- Do two ranges share a byte? -/
def Range.meets (a b : Range) : Bool := decide (a.start < b.start + b.len ∧ b.start < a.start + a.len)

/-- No two ranges of a table share a byte. -/
def rangesDisjoint : List Range → Bool
  | [] => true
  | r :: rs => (rs.all fun q => !r.meets q) && rangesDisjoint rs

/-- The ranges a context holds or will hold: its allocation and the tables of its admitted steps. -/
def Ctx.heldRanges (x : Ctx) : List Range := x.alloc ++ x.steps.flatMap fun t => if t.kind = .host then t.alloc else []

/-- The allocation as the last admitted step leaves it. -/
def Ctx.plannedAlloc (x : Ctx) : List Range :=
  (((x.steps.filter fun t => t.kind == .host && t.state != .committed).getLast?).map (·.alloc)).getD x.alloc

/-- Two allocations are the same memory. Their kinds agree where they share a byte. -/
def sameAlloc (a b : List Range) : Bool := (minusRanges a b).isEmpty && (minusRanges b a).isEmpty

/-- The table's rules against what the context holds. -/
def Ctx.tableOk (x : Ctx) (rs : List Range) (replay : Bool) : Bool :=
  rangesDisjoint rs
  && (rs.all fun r => x.heldRanges.all fun h => !r.meets h || r.kind == h.kind)
  && (!replay || sameAlloc x.plannedAlloc rs)

/-! ### What Sluice reads (R389, R480) -/

/-- Does some context hold the page of an address? -/
def State.pageHeld (s : State) (a : Nat) : Bool := allCtx.any fun c => (kindAt (s.ctx c).alloc a).isSome

/-- The bytes that Sluice judges: the committed view, and on pages that no context holds the bytes that the owner has
written aside (log entry 47). -/
def State.judgeView (s : State) : View := fun a =>
  if isSram a || s.pageHeld a then s.viewByte none a else readCell s.hbm.aside a

/-- What a step's commands read: their group's view once the step has started, the judged bytes before. -/
def State.planView (s : State) (c : CtxId) (t : Step) : View := if t.started then s.stepView c t else s.judgeView

/-! ### One command (R480 and the shape rules of the engines) -/

/-- What admission needs to know of a command. `regions` are accumulator units, `held` the first unit of a held region. -/
structure CmdFacts where
  afterCommit : Bool := false
  hostEnd : Bool := false
  line    : Option (Fin 5 × Fin 64) := none
  regions : List (Nat × Nat) := []
  held    : Option Nat := none
  reads   : List (Nat × Nat)
  writes  : List (Nat × Nat)
  tensors : List Tensor
  scratch : List (Nat × Nat) := []
  capture : List (Nat × Nat) := []
  named   : Bool := true
deriving DecidableEq, Repr

/-- Active arrays of a logical core. -/
def State.coreArrays (s : State) (n : Nat) : Nat :=
  match s.physCluster? (n / 2) with
  | some c => popcount (s.hw.live[2 * c.val + n % 2]?.getD 0#4).toNat 4
  | none => 0

/-- May a context name groups: it has a rank, and its group table and peer addresses hold for its epoch (R245, R274)? -/
def Ctx.groupsReady (x : Ctx) : Bool :=
  x.job.tag != 0#32 && x.job.rank.isSome
  && (x.job.groups.map fun g => g.1 == x.job.epoch).getD false
  && (x.job.peers.map fun g => g.1 == x.job.epoch).getD false

/-- The facts of a command; none where a shape rule of its engine fails. -/
def State.readFacts (s : State) (c : CtxId) (v : View) (commitDl : Ns) (e : Entry) : Option CmdFacts :=
  match e.engine with
  | .matrix n =>
    (readMatrix v e.desc).bind fun j =>
      if s.coreExists n && decide (e.arrays ≤ s.coreArrays n) && j.shapeOk e.arrays then
        some { regions := j.regions e.arrays, held := if j.d.held then some j.d.unit else none
               reads := j.descExtents e.desc ++ j.reads, writes := j.writesTo e.arrays n, tensors := j.tensors }
      else none
  | .vector n =>
    (readVector v e.desc).bind fun j =>
      if s.coreExists n && j.shapeOk then
        some { reads := j.descExtents e.desc ++ j.reads, writes := j.writesTo, tensors := j.tensors }
      else none
  | .update n =>
    (readUpdate v e.desc).bind fun j =>
      if s.clusterExists n && j.shapeOk then
        some { reads := j.descExtents e.desc ++ j.reads, writes := j.writesTo, tensors := j.tensors }
      else none
  | .dma x ch =>
    (readDma v e.desc).bind fun j =>
      if j.shapeOk x ch commitDl e then
        some { afterCommit := j.d.afterCommit, hostEnd := j.d.srcKind == 1 || j.d.dstKind == 1
               line := if j.d.paced then some (lineOf x j.d.reqLine) else none
               reads := j.reads e.desc, writes := j.writes, tensors := [] }
      else none
  | .coll _ =>
    let x := s.ctx c
    let groups := (x.job.groups.map (·.2)).getD []
    (readColl v e.desc groups (x.job.rank.getD 0xFFFF)).bind fun j =>
      if j.shapeOk && decide (j.d.group < groups.length) then
        some { reads := j.descExtents e.desc, writes := (j.out.toList ++ j.stage.toList ++ j.capture.toList).flatMap Tensor.extents
               tensors := j.tensors, scratch := optExtents j.stage, capture := optExtents j.capture
               named := j.capture.isSome }
      else none

/-- Do the ranges of a kind cover extents? -/
def inKind (rs : List Range) (k : AllocKind) (exts : List (Nat × Nat)) : Bool :=
  exts.all fun e => coveredBy (rs.filter fun r => r.kind == k) e.1 e.2

/-- Every object lies as R480 requires, STAGE in scratch (R257) and a capture tensor in a capture range (R242). -/
def CmdFacts.lies (f : CmdFacts) (usable : Nat) (rs : List Range) : Bool :=
  (f.reads ++ f.writes).all (fun e => extentOk usable rs e.1 e.2)
  && (f.tensors.all (Tensor.lies usable rs))
  && inKind rs .scratch f.scratch && inKind rs .capture f.capture

/-- What a replay may write and must name (R241). A capture tensor is read there, not written. -/
def CmdFacts.replayOk (f : CmdFacts) (rs : List Range) : Bool :=
  f.named && ((f.writes.filter fun e => !(f.capture.contains e)).all fun e =>
    isSram e.1 || inKind rs .scratch [e])

/-- The time figures of R44 that depend on the step. -/
def Entry.timesOk (e : Entry) (commitDl : Ns) (afterCommit : Bool) : Bool :=
  if afterCommit then decide (commitDl ≤ e.release) else decide (e.deadline ≤ commitDl)

/-! ### Pages a step takes (R194, R195, R200) -/

/-- The pages that extents touch in committed ranges, each once. -/
def committedPages (rs : List Range) (exts : List (Nat × Nat)) : List Nat :=
  (exts.flatMap fun e =>
    if isSram e.1 ∨ e.2 = 0 then []
    else (List.range ((e.1 + e.2 - 1) / 4096 + 1 - e.1 / 4096)).map fun i => e.1 / 4096 + i).eraseDups.filter
      fun p => kindAt rs (p * 4096) == some .committed

/-- The pages a command is the first of its group to take: page shadows, and pages of frame shadows (R194). -/
def newShadows (rs : List Range) (taken : List Nat) (exts : List (Nat × Nat)) : List Nat × List Nat :=
  let fresh := (committedPages rs exts).filter fun p => !(taken.contains p)
  let framed := fresh.filter fun p =>
    covers exts (p / 15 * Config.frameBytes) Config.frameBytes
      && (framePages p).all (fun q => kindAt rs (q * 4096) == some .committed)
      && (framePages p).all fun q => !(taken.contains q)
  (fresh.filter fun p => !(framed.contains p), framed)

/-- The copy-back bytes of each command in order (R195): 16,384 for each page shadow that it takes first. -/
def copyBacks (rs : List Range) : List Nat → List (List (Nat × Nat)) → List Nat
  | _, [] => []
  | taken, w :: ws =>
    let n := newShadows rs taken w
    16384 * n.1.length :: copyBacks rs (taken ++ n.1 ++ n.2) ws

/-! ### A whole step -/

/-- A refusal before it is written as an entry (R327, R329). -/
structure Deny where
  code   : Code
  reason : Reason := .none
  index  : Nat := 0
  short  : Nat := 0
  detail : Nat := 0
deriving DecidableEq, Repr

/-- A refusal with REFUSED_SHAPE. -/
def Deny.shape (i : Nat) : Deny := { code := .refusedShape, index := i }

/-- A step read from its records. -/
structure Plan where
  hdr     : Header
  raw     : List (List Byte)
  entries : List Entry
  facts   : List CmdFacts
  table   : List Byte
  ranges  : List Range
deriving DecidableEq, Repr

/-- The command entries in order, or the index of the first that is not well formed. -/
def parseEntries : Nat → List (List Byte) → Except Deny (List Entry)
  | _, [] => .ok []
  | i, b :: bs =>
    match parseEntry b with
    | none => .error (Deny.shape i)
    | some e => (parseEntries (i + 1) bs).map fun es => e :: es

/-- Judge the commands of a step in order. -/
def State.judgeCmds (s : State) (c : CtxId) (h : Header) (rs : List Range) : Nat → List Entry → Except Deny (List CmdFacts)
  | _, [] => .ok []
  | i, e :: es =>
    if engineKind e.engine = 5 ∧ !(s.ctx c).groupsReady then
      .error { code := .refusedShape, reason := .groupTable, index := i }
    else match s.readFacts c s.judgeView h.commitDl e with
      | none => .error (Deny.shape i)
      | some f =>
        if f.lies s.usable rs && e.timesOk h.commitDl f.afterCommit && (h.mode != 4 || f.replayOk rs) then
          (s.judgeCmds c h rs (i + 1) es).map fun fs => f :: fs
        else .error (Deny.shape i)

/-- The commands that name one held region form a chain (R135). -/
def chainsOk (cs : List (Entry × CmdFacts)) : Bool :=
  cs.all fun a => cs.all fun b =>
    a == b || a.2.held.isNone || a.2.held != b.2.held || a.1.engine != b.1.engine
      || decide (a.1.deadline ≤ b.1.release ∨ b.1.deadline ≤ a.1.release)

/-- Two commands on one engine: an earlier release has no later deadline (R334). -/
def ordered (ra da rb db : Ns) : Bool := !(decide (ra < rb ∧ db < da)) && !(decide (rb < ra ∧ da < db))

/-- R334 over the commands of a context: (engine, release, deadline) in absolute time. -/
def edfOrdered (cs : List (Engine × Ns × Ns)) : Bool :=
  cs.all fun a => cs.all fun b => a.1 != b.1 || ordered a.2.1 a.2.2 b.2.1 b.2.2

/-- The admitted commands of a context that still count. -/
def Ctx.liveTimes (x : Ctx) : List (Engine × Ns × Ns) :=
  x.steps.flatMap fun t =>
    (t.cmds.filter Cmd.alive).map fun k => (k.entry.engine, t.release k, t.deadline k)

/-- Request lines are used once: within the step, and against every command admitted at the time (R169). -/
def State.linesFree (s : State) (fs : List CmdFacts) : Bool :=
  let mine := fs.filterMap (·.line)
  mine.eraseDups.length == mine.length
  && !(s.allCmds.any fun p => p.2.alive && (p.2.line.map fun l => mine.contains l).getD false)

/-- T0 of a step whose last trailer arrives now (R41, R42, R43). -/
def State.originOf (s : State) (c : CtxId) (h : Header) (n : Nat) : Ns :=
  let t := s.clk.now + max h.startDelay (10000 + 40 * n)
  match (s.ctx c).pred with
  | some p => if h.follows then max t p.commitDl else t
  | none => t

/-- The shape test of a step (R327, test 1). -/
def State.shapeStep (s : State) (c : CtxId) (header entries : List Byte) : Except Deny Plan :=
  let x := s.ctx c
  match parseHeader header with
  | none => .error (Deny.shape 0)
  | some h =>
    let raw := entriesOf 64 entries
    if raw.length * 64 ≠ entries.length ∨ raw.length ≠ h.count then .error (Deny.shape 0)
    else match parseEntries 0 raw with
      | .error d => .error d
      | .ok es =>
        let table := View.bytes s.judgeView h.alloc (16 * h.allocCount)
        match (entriesOf 16 table).mapM s.parseRange with
        | none => .error (Deny.shape 0)
        | some rs =>
          if !(x.tableOk rs (h.mode == 4)) then .error (Deny.shape 0)
          else if h.job && x.job.tag == 0#32 then .error (Deny.shape 0)
          else if h.job && !x.groupsReady then .error { code := .refusedShape, reason := .groupTable }
          else match s.judgeCmds c h rs 0 es with
            | .error d => .error d
            | .ok fs =>
              let t0 := s.originOf c h es.length
              let times := es.map fun e => (e.engine, t0 + e.release, t0 + e.deadline)
              if !(chainsOk (es.zip fs)) || !(edfOrdered (x.liveTimes ++ times)) || !(s.linesFree fs) then
                .error (Deny.shape 0)
              else if h.mode == 4 && s.intg.cover == some c && x.digest != some (programDigest raw table) then
                .error (Deny.shape 0)
              else .ok { hdr := h, raw := raw, entries := es, facts := fs, table := table, ranges := rs }

end Sys2Proof.Machine
end

