-- ==== Sys2Proof/Machine/Zones.lean ====
section
/-! DEFINITION. Power and thermal zones (R26, R154, R179, R449 to R451, R455): which zones a step uses, what level a zone
requires, and what a change of level does to the work on it. Zones are indexed as PWR_ZONEn: die 0 N, S, H; die 1 N, S, H; F. -/

namespace Sys2Proof.Machine

/-! ### Where clusters lie -/

/-- Is a physical cluster in the northern half of its die? R179 gives each region's seven cluster stops; die 1 is turned through
180°. Within a region the physical numbers ascend by row, then by column (DESIGN CHOICE, log entry 59: the spec does not
number the stops). -/
def northern (c : Fin 28) : Bool :=
  let i := c.val % 7
  match (regionOf c).val with
  | 0 => decide (i < 4)
  | 1 => decide (i < 3)
  | 2 => decide (4 ≤ i)
  | _ => decide (3 ≤ i)

/-- The compute zone of a physical cluster. -/
def zoneOf (c : Fin 28) : Fin 7 :=
  match (dieOf (regionOf c)).val, northern c with
  | 0, true => 0
  | 0, false => 1
  | _, true => 3
  | _, false => 4

/-- The zones H of both dies. -/
def zonesH : List (Fin 7) := [2, 5]

/-- Is a zone a compute zone, N or S? -/
def isCompute (z : Fin 7) : Bool := z == 0 || z == 1 || z == 3 || z == 4

/-! ### Who uses a zone (R450) -/

/-- The compute zone an engine lies in; DMA and collective engines run on the mesh clock (R443). -/
def State.engineZone? (s : State) : Engine → Option (Fin 7)
  | .matrix n | .vector n => (s.physCluster? (n / 2)).map zoneOf
  | .update n => (s.physCluster? n).map zoneOf
  | _ => none

/-- The zones that commands use. -/
def State.entryZones (s : State) (es : List Entry) : List (Fin 7) :=
  es.filterMap (fun e => s.engineZone? e.engine) ++ (if es.any fun e => e.hbm != 0 then zonesH else [])

/-- The zones a step uses. -/
def State.stepZones (s : State) (t : Step) : List (Fin 7) := s.entryZones (t.cmds.map (·.entry))

/-- The zones a standing pattern uses. -/
def State.patternZones (s : State) (p : Pattern) : List (Fin 7) :=
  ((List.range 48).filter fun n => p.cores.toNat.testBit n).filterMap (fun n => s.engineZone? (.matrix n)) ++ zonesH

/-! ### Levels -/

/-- A level after a reading: the highest whose threshold is reached, or that is held until the temperature reads 3 °C below its threshold. -/
def levelAfter (thresholds : List Nat) (cur temp : Nat) : Nat :=
  (thresholds.zipIdx.filter fun p => decide (p.1 ≤ temp) || (decide (p.2 < cur) && decide (p.1 < temp + 3))).foldl (fun m p => max m (p.2 + 1)) 0

/-- The level of a zone H from its highest stack level (R451). -/
def zoneOfStacks (l : Nat) : Nat :=
  match l with
  | 0 | 1 => 0
  | 2 => 1
  | 3 => 3
  | _ => 4

/-- The level that a zone's temperature requires: a compute zone's thresholds, or zone F's trip alone. -/
def zoneLevel (z : Fin 7) (cur temp : Nat) : Nat :=
  if z = 6 then (if levelAfter [110] (if cur = 4 then 1 else 0) temp = 1 then 4 else 0)
  else levelAfter [90, 98, 105, 110] cur temp

/-- The level a zone requires: the higher of its temperature's and, for a compute zone, of the power level (R450). -/
def State.required (s : State) (z : Fin 7) : Nat :=
  if isCompute z then max s.pwr.zones[z].thermal s.pwr.power else s.pwr.zones[z].thermal

/-- Does some of the zones require a level beyond an allowance? -/
def State.zoneRefuses (s : State) (allowance : Nat) (zs : List (Fin 7)) : Bool :=
  zs.any fun z => decide (allowance < s.required z)

/-- The zone's allowance (R450): the lowest of the admitted steps and standing patterns that use it. -/
def State.zoneAllowance (s : State) (z : Fin 7) : Option Nat :=
  let steps := allCtx.flatMap fun c => ((s.ctx c).steps.filter fun t => t.state != .committed && (s.stepZones t).contains z).map
    fun t => t.hdr.allowance
  let pats := allCtx.filterMap fun c => match (s.ctx c).pattern with
    | some p => if (s.patternZones p).contains z then some p.allow else none
    | none => none
  (steps ++ pats).min?

/-! ### The effective figures -/

/-- Active arrays of the device: those of its logical cores; 0 for a retired device (R13, R372). -/
def State.grade (s : State) : Nat :=
  if s.hw.retired then 0 else ((List.range 48).map s.coreArrays).sum

/-- EFFECT of a signature record (R361): active arrays, Oxbows on each die, M of each region, usable HBM in MiB. -/
def State.effect (s : State) : List (Nat × List Nat) :=
  [(1, [s.grade]), (2, [(s.oxbows 0).length]), (3, [(s.oxbows 1).length]),
   (4, (List.finRange 4).map s.rate), (5, [s.usable / 2 ^ 20])]

/-! ### A change of level -/

/-- A zone takes a level: counted and traced (R456, R468). -/
def State.setLevel (s : State) (z : Fin 7) (l : Nat) : State :=
  let q := s.pwr.zones[z]
  if q.level = l then s
  else
    State.trace { s with pwr := { s.pwr with zones := s.pwr.zones.set z { q with level := l }, levels := satInc s.pwr.levels } }
      4 0x40 0 (z.val * 16 + l)

/-- A step ends for heat or power (R450): counted, and with a record of KIND 7 when it was running. -/
def State.thermalAbort (s : State) (c : CtxId) (t : Step) : State :=
  let s1 : State := { s with pwr := { s.pwr with aborts := satInc s.pwr.aborts } }
  let s2 := if t.started then
      s1.record { Sig.empty 7 with
        ctx := some (c.val, (s.ctx c).regs.gen.toNat), step := some t.hdr.step.toNat
        job := (s.ctx c).job.rank.map fun r => ((s.ctx c).job.tag.toNat, (s.ctx c).job.epoch.toNat, r)
        detail := [(5, Reason.fault.value.toNat)], effect := s.effect }
    else s1
  s2.abortStep c t.uid .abortedFault .fault 0

/-- The steps whose allowance some zone that they use exceeds: the running ones, then those that have not started. -/
def State.overheated (s : State) : List (CtxId × Step) :=
  let of (p : Step → Bool) := allCtx.flatMap fun c => ((s.ctx c).steps.filter fun t =>
    p t && s.zoneRefuses t.hdr.allowance (s.stepZones t)).map fun t => (c, t)
  of (fun t => t.state == .running) ++ of (fun t => t.state == .admitted)

/-- Abort steps that still stand. -/
def State.thermalAborts (s : State) (ts : List (CtxId × Step)) : State :=
  ts.foldl (fun u p => if ((u.ctx p.1).step? p.2.uid).isSome then u.thermalAbort p.1 p.2 else u) s

/-- THERM_ALERT_N is low (R455). -/
def State.alertNow (s : State) : Bool :=
  ((List.finRange 7).any fun z => isCompute z && decide (2 ≤ s.pwr.zones[z].level))
  || (zonesH.any fun z => decide (1 ≤ s.pwr.zones[z].level)) || decide (100 ≤ s.pwr.zones[6].temp) || s.pwr.overNow

/-- Drive THERM_ALERT_N; vector 0 fires at each change (R455). -/
def State.driveAlert (s : State) : State :=
  if s.alertNow = s.pwr.alert then s
  else State.msixBoth { s with pwr := { s.pwr with alert := s.alertNow } } 0

/-- A trip (R449, R451, R153): FAULT_OUT_N, every running step aborts, and nothing is admitted until the warm device reset. -/
def State.tripNow (s : State) : State :=
  if s.pwr.trip then s
  else
    let ts := allCtx.flatMap fun c => ((s.ctx c).steps.filter fun t => t.state == .running).map fun t => (c, t)
    let s1 := s.thermalAborts ts
    State.msixBoth { s1 with pwr := { s1.pwr with trip := true }, rcv := { s1.rcv with tripping := true }
                             slu := { s1.slu with admitting := false } } 0

/-- Levels as their temperatures give them afresh, with nothing held: what a warm device reset recomputes (R463, log entry 143). -/
def State.recomputeLevels (s : State) : State :=
  let levels := s.hbm.temps.map (levelAfter [85, 95, 102, 108] 0)
  let most (d : Nat) : Nat := (((List.finRange 8).filter fun k => k.val / 4 == d).map fun k => levels[k]).foldl max 0
  let thermal (z : Fin 7) : Nat :=
    if z = 2 then zoneOfStacks (most 0) else if z = 5 then zoneOfStacks (most 1) else zoneLevel z 0 s.pwr.zones[z].temp
  State.driveAlert { s with
    hbm := { s.hbm with levels := levels }
    pwr := { s.pwr with zones := Vector.ofFn fun z : Fin 7 => { s.pwr.zones[z] with thermal := thermal z, level := thermal z } } }

/-- The required levels act (R26, R450): work whose allowance they exceed ends, then every zone takes its level. -/
def State.applyLevels (s : State) : State :=
  let s1 := if (List.finRange 7).any (fun z => decide (4 ≤ s.required z)) then s.tripNow else s
  let s2 := s1.thermalAborts s1.overheated
  let s3 := (List.finRange 7).foldl (fun u z => u.setLevel z (u.required z)) s2
  s3.driveAlert.dispatch

end Sys2Proof.Machine
end

