-- ==== Sys2Proof/Machine/Admit.lean ====
section
/-! DEFINITION. Admission of a step (R13, R41 to R49, R55, R70, R124, R135, R136, R199 to R204, R326 to R329): the grade, memory
and deadline tests, the accepted step, and the test of admitted work after a fall of capacity. -/

namespace Sys2Proof.Machine

/-! ### Result entries of judgements (R329, R338, R341) -/

/-- What a record's result entry needs of its header and trailer. -/
structure Who where
  seq    : Reg
  tag    : BitVec 64
  client : Byte
deriving DecidableEq, Repr

/-- The judgement entry of an accepted record. -/
def State.accept (s : State) (c : CtxId) (w : Who) (e : Entry64 → Entry64) : State :=
  let s1 : State := { s with slu := { s.slu with admits := satInc s.slu.admits } }
  s1.putEntry c (e { seq := w.seq.toNat, code := .accepted, kind := 0, tag := w.tag.toNat
                     version := (s1.version (rowOf c)).toNat })

/-- The judgement entry of a refused record. `step` is the step number that the entry carries. A refused record changes
nothing else. -/
def State.deny (s : State) (c : CtxId) (w : Who) (d : Deny) (step : Nat := 0) : State :=
  let s1 : State := { s with slu := { s.slu with refuses := satInc s.slu.refuses } }
  s1.putEntry c { seq := w.seq.toNat, code := d.code, kind := 0, tag := w.tag.toNat, step := step
                  version := (s1.version (rowOf c)).toNat, reason := d.reason, index := d.index, shortfall := d.short
                  detail := d.detail }

/-- Count a step or load admitted, or a step refused, for its client (R338). -/
def Client.addAdmitted (k : Client) : Client := { k with admitted := satNat 32 (k.admitted + 1) }
def Client.addRefused (k : Client) : Client := { k with refused := satNat 32 (k.refused + 1) }

/-! ### Grade (R13, R347, R352, R369, R372, R374) -/

/-- Is the engine in the scope of a running rung 2, 3 or 4, or quarantined (DESIGN CHOICE, log entry 50: R374 takes the engine
out of use and names no code)? -/
def State.scopeLost (s : State) (e : Engine) : Bool :=
  (s.rcv.quarantines.any fun q => q.engine == e)
  || s.rcv.rungs.any fun r =>
    match r.scope with
    | .core n => e == .matrix n || e == .vector n
    | .cluster n =>
      match e with
      | .matrix m | .vector m => m / 2 == n
      | .update m => m == n
      | _ => false
    | .region g => s.engineRegion e == some g
    | _ => false

/-- Does the effective grade lack an engine? -/
def State.engineLost (s : State) (e : Engine) : Bool :=
  s.scopeLost e
  || (match e with
      | .matrix n | .vector n => !s.coreExists n
      | .update n => !s.clusterExists n
      | .dma x ch => s.hw.chanDown.any fun p => p.1.val == x && p.2.val == ch
      | .coll a => (s.hw.agentDown.any fun r => r.val == a) || s.hw.lanes == 0#8)
  || (match s.engineRegion e with
      | some r => s.rate r == 0
      | none => false)

/-- The grade test of a step (R327, test 3): its engines, and the zones that require more than its allowance (R26, R450; the
code is a DESIGN CHOICE, log entry 60). -/
def State.gradeStep (s : State) (allowance : Nat) (es : List Entry) : Option Deny :=
  match es.zipIdx.find? fun p => s.engineLost p.1.engine with
  | some p => some { code := .refusedGrade, index := p.2 }
  | none => if s.zoneRefuses allowance (s.entryZones es) then some { code := .refusedGrade } else none

/-! ### Memory (R326) -/

/-- The parts of extents that no earlier one holds, summed. -/
def unionBytes : List (Nat × Nat) → List (Nat × Nat) → Nat
  | _, [] => 0
  | seen, r :: rs =>
    ((seen.foldl (fun acc q => carve q.1 q.2 acc) [(r.1, r.2, 0)]).map fun u => u.2.1).sum + unionBytes (seen ++ [r]) rs

/-- Ranges of HBM. -/
def hbmRanges (rs : List Range) : List (Nat × Nat) := (rs.filter fun r => !isSram r.start).map fun r => (r.start, r.len)

/-- Ranges of SRAM that lie in an extent. -/
def sramIn (start len : Nat) (rs : List Range) : List (Nat × Nat) :=
  (rs.filter fun r => decide (start ≤ r.start ∧ r.start < start + len)).map fun r => (r.start, min r.len (start + len - r.start))

/-- What every context holds, one of them with further ranges; HBM pages of a teardown count until its walk is over. -/
def State.allRanges (s : State) (c : CtxId) (extra : List Range) : List (CtxId × List Range) :=
  allCtx.map fun d => (d, (s.ctx d).heldRanges ++ (s.ctx d).walking ++ if d = c then extra else [])

/-- The allocatable HBM (R326): usable capacity less the page map, the shadow pool and the receive slots. -/
def State.allocatable (s : State) : Nat :=
  s.usable - 15 * 2 ^ 28 - s.cfg.poolGib * 2 ^ 30 - s.recv.slots.length * s.recv.gib * 2 ^ 30

/-- Bytes of a context's new ranges that another context holds (R123). -/
def State.foreignBytes (s : State) (c : CtxId) (rs : List (Nat × Nat)) : Nat :=
  let others := allCtx.flatMap fun d =>
    if d = c then [] else ((s.ctx d).heldRanges ++ (s.ctx d).walking).map fun r => (r.start, r.len)
  (rs.map fun r => r.2 - unionBytes others [r]).sum

/-- The KV pools of standing patterns, which count as allocated (R295; log entry 54). -/
def State.kvBytes (s : State) : Nat := (allCtx.map fun d => (((s.ctx d).pattern.map (·.kvGib)).getD 0) * 2 ^ 30).sum

/-- The capacity test: bytes beyond the allocatable HBM, or held by another context. -/
def State.capacityShort (s : State) (c : CtxId) (rs : List Range) : Nat :=
  let total := ((s.allRanges c rs).map fun p => unionBytes [] (hbmRanges p.2)).sum + s.kvBytes
  max (total - s.allocatable) (s.foreignBytes c (hbmRanges rs))

/-- The matrix and vector work of the admitted steps, one context with more: (context, core, accumulator units). -/
structure Work where
  ctx    : CtxId
  core   : Nat
  vector : Bool
  units  : List (Nat × Nat)
deriving DecidableEq, Repr

/-- The work of one command. -/
def workOf (c : CtxId) (e : Entry) (units : List (Nat × Nat)) : Option Work :=
  match e.engine with
  | .matrix n => some { ctx := c, core := n, vector := false, units := units }
  | .vector n => some { ctx := c, core := n, vector := true, units := [] }
  | _ => none

/-- The accumulator units of an admitted command. -/
def State.unitsUsed (s : State) (c : CtxId) (t : Step) (k : Cmd) : List (Nat × Nat) :=
  match k.entry.engine with
  | .matrix _ => ((readMatrix (s.planView c t) k.entry.desc).map fun j => j.regions k.entry.arrays).getD []
  | _ => []

/-- All admitted work, with that of a new step. -/
def State.allWork (s : State) (c : CtxId) (new : List (Entry × CmdFacts)) : List Work :=
  (allCtx.flatMap fun d => (s.ctx d).steps.flatMap fun t =>
    t.cmds.filterMap fun k => workOf d k.entry (s.unitsUsed d t k))
  ++ new.filterMap fun p => workOf c p.1 p.2.regions

/-- Bytes of a context's save area on a core (R136), in whole bed pages: its regions there and 512 bytes. -/
def saveBytes (ws : List Work) (c : CtxId) (core : Nat) : Nat :=
  let mine := ws.filter fun w => w.ctx == c && w.core == core && !w.vector
  if mine.isEmpty then 0
  else cdiv (4096 * unionBytes [] (mine.flatMap (·.units)) + 512) 65536 * 65536

/-- The SRAM test (R136, R142): bytes beyond a buffer or bank, or held by another context. -/
def State.sramShort (s : State) (c : CtxId) (rs : List Range) (new : List (Entry × CmdFacts)) : Nat :=
  let all := (s.allRanges c rs).map (·.2)
  let ws := s.allWork c new
  let act (n : Nat) : Nat :=
    let base := coreBase n + 0x180000
    (all.map fun r => unionBytes [] (sramIn base 0x200000 r)).sum
      + 24576 * (allCtx.filter fun d => ws.any fun w => w.ctx == d && w.core == n && w.vector).length
  let bank (b : Nat) : Nat :=
    (all.map fun r => unionBytes [] (sramIn (bedBase b) (2 ^ 24) r)).sum
      + if b < 24 then (allCtx.map fun d => saveBytes ws d (2 * b) + saveBytes ws d (2 * b + 1)).sum else 0
  let short := ((List.range 48).map fun n => act n - 0x200000).sum + ((List.range 28).map fun b => bank b - 2 ^ 24).sum
  max short (s.foreignBytes c ((rs.filter fun r => isSram r.start).map fun r => (r.start, r.len)))

/-- An occupation of accumulator units on a core for a time (R70, R135): a held region from its first command's release to its last
deadline. -/
structure Occupied where
  core  : Nat
  units : List (Nat × Nat)
  held  : Option (Nat × Nat)
  rel   : Ns
  dl    : Ns
deriving DecidableEq, Repr

/-- Occupations of the commands of one step: (engine, units, held unit, release, deadline). -/
def occupations (uid : Nat) (cs : List (Engine × List (Nat × Nat) × Option Nat × Ns × Ns)) : List Occupied :=
  cs.filterMap fun k =>
    match k.1 with
    | .matrix n =>
      let same := cs.filter fun o => o.1 == k.1 && o.2.2.1 == k.2.2.1 && k.2.2.1.isSome
      some { core := n, units := k.2.1, held := k.2.2.1.map fun u => (uid, u)
             rel := same.foldl (fun r o => min r o.2.2.2.1) k.2.2.2.1
             dl := same.foldl (fun d o => max d o.2.2.2.2) k.2.2.2.2 }
    | _ => none

/-- Do two occupations collide? -/
def Occupied.collides (a b : Occupied) : Bool :=
  a.core == b.core && overlaps a.rel a.dl b.rel b.dl && !(a.held.isSome && a.held == b.held)
    && a.units.any fun u => b.units.any fun v => decide (u.1 < v.1 + v.2 ∧ v.1 < u.1 + u.2)

/-- Some two of a list collide. -/
def anyCollide : List Occupied → Bool
  | [] => false
  | o :: os => (os.any o.collides) || anyCollide os

/-- The held unit of an admitted command. -/
def State.heldUnit (s : State) (c : CtxId) (t : Step) (k : Cmd) : Option Nat :=
  match k.entry.engine with
  | .matrix _ => (readMatrix (s.planView c t) k.entry.desc).bind fun j => if j.d.held then some j.d.unit else none
  | _ => none

/-- Occupations of every admitted command. -/
def State.occupied (s : State) : List Occupied :=
  allCtx.flatMap fun d => (s.ctx d).steps.flatMap fun t =>
    occupations t.uid ((t.cmds.filter Cmd.alive).map fun k =>
      (k.entry.engine, s.unitsUsed d t k, s.heldUnit d t k, t.release k, t.deadline k))

/-- Occupations of a step to be admitted. -/
def Plan.occupied (p : Plan) (uid : Nat) (t0 : Ns) : List Occupied :=
  occupations uid ((p.entries.zip p.facts).map fun k =>
    (k.1.engine, k.2.regions, k.2.held, t0 + k.1.release, t0 + k.1.deadline))

/-- Is SRAM carried in still there (R124)? -/
def Ctx.carryLost (x : Ctx) : Bool :=
  match x.pred with
  | none => true
  | some p =>
    match p.ended with
    | none => false
    | some .committed => !x.carryOk
    | some _ => true

/-- A refusal with REFUSED_MEMORY. -/
def Deny.memory (r : Reason) (short : Nat) : Deny := { code := .refusedMemory, reason := r, short := short, detail := 3 }

/-- Slots and pool for a new group (R199, R201). -/
def State.groupShort (s : State) (c : CtxId) (g : Span) : Option Deny :=
  if 8 ≤ s.slotsAt c g.t0 ∨ 2 ≤ s.openWith c g then some (Deny.memory .groupSlots 0)
  else if s.poolPages < s.poolPeak c g then some (Deny.memory .shadowPool ((s.poolPeak c g - s.poolPages) * 4096))
  else none

/-- Every step that declares HBM bytes is refused once a seventeenth channel is lost (R161) or the die bridge's multiplier is 0
(R185). -/
def State.hbmGone (s : State) : Option Deny :=
  if 17 ≤ s.lostCount then some (Deny.memory .hbmLost 0)
  else if s.bridgeFactor = 0 then some (Deny.memory .bridgeLost 0)
  else none

/-- The memory tests of a step, in the order of R326. -/
def State.memoryStep (s : State) (c : CtxId) (p : Plan) (t0 : Ns) : Option Deny :=
  let new := p.entries.zip p.facts
  let span : Span := { t0 := t0, dl := t0 + p.hdr.commitDl, p := p.hdr.p, c := p.hdr.c, held := p.hdr.p }
  let cap := s.capacityShort c p.ranges
  let sr := s.sramShort c p.ranges new
  if p.entries.any (fun e => e.hbm != 0) && s.hbmGone.isSome then s.hbmGone
  else if 0 < cap then some (Deny.memory .capacity cap)
  else if 0 < sr then some (Deny.memory .sram sr)
  else if anyCollide (p.occupied s.slu.nextUid t0)
      || (p.occupied s.slu.nextUid t0).any (fun o => s.occupied.any o.collides) then some (Deny.memory .accumulator 0)
  else
    match if p.hdr.mode = 4 then none else s.groupShort c span with
    | some d => some d
    | none => if p.hdr.carryIn && (s.ctx c).carryLost then some (Deny.memory .carryInLost 0) else none

/-! ### Deadlines (R48, R204, R296) -/

/-- The copy-back bytes, P and C of the group that the next commit of a context folds (R204). -/
def State.foldDue (s : State) (c : CtxId) : Nat × Nat × Nat :=
  let x := s.ctx c
  match (x.steps.filter fun t => t.state != .committed && t.hdr.mode != 4).getLast? with
  | some t => ((t.cmds.map (·.copyBack)).sum + (if t.kind = .host then 0 else 16384 * t.hdr.c), t.hdr.p, t.hdr.c)
  | none =>
    match x.pred with
    | some p => if p.ended = some .committed then (p.copyBack, p.p, p.c)
      else (16384 * (s.lastNow (rowOf c)).2.2, (s.lastNow (rowOf c)).2.1, (s.lastNow (rowOf c)).2.2)
    | none => (0, 0, 0)

/-- The fold demand that admitting a step adds (R204). -/
def State.newFold (s : State) (c : CtxId) (uid : Nat) (t0 dl : Ns) : List Fold :=
  let f := s.foldDue c
  if f.1 = 0 then [] else [{ group := uid, by_ := uid, start := t0, stop := dl + walkBound f.2.1 f.2.2, bytes := f.1 }]

/-- A refusal with REFUSED_DEADLINE. -/
def Deny.deadline (f : Shortfall) : Deny :=
  { code := .refusedDeadline, index := f.index, short := f.short, detail := f.test + 256 * f.which }

/-- The admitted set with the periods of standing patterns, up to one period beyond its latest deadline (R296). -/
def State.withPatterns (s : State) (old new : List Item) : List Item := old ++ s.patternItems (lastDl (old ++ new))

/-- The commands of a plan, as they enter the admitted set. -/
def Plan.cmds (p : Plan) : List Cmd :=
  let cbs := if p.hdr.mode = 4 then p.entries.map (fun _ => 0) else copyBacks p.ranges [] (p.facts.map (·.writes))
  ((p.entries.zip p.facts).zip cbs).map fun k =>
    { entry := k.1.1, wPrime := 0, afterCommit := k.1.2.afterCommit, hostEnd := k.1.2.hostEnd, state := .waiting, ran := 0
      since := 0, waitSince := none, position := 0, lineAcked := false, staged := [], saturated := false, dropped := (0, 0)
      gscale := none, copyBack := k.2, line := k.1.2.line }

/-- The step that a plan becomes. -/
def State.stepOf (s : State) (p : Plan) (t0 : Ns) (w : Who) : Step where
  uid := s.slu.nextUid
  kind := .host
  hdr := p.hdr
  tag := w.tag
  seq := w.seq
  client := w.client
  tL := s.clk.now
  t0 := t0
  state := .admitted
  slot := none
  cmds := p.cmds
  alloc := p.ranges
  reverted := false
  condFlag := false
  prepared := 0
  sweep := false
  digest := programDigest p.raw p.table
  late := false

/-- The deadline tests of a step. -/
def State.deadlineStep (s : State) (c : CtxId) (t : Step) (folds : List Fold) : Except Deny (List Item) :=
  match t.cmds.zipIdx.find? fun k => s.heldByOther c k.1.entry.engine with
  | some k => .error { code := .refusedDeadline, index := k.2, detail := 256 * engineDetail k.1.entry.engine }
  | none =>
    let new := t.items c ++ folds.map fun f => poolItem c f.start f.stop f.bytes 0
    match admitTest s.poolRate (s.withPatterns (s.stepItems fun _ _ => false) new) new with
    | .error f => .error (Deny.deadline f)
    | .ok all => .ok all

/-! ### Accepting a step -/

/-- The step joins the admitted set of its context and becomes the predecessor of the next (R43, R49). -/
def State.addStep (s : State) (c : CtxId) (t : Step) (folds : List Fold) (raised : List Item) : State :=
  let s1 := s.modCtx c fun x =>
    { x with steps := x.steps ++ [t], folds := x.folds ++ folds
             pred := some { uid := t.uid, commitDl := t.t0 + t.hdr.commitDl, p := t.hdr.p, c := t.hdr.c
                            copyBack := (t.cmds.map (·.copyBack)).sum, ended := none } }
  let s2 : State := { s1 with slu := { s1.slu with nextUid := s1.slu.nextUid + 1 } }
  (s2.applyRaised raised).modClient (s2.ctx c).client Client.addAdmitted

/-- The ACCEPTED entry and trace of a step. -/
def State.acceptStep (s : State) (c : CtxId) (t : Step) : State :=
  let s1 := s.accept c { seq := t.seq, tag := t.tag, client := t.client } fun e => { e with step := t.hdr.step.toNat, t0 := t.t0 }
  s1.trace 1 0x10 c.val (t.hdr.step.toNat % 2 ^ 28 * 256 + Code.accepted.value.toNat)

/-- A predecessor that has aborted takes with it a step that follows it (R43). -/
def State.followEnded (s : State) (c : CtxId) (ended : Option Code) (t : Step) : State :=
  match ended with
  | some code => if t.hdr.follows ∧ code ≠ .committed then s.abortStep c t.uid code .none 0 else s
  | none => s

/-- Refuse a step and count it for its client. -/
def State.denyStep (s : State) (c : CtxId) (w : Who) (d : Deny) (step : Nat) : State :=
  (s.deny c w d step).modClient (s.ctx c).client Client.addRefused

/-- Judge a whole step (R327): shape, role, grade, memory, deadline; the first failure decides. -/
def State.judgeStep (s : State) (c : CtxId) (header entries : List Byte) (w : Who) : State :=
  let x := s.ctx c
  let num := field header 0 8
  match s.shapeStep c header entries with
  | .error d => s.denyStep c w d num
  | .ok p =>
    if x.role ≠ .training then s.denyStep c w { code := .refusedRole } num
    else if x.final then s.denyStep c w { code := .refusedRole, reason := .stopping } num
    else
      let t0 := s.originOf c p.hdr p.entries.length
      match (s.gradeStep p.hdr.allowance p.entries).orElse fun _ => s.memoryStep c p t0 with
      | some d => s.denyStep c w d num
      | none =>
        let t := s.stepOf p t0 w
        let folds := if p.hdr.mode = 4 then [] else s.newFold c t.uid t0 (t0 + p.hdr.commitDl)
        match s.deadlineStep c t folds with
        | .error d => s.denyStep c w d num
        | .ok all =>
          let s1 := (s.addStep c t folds all).acceptStep c t
          (s1.admitProgram c t.digest t.hdr.step (p.hdr.mode == 4)).followEnded c (x.pred.bind (·.ended)) t

/-! ### After a fall of capacity (R55) -/

/-- Every unstarted step in the order in which it was fixed: by t_L, then context number, then admission. -/
def State.unstarted (s : State) : List (CtxId × Step) :=
  let all := allCtx.flatMap fun c => ((s.ctx c).steps.filter fun t => !t.started).map fun t => (c, t)
  all.mergeSort fun a b => decide (a.2.tL < b.2.tL) || (a.2.tL == b.2.tL && (decide (a.1 < b.1)
    || (a.1 == b.1 && decide (a.2.uid ≤ b.2.uid))))

/-- The items of one step with its fold demands. -/
def State.itemsOf (s : State) (c : CtxId) (t : Step) : List Item :=
  t.items c ++ ((s.ctx c).folds.filter fun f => f.by_ == t.uid).map fun f => poolItem c f.start f.stop f.bytes 0

/-- Does a step still have its engines: none lost, and the arrays that its matrix commands name? -/
def State.enginesStand (s : State) (t : Step) : Bool :=
  !(s.zoneRefuses t.hdr.allowance (s.stepZones t)) && !(s.hbmGone.isSome && t.cmds.any fun k => k.entry.hbm != 0)
  && t.cmds.all fun k => !s.engineLost k.entry.engine
    && match k.entry.engine with
      | .matrix n => decide (k.entry.arrays ≤ s.coreArrays n)
      | _ => true

/-- Test the unstarted steps one at a time against the running ones and the earlier ones that passed. -/
def State.retestFrom (reason : Reason) : List (CtxId × Step) → List Item → State → State
  | [], _, s => s
  | (c, t) :: rest, kept, s =>
    match (s.ctx c).step? t.uid with
    | none => State.retestFrom reason rest kept s
    | some u =>
      let new := s.itemsOf c u
      let ok := s.enginesStand u && match admitTest s.poolRate (s.withPatterns kept new) new with
        | .ok _ => true
        | .error _ => false
      if ok then State.retestFrom reason rest (kept ++ new) s
      else State.retestFrom reason rest kept (s.abortStep c u.uid .abortedFault reason 0)

/-- R55: admitted work is tested again. The test is made at once (DESIGN CHOICE, log entry 51: within the 1 ms that the rule
allows). -/
def State.retest (s : State) (reason : Reason) : State :=
  let running := allCtx.flatMap fun c => ((s.ctx c).steps.filter Step.started).flatMap fun t => s.itemsOf c t
  (State.retestFrom reason s.unstarted running s).dispatch

end Sys2Proof.Machine
end

