-- ==== Sys2Proof/Machine/Mirror.lean ====
section
/-! DEFINITION. Partner mirroring and restore (R230 to R238, R280, R376 to R379): checkpoints, their streams, the receive slots
of the partner, and the chunks of a restore. -/

namespace Sys2Proof.Machine

/-! ### Mirrored state -/

/-- Count a checkpoint missed or skipped (R237). -/
def State.countMiss (s : State) : State := { s with weir := { s.weir with mirMiss := satInc s.weir.mirMiss } }

/-- The bytes of ranges in order, in the committed view. -/
def State.rangesBytes (s : State) (rs : List (Nat × Nat)) : List Byte := rs.flatMap fun r => s.committedBytes r.1 r.2

/-- Bytes of ranges. -/
def rangesLen (rs : List (Nat × Nat)) : Nat := (rs.map (·.2)).sum

/-- Chunks of a number of bytes (R231). -/
def chunkCount (n : Nat) : Nat := cdiv n Config.chunkBytes

/-- The length of chunk `i` of `n` bytes. -/
def chunkLen (n i : Nat) : Nat := min Config.chunkBytes (n - i * Config.chunkBytes)

/-- Where the bytes of a stream from `off` on lie in ranges: pieces of device addresses. -/
def placeBytes : List (Nat × Nat) → Nat → List Byte → List (Nat × List Byte)
  | [], _, _ => []
  | r :: rs, off, bs =>
    if bs.isEmpty then []
    else if r.2 ≤ off then placeBytes rs (off - r.2) bs
    else (r.1 + off, bs.take (r.2 - off)) :: placeBytes rs 0 (bs.drop (r.2 - off))

/-! ### Mirror messages (R280) -/

/-- Send a class 0x2 message. A chunk's messages and its DIGEST go on one flow, so that they keep their order
(DESIGN CHOICE, log entry 43). -/
def State.sendMirror (s : State) (c : CtxId) (peer kind slot : Nat) (step : BitVec 64) (off : Nat) (bs : List Byte) : State :=
  s.sendData c peer (flowFor slot peer) 2 fun p =>
    { p with step := step.setWidth 32, cmd := BitVec.ofNat 12 kind, slot := BitVec.ofNat 16 slot
             offset := BitVec.ofNat 32 off, payload := bs }

/-- CHUNK and DIGEST of one chunk. -/
def State.sendChunk (s : State) (c : CtxId) (peer i : Nat) (step : BitVec 64) (bs : List Byte) (digest : BitVec 256) : State :=
  State.sendMirror ((messages bs).foldl (fun t m => t.sendMirror c peer 0 i step m.1 m.2) s) c peer 1 i step 0
    (digestBytes digest)

/-- SEAL: the full STEP and the chunk count. -/
def State.sendSeal (s : State) (c : CtxId) (peer : Nat) (step : BitVec 64) (count : Nat) : State :=
  s.sendMirror c peer 3 0 step 0 (leBytes 8 step.toNat ++ leBytes 4 count)

/-- CLEAN, kind 4, or DISCARD, kind 5. -/
def State.sendVerdict (s : State) (c : CtxId) (kind : Nat) (step : BitVec 64) : State :=
  match (s.ctx c).mirror.bind (·.send) with
  | some peer => s.sendMirror c peer kind 0 step 0 (leBytes 8 step.toNat)
  | none => s

/-! ### The sender (R231 to R236) -/

/-- Bytes of a chunk of a stream's image. -/
def Stream.chunk (st : Stream) (n i : Nat) : List Byte :=
  (List.range (chunkLen n i)).map fun k => readCell st.image (i * Config.chunkBytes + k)

/-- A checkpoint at the commit of a step (R231): skipped and counted while an earlier stream runs; otherwise its chunks and
digests go to the partner. `final` says that no later commit is to be waited for (R313). -/
def State.checkpoint (s : State) (c : CtxId) (step : BitVec 64) (version : BitVec 64) (final : Bool) : State :=
  match (s.ctx c).mirror with
  | none => s
  | some m =>
    match m.send with
    | none => s
    | some peer =>
      if ((s.ctx c).stream.map fun st => !st.sentAll).getD false then s.countMiss
      else
        let bs := s.rangesBytes m.ranges
        let st : Stream :=
          { step := step, version := version, started := s.clk.now, deadline := s.clk.now + m.interval * m.minPeriod
            image := writeCells [] 0 bs, held := [], sentAll := false, nextDone := final }
        let s1 := s.modCtx c fun x =>
          { x with stream := some st
                   ckpts := x.ckpts ++ [{ step := step, sealed := false, ws := if s.halfRate then 128 else 64 }] }
        (List.range (chunkCount bs.length)).foldl (fun t i =>
          let ck := slice bs (i * Config.chunkBytes) Config.chunkBytes
          t.sendChunk c peer i step ck (sha256 ck)) s1

/-- Is the commit of a step a checkpoint: STEP a multiple of I, or the last step after a FINAL (R231, R313)? -/
def Ctx.checkpointDue (x : Ctx) (t : Step) : Bool :=
  match x.mirror with
  | none => false
  | some m => m.send.isSome && t.hdr.mode != 4
    && (t.hdr.step.toNat % m.interval == 0
      || (x.final && !(x.steps.any fun u => u.uid != t.uid && u.kind == .host && u.state != .committed)))

/-- SEAL goes once the stream has ended and the next commit has come (R233). -/
def State.sealIfDue (s : State) (c : CtxId) : State :=
  match (s.ctx c).stream, (s.ctx c).mirror with
  | some st, some m =>
    if st.sentAll && st.nextDone then
      let s1 := s.modCtx c fun x =>
        { x with stream := none, ckpts := x.ckpts.map fun k => if k.step = st.step then { k with sealed := true } else k }
      match m.send with
      | some peer => s1.sendSeal c peer st.step (chunkCount (rangesLen m.ranges))
      | none => s1
    else s
  | _, _ => s

/-- A later commit of the context: pages of the checkpoint's version that it displaces are held, and SEAL may go (R232,
R233). -/
def State.laterCommit (s : State) (c : CtxId) (pages : List Nat) : State :=
  match (s.ctx c).stream, (s.ctx c).mirror with
  | some st, some m =>
    let mine := pages.filter fun p => m.ranges.any fun r =>
      decide (r.1 < (p + 1) * Config.pageBytes ∧ p * Config.pageBytes < r.1 + r.2)
    let held := if st.sentAll then [] else (st.held ++ mine).eraseDups
    State.sealIfDue (s.modCtx c fun x => { x with stream := some { st with nextDone := true, held := held } }) c
  | _, _ => s

/-- A stream is abandoned and its checkpoint missed (R235, R236). `tell` sends DISCARD, so that the partner aborts its receive
group. -/
def State.dropStream (s : State) (c : CtxId) (tell : Bool) : State :=
  match (s.ctx c).stream with
  | none => s
  | some st =>
    let s1 := (s.modCtx c fun x =>
      { x with stream := none, ckpts := x.ckpts.filter fun k => k.step != st.step }).countMiss
    if tell then s1.sendVerdict c 5 st.step else s1

/-! ### The mirror region of the partner (R233 to R237) -/

/-- A free receive slot. -/
def RecvSlot.empty : RecvSlot where
  state := .free
  group := none
  step := 0#64
  sealCount := none
  chunks := []
  taken := none

/-- Change one receive slot. -/
def State.modSlot (s : State) (i : Nat) (f : RecvSlot → RecvSlot) : State :=
  { s with recv := { s.recv with slots := s.recv.slots.modify i f } }

/-- The slot that receives the checkpoint with these low STEP bits. -/
def State.receiving (s : State) (step : BitVec 32) : Option Nat :=
  s.recv.slots.findIdx? fun k => k.state == .receiving && k.step.setWidth 32 == step

/-- The SEAL of a slot taken for a restore is still unacknowledged (R377). -/
def State.slotTaken (s : State) (k : RecvSlot) : Bool :=
  match k.taken with
  | none => false
  | some h => s.fab.flows.any fun f => f.key.ctx == h.1 && f.key.peer == h.2 &&
      (f.unacked ++ f.held).any fun p => p.cls == 2#4 && p.step == k.step.setWidth 32

/-- The newest CLEAN slot's STEP; 0 with none (R237). -/
def State.newestClean (s : State) : BitVec 64 :=
  ((s.recv.slots.filter fun k => k.state == .clean).map (·.step)).foldl (fun a b => if a.toNat < b.toNat then b else a) 0#64

/-- Slots older than the newest CLEAN one are freed, those a restore has taken only when it is over (R234, R377). -/
def State.freeOlder (s : State) : State :=
  let n := s.newestClean
  { s with recv := { s.recv with slots := s.recv.slots.map fun k =>
      if (k.state == .clean || k.state == .pending) && decide (k.step.toNat < n.toNat) && !s.slotTaken k then RecvSlot.empty
      else k } }

/-- A receive group aborts: its slot is FREE again (R233, R236). -/
def State.abortReceive (s : State) (i : Nat) : State :=
  match s.recv.slots[i]? with
  | none => s
  | some k =>
    let s1 := match k.group with
      | some g => s.abortGroup 16 g
      | none => s
    s1.modSlot i fun _ => RecvSlot.empty

/-- Open a receive group for a new checkpoint in a FREE slot, or refuse it once (R233, R235). -/
def State.openReceive (s0 : State) (c : CtxId) (p : OxtPkt) : State × Option Nat :=
  let s := s0.freeOlder
  match s.recv.slots.findIdx? fun k => k.state == .free with
  | some i =>
    let g := s.freeSlot 16
    let s1 := match g with
      | some k => s.openGroup { row := 16, slot := k, uid := 0, step := p.step.setWidth 64, tag := 0#64, seq := 0#32, p := 0,
                                c := 0, copies := [], displaced := 0, walkFrom := 0 }
      | none => s
    (s1.modSlot i fun k => { k with state := .receiving, group := g, step := p.step.setWidth 64 }, some i)
  | none =>
    if s.recv.refused = some p.step then (s, none)
    else
      let s1 : State := { s with recv := { s.recv with refused := some p.step } }
      (s1.countMiss.sendMirror c p.srcRank.toNat 6 0 (p.step.setWidth 64) 0 [], none)

/-- Add a piece of a chunk. -/
def addPiece (cs : List RecvChunk) (i off : Nat) (bs : List Byte) : List RecvChunk :=
  if cs.any fun k => k.index == i then
    cs.map fun k => if k.index = i then { k with pieces := k.pieces ++ [(off, bs)] } else k
  else cs ++ [{ index := i, pieces := [(off, bs)], digest := none, verified := false, repeats := 0 }]

/-- The bytes of a chunk as they have arrived: what follows offset 0 without a gap. -/
def RecvChunk.bytes (k : RecvChunk) : List Byte :=
  (k.pieces.mergeSort fun a b => decide (a.1 ≤ b.1)).foldl
    (fun acc p => if p.1 ≤ acc.length then acc.take p.1 ++ p.2 else acc) []

/-- What the digest of a chunk finds: verified, to be asked for once more, or a second mismatch (R233, R378). -/
inductive Verdict where
  | good
  | again
  | bad
deriving DecidableEq, Repr

/-- Set a chunk's digest and compare it with the hash of what has arrived. -/
def judgeChunk (cs : List RecvChunk) (i : Nat) (d : BitVec 256) : List RecvChunk × Verdict :=
  match cs.find? fun k => k.index == i with
  | none => (cs ++ [{ index := i, pieces := [], digest := some d, verified := false, repeats := 1 }], .again)
  | some k =>
    if k.verified ∨ sha256 k.bytes = d then
      (cs.map fun q => if q.index = i then { q with digest := some d, verified := true } else q, .good)
    else if k.repeats = 0 then
      (cs.map fun q => if q.index = i then { q with pieces := [], digest := none, repeats := 1 } else q, .again)
    else (cs, .bad)

/-- Are all of `n` chunks verified? -/
def allVerified (cs : List RecvChunk) (n : Nat) : Bool :=
  (List.range n).all fun i => cs.any fun k => k.index == i && k.verified

/-- A receive group commits when every chunk is verified and SEAL has arrived: the slot becomes PENDING (R233). -/
def State.commitReceive (s : State) (i : Nat) : State :=
  match s.recv.slots[i]? with
  | none => s
  | some k =>
    match k.sealCount with
    | none => s
    | some n =>
      if k.state == .receiving && allVerified k.chunks n then
        let s1 := match k.group with
          | some g => s.commitGroup 16 g (s.version 16 + 1#64) true
          | none => s
        s1.modSlot i fun k => { k with state := .pending, group := none }
      else s

/-! ### A restore (R376 to R379) -/

/-- The restore of a context that a message from a rank belongs to. -/
def Ctx.restoreOf (x : Ctx) (p : OxtPkt) : Option Restore :=
  x.restore.bind fun r => if r.holder = p.srcRank.toNat ∧ r.step.setWidth 32 = p.step then some r else none

/-- A restore is lost (R378): its group aborts, and MIRROR_LOST names the holder. -/
def State.mirrorLost (s : State) (c : CtxId) (reason : Reason) : State :=
  match (s.ctx c).restore with
  | none => s
  | some r =>
    match (s.ctx c).step? r.uid with
    | none => s
    | some t =>
      let s1 := s.abortStep c r.uid .abortedFault reason r.holder
      let s2 : State := { s1 with rcv := { s1.rcv with lost := satInc s1.rcv.lost } }
      (s2.putEntry c { seq := t.seq.toNat, code := .mirrorLost, kind := 3, tag := t.tag.toNat, step := r.step.toNat,
                       version := (s2.version (rowOf c)).toNat, reason := reason, index := r.holder }).dispatch

/-- Change the restore of a context. -/
def State.modRestore (s : State) (c : CtxId) (f : Restore → Restore) : State :=
  s.modCtx c fun x => { x with restore := x.restore.map f }

/-- A verified chunk is written to shadow pages at its place in RANGES (R376, R378). -/
def State.writeRestored (s : State) (c : CtxId) (r : Restore) (i : Nat) (bs : List Byte) : State :=
  match (s.ctx c).step? r.uid with
  | none => s
  | some t =>
    match t.slot with
    | none => s
    | some k =>
      let w := s.writeAll c k (placeBytes r.ranges (i * Config.chunkBytes) bs)
      match w.2 with
      | some reason => s.abortStep c r.uid .abortedFault reason 0
      | none => w.1

/-- The restore has everything: SEAL has arrived and every chunk is verified (R378). -/
def Restore.done (r : Restore) : Bool :=
  match r.sealed with
  | some n => decide (n = chunkCount (rangesLen r.ranges)) && allVerified r.chunks n
  | none => false

/-! ### Messages of class 0x2 -/

/-- A mirror message of a kind, judged as every packet (R281). -/
def State.mirrorMsg (s : State) (p : OxtPkt) (kind : Nat) (known : State → CtxId → Bool) (act : State → CtxId → State) : State :=
  if p.cmd.toNat = kind then s.receive p 0 2 known act else s

/-- Does this device receive checkpoints of a rank on a context? -/
def State.mirrorsFrom (s : State) (c : CtxId) (p : OxtPkt) : Bool :=
  s.recv.ctx == some c && s.recv.rank == p.srcRank.toNat

/-- Does a chunk or digest belong to a restore or to a checkpoint being received? -/
def State.wantsChunk (s : State) (c : CtxId) (p : OxtPkt) : Bool :=
  ((s.ctx c).restoreOf p).isSome || s.mirrorsFrom c p

/-- A chunk arrives at the partner or at a restorer. -/
def State.takeChunk (s : State) (c : CtxId) (p : OxtPkt) : State :=
  match (s.ctx c).restoreOf p with
  | some _ => s.modRestore c fun r => { r with chunks := addPiece r.chunks p.slot.toNat p.offset.toNat p.payload }
  | none =>
    let o : State × Option Nat := match s.receiving p.step with
      | some i => (s, some i)
      | none => s.openReceive c p
    match o.2 with
    | some i =>
      if s.recv.gib * 16 ≤ p.slot.toNat then o.1
      else o.1.modSlot i fun k => { k with chunks := addPiece k.chunks p.slot.toNat p.offset.toNat p.payload }
    | none => o.1

/-- A digest arrives: the chunk is verified, asked for once more, or ends the group or the restore (R233, R378). -/
def State.takeDigest (s : State) (c : CtxId) (p : OxtPkt) : State :=
  let i := p.slot.toNat
  let d := digestOf p.payload
  match (s.ctx c).restoreOf p with
  | some r =>
    let v := judgeChunk r.chunks i d
    let s1 := s.modRestore c fun r => { r with chunks := v.1 }
    match v.2 with
    | .good => s1.writeRestored c r i (((v.1.find? fun k => k.index == i).map RecvChunk.bytes).getD [])
    | .again => (s1.modRestore c fun r => { r with since := s.clk.now }).sendMirror c r.holder 2 i r.step 0 []
    | .bad => s1.mirrorLost c .chunkDigest
  | none =>
    match s.receiving p.step with
    | none => s
    | some j =>
      let v := judgeChunk ((s.recv.slots[j]?.map (·.chunks)).getD []) i d
      let s1 := s.modSlot j fun k => { k with chunks := v.1 }
      match v.2 with
      | .good => s1.commitReceive j
      | .again => s1.sendMirror c p.srcRank.toNat 2 i (p.step.setWidth 64) 0 []
      | .bad => (s1.abortReceive j).countMiss

/-- SEAL arrives (R233, R378). -/
def State.takeSeal (s : State) (c : CtxId) (p : OxtPkt) : State :=
  let count := field p.payload 8 4
  match (s.ctx c).restoreOf p with
  | some _ => s.modRestore c fun r => { r with sealed := some count }
  | none =>
    match s.receiving p.step with
    | none => s
    | some i => (s.modSlot i fun k =>
        { k with step := BitVec.ofNat 64 (field p.payload 0 8), sealCount := some count }).commitReceive i

/-- A mirror or restore chunk arrives (R233, R378). -/
def execMirrorChunk (p : OxtPkt) (s : State) : Host.Outcome State Fault Refusal :=
  .next (s.mirrorMsg p 0 (fun t c => t.wantsChunk c p) fun t c => t.takeChunk c p)

/-- A chunk digest arrives. -/
def execMirrorDigest (p : OxtPkt) (s : State) : Host.Outcome State Fault Refusal :=
  .next (s.mirrorMsg p 1 (fun t c => t.wantsChunk c p) fun t c => t.takeDigest c p)

/-- The chunk a REPEAT asks for is sent again: by the sender from its image, by a holder from its slot (R233, R378). -/
def State.repeatChunk (s : State) (c : CtxId) (p : OxtPkt) : State :=
  let i := p.slot.toNat
  let x := s.ctx c
  match x.stream, x.mirror with
  | some st, some m =>
    if st.step.setWidth 32 = p.step ∧ m.send = some p.srcRank.toNat then
      let bs := st.chunk (rangesLen m.ranges) i
      s.sendChunk c p.srcRank.toNat i st.step bs (sha256 bs)
    else s
  | _, _ =>
    match s.recv.slots.find? fun k => k.state == .clean && k.step.setWidth 32 == p.step && k.taken == some (c, p.srcRank.toNat) with
    | some k =>
      match k.chunks.find? fun q => q.index == i with
      | some q => s.sendChunk c p.srcRank.toNat i k.step q.bytes (q.digest.getD 0#256)
      | none => s
    | none => s

/-- REPEAT arrives (R233). -/
def execMirrorRepeat (p : OxtPkt) (s : State) : Host.Outcome State Fault Refusal :=
  .next (s.mirrorMsg p 2
    (fun t c => ((t.ctx c).stream.map fun st => st.step.setWidth 32 == p.step).getD false
      || t.recv.slots.any fun k => k.state == .clean && k.step.setWidth 32 == p.step)
    fun t c => t.repeatChunk c p)

/-- SEAL arrives (R233, R378). -/
def execMirrorSeal (p : OxtPkt) (s : State) : Host.Outcome State Fault Refusal :=
  .next (s.mirrorMsg p 3 (fun t c => t.wantsChunk c p) fun t c => t.takeSeal c p)

/-- CLEAN arrives: the slot becomes CLEAN and older slots are freed (R234). -/
def execMirrorClean (p : OxtPkt) (s : State) : Host.Outcome State Fault Refusal :=
  .next (s.mirrorMsg p 4 (fun t c => t.mirrorsFrom c p) fun t _ =>
    let n := BitVec.ofNat 64 (field p.payload 0 8)
    State.freeOlder { t with recv := { t.recv with slots := t.recv.slots.map fun k =>
      if k.state = .pending ∧ k.step = n then { k with state := .clean } else k } })

/-- DISCARD arrives: the slot is freed, or its receive group aborts (R234). -/
def execMirrorDiscard (p : OxtPkt) (s : State) : Host.Outcome State Fault Refusal :=
  .next (s.mirrorMsg p 5 (fun t c => t.mirrorsFrom c p) fun t _ =>
    let n := BitVec.ofNat 64 (field p.payload 0 8)
    match t.recv.slots.findIdx? fun k => (k.state == .pending && k.step == n)
        || (k.state == .receiving && k.step.setWidth 32 == n.setWidth 32) with
    | some i => t.abortReceive i
    | none => t)

/-- REFUSE arrives: the checkpoint is skipped and its held pages released (R235). -/
def execMirrorRefuse (p : OxtPkt) (s : State) : Host.Outcome State Fault Refusal :=
  .next (s.mirrorMsg p 6 (fun t c => ((t.ctx c).stream.map fun st => st.step.setWidth 32 == p.step).getD false)
    fun t c => t.dropStream c false)

/-- TAKE arrives (R377): NONE, or every chunk of the CLEAN slot with its recorded digest, then SEAL. -/
def execTake (p : OxtPkt) (s : State) : Host.Outcome State Fault Refusal :=
  .next (s.mirrorMsg p 7 (fun _ _ => true) fun t c =>
    let step := BitVec.ofNat 64 (field p.payload 0 8)
    let source := field p.payload 8 2
    let peer := p.srcRank.toNat
    match t.recv.slots.findIdx? fun k => k.state == .clean && k.step == step && t.recv.rank == source with
    | none => t.sendMirror c peer 8 0 step 0 []
    | some i =>
      let ks := ((t.recv.slots[i]?.map (·.chunks)).getD []).mergeSort fun a b => decide (a.index ≤ b.index)
      let t1 := t.modSlot i fun k => { k with taken := some (c, peer) }
      (ks.foldl (fun u q => u.sendChunk c peer q.index step q.bytes (q.digest.getD 0#256)) t1).sendSeal c peer step ks.length)

/-- NONE arrives: the restore is lost (R378). -/
def execNone (p : OxtPkt) (s : State) : Host.Outcome State Fault Refusal :=
  .next (s.mirrorMsg p 8 (fun t c => ((t.ctx c).restoreOf p).isSome) fun t c => t.mirrorLost c .peerMissing)

/-- A restore chunk is missing after WAIT (R378). A restore that has everything stands (R379). -/
def execRestoreWaitExpiry (c : CtxId) (chunk : Nat) (s : State) : Host.Outcome State Fault Refusal :=
  .next <| s.whenUp fun s =>
    match (s.ctx c).restore with
    | none => s
    | some r =>
      if r.done || (r.chunks.any fun k => k.index == chunk && k.verified && r.sealed.isSome)
          || decide (s.clk.now < r.since + r.wait) || decide (chunkCount (rangesLen r.ranges) ≤ chunk) then s
      else s.mirrorLost c .peerMissing

/-- A mirror stream ends (R233): its held pages are released, and SEAL goes if the next commit has come. -/
def execMirrorStreamEnd (c : CtxId) (s : State) : Host.Outcome State Fault Refusal :=
  .next <| s.whenUp fun s =>
    match (s.ctx c).stream with
    | some st =>
      if st.sentAll || decide (st.deadline < s.clk.now) then s
      else (s.modCtx c fun x => { x with stream := some { st with sentAll := true, held := [] } }).sealIfDue c
    | none => s

/-- A mirror stream is not complete at its deadline: abandoned and counted as missed (R236). -/
def execMirrorStreamDeadline (c : CtxId) (s : State) : Host.Outcome State Fault Refusal :=
  .next <| s.whenUp fun s =>
    match (s.ctx c).stream with
    | some st => if st.sentAll || decide (s.clk.now < st.deadline) then s else s.dropStream c true
    | none => s

end Sys2Proof.Machine
end

