-- ==== Sys2Proof/Machine/Flags.lean ====
section
/-! DEFINITION. The registers as they read (R459 to R470, with the field maps of R162, R163, R188, R189, R213, R214, R238, R289 to R291,
R341, R342, R362, R363, R382, R383, R398, R399, R425, R426, R440, R441, R456, R457): every status flag, count and setting of BAR0. -/

namespace Sys2Proof.Machine

/-! ### Fields -/

/-- A register from its fields: each value at its lowest bit. -/
def word (fs : List (Nat × Nat)) : Reg := BitVec.ofNat 32 ((fs.map fun f => f.1 * 2 ^ f.2).sum)

/-- Bits of a predicate over the first `n` numbers, from bit 0. -/
def bitsOf (n : Nat) (p : Nat → Bool) : Nat := (((List.range n).filter p).map fun i => 2 ^ i).sum

/-- The high and low words of a number. -/
def lo32 (n : Nat) : Reg := BitVec.ofNat 32 n
def hi32 (n : Nat) : Reg := BitVec.ofNat 32 (n / 2 ^ 32)

/-- Which of `n` registers, 4 bytes apart from `base`, an offset names. -/
def nth (off base n : Nat) : Option (Fin n) :=
  if h : base ≤ off ∧ off % 4 = base % 4 ∧ (off - base) / 4 < n then some ⟨(off - base) / 4, h.2.2⟩ else none

/-- A DWORD of a byte string; zero beyond its end. -/
def dwordOf (bs : List Byte) (off : Nat) : Reg := BitVec.ofNat 32 (leNat ((bs.drop off).take 4))

/-! ### ID_ (R465, R466) -/

/-- ID_PART. -/
def State.idPart (s : State) : Reg := word [(9, 16), (s.fuse.arrays, 8), (s.fuse.oxbows, 4), (s.fuse.stepping, 0)]

/-- ID_CAP. -/
def State.idCap (s : State) : Reg := word [(1, 28), (b2n s.boot.mgmt, 20), (16, 15), (0x4000, 0)]

/-- ID_CLUSTERS: logical clusters. -/
def State.idClusters (s : State) : Nat := ((List.range 24).filter s.clusterExists).length

/-- The ID_ registers. -/
def State.idReg (s : State) (off : Nat) : Reg :=
  match off with
  | 0x0 => s.idPart
  | 0x4 => s.idCap
  | 0x8 => s.fuse.control.setWidth 32
  | 0xC => (s.fuse.control >>> 32).setWidth 32
  | 0x10 => lo32 s.idClusters
  | _ => match nth off 0x20 6 with
    | some j => word ((List.range 8).map fun k => (s.coreArrays (8 * j.val + k), 4 * k))
    | none => 0#32

/-! ### OWN_ (R398, R399) -/

/-- The code of an owner. -/
def ownerCode : Option Port → Nat
  | none => 0
  | some .p0 => 1
  | some .p1 => 2

/-- OWN_STATUS, as a path reads it; the management view has no port of its own (log entry 63). -/
def State.ownStatus (s : State) (path : Path) : Reg :=
  let left := if s.own.owner.isSome then (s.own.leaseEnd - s.clk.now) / 1000000 else 0
  let limited (p : Fin 2) : Nat := b2n (s.own.links[p].state == .limited)
  word [(left, 16), (limited 1, 7), (limited 0, 6), (b2n s.own.offer.isSome, 5), (b2n (path == .port .p1), 4),
        (ownerCode s.own.owner, 0)]

/-- The code of a link's state. -/
def LinkState.code : LinkState → Nat
  | .down => 0
  | .training => 1
  | .up => 2
  | .limited => 3

/-- OWN_LINKn. -/
def Link.word (l : Link) : Reg := Sys2Proof.Machine.word [(l.mps, 13), (l.width, 8), (l.speed, 2), (l.state.code, 0)]

/-- The OWN_ registers. -/
def State.ownReg (s : State) (path : Path) (off : Nat) : Reg :=
  match off with
  | 0x800 => s.ownStatus path
  | 0x810 => lo32 s.cfg.leaseCfg
  | 0x814 => s.own.term
  | 0x818 => match path with
    | .port p => lo32 s.cfg.aperture[p.index]
    | .mgmt => 0#32
  | 0x81C => s.own.discards
  | 0x820 => s.own.links[0].word
  | 0x824 => s.own.links[1].word
  | 0x828 => lo32 s.hostGbs
  | _ => 0#32

/-! ### SLU_ and CTX_ (R341, R342) -/

/-- Resident contexts. -/
def State.residents (s : State) : Nat := (allCtx.filter fun c => (s.ctx c).resident).length

/-- The SLU_ registers. -/
def State.sluReg (s : State) (off : Nat) : Reg :=
  match off with
  | 0x0 => word [(s.residents, 8), (b2n s.slu.retest, 1), (b2n s.slu.admitting, 0)]
  | 0x4 => s.slu.admits
  | 0x8 => s.slu.refuses
  | 0xC => s.slu.drops
  | _ =>
    if 0x1000 ≤ off ∧ off < 0x2000 then
      let k := s.client (BitVec.ofNat 8 ((off - 0x1000) / 16))
      match off % 16 with
      | 0 => lo32 k.resident
      | 4 => lo32 k.admitted
      | 8 => lo32 k.refused
      | 12 => word [(k.aborted, 16), (k.committed, 0)]
      | _ => 0#32
    else 0#32

/-- The code of a role. -/
def Role.code : Role → Nat
  | .none => 0
  | .training => 1
  | .serving => 2

/-- The code of a context's state. -/
def CtxState.code : CtxState → Nat
  | .free => 0
  | .active => 1
  | .tearing => 2

/-- Steps admitted and not yet ended. -/
def Ctx.admitted (x : Ctx) : Nat := (x.steps.filter fun t => t.state != .committed && t.kind != .period).length

/-- CTX_STATEn. -/
def Ctx.stateWord (x : Ctx) : Reg :=
  word [(x.client.toNat, 20), (x.role.code, 18), (b2n x.fenced, 17), (b2n x.pattern.isSome, 16), (x.admitted % 4096, 4),
        (x.state.code, 0)]

/-- The CTX_ registers. -/
def State.ctxReg (s : State) (off : Nat) : Reg :=
  if h : off / 64 < 16 then
    let x := s.ctx ⟨off / 64, h⟩
    match off % 64 with
    | 0x0 => x.stateWord
    | 0x4 => x.regs.seq
    | 0x8 => x.regs.consumed
    | 0xC => x.regs.gen.setWidth 32
    | 0x10 => word [(x.regs.drops, 24), (x.regs.lastDrop, 0)]
    | 0x14 => lo32 x.regs.results
    | 0x18 => word [(x.regs.lastSeq.toNat % 2 ^ 24, 8), (x.regs.lastCode.toNat, 0)]
    | _ => 0#32
  else 0#32

/-! ### WEIR_ (R208, R213, R214, R237, R238) -/

/-- WEIR_GROUPSn: the eight slots' states. -/
def State.groupsWord (s : State) (r : Fin 17) : Reg := word ((List.finRange 8).map fun k => ((s.slot r k).code, 4 * k.val))

/-- The code of a receive slot's state. -/
def SlotState.code : SlotState → Nat
  | .free => 0
  | .receiving => 1
  | .pending => 2
  | .clean => 3

/-- WEIR_MIR_STATUS. -/
def State.mirStatus (s : State) : Reg :=
  let any (p : Ctx → Bool) : Nat := b2n (allCtx.any fun c => p (s.ctx c))
  word [(any fun x => match x.stream with
          | some st => !st.sentAll
          | none => false, 7),
        (s.recv.slots.length, 4),
        (any fun x => match x.stream with
          | some st => !st.held.isEmpty
          | none => false, 3),
        (any fun x => match x.ckpts.getLast? with
          | some k => k.ws == 128
          | none => false, 2),
        (b2n s.recv.ctx.isSome, 1),
        (any fun x => match x.mirror with
          | some m => m.send.isSome
          | none => false, 0)]

/-- WEIR_MIR_SLOTk. -/
def State.mirSlot (s : State) (k : Nat) : Reg :=
  match s.recv.slots[k]? with
  | some r => word [(r.state.code, 30), (r.step.toNat % 2 ^ 30, 0)]
  | none => 0#32

/-- The WEIR_ registers. -/
def State.weirReg (s : State) (path : Path) (off : Nat) : Reg :=
  match off with
  | 0x0 => word [(s.openAll, 2), (b2n s.weir.rebuild, 1), (b2n s.weir.ready, 0)]
  | 0x4 => lo32 s.cfg.poolGib
  | 0x8 => if s.weir.ready then lo32 (s.poolPages - s.poolUsed) else 0#32
  | 0xC => lo32 s.poolPrior
  | 0x10 => s.lat.fenceHi[path.index]
  | 0xC0 => s.weir.commits
  | 0xC4 => s.weir.aborts
  | 0xC8 => s.weir.reverts
  | 0xCC => s.weir.conflicts
  | 0xD0 => s.weir.lateAborts
  | 0xD4 => word [(s.weir.vtLost, 24), (s.weir.vtFixed, 0)]
  | 0x200 => s.mirStatus
  | 0x204 => s.weir.mirMiss
  | 0x208 => lo32 s.newestClean.toNat
  | 0x20C => s.lat.mirHi[path.index]
  | _ => match nth off 0x40 17, nth off 0x100 17, nth off 0x210 6 with
    | some r, _, _ => lo32 (s.row r).version.toNat
    | _, some r, _ => s.groupsWord r
    | _, _, some k => s.mirSlot k.val
    | _, _, _ => 0#32

/-! ### INTG_ (R362, R363) -/

/-- RATE of INTG_STATUS: set when bring-up completes. -/
def State.rateField (s : State) : Nat :=
  if s.boot.reconciled then
    ((List.finRange 4).map fun r => (match s.rate r with
      | 64 => 0
      | 128 => 1
      | _ => 2) * 4 ^ r.val).sum
  else 0

/-- INTG_STATUS. -/
def State.intgStatus (s : State) : Reg :=
  word [(bitsOf 16 fun n => if h : n < 16 then (s.ctx ⟨n, h⟩).tail.isSome else false, 16),
        (bitsOf 8 fun n => if h : n < 8 then s.intg.areas[n] else false, 8), (s.rateField, 0)]

/-- The INTG_ registers. -/
def State.intgReg (s : State) (off : Nat) : Reg :=
  match off with
  | 0x0 => s.intgStatus
  | 0x4 => match s.intg.cover with
    | some c => word [(1, 31), (c.val, 0)]
    | none => 0#32
  | 0x8 => s.cfg.ringLo
  | 0xC => s.cfg.ringHi
  | 0x10 => lo32 s.cfg.ringLog2
  | 0x14 => s.cfg.tailLo
  | 0x18 => s.cfg.tailHi
  | 0x1C => lo32 s.intg.recSeq
  | 0x40 => s.intg.checksum
  | 0x44 => s.intg.combiner
  | 0x48 => s.intg.vector
  | 0x4C => s.intg.lockstep
  | 0x50 => s.intg.update
  | 0x54 => s.intg.transient
  | 0x58 => s.intg.permanent
  | 0x5C => s.intg.samples
  | 0x60 => s.intg.mismatches
  | 0x64 => s.intg.checkers
  | 0x68 => s.intg.katFails
  | 0x6C => s.intg.evDrops
  | 0x70 => s.intg.tails
  | 0x80 => s.intg.inject
  | _ => if 0x1000 ≤ off ∧ off < 0x2000 then dwordOf (s.intg.lastRec.take 4096) (off - 0x1000) else 0#32

/-! ### RCV_ (R382, R383) -/

/-- The code of a rung (R367). -/
def RungScope.code : RungScope → Nat
  | .engine _ => 1
  | .core _ => 2
  | .cluster _ => 3
  | .region _ => 4
  | .warm => 5
  | .cold => 6

/-- RCV_STATUS. -/
def State.rcvStatus (s : State) : Reg :=
  word [(bitsOf 4 fun r => s.rcv.quarantines.any fun q => (s.engineRegion q.engine).any fun g => g.val == r, 16),
        (bitsOf 4 fun r => s.rcv.rungs.any fun g => match g.scope with
          | .region x => x.val == r
          | _ => false, 12),
        ((s.rcv.rungs.map fun g => RungScope.code g.scope).foldl max 0, 9), (b2n s.hw.retired, 8)]

/-- The RCV_ registers. -/
def State.rcvReg (s : State) (off : Nat) : Reg :=
  match off with
  | 0x0 => s.rcvStatus
  | 0x8 => s.rcv.last
  | 0x30 => s.rcv.misses
  | 0x34 => s.rcv.watchdogs
  | 0x38 => s.rcv.replays
  | 0x3C => s.rcv.guilty
  | 0x40 => s.rcv.retires
  | 0x44 => s.rcv.restores
  | 0x48 => s.rcv.lost
  | _ => match nth off 0x10 6 with
    | some k => s.rcv.counts[k]
    | none => 0#32

/-! ### HBM_ (R162, R163) -/

/-- HBM_STATUS. -/
def State.hbmStatus (s : State) : Reg :=
  let pending := s.hbm.chans.toList.zipIdx.any fun p => p.1.suspect || (p.1.lost && !(s.hbm.mapped.contains p.2))
  let moving : Bool := match s.hbm.migration with
    | .moving _ _ => true
    | _ => false
  word [(s.hbm.lastFailed, 20), (s.lostCount, 15), (s.hbm.levels.toList.foldl max 0, 12), (b2n moving, 2),
        (b2n pending, 1), (b2n s.hbm.ready, 0)]

/-- The HBM_ registers; before training they read 0. -/
def State.hbmReg (s : State) (off : Nat) : Reg :=
  let ready (n : Nat) : Reg := if s.hbm.ready then lo32 n else 0#32
  match off with
  | 0x0 => s.hbmStatus
  | 0x4 => ready (s.usable / 2 ^ 20)
  | 0x8 => ready (19200 - 75 * s.lostChannels)
  | 0x60 => s.hbm.corr
  | 0x64 => s.hbm.poisoned
  | 0x68 => s.hbm.crc
  | 0x6C => s.hbm.retry
  | 0x70 => s.hbm.retryFail
  | 0x74 => s.hbm.retrainFail
  | 0x80 => lo32 s.hbm.scrubPos
  | 0x84 => lo32 s.hbm.sweeps
  | 0x90 => s.hbm.inject
  | _ => match nth off 0x10 8, nth off 0x40 8 with
    | some k, _ => ready (bitsOf 32 fun i => match s.hbm.chans[32 * k.val + i]? with
        | some ch => !ch.lost
        | none => false)
    | _, some k => word [(s.hbm.levels[k], 8), (s.hbm.temps[k] % 256, 0)]
    | _, _ => 0#32

/-! ### FAB_ (R289 to R291) -/

/-- FAB_STATUS. -/
def State.fabStatus (s : State) : Reg :=
  let bits (p : Nat → Bool) : Nat := bitsOf 8 fun n => if h : n < 8 then p s.fab.ports[n].state else false
  word [(bits fun st => decide (2 ≤ st), 24), (bits fun st => st == 3, 16), (s.fabRate.num / s.fabRate.den, 0)]

/-- FAB_PORTn. -/
def EthPort.word (p : EthPort) : Reg :=
  Sys2Proof.Machine.word [(p.state, 30), (p.lanes.toNat, 22), (b2n (p.pause3.isSome || p.pause4.isSome), 16), (satNat 16 p.fec, 0)]

/-- FAB_RIFFLE_CFG. -/
def Cfg.riffle (c : Cfg) : Reg := word [(b2n c.riffleOn, 31), (c.riffleUs, 0)]

/-- The FAB_ registers. -/
def State.fabReg (s : State) (off : Nat) : Reg :=
  match off with
  | 0x0 => s.fabStatus
  | 0x4 => s.cfg.fabCfg
  | 0x8 => s.cfg.fabVlan
  | 0x20 => s.cfg.fabMacLo
  | 0x24 => s.cfg.fabMacHi
  | 0x28 => s.cfg.fabGwLo
  | 0x2C => s.cfg.fabGwHi
  | 0x30 => s.cfg.riffle
  | 0x38 => s.fab.suspectLast
  | 0x80 => s.fab.dropEpoch
  | 0x84 => s.fab.dropGen
  | 0x88 => s.fab.dropBad
  | 0x8C => s.fab.retx
  | 0x90 => s.fab.nacks
  | 0x94 => s.fab.suspects
  | 0x98 => s.fab.echoes
  | _ => match nth off 0x10 4, nth off 0x40 8 with
    | some k, _ => s.cfg.fabAddr[k]
    | _, some k => s.fab.ports[k].word
    | _, _ => 0#32

/-! ### DMA_ (R188, R189) -/

/-- The commands running or suspended on a channel. -/
def State.channelBusy (s : State) (x ch : Nat) : Bool :=
  s.allCmds.any fun p => p.2.entry.engine == .dma x ch && (p.2.state == .running || p.2.state == .suspended)

/-- DMA_STATUSn. A burst is one step of the model, so no burst data stands between two steps: BUF_KIB and BG read 0 (log entry
64). -/
def State.dmaStatus (s : State) (n : Fin 5) : Reg :=
  word [((s.hw.lineDown.filter fun l => l.1 == n).length, 16), (b2n s.dma.ready[n], 0)]

/-- The DMA_ registers. -/
def State.dmaReg (s : State) (off : Nat) : Reg :=
  let live (base n : Nat) : Nat := bitsOf n fun i => match s.dma.d2d[base + i]? with
    | some m => m == .live
    | none => false
  let ford (d : Fin 2) : Nat := bitsOf 16 fun i => match s.dma.ford[d][i]? with
    | some m => m == .live
    | none => false
  match off with
  | 0x40 => s.dma.bursts
  | 0x44 => word [(s.dma.reencodeBad, 24), (s.dma.reencode, 0)]
  | 0x48 => s.dma.lineFaults
  | 0x4C => s.dma.nacks
  | 0x50 => s.dma.stale
  | 0x60 => lo32 (live 0 32)
  | 0x64 => lo32 (live 32 16)
  | 0x68 => word [(ford 1, 16), (ford 0, 0)]
  | 0x6C => s.dma.replays
  | 0x70 => s.dma.repairs
  | _ => match nth off 0x0 5, nth off 0x20 5 with
    | some n, _ => s.dmaStatus n
    | _, some n => lo32 (bitsOf 32 (s.channelBusy n.val))
    | _, _ => 0#32

/-! ### PWR_ (R456, R457) -/

/-- PWR_ZONEn. -/
def State.zoneWord (s : State) (z : Fin 7) : Reg :=
  let q := s.pwr.zones[z]
  word [(s.required z, 14), ((s.zoneAllowance z).getD 7, 11), (q.level, 8), (q.temp % 256, 0)]

/-- PWR_GATED: clusters whose cores no admitted command names (R454). -/
def State.gated (s : State) : Nat :=
  bitsOf 24 fun n => s.clusterExists n && !(s.allCmds.any fun p => p.2.alive &&
    match p.2.entry.engine with
    | .matrix m | .vector m => m / 2 == n
    | _ => false)

/-- The PWR_ registers. -/
def State.pwrReg (s : State) (path : Path) (off : Nat) : Reg :=
  match off with
  | 0x0 => word [(b2n s.pwr.trip, 3), (b2n s.pwr.alert, 2), (b2n (s.pwr.power != 0), 1), (b2n s.pwr.clkOk, 0)]
  | 0x4 => lo32 s.cfg.pwrLimit
  | 0x8 => lo32 s.pwr.nowW
  | 0xC => lo32 s.clk.now
  | 0x10 => s.lat.pwrHi[path.index]
  | 0x40 => lo32 s.gated
  | 0x44 => s.pwr.levels
  | 0x48 => s.pwr.aborts
  | 0x4C => s.pwr.losses
  | _ => match nth off 0x20 7 with
    | some z => s.zoneWord z
    | none => 0#32

/-! ### SEC_ (R440, R441) -/

/-- Occupied key slots. -/
def State.keysHeld (s : State) : Nat := (s.sec.keys.toList.filter (·.isSome)).length

/-- Live SHA-256 engines. -/
def State.shaLive (s : State) : Nat := ((List.range 32).filter fun i => s.hw.sha.getLsbD i).length

/-- SEC_STATUS. -/
def State.secStatus (s : State) : Reg :=
  word [(if s.boot.reconciled then s.shaLive else 0, 8), (min 15 s.keysHeld, 4), (b2n (s.keysHeld == 16), 3),
        (b2n (s.sec.attest.toList.any fun a => a.state == 1), 2), (b2n (!s.sec.queue.isEmpty), 1), (b2n s.sec.idReady, 0)]

/-- A path's attestation bank; the management view has none. -/
def State.attestOf (s : State) : Path → Attest
  | .port p => s.sec.attest[p.index]
  | .mgmt => { state := 0, since := 0, fields := [], record := [] }

/-- The SEC_ registers. -/
def State.secReg (s : State) (path : Path) (off : Nat) : Reg :=
  match off with
  | 0x0 => s.secStatus
  | 0x4 => word [(s.sec.svn, 8), (s.fuse.fsv, 0)]
  | 0x144 => lo32 (bitsOf 16 fun n => match s.sec.keys[n]? with
      | some k => k.isSome
      | none => false)
  | 0x170 => lo32 (s.attestOf path).state
  | 0x174 => s.sec.failed
  | 0x178 => s.sec.signed
  | 0x180 => s.hw.sha
  | _ =>
    if 0x1000 ≤ off ∧ off < 0x6000 then dwordOf (s.attestOf path).record (off - 0x1000)
    else match nth off 0x10 8, nth off 0x40 48, nth off 0x100 16, nth off 0x150 8 with
    | some k, _, _, _ => dwordOf (digestBytes s.sec.idpk) (4 * k.val)
    | _, some k, _, _ => dwordOf (digestBytes (s.sec.meas[k.val / 8]?.getD 0#256)) (4 * (k.val % 8))
    | _, _, some k, _ => s.cfg.keyData[k]
    | _, _, _, some k => match path with
      | .port p => s.cfg.nonce[p.index][k]
      | .mgmt => 0#32
    | _, _, _, _ => 0#32

/-! ### BOOT_ (R425, R426) -/

/-- BOOT_STATUS. -/
def State.bootStatus (s : State) : Reg :=
  word [(s.boot.phase.code, 24), (s.boot.err, 16), (s.boot.strap.toNat, 6), (b2n s.boot.warm, 5), (b2n s.boot.slotB, 4),
        (b2n (s.boot.phase == .ready), 0)]

/-- BOOT_GRADE; known once the device has reconciled what works with what the journal says. -/
def State.bootGrade (s : State) : Reg :=
  if s.boot.reconciled then
    word [(s.fuse.arrays, 24), (s.grade, 16), (s.fuse.oxbows, 13), ((s.oxbows 0).length, 11), ((s.oxbows 1).length, 9),
          (b2n (decide (s.grade < s.fuse.arrays) || decide ((s.oxbows 0).length + (s.oxbows 1).length < s.fuse.oxbows)), 8)]
  else 0#32

/-- BOOT_JRN. -/
def State.bootJrn (s : State) : Reg :=
  word [(s.flash.areas[s.boot.active].fill * 100 / 32768, 24), (b2n s.boot.jrnFault, 3), (b2n s.boot.erasing, 2),
        (b2n s.boot.compacting, 1), (s.boot.active.val, 0)]

/-- The BOOT_ registers. -/
def State.bootReg (s : State) (path : Path) (off : Nat) : Reg :=
  match off with
  | 0x0 => s.bootStatus
  | 0x4 => lo32 s.boot.imageSeq
  | 0x8 => word [(b2n s.boot.validB, 1), (b2n s.boot.validA, 0)]
  | 0xC => s.bootGrade
  | 0x10 => lo32 s.jnow
  | 0x14 => s.bootJrn
  | 0x18 => lo32 s.boot.jrnSeq
  | 0x1C => s.lat.jrnHi[path.index]
  | 0x20 => s.cfg.updAddrLo
  | 0x24 => s.cfg.updAddrHi
  | 0x28 => lo32 s.cfg.updLen
  | 0x2C => lo32 s.boot.updState
  | 0x40 => s.boot.testFails
  | 0x44 => s.boot.jrnDrops
  | 0x48 => s.boot.compacts
  | 0x4C => s.boot.cold
  | 0x50 => s.boot.warms
  | _ => 0#32

/-! ### TEL_ (R467, R468) -/

/-- The 16 bytes of a trace entry. -/
def Trace.bytes (e : Trace) : List Byte :=
  leBytes 8 (e.event % 256 * 2 ^ 56 + e.ctx % 16 * 2 ^ 52 + e.gen % 65536 * 2 ^ 36 + e.arg % 2 ^ 36) ++ leBytes 8 e.time

/-- The trace entry in place `i` of the buffer: the newest one whose number is `i` modulo 16,384. -/
def Tel.entryAt (t : Tel) (i : Nat) : Option Trace :=
  let newest := t.count - 1
  if t.count = 0 then none else t.entries[(newest + 16384 - i) % 16384]?

/-- A DWORD of the trace buffer. -/
def Tel.dword (t : Tel) (off : Nat) : Reg :=
  match t.entryAt (off / 16) with
  | some e => dwordOf e.bytes (off % 16)
  | none => 0#32

/-- TEL_TRACE_CTL. -/
def Cfg.traceCtl (c : Cfg) : Reg := word [(b2n c.traceOn, 31), (b2n c.freezeOn, 30), (c.traceCls.toNat, 0)]

/-- The TEL_ registers but TEL_VIEW. -/
def State.telReg (s : State) (path : Path) (off : Nat) : Reg :=
  match off with
  | 0x0 => word [(b2n s.tel.wrapped, 2), (b2n s.tel.frozen, 1), (b2n s.cfg.traceOn, 0)]
  | 0x4 => s.cfg.traceCtl
  | 0x8 => lo32 s.tel.count
  | 0xC => lo32 s.cfg.tracePage[path.index]
  | 0x10 => word [((s.cfg.viewSel[path.index]).2, 4), ((s.cfg.viewSel[path.index]).1, 0)]
  | 0x14 => s.tel.reqs
  | 0x18 => s.tel.drops
  | _ => if 0x8000 ≤ off ∧ off < 0x10000 then s.tel.dword (s.cfg.tracePage[path.index] * 32768 + (off - 0x8000)) else 0#32

/-! ### The map (R459) -/

/-- A register of a block, without TEL_VIEW. -/
def State.blockReg (s : State) (path : Path) (block off : Nat) : Reg :=
  match block with
  | 0 => if off < 0x800 then s.idReg off else s.ownReg path off
  | 1 => s.sluReg off
  | 2 => s.weirReg path off
  | 3 => s.ctxReg off
  | 4 => s.intgReg off
  | 5 => s.rcvReg off
  | 6 => s.hbmReg off
  | 7 => s.fabReg off
  | 8 => s.dmaReg off
  | 9 => s.pwrReg path off
  | 10 => s.secReg path off
  | 11 => s.bootReg path off
  | 12 => s.telReg path off
  | _ => 0#32

/-- Where TEL_VIEW looks: the block and the offset within it (R467). -/
def State.viewed (s : State) (path : Path) (off : Nat) : Nat × Nat :=
  ((s.cfg.viewSel[path.index]).1, (s.cfg.viewSel[path.index]).2 * 4096 + (off - 0x1000))

/-- A BAR0 register as a path reads it. The image of TEL_VIEW's own page has a value that the spec does not state (log entry 65). -/
def State.reg (s : State) (path : Path) (off : Nat) : Reg :=
  let block := off / 65536
  let o := off % 65536
  if block = 12 ∧ 0x1000 ≤ o ∧ o < 0x2000 then
    let v := s.viewed path o
    if v.1 = 12 ∧ 0x1000 ≤ v.2 ∧ v.2 < 0x2000 then Config.freeWord v.2 else s.blockReg path v.1 v.2
  else s.blockReg path block o

/-! ### Reads (R460, R462) -/

/-- The latches that a read of a register of a block takes: the low registers of the pairs of R462. -/
def State.latchRead (s : State) (path : Path) (block off : Nat) : State :=
  let i := path.index
  match block, off with
  | 9, 0xC => { s with lat := { s.lat with pwrHi := s.lat.pwrHi.set i (hi32 s.clk.now) } }
  | 2, 0x208 => { s with lat := { s.lat with mirHi := s.lat.mirHi.set i (hi32 s.newestClean.toNat) } }
  | 11, 0x18 => { s with lat := { s.lat with jrnHi := s.lat.jrnHi.set i (hi32 s.boot.jrnSeq) } }
  | 2, o => match nth o 0x40 17 with
    | some r => { s with lat := { s.lat with fenceHi := s.lat.fenceHi.set i (hi32 (s.row r).version.toNat) } }
    | none => s
  | _, _ => s

/-- One DWORD read with its side effects, through TEL_VIEW too. -/
def State.readReg (s : State) (path : Path) (off : Nat) : State × Reg :=
  let block := off / 65536
  let o := off % 65536
  if block = 12 ∧ 0x1000 ≤ o ∧ o < 0x2000 then
    let v := s.viewed path o
    (s.latchRead path v.1 v.2, s.reg path off)
  else (s.latchRead path block o, s.reg path off)

/-- Several DWORDs in ascending order. -/
def State.readRegs (s : State) (path : Path) : Nat → Nat → State × List Byte
  | _, 0 => (s, [])
  | off, n + 1 =>
    let r := s.readReg path off
    let rest := r.1.readRegs path (off + 4) n
    (rest.1, leBytes 4 r.2.toNat ++ rest.2)

end Sys2Proof.Machine
end

