-- ==== Sys2Proof/Machine/Run.lean ====
section
/-! DEFINITION. An admitted step runs (R41, R44, R46, R124, R192, R198, R202 to R207, R219, R241, R333): its origin, its commands'
releases, time slices and overruns, page shadows, the decision of a job step, the end of a replay, and walks. -/

namespace Sys2Proof.Machine

/-! ### The origin T0 -/

/-- The steps of a context that have reached T0 and have not started, earliest first. -/
def State.dueSteps (s : State) (c : CtxId) : List Step :=
  ((s.ctx c).steps.filter fun t => !t.started && t.kind != .period && decide (t.t0 ≤ s.clk.now)).mergeSort
    fun a b => decide (a.t0 < b.t0 ∨ (a.t0 = b.t0 ∧ a.uid ≤ b.uid))

/-- The parts of a table's ranges that the context does not hold yet. -/
def freshRanges (new old : List Range) : List Range :=
  new.flatMap fun r => (minusRanges [r] old).map fun p => { start := p.1, len := p.2, kind := r.kind }

/-- Bytes written aside to fresh scratch and capture pages lie over their zero fill (R389; log entry 47). -/
def State.layAside (s : State) (fresh : List Range) : State :=
  fresh.foldl (fun (t : State) r =>
    let here := t.hbm.aside.filter fun c => decide (r.start ≤ c.1 ∧ c.1 < r.start + r.len)
    let t1 : State := { t with hbm := { t.hbm with aside := clearCells t.hbm.aside r.start r.len } }
    match r.kind with
    | .scratch | .capture => { t1 with mem := { t1.mem with cells := overlay t1.mem.cells here } }
    | _ => t1) s

/-- Ranges join a context's allocation: HBM pages get a zero-filled base (R192, R326); SRAM holds what nobody can say. -/
def State.allocate (s : State) (c : CtxId) (new : List Range) : State :=
  let fresh := freshRanges new (s.ctx c).alloc
  let hbm := (fresh.filter fun r => !isSram r.start).map fun r => (r.start, r.len)
  let s1 := (s.zeroRanges hbm).layAside fresh
  let s2 : State := { s1 with mem := (fresh.filter fun r => isSram r.start).foldl (fun m r => m.forget r.start r.len) s1.mem }
  s2.modCtx c fun x => { x with alloc := x.alloc ++ fresh }

/-- A step starts: its group opens in a FREE slot and its state is RUNNING. -/
def State.openStep (s : State) (c : CtxId) (t : Step) : State :=
  match s.freeSlot (rowOf c) with
  | none => s.abortStep c t.uid .abortedFault .groupSlots 0
  | some k => (s.openGroup (t.group c k)).modStep c t.uid fun u => { u with state := .running, slot := some k }

/-- While a region is checked at half rate, every checkpoint that is not yet clean waits for the longer window (R234). -/
def State.markHalfRate (s : State) (c : CtxId) : State :=
  if s.halfRate then s.modCtx c fun x => { x with ckpts := x.ckpts.map fun k => { k with ws := 128 } } else s

/-- The working-copy flag as the step's COND commands see it (R219). -/
def State.setCond (s : State) (c : CtxId) (uid : Nat) : State :=
  let f := (s.ctx c).wcFlag
  s.modStep c uid fun t => { t with condFlag := f }

/-- T0 of a step with a base version (R205, R241): it runs, reverts the last commit first, or aborts. -/
def State.startHost (s : State) (c : CtxId) (t : Step) : State :=
  let r := rowOf c
  let v := s.version r
  if t.hdr.mode = 4 then
    if v = t.hdr.base then
      let armed := s.intg.cover == some c
      let s1 : State := if armed then { s with intg := { s.intg with cover := none } } else s
      let s2 := (s1.modCtx c fun x => { x with wcFlag := false }).allocate c t.alloc
      (s2.modStep c t.uid fun u => { u with state := .running, sweep := armed }).setCond c t.uid
    else s.abortStep c t.uid .abortedFault .baseVersion 0
  else if v = t.hdr.base then
    (((s.allocate c t.alloc).openStep c t).markHalfRate c).setCond c t.uid
  else if v = t.hdr.base + 1#64 ∧ (s.row r).priorValid ∧ s.openIn r = 0 then
    let s1 := ((s.revertGroup r t.hdr.base).dropStream c true).modCtx c fun x => { x with wcFlag := false }
    let s2 := s1.modStep c t.uid fun u => { u with reverted := true }
    (((s2.allocate c t.alloc).openStep c { t with reverted := true }).markHalfRate c).setCond c t.uid
  else s.abortStep c t.uid .abortedFault .baseVersion 0

/-! ### Releases and slices -/

/-- A command reaches its release (R44): it becomes ready, or is done at once where its COND flag is set (R219). An AFTER_COMMIT
command waits for the commit, or in a replay for the other commands (R173, R241). -/
def execCommandRelease (r : CmdRef) (s : State) : Host.Outcome State Fault Refusal :=
  .next <| s.whenUp fun s =>
    match s.step? r, s.cmd? r with
    | some t, some k =>
      let open_ := if k.afterCommit then t.state == .committed || (t.hdr.mode == 4 && t.started && t.gateDone) else t.state == .running
      if open_ && k.state == .waiting && decide (t.release k ≤ s.clk.now) then
        if k.entry.cond && t.condFlag then
          ((s.modCmd r fun k => { k with state := .done }).afterCmd r.ctx r.step).dispatch
        else (s.modCmd r fun k => { k with state := .ready }).dispatch
      else s
    | _, _ => s

/-- Suspend a running command: its running time stops (R46, R77, R116). -/
def State.suspendCmd (s : State) (r : CmdRef) (k : Cmd) : State :=
  (s.modCmd r fun k => { k with state := .suspended, ran := k.runTime s.clk.now }).trace 0 3 r.ctx.val (k.traceArg r.idx)

/-- Does another context have a command ready with an earlier absolute deadline (R333)? -/
def State.earlierReady (s : State) (r : CmdRef) (e : Engine) (dl : Ns) : Bool :=
  s.ready.any fun ch => ch.ref.ctx != r.ctx && decide (ch.dl < dl)
    && ((s.cmd? ch.ref).map fun k => k.entry.engine == e).getD false

/-- A time-slice boundary (R333): each falls one slice after the command last started or resumed, or after the boundary before. -/
def execTimeSliceBoundary (e : Engine) (s : State) : Host.Outcome State Fault Refusal :=
  .next <| s.whenUp fun s =>
    match s.running? e with
    | none => s
    | some (r, k) =>
      match s.step? r with
      | none => s
      | some t =>
        if k.since + Config.slice ≤ s.clk.now ∧ (s.clk.now - k.since) % Config.slice = 0 ∧ s.earlierReady r e (t.deadline k) then (s.suspendCmd r k).dispatch else s

/-- A command overruns (R46): it is killed, and its step aborts with its index. -/
def execOverrun (r : CmdRef) (s : State) : Host.Outcome State Fault Refusal :=
  .next <| s.whenUp fun s =>
    match s.cmd? r with
    | some k => if k.state = .running ∧ k.wPrime ≤ k.runTime s.clk.now then s.faultCmd r .overrun else s
    | none => s

/-- A command's first write to an HBM page (R194): the page's shadow is taken, or the write may not be made. -/
def execWeirPageWrite (r : CmdRef) (page : Nat) (s : State) : Host.Outcome State Fault Refusal :=
  .next <| s.whenUp fun s =>
    match s.step? r, s.cmd? r with
    | some t, some k =>
      match t.slot, s.readFacts r.ctx (s.stepView r.ctx t) t.hdr.commitDl k.entry with
      | some g, some f =>
        let here := f.writes.any fun e => decide (e.1 < (page + 1) * 4096 ∧ page * 4096 < e.1 + e.2)
        if k.state = .running ∧ here ∧ kindAt (s.ctx r.ctx).alloc (page * 4096) = some .committed then
          let o := s.shadowFor r.ctx g f.writes page
          match o.2 with
          | some reason => o.1.faultCmd r reason
          | none => o.1
        else s
      | _, _ => s
    | _, _ => s

/-! ### Commit -/

/-- The pages of a step's group. -/
def State.groupPages (s : State) (c : CtxId) (t : Step) : List Nat :=
  ((s.groupOf c t).map fun g => g.copies.map (·.page)).getD []

/-- A host step commits (R202), with what follows for mirroring (R231 to R233) and for Eddy (R350). -/
def State.hostCommit (s : State) (c : CtxId) (t : Step) : State :=
  let r := rowOf c
  let v := s.version r + 1#64
  let due := (s.ctx c).checkpointDue t
  let final := (s.ctx c).final
  let pages := s.groupPages c t
  let s1 := (s.commitStep c t v true).laterCommit c pages
  let s2 := if due then s1.checkpoint c t.hdr.step v final else s1
  (s2.takeUp c t false).dispatch

/-- A restore step commits (R378): VERSION is the one its record names, and PRIOR_VALID is 0. -/
def State.restoreCommit (s : State) (c : CtxId) (t : Step) (v : BitVec 64) : State :=
  let s1 := (s.commitStep c t v false).modCtx c fun x => { x with restore := none, wcFlag := false }
  State.dispatch { s1 with rcv := { s1.rcv with restores := satInc s1.rcv.restores } }

/-- A replay ends (R241): COMMITTED with the flag "replay", and VERSION as it was. -/
def State.endReplay (s : State) (c : CtxId) (t : Step) : State :=
  let s0 := s.takeUp c t t.sweep
  let s1 := s0.modCtx c fun x =>
    { x with steps := x.steps.filter fun u => u.uid != t.uid
             alloc := t.alloc, carryOk := true
             pred := x.pred.map fun p => if p.uid = t.uid then { p with ended := some .committed } else p }
  let s2 := (s1.modClient (s1.ctx c).client Client.addCommitted).trace 1 0x11 c.val (t.hdr.step.toNat % 2 ^ 28 * 256
    + Code.committed.value.toNat)
  let v := (s2.version (rowOf c)).toNat
  let s3 := s2.putEntry c { t.entry .committed 1 with version := v }
  (if t.hasTail then s3.putEntry c { t.entry .committed 2 with version := v } else s3).dispatch

/-- A step that passes its commit deadline without committing aborts (R37). -/
def State.missedCommit (s : State) (c : CtxId) (t : Step) : State := (s.abortStep c t.uid .abortedFault .fault 0).dispatch

/-- The COMMIT of a host step that decides by itself (R202, R241). -/
def State.commitHost (s : State) (c : CtxId) (t : Step) : State :=
  if t.state ≠ .running then s
  else if t.hdr.mode = 4 then (if t.gateDone && t.tailDone then s.endReplay c t else s)
  else if t.hdr.job then s
  else if t.t0 + t.hdr.commitDl < s.clk.now then s.missedCommit c t
  else if t.gateDone then s.hostCommit c t
  else s

/-- The reduced record agrees with the step (R206). -/
def reducedAgrees (d : Reduced) (t : Step) : Bool :=
  d.ready && d.stepMin == t.hdr.step && d.stepMax == t.hdr.step && d.baseMin == t.hdr.base && d.baseMax == t.hdr.base

/-- The reduced record arrives: the decision point (R206). A record of another epoch is dropped (R35). LOW_BAD names a rank where
the step aborts and decides nothing by itself (log entry 53). -/
def execReducedRecord (c : CtxId) (uid : Nat) (d : Reduced) (s : State) : Host.Outcome State Fault Refusal :=
  .next <| s.whenUp fun s =>
    match (s.ctx c).step? uid with
    | none => s
    | some t =>
      if t.state ≠ .prepared ∨ min (t.prepared + 2000000) (t.t0 + t.hdr.commitDl) < s.clk.now then s
      else if d.epoch ≠ (s.ctx c).job.epoch then { s with fab := { s.fab with dropEpoch := satInc s.fab.dropEpoch } }
      else if reducedAgrees d t then s.hostCommit c t
      else
        let rank := if d.lowBad = 0x7FFF#15 then 0 else d.lowBad.toNat
        (s.abortStep c uid .abortedFault .commitMismatch rank).dispatch

/-! ### Walks -/

/-- A fold or clean-up walk ends (R203): the slot becomes FREE, the fold's demand leaves the admitted set, and the pages of a
context that has been torn down are returned once no slot of its row walks (R337). -/
def execWalkComplete (row : Fin 17) (slot : Fin 8) (s : State) : Host.Outcome State Fault Refusal :=
  .next <| s.whenPowered fun s =>
    if s.slot row slot = .folding ∨ s.slot row slot = .aborting then
      let s1 := s.endWalk row slot
      if h : row.val < 16 then
        let c : CtxId := ⟨row.val, h⟩
        let idle := (List.finRange 8).all fun k => s1.slot row k != .aborting
        s1.modCtx c fun x =>
          { x with folds := if s.slot row slot = .folding then x.folds.filter fun f => x.steps.any fun t =>
                     t.uid == f.by_ && t.state != .committed else x.folds
                   walking := if idle then [] else x.walking }
      else s1
    else s

end Sys2Proof.Machine
end

