-- ==== Sys2Proof/Machine/Serving.lean ====
section
/-! DEFINITION. Serving (R293 to R316): the sequence table and its periods, joins, delivery, weight versions, load parts and the
fetch of their chunks; and the start and commit of steps of every kind. -/

namespace Sys2Proof.Machine

/-! ### The table at a period (R297, R301, R302, R306, R307) -/

/-- The first T0 of the pattern at or after an instant, as a period index. -/
def Pattern.indexAt (p : Pattern) (t : Ns) : Nat := max p.next (cdiv (t - p.t0) p.period)

/-- T0 of a period. -/
def Pattern.origin (p : Pattern) (n : Nat) : Ns := p.t0 + n * p.period

/-- The current version. -/
def currentModel (ms : List Model) : Option Model := ms.find? fun m => m.current

/-- A resident version that has not become current yet. -/
def nextModel (ms : List Model) : Option Model := ms.find? fun m => m.resident && !m.current && m.drainStep.isNone

/-- The sequences that have joined by a period, and do not leave at it. -/
def Seqn.stays (q : Seqn) (n : Nat) : Bool := !((q.leaving.map fun k => decide (k ≤ n)).getD false)

/-- Does the switch to a new version take effect at period `n` (R307)? -/
def switchDue (p : Pattern) (ms : List Model) (n : Nat) : Bool :=
  match nextModel ms, currentModel ms with
  | some m, some o =>
    decide (m.since ≤ p.origin n)
      && (!m.quiesce || decide (m.switchBy ≤ n)
        || !(p.seqs.any fun q => q.joined && q.version == o.version && q.stays n))
  | some m, none => decide (m.since ≤ p.origin n)
  | none, _ => false

/-- The versions after the switch of period `n`. -/
def modelsAt (p : Pattern) (ms : List Model) (n : Nat) : List Model :=
  if switchDue p ms n then
    match nextModel ms with
    | some new => ms.map fun m =>
        if m.version = new.version then { m with current := true }
        else if m.current then { m with current := false, drainStep := some (if new.quiesce then n else n + new.drain) }
        else m
    | none => ms
  else ms

/-- The END code with which a sequence ends at T0 of period `n`, the lowest where several apply (R302): 3 leave, 4 drain or STOP,
5 capacity. -/
def endAtStart (p : Pattern) (ms : List Model) (n : Nat) (q : Seqn) : Option Nat :=
  let reached (o : Option Nat) : Bool := (o.map fun k => decide (k ≤ n)).getD false
  let drained := q.joined && ms.any fun m => m.version == q.version && reached m.drainStep
  if !q.stays n then some 3
  else if drained || reached p.stopping then some 4
  else if reached q.lostAt then some 5
  else none

/-- A sequence joins at its period, pinned to the version current then (R294). -/
def joinSeq (ms : List Model) (n : Nat) (q : Seqn) : Seqn :=
  if !q.joined && decide (q.joinAt ≤ n) then
    { q with joined := true, version := ((currentModel ms).map (·.version)).getD q.version }
  else q

/-- q of R301: the largest number of prompt tokens a step may prefill. -/
def prefillTokens (f : Profile) (q : Seqn) : Nat :=
  let most := min f.pfq (q.promptLen - q.prefilled)
  ((List.range (most + 1)).filter fun k => decide (k * (q.prefilled + k) ≤ f.pfqc)).foldl max 0

/-- The profile of a version. -/
def profileOf (ms : List Model) (v : BitVec 32) : Option Profile := (ms.find? fun m => m.version == v).map (·.profile)

/-- One sequence in one step: after it, and its delivery entry. `head` says that it is at the head of the prefill queue. -/
structure Turn where
  seq  : Option Seqn
  out  : Option Delivery
deriving DecidableEq, Repr

/-- A sequence produces one token (R301 to R303). The token is the template's: a free value (R304). -/
def produce (ms : List Model) (draw n : Nat) (q : Seqn) : Turn :=
  let tok := Config.freeToken draw q.id
  let eos := ((profileOf ms q.version).map (·.eos)).getD 0xFFFFFFFF#32
  let made := q.produced + 1
  let code := if eos ≠ 0xFFFFFFFF#32 ∧ tok = eos then 1 else if q.maxNew ≤ made then 2 else 0
  { seq := if code = 0 then some { q with produced := made } else none
    out := some { seqId := q.id, token := tok, step := BitVec.ofNat 32 n, version := q.version.setWidth 16
                  endCode := code, first := q.produced == 0 } }

/-- The turn of one sequence at period `n`. -/
def turn (p : Pattern) (ms : List Model) (draw n : Nat) (head : Option (BitVec 32)) (q : Seqn) : Turn :=
  match endAtStart p ms n q with
  | some code => { seq := none, out := some { seqId := q.id, token := 0xFFFFFFFF#32, step := BitVec.ofNat 32 n
                                              version := q.version.setWidth 16, endCode := code, first := false } }
  | none =>
    if !q.joined then { seq := some q, out := none }
    else if q.prefilled < q.promptLen then
      if head = some q.id then
        let k := (((profileOf ms q.version).map fun f => prefillTokens f q).getD 0)
        let q1 := { q with prefilled := q.prefilled + k }
        if q1.prefilled = q.promptLen then produce ms draw n q1 else { seq := some q1, out := none }
      else { seq := some q, out := none }
    else produce ms draw n q

/-- What a committed period leaves: versions, sequences, deliveries, and who was served (R305). -/
structure PeriodEnd where
  models  : List Model
  seqs    : List Seqn
  out     : List Delivery
  served  : List (BitVec 32 × BitVec 32)
deriving DecidableEq, Repr

/-- The sequences with their places, ends and joins of period `n` applied. -/
def seqsAt (p : Pattern) (ms : List Model) (n : Nat) : List Seqn := p.seqs.map (joinSeq ms n)

/-- The sequences that take part in period `n`. -/
def takePart (p : Pattern) (ms : List Model) (n : Nat) : List Seqn :=
  (seqsAt p ms n).filter fun q => q.joined && (endAtStart p ms n q).isNone

/-- Period `n` on the committed table. -/
def periodEnd (p : Pattern) (ms0 : List Model) (draw n : Nat) : PeriodEnd :=
  let ms := modelsAt p ms0 n
  let qs := seqsAt p ms n
  let parts := takePart p ms n
  let head := (parts.find? fun q => decide (q.prefilled < q.promptLen)).map (·.id)
  let turns := qs.map (turn p ms draw n head)
  { models := ms, seqs := turns.filterMap (·.seq), out := turns.filterMap (·.out)
    served := parts.map fun q => (q.id, q.version) }

/-! ### Delivery (R303, R396) -/

/-- The 16 bytes of a delivery entry. -/
def Delivery.bytes (d : Delivery) : List Byte :=
  leBytes 16 (d.seqId.toNat * 2 ^ 96 + d.token.toNat * 2 ^ 64 + d.step.toNat * 2 ^ 32 + d.version.toNat * 2 ^ 16
    + d.endCode * 2 ^ 12 + b2n d.first)

/-- Entries of one commit go to the delivery ring, and the tail word after them. While the context is unbound they are counted and
kept. -/
def State.deliver (s : State) (c : CtxId) (ds : List Delivery) : State :=
  if ds.isEmpty then s
  else
    let r := (s.ctx c).rings
    let all := ds.zipIdx.map fun p => (r.dCount + p.2, p.1.bytes)
    let kept := r.dKept ++ all
    let s1 := s.modCtx c fun x =>
      { x with rings := { x.rings with dCount := r.dCount + ds.length, dKept := kept.drop (kept.length - 1024) } }
    if (s.ctx c).unbound then s1
    else (s1.emits ((all.map fun e => .hostWrite (ringAddr r.dBase r.dLog2 e.1 16) e.2)
      ++ [.hostWrite r.dTail (leBytes 8 (r.dCount + ds.length))])).msixOwner (4 + c.val)

/-! ### The join test (R300) -/

/-- The larger of two profiles' coefficients other than WCHG and TFIX. -/
def Profile.join (a b : Profile) : Profile :=
  { a with fb := max a.fb b.fb, kvr := max a.kvr b.kvr, kvt := max a.kvt b.kvt, kvw := max a.kvw b.kvw, kvp := max a.kvp b.kvp
           kvblk := max a.kvblk b.kvblk, pfq := max a.pfq b.pfq, pfqc := max a.pfqc b.pfqc, tseq := max a.tseq b.tseq
           tctx := max a.tctx b.tctx, ttok := max a.ttok b.ttok }

/-- The versions that are charged (R306, R307): the current one, one that drains, and one that loads or waits in OVERLAP mode. -/
def charged (ms : List Model) : List Model :=
  let now := ms.filter fun m => m.current || m.drainStep.isSome || !m.quiesce
  if now.isEmpty then ms.take 1 else now

/-- H of R296 in bytes. -/
def State.budget (s : State) (period : Ns) : Nat :=
  let r := s.hbmRate
  let t := period - 10000
  r.num * (2 * t - 3000 * cdiv t 32000) / (2 * r.den)

/-- cmax of a sequence. -/
def Seqn.cmax (q : Seqn) : Nat := q.promptLen + q.maxNew

/-- What the test finds: a refusal, or the bytes and ns still free. -/
abbrev JoinTest := Except Deny (Nat × Nat)

/-- The test of R300 over a set of sequences, in exact picoseconds; the stretch is in hundredths. -/
def joinTest (p : Pattern) (ms : List Model) (seqs : List Seqn) : JoinTest :=
  let vs := charged ms
  match vs with
  | [] => .error { code := .refusedShape }
  | v :: rest =>
    let f := rest.foldl (fun a m => a.join m.profile) v.profile
    let n := seqs.length
    let ctxs := (seqs.map Seqn.cmax).sum
    let bytes := f.fb + (vs.map (·.profile.wchg)).sum + f.pfq * f.kvp + n * (f.kvw + f.kvt) + ctxs * f.kvr
    let time := (vs.map (·.profile.tfix)).sum + n * f.tseq + (ctxs + f.pfqc) * f.tctx + (n + f.pfq - 256) * f.ttok
    let kv := (seqs.map fun q => cdiv q.cmax 120 * f.kvblk).sum
    let room := (p.period - 10000) * 1000 * 100
    let need := stretchOf p.allow * time
    if p.slots < n then .error (Deny.memory .noSlot 0)
    else if p.kvGib * 2 ^ 30 < kv then .error (Deny.memory .kvPool (kv - p.kvGib * 2 ^ 30))
    else if p.hbmMax < bytes then .error { code := .refusedDeadline, short := bytes - p.hbmMax, detail := 1 }
    else if room < need then .error { code := .refusedDeadline, short := cdiv (need - room) 100000, detail := 0 }
    else .ok (p.hbmMax - bytes, (room - need) / 100000)

/-- The steps that prefilling a sequence takes from where it stands; one prompt token at least in each. -/
def prefillSteps (f : Profile) : Nat → Seqn → Nat
  | 0, _ => 0
  | fuel + 1, q =>
    if q.promptLen ≤ q.prefilled then 0
    else 1 + prefillSteps f fuel { q with prefilled := q.prefilled + max 1 (prefillTokens f q) }

/-- The step after the prefill queue of earlier sequences, each starting at its join at the earliest. -/
def queueEnd (ms : List Model) (fallback : Profile) : List Seqn → Nat → Nat
  | [], n => n
  | q :: qs, n =>
    let f := (profileOf ms q.version).getD fallback
    let k := prefillSteps f q.promptLen q
    queueEnd ms fallback qs (if k = 0 then n else max n q.joinAt + k)

/-! ### Load parts (R306, R308 to R312) -/

/-- The bytes of a version's chunk `i`. -/
def chunkBytesOf (total i : Nat) : Nat := min Config.chunkBytes (total - i * Config.chunkBytes)

/-- Where the chunks of a part lie. -/
def chunkRanges (base total : Nat) (is : List Nat) : List (Nat × Nat) :=
  is.map fun i => (base + i * Config.chunkBytes, chunkBytesOf total i)

/-- Whole pages of extents, as committed ranges. -/
def pageRanges (exts : List (Nat × Nat)) (k : AllocKind) : List Range :=
  exts.map fun e =>
    let a := e.1 / 4096 * 4096
    { start := a, len := cdiv (e.1 + e.2 - a) 4096 * 4096, kind := k }

/-- P and C of a group that writes extents of committed pages (R306, R376): 15 pages for each device frame touched, and the pages
in frames that take no frame shadow. -/
def writeSet (rs : List Range) (exts : List (Nat × Nat)) : Nat × Nat :=
  let pages := committedPages rs exts
  (15 * ((pages.map fun p => p / 15).eraseDups).length, (newShadows rs [] exts).1.length)

/-- Send a REQUEST for a chunk (R309). -/
def State.askChunk (s : State) (c : CtxId) (name : BitVec 256) (wait : Ns) (rank i : Nat) : State :=
  s.sendData c rank (flowFor i rank) 3 fun p =>
    { p with cmd := 0#12, slot := BitVec.ofNat 16 i, payload := digestBytes name ++ leBytes 4 (cdiv wait 1000) }

/-- Change the fetches of a load part. -/
def State.modFetch (s : State) (c : CtxId) (i : Nat) (f : Fetch → Fetch) : State :=
  s.modCtx c fun x => { x with load := x.load.map fun l =>
    { l with fetches := l.fetches.map fun q => if q.chunk = i then f q else q } }

/-- Chunks of a holder that are asked for and outstanding. -/
def LoadPart.outstanding (l : LoadPart) (holder : Nat) : Nat :=
  (l.fetches.filter fun q => q.holder == holder && decide (0 < q.tries) && !q.done).length

/-- Ask for every chunk whose holder has fewer than 16 outstanding (R311). -/
def State.askMore (s : State) (c : CtxId) : State :=
  match (s.ctx c).load with
  | none => s
  | some l0 => l0.fetches.foldl (fun u q =>
      match (u.ctx c).load with
      | some l =>
        if q.tries = 0 ∧ l.outstanding q.holder < 16 then
          let name := (((u.ctx c).models.find? fun m => m.version == l.version).map (·.name)).getD 0#256
          (u.modFetch c q.chunk fun f => { f with tries := 1, asked := u.clk.now }).askChunk c name l.wait
            (l.holders.getD q.holder 0) q.chunk
        else u
      | none => u) s

/-- A chunk has not come: asked for once more from the next holder, or the part ends (R311). -/
def State.retryChunk (s : State) (c : CtxId) (i : Nat) (bad : Bool) : State :=
  match (s.ctx c).load with
  | none => s
  | some l =>
    match l.fetches.find? fun q => q.chunk == i with
    | none => s
    | some q =>
      if q.tries = 1 then
        let h := (q.holder + 1) % l.holders.length
        let name := (((s.ctx c).models.find? fun m => m.version == l.version).map (·.name)).getD 0#256
        (s.modFetch c i fun f => { f with holder := h, tries := 2, asked := s.clk.now, pieces := [] }).askChunk c name l.wait
          (l.holders.getD h 0) i
      else
        (s.abortStep c l.uid .abortedFault (if bad then .chunkDigest else .peerMissing)
          (if bad then 0 else l.holders.getD q.holder 0)).dispatch

/-- What follows the writing of a chunk: a fault aborts the part, else the chunk is done and the next is asked for. -/
def State.afterPlace (s : State) (c : CtxId) (l : LoadPart) (q : Fetch) (w : State × Option Reason) : State :=
  match w.2 with
  | some reason => (s.abortStep c l.uid .abortedFault reason 0).dispatch
  | none => (w.1.modFetch c q.chunk fun f => { f with done := true, pieces := [] }).askMore c

/-- A verified chunk is written at its place in shadow pages. -/
def State.placeChunk (s : State) (c : CtxId) (l : LoadPart) (q : Fetch) (bs : List Byte) : State :=
  match (s.ctx c).step? l.uid with
  | none => s
  | some t =>
    match t.slot with
    | none => s
    | some k =>
      s.afterPlace c l q (s.writeAll c k [(l.base + q.chunk * Config.chunkBytes, bs)])

/-- A piece of a chunk arrives: once all its bytes are there it is hashed (R311). -/
def State.takeWeights (s : State) (c : CtxId) (p : OxtPkt) : State :=
  let s1 := s.modFetch c p.slot.toNat fun q => { q with pieces := q.pieces ++ [(p.offset.toNat, p.payload)] }
  match (s1.ctx c).load with
  | none => s
  | some l =>
    match l.fetches.find? fun q => q.chunk == p.slot.toNat with
    | none => s
    | some q =>
      let bs := ({ index := q.chunk, pieces := q.pieces, digest := none, verified := false, repeats := 0 } : RecvChunk).bytes
      if bs.length < q.len then s1
      else if sha256 bs = q.digest then s1.placeChunk c l q bs
      else s1.retryChunk c q.chunk true

/-- Is a chunk of the context's load awaited from the sender? -/
def State.awaitsChunk (s : State) (c : CtxId) (p : OxtPkt) : Bool :=
  ((s.ctx c).load.map fun l => l.fetches.any fun q =>
    q.chunk == p.slot.toNat && decide (0 < q.tries) && !q.done && l.holders.getD q.holder 0 == p.srcRank.toNat).getD false

/-- A REQUEST arrives (R310): the holder sends the chunk from its committed view, or ABSENT. -/
def execFetchRequest (p : OxtPkt) (s : State) : Host.Outcome State Fault Refusal :=
  .next <| if p.cmd ≠ 0#12 then s else s.receive p 0 3 (fun _ _ => true) fun t c =>
    let i := p.slot.toNat
    let peer := p.srcRank.toNat
    let name := digestOf (slice p.payload 0 32)
    let held := allCtx.findSome? fun d =>
      if (t.ctx d).job.tag = (t.ctx c).job.tag then
        (t.ctx d).models.find? fun m => m.resident && m.name == name && decide (i < m.count)
      else none
    match held with
    | some m =>
      (messages (t.committedBytes (m.base + i * Config.chunkBytes) (chunkBytesOf m.total i))).foldl (fun u q =>
        u.sendData c peer (flowFor i peer) 3 fun k =>
          { k with cmd := 1#12, slot := p.slot, offset := BitVec.ofNat 32 q.1, payload := q.2 }) t
    | none => t.sendData c peer (flowFor i peer) 3 fun k => { k with cmd := 2#12, slot := p.slot }

/-- A weight chunk arrives (R311). -/
def execFetchChunk (p : OxtPkt) (s : State) : Host.Outcome State Fault Refusal :=
  .next <| if p.cmd ≠ 1#12 then s else s.receive p 0 3 (fun t c => t.awaitsChunk c p) fun t c => t.takeWeights c p

/-- ABSENT arrives (R311). -/
def execFetchAbsent (p : OxtPkt) (s : State) : Host.Outcome State Fault Refusal :=
  .next <| if p.cmd ≠ 2#12 then s else s.receive p 0 3 (fun t c => t.awaitsChunk c p) fun t c => t.retryChunk c p.slot.toNat false

/-- A chunk has not arrived within FETCH_WAIT (R311). -/
def execFetchWaitExpiry (c : CtxId) (chunk : Nat) (s : State) : Host.Outcome State Fault Refusal :=
  .next <| s.whenUp fun s =>
    match (s.ctx c).load with
    | none => s
    | some l =>
      match l.fetches.find? fun q => q.chunk == chunk && decide (0 < q.tries) && !q.done with
      | some q => if q.asked + l.wait ≤ s.clk.now then s.retryChunk c chunk false else s
      | none => s

/-! ### T0 of the other kinds of step -/

/-- T0 of a load part: its group opens, its pages join the allocation, and the first chunks are asked for. -/
def State.startLoad (s : State) (c : CtxId) (t : Step) : State :=
  match (s.ctx c).load with
  | none => s
  | some l =>
    let total := (((s.ctx c).models.find? fun m => m.version == l.version).map (·.total)).getD 0
    let rs := pageRanges (chunkRanges l.base total (l.fetches.map (·.chunk))) .committed
    ((s.allocate c rs).openStep c t).askMore c

/-- T0 of a RESTORE (R376, R377): its group opens, its ranges join the allocation, and TAKE goes to the holder. -/
def State.startRestore (s : State) (c : CtxId) (t : Step) : State :=
  match (s.ctx c).restore with
  | none => s
  | some r =>
    let s1 := (s.allocate c (pageRanges r.ranges .committed)).openStep c t
    (s1.modRestore c fun r => { r with since := s.clk.now }).sendMirror c r.holder 7 0 r.step 0
      (leBytes 8 r.step.toNat ++ leBytes 2 r.source ++ leBytes 4 (cdiv r.wait 1000))

/-- A step reaches T0 (R41). While a migration moves data no group opens (R212). -/
def execStepStart (c : CtxId) (s : State) : Host.Outcome State Fault Refusal :=
  .next <| s.whenUp fun s =>
    match s.dueSteps c, s.hbm.migration with
    | t :: _, .none => State.dispatch <|
      match t.kind with
      | .host => s.startHost c t
      | .load => s.startLoad c t
      | .restore => s.startRestore c t
      | .period => s
    | _, _ => s

/-! ### A period (R297) -/

/-- A template command of a period, at the worst case of a held engine. -/
def periodCmd (allow : Nat) (e : Entry) (f : CmdFacts) : Cmd where
  entry := e
  wPrime := chargedW e.w (stretchOf allow) (e.hbm != 0) e.engine false
  afterCommit := false
  hostEnd := f.hostEnd
  state := .waiting
  ran := 0
  since := 0
  waitSince := none
  position := 0
  lineAcked := false
  staged := []
  saturated := false
  dropped := (0, 0)
  gscale := none
  copyBack := 0
  line := f.line

/-- The template of a pattern, as it stands in memory now. -/
def State.templateOf (s : State) (c : CtxId) (p : Pattern) : Option (List (Entry × CmdFacts)) := do
  let es ← (entriesOf 64 (View.bytes s.judgeView p.template (64 * p.tlen))).mapM parseEntry
  let fs ← es.mapM fun e => s.readFacts c s.judgeView (p.period - 5000) e
  some (es.zip fs)

/-- The step of a period. -/
def State.periodStep (s : State) (p : Pattern) (cs : List (Entry × CmdFacts)) : Step where
  uid := s.slu.nextUid
  kind := .period
  hdr := { Header.inner (BitVec.ofNat 64 p.next) (p.period - 5000) p.p p.c with allowance := p.allow }
  tag := 0#64
  seq := 0#32
  client := 0#8
  tL := s.clk.now
  t0 := p.origin p.next
  state := .admitted
  slot := none
  cmds := cs.map fun k => periodCmd p.allow k.1 k.2
  alloc := []
  reverted := false
  condFlag := false
  prepared := 0
  sweep := false
  digest := 0#256
  late := false

/-- The period's index is used up. -/
def State.nextPeriod (s : State) (c : CtxId) : State :=
  s.modCtx c fun x => { x with pattern := x.pattern.map fun q => { q with next := q.next + 1 } }

/-- A version leaves: its pages are released (R307). -/
def State.releaseModel (s : State) (c : CtxId) (m : Model) : State :=
  let rs := chunkRanges m.base m.total m.chunks
  let s1 := s.zeroRanges rs
  s1.modCtx c fun x =>
    { x with models := x.models.filter fun k => k.version != m.version
             alloc := x.alloc.flatMap fun a =>
               (rs.foldl (fun acc r => carve r.1 r.2 acc) [(a.start, a.len, 0)]).map fun u =>
                 { start := u.1, len := u.2.1, kind := a.kind } }

/-- Old versions with no sequence left leave. -/
def State.dropOldModels (s : State) (c : CtxId) : State :=
  let x := s.ctx c
  let used := ((x.pattern.map (·.seqs)).getD []).filter (·.joined)
  (x.models.filter fun m => m.drainStep.isSome && !(used.any fun q => q.version == m.version)).foldl
    (fun u m => u.releaseModel c m) s

/-- T0 of a period (R297): with no sequence nothing runs, though a switch of versions still takes effect; a period of an unbound
context, one whose template cannot be read, or one whose zones require more than the pattern's allowance (R450), instantiates no
step (R397). -/
def execServingPeriodStart (c : CtxId) (s : State) : Host.Outcome State Fault Refusal :=
  .next <| s.whenUp fun s =>
    let x := s.ctx c
    match x.pattern, x.steps.any (fun t => t.kind == .period) with
    | some p, false =>
      if s.clk.now < p.origin p.next ∨ s.slu.admitting = false then s
      else if x.unbound || s.zoneRefuses p.allow (s.patternZones p) then s.nextPeriod c
      else if !(p.seqs.any fun q => decide (q.joinAt ≤ p.next)) then
        ((s.modCtx c fun x => { x with models := modelsAt p x.models p.next }).dropOldModels c).nextPeriod c
      else match s.templateOf c p with
        | none => s.nextPeriod c
        | some cs =>
          let t := s.periodStep p cs
          let s1 := s.modCtx c fun x => { x with steps := x.steps ++ [t] }
          ((State.openStep { s1 with slu := { s1.slu with nextUid := s1.slu.nextUid + 1 } } c t).nextPeriod c).dispatch
    | _, _ => s

/-! ### Commits -/

/-- The pattern ends (R314, R355): its engines are free, and an uncovered tail is reported in a coverage record. -/
def State.endPattern (s : State) (c : CtxId) : State :=
  let s1 := s.modCtx c fun x => { x with pattern := none }
  match (s.ctx c).tail with
  | some _ => s1.record { Sig.empty 8 with ctx := some (c.val, (s.ctx c).regs.gen.toNat) }
  | none => s1

/-- A period commits (R297, R302 to R307): the table is what the period makes of it, the entries are delivered, the history grows. -/
def State.commitPeriod (s : State) (c : CtxId) (t : Step) : State :=
  match (s.ctx c).pattern with
  | none => s
  | some p =>
    let n := t.hdr.step.toNat
    let draw := s.mem.draws
    let e := periodEnd p (s.ctx c).models draw n
    let s0 : State := { s with mem := { s.mem with draws := draw + 1 } }
    let s1 := (s0.commitStep c t (s0.version (rowOf c) + 1#64) true).modCtx c fun x =>
      { x with models := e.models, pattern := some { p with seqs := e.seqs }
               history := ((n, e.served) :: x.history).take 128 }
    let s2 := (((s1.takeUp c t false).deliver c e.out).dropOldModels c)
    (if p.stopping.isSome && e.seqs.isEmpty then s2.endPattern c else s2).dispatch

/-- A load part commits (R306): its chunks are loaded; with LAST_PART the version becomes resident, and current where none is. -/
def State.commitLoad (s : State) (c : CtxId) (t : Step) (l : LoadPart) : State :=
  let s1 := s.commitStep c t (s.version (rowOf c) + 1#64) true
  let next := ((s.ctx c).pattern.map (·.next)).getD 0
  let first := (currentModel (s.ctx c).models).isNone
  (s1.modCtx c fun x =>
    { x with load := none
             models := x.models.map fun m =>
               if m.version = l.version then
                 { m with chunks := m.chunks ++ l.fetches.map (·.chunk), resident := l.lastPart
                          current := l.lastPart && first
                          since := s.clk.now, quiesce := l.quiesce, drain := l.drain, switchBy := next + l.drain }
               else m }).dispatch

/-- The COMMIT of a group that commits by itself (R202): every command complete, every chunk of a load or restore in place. -/
def execCommit (c : CtxId) (uid : Nat) (s : State) : Host.Outcome State Fault Refusal :=
  .next <| s.whenUp fun s =>
    match (s.ctx c).step? uid with
    | none => s
    | some t =>
      if t.state ≠ .running then s
      else match t.kind with
      | .host => s.commitHost c t
      | .period =>
        if t.t0 + t.hdr.commitDl < s.clk.now then s.missedCommit c t
        else if t.gateDone then s.commitPeriod c t else s
      | .load =>
        match (s.ctx c).load with
        | some l => if l.uid = uid ∧ l.fetches.all (·.done) then s.commitLoad c t l else s
        | none => s
      | .restore =>
        match (s.ctx c).restore with
        | some r => if r.uid = uid ∧ r.done then s.restoreCommit c t r.version else s
        | none => s

/-! ### When capacity falls (R315) -/

/-- The most recently joined sequences lose their capacity until the test passes. -/
def shedSeqs (p : Pattern) (ms : List Model) : Nat → List Seqn → List Seqn
  | 0, qs => qs
  | fuel + 1, qs =>
    match joinTest p ms qs with
    | .ok _ => qs
    | .error _ => shedSeqs p ms fuel (qs.dropLast)

/-- Has the pattern lost a held core, or has the grade fallen below a profile's (R315)? -/
def State.patternLost (s : State) (c : CtxId) (p : Pattern) : Bool :=
  ((List.range 48).any fun n => p.cores.toNat.testBit n && (s.engineLost (.matrix n) || s.engineLost (.vector n)))
  || ((s.ctx c).models.any fun m => decide (s.grade < m.profile.grade))

/-- Test a pattern again: HBM_MAX falls to H, sequences that fail end at the next step, and a lost pattern ends at once with every
sequence (R315). -/
def State.retestPattern (s : State) (c : CtxId) (reason : Reason) : State :=
  match (s.ctx c).pattern with
  | none => s
  | some p =>
    if s.patternLost c p then
      let s1 := ((s.ctx c).steps.filter fun t => t.kind == .period).foldl (fun u t => u.abortStep c t.uid .abortedFault reason 0) s
      let outs := p.seqs.map fun q =>
        { seqId := q.id, token := 0xFFFFFFFF#32, step := BitVec.ofNat 32 p.next, version := q.version.setWidth 16
          endCode := 5, first := false }
      (s1.deliver c outs).endPattern c
    else
      let p1 := { p with hbmMax := min p.hbmMax (s.budget p.period) }
      let kept := shedSeqs p1 (s.ctx c).models p1.seqs.length p1.seqs
      let seqs := p1.seqs.map fun q => if kept.any fun k => k.id == q.id then q else { q with lostAt := some p1.next }
      s.modCtx c fun x => { x with pattern := some { p1 with seqs := seqs } }

/-- Capacity has fallen: every pattern and every unstarted step is tested again (R55, R315). -/
def State.retestAll (s : State) (reason : Reason) : State := (s.forCtx fun t c => t.retestPattern c reason).retest reason

end Sys2Proof.Machine
end

