-- ==== Sys2Proof/Machine/Intake.lean ====
section
/-! DEFINITION. What records ask for (R230, R244, R245, R274, R284 to R286, R295, R298 to R300, R306, R308, R313, R314, R323, R331,
R332, R336, R337, R376, R395, R396): the payloads read field by field, and the effect of every record on its context. -/

namespace Sys2Proof.Machine

/-! ### Payloads (R323) -/

/-- A payload has its packed size, padded to 16 bytes, and zeros in the padding. -/
def packed (bs : List Byte) (used : Nat) : Bool :=
  bs.length == cdiv used 16 * 16 && zeroAt bs used (bs.length - used)

/-- Up to an alignment. -/
def alignUp (n a : Nat) : Nat := cdiv n a * a

/-- The gap up to an offset is zero. -/
def gap (bs : List Byte) (at_ upTo : Nat) : Bool := zeroAt bs at_ (upTo - at_)

/-- A list of START and LENGTH entries whose count stands at `at_`; the ranges and the offset after them (R230). -/
def readRanges (bs : List Byte) (at_ : Nat) : List (Nat × Nat) × Nat :=
  let n := field bs at_ 4
  let o := alignUp (at_ + 4) 8
  ((List.range (min n 4096)).map fun i => (field bs (o + 16 * i) 8, field bs (o + 16 * i + 8) 8), o + 16 * n)

/-- A refusal with REFUSED_SHAPE of a record. -/
def badShape : Deny := { code := .refusedShape }

/-- A refusal with REFUSED_ROLE (R293). -/
def badRole : Deny := { code := .refusedRole }

/-! ### Contexts: creation and generations (R331, R332) -/

/-- The generation after another: 0x0001 follows 0xFFFF (R34). -/
def genNext (g : BitVec 16) : BitVec 16 := if g = 0xFFFF#16 then 1#16 else g + 1#16

/-- A CREATE record's fields. -/
structure CreateRec where
  role    : Nat
  job     : BitVec 32
  count   : Nat
  version : BitVec 64
  base    : Nat
  log2    : Nat
  tail    : Nat
deriving DecidableEq, Repr

/-- Read a CREATE payload. -/
def parseCreate (bs : List Byte) : Option CreateRec :=
  let r : CreateRec := { role := field bs 0 1, job := BitVec.ofNat 32 (field bs 4 4), count := field bs 8 2
                         version := BitVec.ofNat 64 (field bs 16 8), base := field bs 24 8, log2 := field bs 32 1
                         tail := field bs 40 8 }
  if packed bs 48 && gap bs 1 4 && gap bs 10 16 && gap bs 33 40 && decide (r.role ≤ 1)
      && decide (8 ≤ r.log2 ∧ r.log2 ≤ 16)
      && (if r.job = 0#32 then r.count == 0 else decide (1 ≤ r.count ∧ r.count ≤ 16384)) then some r
  else none

/-- The context that a CREATE makes: the next generation, VERSION in its row, the registers of R320 kept (R196, R331, R332). -/
def State.create (s : State) (c : CtxId) (r : CreateRec) (client : Byte) : State :=
  let old := s.ctx c
  let x : Ctx := { Ctx.reset with
    state := .active
    role := if r.role = 0 then .training else .serving
    client := client
    regs := { old.regs with gen := genNext old.regs.gen, results := 0 }
    rings := { base := r.base, log2 := r.log2, tail := r.tail, kept := [], dBase := 0, dLog2 := 0, dTail := 0, dCount := 0
               dKept := [] }
    job := { Ctx.reset.job with tag := r.job, count := r.count }
    walking := old.walking }
  let s1 := (s.setCtx c x).writeRow (rowOf c) fun d => { d with version := r.version, priorValid := false }
  s1.modClient client fun k => { k with resident := satNat 32 (k.resident + 1) }

/-- Judge a CREATE (R327, R331): a retired device refuses it (R372). -/
def State.judgeCreate (s : State) (c : CtxId) (bs : List Byte) (w : Who) : State :=
  match parseCreate bs with
  | none => s.deny c w badShape
  | some r =>
    if s.hw.retired then s.deny c w { code := .refusedGrade }
    else if (s.ctx c).resident then s.deny c w (Deny.memory .noContextFree 0)
    else (s.create c r w.client).accept c w id

/-! ### Teardown and fencing (R286, R336, R337) -/

/-- What a teardown takes from the context's place in the row, the memory and the generation (R337): one row write, the pages
unallocated from then on, and the next generation. -/
def State.tearRow (s : State) (c : CtxId) : State :=
  let x := s.ctx c
  let all := x.alloc
  let s1 := (s.dropRow (rowOf c)).zeroRanges (all.map fun r => (r.start, r.len))
  s1.modCtx c fun x =>
    { x with alloc := [], walking := all ++ x.walking
             regs := { x.regs with gen := genNext x.regs.gen }
             tearing := x.tearing.map fun t => { t with rowDone := true } }

/-- A receive configuration of a context that goes is dropped; its committed slots stay (R377). -/
def State.dropReceiver (s : State) (c : CtxId) : State :=
  if s.recv.ctx = some c then
    let s1 := (List.range s.recv.slots.length).foldl (fun t i =>
      if (t.recv.slots[i]?.map (·.state)) = some .receiving then t.abortReceive i else t) s
    { s1 with recv := { s1.recv with ctx := none } }
  else s

/-- Start a teardown (R337): the context is TEARING, its steps end with the code, and unless a PREPARED group holds it (R207) its row
is written. A second trigger has no effect. -/
def State.startTeardown (s : State) (c : CtxId) (code : Code) (reason : Reason) (w : Who) : State :=
  let x := s.ctx c
  if x.state ≠ .active then s
  else
    let hold (t : Step) : Bool := t.state == .prepared && code != .abortedEpoch
    let s1 := x.steps.foldl (fun u t =>
      match (u.ctx c).step? t.uid with
      | some v =>
        if v.state = .committed then u.dropTail c v.uid
        else if hold v then u else u.abortOne c v code reason 0 true
      | none => u) s
    let s2 := ((s1.dropStream c true).dropReceiver c).modCtx c fun x =>
      { x with state := .tearing, asm := none, pattern := none, restore := none, load := none
               tearing := some { code := code, reason := reason, since := s.clk.now, tag := w.tag, seq := w.seq, rowDone := false } }
    let s3 : State := { s2 with
      intg := { s2.intg with pending := s2.intg.pending.filter fun r => r.ctx != c
                             votes := s2.intg.votes.filter fun v => v.ctx != c }
      sec := { s2.sec with queue := s2.sec.queue.filter fun q => q.ctx != c || q.keys.isSome } }
    (if (s3.ctx c).steps.isEmpty then s3.tearRow c else s3).dispatch

/-- A fence (R286): the context stops sending first, then is torn down with ABORTED_EPOCH. -/
def State.fence (s : State) (c : CtxId) (w : Who) : State :=
  if (s.ctx c).state = .active then (s.modCtx c fun x => { x with fenced := true }).startTeardown c .abortedEpoch .none w else s

/-- No record behind a teardown. -/
def Who.device : Who := { seq := 0#32, tag := 0#64, client := 0#8 }

/-- The teardown completes (R337): SRAM is cleared and released, the event entry is written, and the context is FREE. FENCED reports
a fence. -/
def execTeardownComplete (c : CtxId) (s : State) : Host.Outcome State Fault Refusal :=
  .next <| s.whenUp fun s =>
    let x := s.ctx c
    match x.tearing with
    | none => s
    | some t =>
      if !x.steps.isEmpty then s
      else
        let s1 := if t.rowDone then s else s.tearRow c
        let s2 := s1.putEntry c { seq := t.seq.toNat, code := if x.fenced then .fenced else t.code, kind := 3
                                  tag := t.tag.toNat, reason := t.reason }
        let walks := (List.finRange 8).any fun k => s2.slot (rowOf c) k == .aborting
        let s3 := s2.modCtx c fun y =>
          { Ctx.reset with regs := y.regs, walking := if walks then y.walking.filter fun r => !isSram r.start else [] }
        let s4 := s3.modClient x.client fun k => { k with resident := k.resident - 1 }
        { s4 with fab := { s4.fab with flows := s4.fab.flows.filter fun f => f.key.ctx != c } }

/-- A context's generation advances (R371); at the 32,768th time it is torn down instead. -/
def State.advanceGen (s : State) (c : CtxId) : State :=
  let x := s.ctx c
  if x.state ≠ .active then s
  else if 32767 ≤ x.genAdv then s.startTeardown c .abortedFault .fault Who.device
  else s.modCtx c fun x => { x with genAdv := x.genAdv + 1, regs := { x.regs with gen := genNext x.regs.gen } }

/-- The steps that a PREEMPT names: all but those that have committed or are PREPARED (R207, R336). -/
def State.preempt (s : State) (c : CtxId) (step : Nat) : State :=
  ((s.ctx c).steps.foldl (fun u t =>
    match (u.ctx c).step? t.uid with
    | some v =>
      if (step = 2 ^ 64 - 1 ∨ v.hdr.step.toNat = step) ∧ v.state ≠ .prepared then u.abortStep c v.uid .abortedPreempt .none 0
      else u
    | none => u) s).dispatch

/-- Judge a PREEMPT. -/
def State.judgePreempt (s : State) (c : CtxId) (bs : List Byte) (w : Who) : State :=
  if packed bs 8 then (s.accept c w id).preempt c (field bs 0 8) else s.deny c w badShape

/-- Judge a TEARDOWN. -/
def State.judgeTeardown (s : State) (c : CtxId) (bs : List Byte) (w : Who) : State :=
  if packed bs 0 then (s.accept c w id).startTeardown c .abortedPreempt .none w else s.deny c w badShape

/-! ### Rebinding (R395, R396) -/

/-- Rewrite the kept entries of a ring from a resume count on, then its tail word. -/
def rewriteRing (base log2 tail size count resume : Nat) (kept : List (Nat × List Byte)) : List Output :=
  ((kept.filter fun e => decide (resume ≤ e.1)).map fun e => .hostWrite (ringAddr base log2 e.1 size) e.2)
    ++ [.hostWrite tail (leBytes 8 count)]

/-- Entries that were lost: the first kept, less the resume count. -/
def lostEntries (count resume : Nat) (kept : List (Nat × List Byte)) : Nat := ((kept.head?.map (·.1)).getD count) - resume

/-- Judge a REBIND: new rings, the kept entries in order, and the context is bound. -/
def State.judgeRebind (s : State) (c : CtxId) (bs : List Byte) (w : Who) : State :=
  let x := s.ctx c
  let log2 := field bs 8 1
  let dl := field bs 40 1
  let noDelivery := zeroAt bs 32 32
  if !(packed bs 64 && gap bs 9 16 && gap bs 41 48) || log2 < 8 || 16 < log2 then s.deny c w badShape
  else if x.role = .training ∧ !noDelivery then s.deny c w badRole
  else if x.role = .serving ∧ (dl < 9 ∨ 20 < dl) ∧ !(noDelivery && x.pattern.isNone) then s.deny c w badShape
  else
    let r := x.rings
    let resume := field bs 24 8
    let dResume := field bs 56 8
    let rings : Rings := { r with base := field bs 0 8, log2 := log2, tail := field bs 16 8, dBase := field bs 32 8, dLog2 := dl
                                  dTail := field bs 48 8 }
    let s1 := s.modCtx c fun x => { x with rings := rings, unbound := false }
    let s2 := s1.emits (rewriteRing rings.base log2 rings.tail 64 x.regs.results resume r.kept
      ++ if noDelivery then [] else rewriteRing rings.dBase dl rings.dTail 16 r.dCount dResume r.dKept)
    let lost := lostEntries x.regs.results resume r.kept + if noDelivery then 0 else lostEntries r.dCount dResume r.dKept
    s2.accept c w fun e => { e with shortfall := lost }

/-! ### The job (R244, R245, R274, R284, R285) -/

/-- Does a step end when an epoch is delivered: it has started, or it names a group (R245, R285)? -/
def Step.oldEpoch (t : Step) : Bool :=
  t.state != .committed && (t.started || t.hdr.job || t.cmds.any fun k => engineKind k.entry.engine == 5)

/-- A new epoch becomes current (R285). -/
def State.adoptEpoch (s : State) (c : CtxId) (epoch : BitVec 32) (rank count : Nat) : State :=
  let s1 := (s.ctx c).steps.foldl (fun u t =>
    match (u.ctx c).step? t.uid with
    | some v => if v.oldEpoch then u.abortStep c v.uid .abortedEpoch .none 0 false else u
    | none => u) s
  let s2 := s1.dropStream c false
  let s3 := if s2.recv.ctx = some c then
      (List.range s2.recv.slots.length).foldl (fun t i =>
        if (t.recv.slots[i]?.map (·.state)) = some .receiving then (t.abortReceive i).countMiss else t) s2
    else s2
  let s4 : State := { s3 with fab := { s3.fab with flows := s3.fab.flows.filter fun f => f.key.ctx != c } }
  (s4.modCtx c fun x =>
    { x with genAdv := 0, job := { x.job with epoch := epoch, rank := some rank, count := count, aheadSeen := [] } }).dispatch

/-- Judge an epoch record: MEMBER 0 fences, an epoch not greater than the current one is ignored (R34, R285, R286). -/
def State.judgeEpoch (s : State) (c : CtxId) (bs : List Byte) (w : Who) : State :=
  let x := s.ctx c
  let epoch := BitVec.ofNat 32 (field bs 0 4)
  let rank := field bs 6 2
  let count := field bs 8 2
  if !(packed bs 10 && gap bs 5 6) || 1 < field bs 4 1 || x.job.tag == 0#32 then s.deny c w badShape
  else if field bs 4 1 = 0 then
    if epoch.toNat ≤ x.job.epoch.toNat then s.accept c w id else (s.accept c w id).fence c w
  else if count < 1 ∨ 16384 < count ∨ count ≤ rank then s.deny c w badShape
  else if epoch.toNat ≤ x.job.epoch.toNat then s.accept c w id
  else (s.accept c w id).adoptEpoch c epoch rank count

/-- The rank lists of a group table, and the offset after them: each a count and its 16-bit entries, aligned to 4 bytes. -/
def readGroups (bs : List Byte) : Nat → Nat → List (List Nat) × Nat
  | 0, at_ => ([], at_)
  | n + 1, at_ =>
    let a := alignUp at_ 4
    let k := field bs a 4
    let g := (List.range (min k 16384)).map fun i => field bs (a + 4 + 2 * i) 2
    let rest := readGroups bs n (a + 4 + 2 * k)
    (g :: rest.1, rest.2)

/-- Strictly ascending ranks below a count. -/
def ascending (count : Nat) : List Nat → Bool
  | [] => true
  | [a] => decide (a < count)
  | a :: b :: rest => decide (a < b) && decide (a < count) && ascending count (b :: rest)

/-- Judge a group table (R244, R245). -/
def State.judgeGroups (s : State) (c : CtxId) (bs : List Byte) (w : Who) : State :=
  let x := s.ctx c
  let n := field bs 4 4
  let g := readGroups bs (min n 64) 8
  if x.job.tag != 0#32 && decide (1 ≤ n ∧ n ≤ 64) && packed bs g.2
      && (g.1.all fun l => !l.isEmpty && ascending x.job.count l)
      && (g.1.head?.map fun l => l == List.range x.job.count).getD false then
    (s.accept c w id).modCtx c fun x =>
      { x with job := { x.job with groups := some (BitVec.ofNat 32 (field bs 0 4), g.1) } }
  else s.deny c w badShape

/-- Bytes in network order as one number, the first the most significant. -/
def beNat (bs : List Byte) : Nat := leNat bs.reverse

/-- Judge a peer address record (R274, R275). -/
def State.judgePeers (s : State) (c : CtxId) (bs : List Byte) (w : Who) : State :=
  let x := s.ctx c
  let n := field bs 4 4
  let entry (i : Nat) : List Byte := slice bs (16 + 32 * i) 32
  let flows := (allCtx.map fun d => if d ≠ c ∧ (s.ctx d).job.peers.isSome then 8 * (s.ctx d).job.count else 0).sum + 8 * n
  if x.job.tag == 0#32 || n != x.job.count || !(packed bs (16 + 32 * n)) || !(gap bs 8 16)
      || !((List.range n).all fun i => zeroAt (entry i) 22 10) then s.deny c w badShape
  else if 262144 < flows then s.deny c w (Deny.memory .none 0)
  else (s.accept c w id).modCtx c fun x =>
    { x with job := { x.job with peers := some (BitVec.ofNat 32 (field bs 0 4), (List.range n).map fun i =>
        { addr := BitVec.ofNat 128 (beNat (slice (entry i) 0 16)), mac := BitVec.ofNat 48 (beNat (slice (entry i) 16 6)) }) } }

/-- Judge a Riffle target record (R284). -/
def State.judgeTargets (s : State) (c : CtxId) (bs : List Byte) (w : Who) : State :=
  let x := s.ctx c
  let n := field bs 0 4
  let now := s.clk.now
  let ts := (List.range (min n 128)).map fun i => (field bs (4 + 4 * i) 2, field bs (6 + 4 * i) 1, field bs (7 + 4 * i) 1)
  if x.job.tag != 0#32 && decide (n ≤ 128) && packed bs (4 + 4 * n)
      && (ts.all fun t => decide (t.1 < x.job.count ∧ t.2.1 < 8 ∧ t.2.2 < 8)) then
    (s.accept c w id).modCtx c fun x => { x with job := { x.job with targets := ts.map fun t =>
      { rank := t.1, local_ := Fin.ofNat 8 t.2.1, peer := Fin.ofNat 8 t.2.2, seq := 0#16, restart := now, suspect := false } } }
  else s.deny c w badShape

/-! ### Mirroring and restore (R54, R230, R376) -/

/-- A mirror configuration record: the configuration and the offset after it. -/
def parseMirror (bs : List Byte) (count : Nat) : Option MirrorCfg :=
  let send := field bs 0 2
  let i := field bs 2 2
  let period := field bs 8 8
  let rs := readRanges bs 16
  let n := field bs 16 4
  let o := rs.2
  let recv := field bs o 2
  let slots := field bs (o + 2) 1
  let g := alignUp (o + 3) 8
  let gib := field bs g 8
  let rankOk (r : Nat) : Bool := r == 0xFFFF || decide (r < 16384 ∧ r < count)
  if packed bs (g + 8) && gap bs 4 8 && gap bs 20 24 && gap bs (o + 3) g && rankOk send && rankOk recv
      && decide (32 ≤ i ∧ i ≤ 1024 ∧ 1000 ≤ period ∧ period ≤ Config.maxOffset)
      && (if send = 0xFFFF then n == 0 else decide (1 ≤ n ∧ n ≤ 64))
      && (if recv = 0xFFFF then slots == 0 && gib == 0 else decide (2 + cdiv 64 i ≤ slots ∧ slots ≤ 6 ∧ 1 ≤ gib)) then
    some { send := if send = 0xFFFF then none else some send, interval := i, minPeriod := period, ranges := rs.1
           recv := if recv = 0xFFFF then none else some recv, slots := slots, slotGib := gib }
  else none

/-- Ranges of HBM of a length, outside the scratch and capture ranges of a context. -/
def State.stateRanges (s : State) (c : CtxId) (rs : List (Nat × Nat)) : Bool :=
  rs.all fun r => decide (0 < r.2 ∧ r.1 + r.2 ≤ s.usable)
    && !((s.ctx c).heldRanges.any fun h => h.kind != .committed && decide (r.1 < h.start + h.len ∧ h.start < r.1 + r.2))

/-- Judge a mirror configuration (R54, R230). The receive slots are new and FREE. -/
def State.judgeMirror (s : State) (c : CtxId) (bs : List Byte) (w : Who) : State :=
  let x := s.ctx c
  match if x.job.tag = 0#32 then none else parseMirror bs x.job.count with
  | none => s.deny c w badShape
  | some m =>
    let mine := s.recv.ctx == some c
    let recv : Recv := match m.recv with
      | some r => { ctx := some c, rank := r, gib := m.slotGib, slots := List.replicate m.slots RecvSlot.empty, refused := none }
      | none => if mine then { ctx := none, rank := 0, gib := 0, slots := [], refused := none } else s.recv
    let short := State.capacityShort { s with recv := recv } c []
    let bytes := rangesLen m.ranges
    let fits := 16 * m.interval * m.minPeriod
    if !(s.stateRanges c m.ranges) then s.deny c w badShape
    else if m.recv.isSome ∧ 0 < short then s.deny c w (Deny.memory .capacity short)
    else if fits < bytes then s.deny c w { code := .refusedDeadline, short := bytes - fits }
    else
      let s1 := (s.accept c w id).dropStream c true
      let s2 := if mine || m.recv.isSome then State.dropReceiver { s1 with recv := { s1.recv with ctx := some c } } c else s1
      State.modCtx { s2 with recv := recv } c fun x => { x with mirror := some m }

/-- The fields of a RESTORE record. -/
def parseRestore (bs : List Byte) : Option Restore :=
  let rs := readRanges bs 16
  let n := field bs 16 4
  let o := rs.2
  let wait := field bs (o + 8) 8
  if packed bs (o + 16) && gap bs 4 8 && gap bs 20 24 && decide (field bs 0 2 < 16384 ∧ field bs 2 2 < 16384)
      && decide (1 ≤ n ∧ n ≤ 64 ∧ 100000 ≤ wait ∧ wait ≤ 100000000) then
    some { uid := 0, holder := field bs 0 2, source := field bs 2 2, step := BitVec.ofNat 64 (field bs 8 8), ranges := rs.1
           version := BitVec.ofNat 64 (field bs o 8), wait := wait, since := 0, sealed := none, chunks := [] }
  else none

/-- A step that no STEP_HEAD record carries, to be admitted now with the bound of R42 for no commands and a commit deadline of 60 s
(DESIGN CHOICE, log entry 56: the spec gives load parts and RESTORE none). -/
def State.innerStep (s : State) (kind : StepKind) (num : BitVec 64) (p c : Nat) (w : Who) : Step where
  uid := s.slu.nextUid
  kind := kind
  hdr := Header.inner num Config.maxOffset p c
  tag := w.tag
  seq := w.seq
  client := w.client
  tL := s.clk.now
  t0 := s.clk.now + 10000
  state := .admitted
  slot := none
  cmds := []
  alloc := []
  reverted := false
  condFlag := false
  prepared := 0
  sweep := false
  digest := 0#256
  late := false

/-- The span of such a step. -/
def Step.wholeSpan (t : Step) : Span := t.span

/-- Judge a RESTORE (R376). -/
def State.judgeRestore (s : State) (c : CtxId) (bs : List Byte) (w : Who) : State :=
  let x := s.ctx c
  let num := field bs 8 8
  match parseRestore bs with
  | none => s.denyStep c w badShape num
  | some r =>
    let rs := pageRanges r.ranges .committed
    let ps := writeSet rs r.ranges
    let t := s.innerStep .restore r.step ps.1 ps.2 w
    let cap := s.capacityShort c rs
    if x.job.tag == 0#32 || !(s.stateRanges c r.ranges) then s.denyStep c w badShape num
    else if x.role ≠ .training then s.denyStep c w badRole num
    else if 0 < cap then s.denyStep c w (Deny.memory .capacity cap) num
    else if x.steps.any fun u => u.state != .committed then s.denyStep c w (Deny.memory .groupSlots 0) num
    else match s.groupShort c t.wholeSpan with
      | some d => s.denyStep c w d num
      | none => ((s.addStep c t [] []).acceptStep c t).modCtx c fun x => { x with restore := some { r with uid := t.uid } }

/-! ### The end of training (R313, R355) -/

/-- The newest committed step of a context: that of its LAST group. -/
def State.lastStep (s : State) (c : CtxId) : Option (BitVec 64) :=
  ((s.slotIn (rowOf c) .last).bind (s.group? (rowOf c))).map (·.step)

/-- Judge a FINAL record: a program change, and the later commit that SEAL waits for. With nothing left to commit, the last
version becomes a checkpoint at once. -/
def State.judgeFinal (s : State) (c : CtxId) (bs : List Byte) (w : Who) : State :=
  let x := s.ctx c
  if !(packed bs 0) then s.deny c w badShape
  else if x.role ≠ .training then s.deny c w badRole
  else if x.final then s.accept c w id
  else
    let s1 := ((s.accept c w id).programChange c).modCtx c fun x => { x with final := true }
    let s2 := s1.laterCommit c []
    if x.steps.any fun t => t.kind == .host && t.state != .committed then s2
    else match s2.lastStep c with
      | some n => if (s2.ctx c).ckpts.any fun k => k.step == n then s2 else s2.checkpoint c n (s2.version (rowOf c)) true
      | none => s2

/-! ### Serving records (R295 to R314) -/

/-- Pages that a serving record names and no context holds join the context's allocation as scratch, with the bytes the owner wrote
to them (DESIGN CHOICE, log entry 47). -/
def State.adopt (s : State) (c : CtxId) (exts : List (Nat × Nat)) : State := s.allocate c (pageRanges exts .scratch)

/-- Extents of HBM below the usable capacity, in pages of the context or of nobody. -/
def State.reachable (s : State) (c : CtxId) (exts : List (Nat × Nat)) : Bool :=
  (exts.all fun e => decide (0 < e.2 ∧ e.1 + e.2 ≤ s.usable)) && s.foreignBytes c (exts.map fun e => (e.1, e.2)) == 0

/-- The fields of a pattern record. -/
def parsePattern (bs : List Byte) : Option (Pattern × Nat × Nat × Nat) :=
  let p : Pattern :=
    { period := field bs 0 8, allow := field bs 8 1, cores := BitVec.ofNat 48 (field bs 16 8)
      chans := BitVec.ofNat 128 (field bs 32 16), slots := field bs 48 2, hbmMax := field bs 56 8, kvGib := field bs 64 2
      p := field bs 68 4, c := field bs 72 4, template := field bs 80 8, tlen := field bs 88 2, t0 := 0, next := 0
      stopping := none, seqs := [] }
  let log2 := field bs 104 1
  if packed bs 120 && gap bs 9 16 && gap bs 22 32 && gap bs 50 56 && gap bs 66 68 && gap bs 76 80 && gap bs 90 96
      && gap bs 105 112
      && decide (100000 ≤ p.period ∧ p.period ≤ 400000 ∧ p.allow ≤ 2 ∧ 1 ≤ p.slots ∧ p.slots ≤ 256)
      && decide (1 ≤ p.kvGib ∧ p.kvGib ≤ 512 ∧ p.c ≤ p.p ∧ 1 ≤ p.tlen ∧ p.tlen ≤ 4096 ∧ 9 ≤ log2 ∧ log2 ≤ 20) then
    some (p, field bs 96 8, log2, field bs 112 8)
  else none

/-- The template's commands hold to the pattern's window and engines (R295, R297). -/
def templateOk (p : Pattern) (cs : List (Entry × CmdFacts)) : Bool :=
  cs.all fun k => p.holds k.1.engine && decide (3000 ≤ k.1.release ∧ k.1.deadline + 7000 ≤ p.period) && !k.2.afterCommit

/-- The memory a template names, with its own entries. -/
def templateExts (p : Pattern) (cs : List (Entry × CmdFacts)) : List (Nat × Nat) :=
  (p.template, 64 * p.tlen) :: cs.flatMap fun k => k.2.reads ++ k.2.writes

/-- The ranges a template brings to the context: what it writes of HBM is committed state, what it only reads is scratch that the
owner has written, and SRAM goes by whole units (DESIGN CHOICE, log entry 47). -/
def templateRanges (p : Pattern) (cs : List (Entry × CmdFacts)) : List Range :=
  let w := cs.flatMap fun k => k.2.writes
  let sram := ((templateExts p cs).filter fun e => isSram e.1).map fun e =>
    let u := if spaceOf e.1 = some .bed then 65536 else 4096
    let a := e.1 / u * u
    { start := a, len := alignUp (e.1 + e.2 - a) u
      kind := if spaceOf e.1 = some .bed then .bed else (bufferOf (e.1 % 2 ^ 22)).kind : Range }
  pageRanges (w.filter fun e => !isSram e.1) .committed
    ++ pageRanges ((templateExts p cs).filter fun e => !isSram e.1 && !(w.contains e)) .scratch ++ sram

/-- Has another context admitted work on an engine that the pattern holds, or a pattern that holds it too (R296)? -/
def State.heldElsewhere (s : State) (c : CtxId) (p : Pattern) : Bool :=
  (s.allCmds.any fun k => k.1.ctx != c && k.2.alive && p.holds k.2.entry.engine)
  || allCtx.any fun d => d != c && match (s.ctx d).pattern with
    | some q => (p.cores &&& q.cores) != 0#48 || (p.chans &&& q.chans) != 0#128
    | none => false

/-- The tests of a pattern record, its template's commands being known (R295, R296, R327): the first that fails decides. -/
def State.refusePattern (s : State) (c : CtxId) (p : Pattern) (cs : List (Entry × CmdFacts)) : Option Deny :=
  let x := s.ctx c
  let hbm := (templateExts p cs).filter fun e => !isSram e.1
  let s' := s.modCtx c fun x => { x with pattern := some p }
  let cap := s'.capacityShort c (pageRanges hbm .committed)
  let sr := s.sramShort c ((templateRanges p cs).filter fun r => isSram r.start) cs
  let lostEngine := (List.range 48).any fun n => p.cores.toNat.testBit n && s.engineLost (.matrix n)
  let lostChan := (List.range 128).any fun n => p.chans.toNat.testBit n && s.engineLost (.dma (n / 32) (n % 32))
  let new := p.items c (lastDl (s.stepItems fun _ _ => false))
  if x.pattern.isSome || !(templateOk p cs) || !((List.range 48).all fun n => !p.cores.toNat.testBit n || s.coreExists n) then
    some badShape
  else if x.role ≠ .serving then some badRole
  else if lostEngine || lostChan || s.zoneRefuses p.allow (s.patternZones p) then some { code := .refusedGrade }
  else if s.hbmGone.isSome then s.hbmGone
  else if 0 < cap then some (Deny.memory .capacity cap)
  else if 0 < sr then some (Deny.memory .sram sr)
  else if s.poolPages < s'.poolAt c [] s.clk.now then
    some (Deny.memory .shadowPool ((s'.poolAt c [] s.clk.now - s.poolPages) * 4096))
  else if s.budget p.period < p.hbmMax then
    some { code := .refusedDeadline, short := p.hbmMax - s.budget p.period, detail := 1 }
  else if s.heldElsewhere c p then some { code := .refusedDeadline }
  else match admitTest s.poolRate (s.withPatterns (s.stepItems fun _ _ => false) new) new with
    | .error f => some (Deny.deadline f)
    | .ok _ => none

/-- Judge a pattern record (R295, R296). -/
def State.judgePattern (s : State) (c : CtxId) (bs : List Byte) (w : Who) : State :=
  match parsePattern bs with
  | none => s.deny c w badShape
  | some (p0, base, log2, tail) =>
    let p := { p0 with t0 := s.clk.now + 10000 + 40 * p0.tlen }
    match s.templateOf c p with
    | none => s.deny c w badShape
    | some cs =>
      match s.refusePattern c p cs with
      | some d => s.deny c w d
      | none =>
        let s1 := (s.allocate c (templateRanges p cs)).modCtx c fun x =>
          { x with pattern := some p
                   rings := { x.rings with dBase := base, dLog2 := log2, dTail := tail, dCount := 0, dKept := [] } }
        s1.accept c w fun e => { e with t0 := p.t0 }

/-- The lowest serving slot that no sequence holds. -/
def Pattern.freeSlot (p : Pattern) : Nat :=
  ((List.range 257).find? fun i => !(p.seqs.any fun q => q.slot == i)).getD 256

/-- The version that a join at period `n` will be pinned to. -/
def pinAt (p : Pattern) (ms : List Model) (n : Nat) : Option Model := currentModel (modelsAt p ms n)

/-- Is a join record well formed against the pattern and its prompt tensor (R299)? -/
def State.joinShape (s : State) (c : CtxId) (bs : List Byte) (p : Pattern) (t : Tensor) : Bool :=
  let len := field bs 40 4
  let most := field bs 44 4
  packed bs 56 && gap bs 4 8 && decide (1 ≤ len ∧ len ≤ 262143 ∧ 1 ≤ most ∧ most ≤ 262144 - len)
    && !(p.seqs.any fun q => q.id == BitVec.ofNat 32 (field bs 0 4)) && t.fmt == .int32 && decide (len ≤ t.rows * t.cols)
    && !(isSram t.base) && s.reachable c t.extents

/-- Judge a join record (R299 to R301, R307, R314). -/
def State.judgeJoin (s : State) (c : CtxId) (bs : List Byte) (w : Who) : State :=
  let x := s.ctx c
  let id := BitVec.ofNat 32 (field bs 0 4)
  let len := field bs 40 4
  let most := field bs 44 4
  match x.pattern, parseTensor (slice bs 8 32) with
  | some p, some t =>
    let n := p.indexAt (s.clk.now + 20000)
    if !(s.joinShape c bs p t) then s.deny c w badShape
    else if x.role ≠ .serving then s.deny c w badRole
    else if p.stopping.isSome then s.deny c w { code := .refusedRole, reason := .stopping }
    else if x.models.any fun m => m.resident && !m.current && m.drainStep.isNone && m.quiesce then
      s.deny c w (Deny.memory .quiescing 0)
    else match pinAt p x.models n with
      | none => s.deny c w badShape
      | some m =>
        let q : Seqn := { id := id, prompt := slice bs 8 32, promptLen := len, maxNew := most
                          sampling := BitVec.ofNat 64 (field bs 48 8), joinAt := n, joined := false, version := m.version
                          slot := p.freeSlot, prefilled := 0, produced := 0, leaving := none, lostAt := none }
        match joinTest p x.models (p.seqs ++ [q]) with
        | .error d => s.deny c w d
        | .ok free =>
          let first := queueEnd x.models m.profile (p.seqs ++ [q]) p.next - 1
          let s1 := (s.adopt c t.extents).modCtx c fun x =>
            { x with pattern := some { p with seqs := p.seqs ++ [q] } }
          s1.accept c w fun e => { e with step := first, version := m.version.toNat, index := q.slot, shortfall := free.1, t0 := free.2 }
  | _, _ => if x.role ≠ .serving then s.deny c w badRole else s.deny c w badShape

/-- Judge a leave record: it takes effect at a T0 as a join does (R302). -/
def State.judgeLeave (s : State) (c : CtxId) (bs : List Byte) (w : Who) : State :=
  let x := s.ctx c
  let id := BitVec.ofNat 32 (field bs 0 4)
  match if packed bs 4 then x.pattern else none with
  | none => s.deny c w (if x.role = .serving ∨ !packed bs 4 then badShape else badRole)
  | some p =>
    if p.seqs.any fun q => q.id == id then
      let n := p.indexAt (s.clk.now + 20000)
      let seqs := p.seqs.map fun q => if q.id = id ∧ q.leaving.isNone then { q with leaving := some n } else q
      (s.accept c w fun e => { e with step := n }).modCtx c fun x => { x with pattern := some { p with seqs := seqs } }
    else s.deny c w badShape

/-- Judge a STOP record (R314): the pattern ends at once when it serves nobody. -/
def State.judgeStop (s : State) (c : CtxId) (bs : List Byte) (w : Who) : State :=
  let x := s.ctx c
  let drain := field bs 0 4
  match if packed bs 4 && decide (drain ≤ 1048575) then x.pattern else none with
  | none => s.deny c w (if x.role = .serving ∨ !packed bs 4 then badShape else badRole)
  | some p =>
    let s1 := (s.accept c w id).modCtx c fun x =>
      { x with pattern := some { p with stopping := some ((p.stopping.map fun k => min k (p.next + drain)).getD (p.next + drain)) } }
    if p.seqs.isEmpty then s1.endPattern c else s1

/-- The length of a manifest without its signature and with it; none where CHUNK_COUNT or PARAM_SET is out of range (R308). -/
def manifestLen (chunks param : Nat) : Option (Nat × Nat) :=
  if chunks < 1 ∨ 15360 < chunks then none
  else match param with
    | 1 => some (128 + 32 * chunks, 128 + 32 * chunks + 7856)
    | 2 => some (128 + 32 * chunks, 128 + 32 * chunks + 16224)
    | 3 => some (128 + 32 * chunks, 128 + 32 * chunks + 29792)
    | _ => none

/-- A manifest's signature failed: counted (R434). -/
def State.failVerify (s : State) : State := { s with sec := { s.sec with failed := satInc s.sec.failed } }

/-- A refusal with REFUSED_SIGNATURE. -/
def badSignature : Deny := { code := .refusedSignature }

/-- Judge a manifest record: a manifest of a known length within reach goes to the verifier (R308, R433). -/
def State.judgeManifest (s : State) (c : CtxId) (bs : List Byte) (w : Who) : State :=
  let x := s.ctx c
  let a := field bs 0 8
  let v := s.judgeView
  if !(packed bs 8) || a % 64 != 0 || !(s.reachable c [(a, 128)]) then s.deny c w badShape
  else if x.role ≠ .serving then s.deny c w badRole
  else match manifestLen (leNat (View.bytes v (a + 16) 4)) (v (a + 20)).toNat with
    | none => s.failVerify.deny c w badSignature
    | some n =>
      if !(s.reachable c [(a, n.2)]) then s.deny c w badShape
      else
        let q : Verify := { ctx := c, addr := a, bytes := View.bytes v a n.2, tag := w.tag, seq := w.seq, client := w.client
                            keys := if s.sec.queue.isEmpty then some s.sec.keys else none }
        { s with sec := { s.sec with queue := s.sec.queue ++ [q] } }

/-- The slot of a key table that holds the key of a digest, with its parameter set and bytes. -/
def keySlotOf (ks : Vector (Option Key) 16) (id : BitVec 256) : Option (Fin 16 × Key) :=
  (List.finRange 16).findSome? fun i => ks[i].bind fun k => if sha256 k.bytes = id then some (i, k) else none

/-- The manifest that the verifier accepts (R434). -/
def verified (q : Verify) : Option Manifest :=
  let bs := q.bytes
  let chunks := field bs 16 4
  let total := field bs 8 8
  let n := 128 + 32 * chunks
  match keySlotOf (q.keys.getD (Vector.replicate 16 none)) (digestOf (slice bs 24 32)) with
  | none => none
  | some (i, k) =>
    if field bs 0 4 == 1 && zeroAt bs 21 3 && zeroAt bs 88 40 && chunks == cdiv total Config.chunkBytes
        && k.param == field bs 20 1 && Config.slhVerify k.param k.bytes (bs.take n) (bs.drop n) then
      some { version := BitVec.ofNat 32 (field bs 4 4), addr := q.addr, total := total, chunks := chunks, keySlot := i
             keyId := digestOf (slice bs 24 32), body := sha256 (bs.take n), name := sha256 (bs.take 128)
             layout := digestOf (slice bs 56 32) }
    else none

/-- A profile entry (R298). -/
def parseProfile (bs : List Byte) : Option Profile :=
  let f : Profile := { grade := field bs 0 1, wchg := field bs 8 8, fb := field bs 16 8, kvr := field bs 24 8, kvt := field bs 32 8
                       kvw := field bs 40 8, kvp := field bs 48 8, kvblk := field bs 56 8, pfq := field bs 64 4
                       pfqc := field bs 68 4, tfix := field bs 72 8, tseq := field bs 80 8, tctx := field bs 88 8
                       ttok := field bs 96 8, eos := BitVec.ofNat 32 (field bs 104 4) }
  if zeroAt bs 1 7 && zeroAt bs 108 4 && decide (1 ≤ f.grade ∧ f.grade ≤ 192 ∧ 262144 ≤ f.pfqc) then some f else none

/-- The fields of a load record. -/
structure LoadRec where
  version : BitVec 32
  profile : Profile
  base    : Nat
  first   : Nat
  count   : Nat
  last    : Bool
  holders : List Nat
  quiesce : Bool
  drain   : Nat
  wait    : Ns
  layout  : List Byte
deriving DecidableEq, Repr

/-- Read a load record (R306); the list of tensor descriptors that LAYOUT_DIGEST covers follows its fields (log entry 44). -/
def parseLoad (bs : List Byte) : Option LoadRec :=
  match parseProfile (slice bs 8 112) with
  | none => none
  | some f =>
    let n := field bs 136 4
    let o := 140 + 2 * n
    let d := alignUp (o + 1) 4
    let wAt := alignUp (d + 4) 8
    let k := field bs (wAt + 8) 4
    let ls := alignUp (wAt + 12) 8
    let r : LoadRec :=
      { version := BitVec.ofNat 32 (field bs 0 4), profile := f, base := field bs 120 8, first := field bs 128 2
        count := field bs 130 2, last := field bs 132 1 == 1, holders := (List.range (min n 64)).map fun i => field bs (140 + 2 * i) 2
        quiesce := field bs o 1 == 1, drain := field bs d 4, wait := field bs wAt 8, layout := slice bs ls (32 * k) }
    if packed bs (ls + 32 * k) && gap bs 4 8 && gap bs 133 136 && gap bs (o + 1) d && gap bs (d + 4) wAt && gap bs (wAt + 12) ls
        && decide (1 ≤ n ∧ n ≤ 64 ∧ field bs 132 1 ≤ 1 ∧ field bs o 1 ≤ 1 ∧ r.drain ≤ 1048575)
        && decide (100000 ≤ r.wait ∧ r.wait ≤ 100000000 ∧ 1 ≤ r.count) then some r
    else none

/-- The versions with a first part's version among them, charged by the mode that the part names. -/
def withLoading (ms : List Model) (r : LoadRec) (m : Manifest) : List Model :=
  let loading : Model := { version := r.version, profile := r.profile, base := r.base, total := m.total, count := m.chunks, chunks := []
                           resident := false, current := false, since := 0, quiesce := r.quiesce, drain := r.drain, switchBy := 0
                           drainStep := none, name := m.name }
  if ms.any fun k => k.version == r.version then
    ms.map fun k => if k.version = r.version then { k with quiesce := r.quiesce } else k
  else ms ++ [loading]

/-- The grade and memory tests of a load part (R312). -/
def State.loadRoom (s : State) (c : CtxId) (r : LoadRec) (rs : List Range) (t : Step) : Option Deny :=
  let x := s.ctx c
  if s.grade < r.profile.grade then some { code := .refusedGrade }
  else if x.load.isSome || (x.models.filter (·.resident)).length == 2
      || (x.models.any fun m => (m.version == r.version && m.resident) || (m.version != r.version && !m.resident)) then
    some (Deny.memory .versions 0)
  else if 0 < s.capacityShort c rs then some (Deny.memory .capacity (s.capacityShort c rs))
  else s.groupShort c t.wholeSpan

/-- The chunks that a load part names, and their extents in the model's region. -/
def LoadRec.chunkIds (r : LoadRec) : List Nat := (List.range r.count).map fun i => r.first + i
def LoadRec.extents (r : LoadRec) (m : Manifest) : List (Nat × Nat) := chunkRanges r.base m.total r.chunkIds

/-- The step that a load part becomes, with its write set. -/
def State.loadStep (s : State) (r : LoadRec) (m : Manifest) (w : Who) : Step :=
  let ps := writeSet (pageRanges (r.extents m) .committed) (r.extents m)
  s.innerStep .load 0#64 ps.1 ps.2 w

/-- The bytes of a manifest up to its signature, as they stand in memory. -/
def State.manifestBody (s : State) (m : Manifest) : List Byte := View.bytes s.judgeView m.addr (128 + 32 * m.chunks)

/-- The tests of a load part whose manifest is known (R306 to R308, R312): the first that fails decides. -/
def State.refuseLoad (s : State) (c : CtxId) (r : LoadRec) (m : Manifest) (t : Step) : Option Deny :=
  let x := s.ctx c
  let exts := r.extents m
  let rs := pageRanges exts .committed
  let done := ((x.models.find? fun k => k.version == r.version).map (·.chunks)).getD []
  let keyThere := (s.sec.keys[m.keySlot].map fun k => sha256 k.bytes == m.keyId).getD false
  let overlap := !r.quiesce && match x.pattern with
    | some p => match joinTest p (withLoading x.models r m) p.seqs with
      | .ok _ => false
      | .error _ => true
    | none => false
  if m.chunks < r.first + r.count || r.holders.length == 0 || x.job.tag == 0#32
      || (r.holders.any fun h => decide (x.job.count ≤ h)) || !(exts.all fun e => decide (e.1 + e.2 ≤ s.usable))
      || (rs.any fun q => x.heldRanges.any fun h => q.meets h && h.kind != .committed)
      || ((x.models.find? fun k => k.version == r.version).map fun k => k.base != r.base).getD false
      || (r.last && !((List.range m.chunks).all fun i => r.chunkIds.contains i || done.contains i)) then
    some badShape
  else if x.role ≠ .serving then some badRole
  else if !keyThere || sha256 (s.manifestBody m) != m.body || sha256 r.layout != m.layout then some badSignature
  else match s.loadRoom c r rs t with
    | some d => some d
    | none => if overlap then some { code := .refusedDeadline, reason := .overlap } else none

/-- Judge a load part (R306 to R308, R312). -/
def State.judgeLoad (s : State) (c : CtxId) (bs : List Byte) (w : Who) : State :=
  let x := s.ctx c
  match parseLoad bs with
  | none => s.denyStep c w badShape 0
  | some r =>
    match x.manifests.find? fun m => m.version == r.version with
    | none => s.denyStep c w (if x.role = .serving then badSignature else badRole) 0
    | some m =>
      let t := s.loadStep r m w
      match s.refuseLoad c r m t with
      | some d => s.denyStep c w d 0
      | none =>
        let body := s.manifestBody m
        let fetches : List Fetch := r.chunkIds.map fun i =>
          { chunk := i, len := chunkBytesOf m.total i, digest := digestOf (slice body (128 + 32 * i) 32)
            holder := i % r.holders.length, tries := 0, asked := 0, pieces := [], done := false }
        let s1 := (s.addStep c t [] []).acceptStep c t
        s1.modCtx c fun x =>
          { x with models := withLoading x.models r m
                   load := some { uid := t.uid, version := r.version, base := r.base, lastPart := r.last, quiesce := r.quiesce
                                  drain := r.drain, wait := r.wait, holders := r.holders, fetches := fetches } }

end Sys2Proof.Machine
end

