-- ==== Sys2Proof/Machine/Retire.lean ====
section
/-! DEFINITION. Units that fail (R11 to R13, R76, R122, R141, R158, R160, R347, R372, R416): what their loss takes with it, the remap of a
cluster to an Oxbow, and the effective grade. -/

namespace Sys2Proof.Machine

/-! ### Names of units (R361, key 6) -/

/-- Physical die, region, cluster, core, engine kind, index. A figure that a unit does not have is 0. -/
def unitName : HwUnit → List Nat
  | .array c k i => [(dieOf (regionOf c)).val, (regionOf c).val, c.val, k.val, 1, i.val]
  | .cluster c => [(dieOf (regionOf c)).val, (regionOf c).val, c.val, 0, 0, 0]
  | .region r => [(dieOf r).val, r.val, 0, 0, 0, 0]
  | .die d => [d.val, 0, 0, 0, 0, 0]
  | .dmaChannel x ch => [x.val / 2, x.val, 0, 0, 3, ch.val]
  | .requestLine x l => [x.val / 2, x.val, 0, 0, 3, 32 + l.val]
  | .agent r => [(dieOf r).val, r.val, 0, 0, 5, r.val]
  | .laneGroup g => [2, 0, 0, 0, 5, 8 + g.val]
  | .shaEngine e => [2, 0, 0, 0, 0, e.val]
  | .d2dModule m => [0, 0, 0, 0, 0, m.val]
  | .fordModule d m => [d.val, 0, 0, 0, 0, 64 + m.val]
  | .hbmChannel c => [c.val / 128, 0, 0, 0, 0, c.val]
  | .device => [0, 0, 0, 0, 0, 0]

/-- The unit that an engine's failure names (R347, R372): a core's or cluster's engine stands for its cluster. -/
def State.engineUnit (s : State) : Engine → Option HwUnit
  | .matrix n | .vector n => (s.physCluster? (n / 2)).map HwUnit.cluster
  | .update n => (s.physCluster? n).map HwUnit.cluster
  | .dma x ch => if h : x < 5 ∧ ch < 32 then some (.dmaChannel ⟨x, h.1⟩ ⟨ch, h.2⟩) else none
  | .coll a => if h : a < 4 then some (.agent ⟨a, h⟩) else none

/-- The name of an engine (R361). -/
def State.engineName (s : State) (e : Engine) : List Nat :=
  match e with
  | .matrix n | .vector n =>
    match s.physCluster? (n / 2) with
    | some c => [(dieOf (regionOf c)).val, (regionOf c).val, c.val, n % 2, engineKind e, 0]
    | none => [0, 0, 0, n % 2, engineKind e, 0]
  | .update n =>
    match s.physCluster? n with
    | some c => [(dieOf (regionOf c)).val, (regionOf c).val, c.val, 0, 4, 0]
    | none => [0, 0, 0, 0, 4, 0]
  | .dma x ch => [x / 2, x, 0, 0, 3, ch]
  | .coll a => [a / 2, a, 0, 0, 5, a]

/-! ### SRAM that moves with its cluster (R122) -/

/-- The logical cluster whose SRAM an address lies in, when it lies in one. -/
def sramCluster (a : Nat) : Option Nat :=
  match spaceOf a with
  | some .bed => let b := (a - bedBase 0) / 2 ^ 24; if b < 24 then some b else none
  | some .core => some ((a - coreBase 0) / 2 ^ 23)
  | _ => none

/-- An address after the logical clusters have moved; none where its cluster has no number any more. -/
def moveAddr (f : Nat → Option Nat) (a : Nat) : Option Nat :=
  match sramCluster a with
  | none => some a
  | some n => (f n).map fun m => if a < coreBase 0 then a - n * 2 ^ 24 + m * 2 ^ 24 else a - n * 2 ^ 23 + m * 2 ^ 23

/-- Cut a range at every multiple of 4 MiB. -/
def cutRange : Nat → Nat → Nat → List (Nat × Nat)
  | 0, a, n => [(a, n)]
  | fuel + 1, a, n =>
    let k := 2 ^ 22 - a % 2 ^ 22
    if n ≤ k then [(a, n)] else (a, k) :: cutRange fuel (a + k) (n - k)

/-- Move the contents of SRAM. -/
def Mem.move (m : Mem) (f : Nat → Option Nat) : Mem :=
  { m with
    cells := m.cells.foldl (fun acc c => match moveAddr f c.1 with
      | some a => writeCell acc a c.2
      | none => acc) []
    undef := m.undef.flatMap fun u =>
      if u.1 < 2 ^ 44 then [u]
      else (cutRange 128 u.1 u.2.1).filterMap fun r => (moveAddr f r.1).map fun a => (a, r.2, u.2.2)
    poison := m.poison.filterMap (moveAddr f) }

/-- The SRAM of a logical cluster: its bank and both cores. -/
def clusterSram (n : Nat) : List (Nat × Nat) := [(bedBase n, 2 ^ 24), (coreBase (2 * n), 2 ^ 23)]

/-! ### Logical numbers -/

/-- Number the active clusters in ascending physical order (R122). An Oxbow that replaces a cluster keeps the number it took: `at_`
gives the place in the order of the cluster that each physical cluster stands for. -/
def renumber (use : Vector ClusterUse 28) (at_ : Fin 28 → Nat) : Vector ClusterUse 28 :=
  let active := ((List.finRange 28).filter fun c => match use[c] with
    | .logical _ => true
    | _ => false).mergeSort fun a b => decide (at_ a ≤ at_ b)
  Vector.ofFn fun c => match use[c] with
    | .logical _ => .logical (active.findIdx (· == c))
    | u => u

/-- The place of a cluster in the order of R122: its old logical number, for one that has one. -/
def placeOf (use : Vector ClusterUse 28) (c : Fin 28) : Nat :=
  match use[c] with
  | .logical n => n
  | _ => 28 + c.val

/-- The physical cluster of a logical number. -/
def physIn (use : Vector ClusterUse 28) (n : Nat) : Option (Fin 28) := (List.finRange 28).find? fun i => use[i] == .logical n

/-- Adopt a new use of the clusters: SRAM contents follow their cluster, an Oxbow that takes a number brings undefined contents, and a
context loses what its SRAM carries when any of its clusters moved (R122, R124). -/
def State.adoptUse (s : State) (new : Vector ClusterUse 28) : State :=
  let old := s.hw.use
  let f (n : Nat) : Option Nat := (physIn old n).bind fun c => match new[c] with
    | .logical m => some m
    | _ => none
  let moved := (List.range 24).filter fun n => physIn old n != physIn new n
  let fresh := (List.range 24).filter fun n => (physIn new n).isSome && !((List.range 24).any fun k => f k == some n)
  let m1 := if moved.isEmpty then s.mem else s.mem.move f
  let m2 := (fresh.flatMap clusterSram).foldl (fun m r => m.forget r.1 r.2) m1
  let s1 : State := { s with mem := m2, hw := { s.hw with use := new } }
  s1.forCtx fun t c => t.modCtx c fun x =>
    let touched := x.alloc.any (fun r => (sramCluster r.start).any fun n => moved.contains n)
    if touched then { x with carryOk := false } else x

/-! ### The effective grade (R13, R416) -/

/-- The figures of the effective grade. -/
def State.gradeNow (s : State) : Nat × Nat × Nat := (s.grade, (s.oxbows 0).length, (s.oxbows 1).length)

/-- A change of the effective grade: a grade entry, vector 0, a record of KIND 6, and M2 (R435). -/
def State.gradeChanged (s : State) : State :=
  if s.boot.lastGrade = s.gradeNow then s
  else
    let g := s.gradeNow
    let s1 := (s.journal (.grade g.1 g.2.1 g.2.2)).record { Sig.empty 6 with effect := s.effect }
    let s2 : State := { s1 with boot := { s1.boot with
      lastGrade := g, below := decide (g.1 < s1.fuse.arrays) || decide (g.2.1 + g.2.2 < s1.fuse.oxbows) } }
    (s2.measure 2 (sha256 (leBytes 4 s2.bootGrade.toNat))).msixBoth 0

/-- Record a retirement in the field journal, unless it is there already. -/
def State.journalRetire (s : State) (u : HwUnit) : State :=
  let there (b : JBody) : Bool := match b with
    | .retirement v _ => v == u
    | _ => false
  if (s.boot.queue ++ s.boot.journal.map (·.body)).any there then s else s.journal (.retirement u s.jnow)

/-! ### Clusters (R11, R12) -/

/-- The Oxbow that takes a failed cluster's place: its region's own, else the die's other one, while the die keeps its last. -/
def State.spareFor (s : State) (c : Fin 28) : Option (Fin 28) :=
  let d := dieOf (regionOf c)
  let ox := s.oxbows d
  if ox.length < 2 then none
  else (ox.find? fun o => regionOf o == regionOf c).orElse fun _ => ox.head?

/-- A cluster has failed: a remap when one is in hand, else it is retired. A failed Oxbow is out of use (R354). -/
def State.failCluster (s : State) (c : Fin 28) : State :=
  match s.hw.use[c] with
  | .out => s
  | .checker => State.journalRetire { s with hw := { s.hw with use := s.hw.use.set c .out } } (.cluster c)
  | .logical n =>
    match s.spareFor c with
    | some o => (s.adoptUse ((s.hw.use.set c .out).set o (.logical n))).journal (.remap c o)
    | none =>
      (s.adoptUse (renumber (s.hw.use.set c .out) (placeOf s.hw.use))).journalRetire (.cluster c)

/-- Live arrays of a core. -/
def State.liveArrays (s : State) (core : Fin 56) : Nat := popcount (s.hw.live[core]).toNat 4

/-- An array is retired (R76): the second one of its core fails the cluster, and an Oxbow fails below six live arrays (R347). -/
def State.failArray (s : State) (c : Fin 28) (k : Fin 2) (i : Fin 4) : State :=
  let core : Fin 56 := ⟨2 * c.val + k.val, by omega⟩
  let other : Fin 56 := ⟨2 * c.val + (1 - k.val), by omega⟩
  let s1 : State := { s with hw := { s.hw with live := s.hw.live.set core (s.hw.live[core] &&& ~~~(1#4 <<< i.val)) } }
  let s2 := s1.journalRetire (.array c k i)
  match s2.hw.use[c] with
  | .checker => if s2.liveArrays core + s2.liveArrays other < 6 then s2.failCluster c else s2
  | .logical _ => if s2.liveArrays core < 3 then s2.failCluster c else s2
  | .out => s2

/-! ### HBM channels (R158, R160, R161) -/

/-- Stop admitting and abort what has not started (R160). -/
def State.haltAdmission (s : State) : State :=
  let s1 : State := { s with slu := { s.slu with admitting := false } }
  s1.unstarted.foldl (fun u p => if ((u.ctx p.1).step? p.2.uid).isSome then u.abortStep p.1 p.2.uid .abortedFault .capacityLost 0 else u) s1

/-- A channel is declared lost: recorded, and a migration begins; none runs for a seventeenth (R161). -/
def State.loseChannel (s : State) (c : Fin 256) : State :=
  if s.hbm.chans[c].lost then s
  else
    let s1 : State := { s with hbm := { s.hbm with
      chans := s.hbm.chans.set c { s.hbm.chans[c] with lost := true, suspect := false }, lastFailed := c.val } }
    let set := (List.range 256).filter fun i => match s1.hbm.chans[i]? with
      | some ch => ch.lost
      | none => false
    let s2 := (s1.journal (.chanLost c.val set)).record { Sig.empty 7 with
      unit := unitName (.hbmChannel c), effect := s1.effect }
    if 17 ≤ s2.lostCount then
      let s3 : State := match s2.hbm.migration with
        | .declared _ => { s2 with
            hbm := { s2.hbm with migration := .none }, slu := { s2.slu with admitting := s2.weir.ready && !s2.pwr.trip } }
        | _ => s2
      s3.retestAll .hbmLost
    else
      let m : Migration := match s2.hbm.migration with
        | .none => .declared s2.clk.now
        | m => m
      State.haltAdmission { s2 with hbm := { s2.hbm with migration := m } }

/-! ### Bridges (R185) -/

/-- Set the state of a module. -/
def State.setModule (s : State) (m : Module) (st : ModState) : State :=
  match m with
  | .d2d i => { s with dma := { s.dma with d2d := s.dma.d2d.set i st } }
  | .ford d i => { s with dma := { s.dma with ford := s.dma.ford.set d (s.dma.ford[d].set i st) } }

/-- The state of a module. -/
def State.module (s : State) : Module → ModState
  | .d2d i => s.dma.d2d[i]
  | .ford d i => s.dma.ford[d][i]

/-- A module is lost for good: recorded, and rates are scaled. -/
def State.loseModule (s : State) (m : Module) : State :=
  if s.module m = .lost then s else ((s.setModule m .lost).journal (.modLost m)).retestAll .bridgeLost

/-! ### Units out of use (R347, R372, R413) -/

/-- Every physical cluster of a region. -/
def clustersOf (r : Fin 4) : List (Fin 28) := (List.finRange 28).filter fun c => regionOf c == r

/-- A region is retired: all seven of its clusters (R372). -/
def State.failRegion (s : State) (r : Fin 4) : State :=
  let use := (clustersOf r).foldl (fun u c => u.set c .out) s.hw.use
  (s.adoptUse (renumber use (placeOf s.hw.use))).journalRetire (.region r)

/-- A unit's loss takes effect. -/
def State.takeOut (s : State) (u : HwUnit) : State :=
  match u with
  | .array c k i => s.failArray c k i
  | .cluster c => s.failCluster c
  | .region r => s.failRegion r
  | .die d => ((List.finRange 4).filter fun r => dieOf r == d).foldl State.failRegion s
  | .dmaChannel x ch => State.journalRetire { s with hw := { s.hw with chanDown := (x, ch) :: s.hw.chanDown } } u
  | .requestLine x l => { s with hw := { s.hw with lineDown := (x, l) :: s.hw.lineDown } }
  | .agent r => State.journalRetire { s with hw := { s.hw with agentDown := r :: s.hw.agentDown } } u
  | .laneGroup g => State.journalRetire { s with hw := { s.hw with lanes := s.hw.lanes &&& ~~~(1#8 <<< g.val) } } u
  | .shaEngine e => State.journalRetire { s with hw := { s.hw with sha := s.hw.sha &&& ~~~(1#32 <<< e.val) } } u
  | .d2dModule m => s.loseModule (.d2d m)
  | .fordModule d m => s.loseModule (.ford d m)
  | .hbmChannel c => s.loseChannel c
  | .device => State.journalRetire { s with hw := { s.hw with retired := true } } .device

/-- A unit is to leave service at the next step boundary. -/
def State.retireSoon (s : State) (u : HwUnit) : State :=
  if s.hw.pendingOut.contains u then s else { s with hw := { s.hw with pendingOut := s.hw.pendingOut ++ [u] } }

/-- Do running steps use a unit? Its loss waits for their end: the step boundary of R347. -/
def State.unitBusy (s : State) (u : HwUnit) : Bool :=
  let uses (e : Engine) : Bool := match u with
    | .array c _ _ | .cluster c => s.engineUnit e == some (.cluster c)
    | .region r => s.engineRegion e == some r
    | .die d => (s.engineRegion e).any fun r => dieOf r == d
    | .laneGroup _ => engineKind e == 5
    | .device => true
    | _ => s.engineUnit e == some u
  allCtx.any fun c => (s.ctx c).steps.any fun t => t.state == .running && t.cmds.any fun k => uses k.entry.engine

/-- A unit leaves service: its record of KIND 5 carries what is left. -/
def State.retireUnit (s : State) (u : HwUnit) : State :=
  let s1 := s.takeOut u
  s1.record { Sig.empty 5 with unit := unitName u, effect := s1.effect }

/-- A step boundary (R347): the units whose loss waits and that no running step uses leave service, the effective grade changes, and
admitted work is tested again (R55). -/
def execStepBoundaryRetirement (s : State) : Host.Outcome State Fault Refusal :=
  .next <| s.whenUp fun s =>
    let due := s.hw.pendingOut.filter fun u => !s.unitBusy u
    if due.isEmpty then s
    else
      let s1 : State := { s with hw := { s.hw with pendingOut := s.hw.pendingOut.filter fun u => s.unitBusy u } }
      ((due.foldl State.retireUnit s1).gradeChanged).retestAll .capacityLost

/-- A miss of a unit (R372): journalled; the second within 24 h of journal time retires it in the journal, and it leaves service at the
next step boundary. -/
def State.missUnit (s : State) (name : List Nat) (u : HwUnit) (rung : Nat) : State :=
  let recent := s.rcv.missLog.any fun m => m.1 == name && m.2.1 == rung && decide (s.jnow < m.2.2 + 86400)
  let s1 := State.journal { s with rcv := { s.rcv with missLog := (name, rung, s.jnow) :: s.rcv.missLog } } (.miss name rung s.jnow)
  if recent then
    (State.journalRetire { s1 with rcv := { s1.rcv with retires := satInc s1.rcv.retires } } u).retireSoon u
  else s1

end Sys2Proof.Machine
end

