-- ==== Sys2Proof/Machine/Cbor.lean ====
section
/-! DEFINITION. Failure-signature records as bytes (R360, R361): RFC 8949 in core deterministic encoding. -/

namespace Sys2Proof.Machine

/-- Big-endian bytes. -/
def beBytes (n v : Nat) : List Byte := (leBytes n v).reverse

/-- The head of a data item in its shortest form. -/
def cborHead (major n : Nat) : List Byte :=
  let m := major * 32
  if n < 24 then [BitVec.ofNat 8 (m + n)]
  else if n < 2 ^ 8 then BitVec.ofNat 8 (m + 24) :: beBytes 1 n
  else if n < 2 ^ 16 then BitVec.ofNat 8 (m + 25) :: beBytes 2 n
  else if n < 2 ^ 32 then BitVec.ofNat 8 (m + 26) :: beBytes 4 n
  else BitVec.ofNat 8 (m + 27) :: beBytes 8 n

/-- An unsigned integer. -/
def cborUint (n : Nat) : List Byte := cborHead 0 n

/-- A byte string. -/
def cborBytes (bs : List Byte) : List Byte := cborHead 2 bs.length ++ bs

/-- An array of encoded items. -/
def cborArray (items : List (List Byte)) : List Byte := cborHead 4 items.length ++ items.flatten

/-- A map with unsigned keys; its entries stand in ascending order of their keys. -/
def cborMap (entries : List (Nat × List Byte)) : List Byte :=
  cborHead 5 entries.length ++ entries.flatMap fun e => cborUint e.1 ++ e.2

/-- A map of unsigned integers. -/
def cborCounts (ps : List (Nat × Nat)) : List Byte := cborMap (ps.map fun p => (p.1, cborUint p.2))

/-- EFFECT: key 4 is an array, the others are integers. -/
def cborEffect (ps : List (Nat × List Nat)) : List Byte :=
  cborMap (ps.map fun p => (p.1, if p.1 = 4 then cborArray (p.2.map cborUint) else cborUint (p.2.headD 0)))

/-- The entries of a record, keys ascending. `whole` includes keys 12 and 14. DEVICE is the control address, little-endian (DESIGN CHOICE,
log entry 83). -/
def sigEntries (device : BitVec 64) (whole : Bool) (g : Sig) : List (Nat × List Byte) :=
  let opt {α : Type} (k : Nat) (v : Option α) (f : α → List Byte) : List (Nat × List Byte) := match v with
    | some a => [(k, f a)]
    | none => []
  let list {α : Type} (k : Nat) (v : List α) (f : List α → List Byte) : List (Nat × List Byte) := if v.isEmpty then [] else [(k, f v)]
  [(1, cborUint g.kind), (2, cborUint g.seq), (3, cborBytes (leBytes 8 device.toNat)), (4, cborUint g.time)]
  ++ opt 5 g.cls cborUint
  ++ list 6 g.unit (fun u => cborArray (u.map cborUint))
  ++ opt 7 g.ctx (fun c => cborArray [cborUint c.1, cborUint c.2])
  ++ opt 8 g.step cborUint
  ++ opt 9 g.job (fun j => cborArray [cborUint j.1, cborUint j.2.1, cborUint j.2.2])
  ++ opt 10 g.outcome cborUint
  ++ opt 11 g.window (fun w => cborArray [cborUint w.1, cborUint w.2])
  ++ (if whole then list 12 g.serving (fun v => cborArray (v.map fun p => cborArray [cborUint p.1, cborUint p.2])) else [])
  ++ list 13 g.detail cborCounts
  ++ (if whole then opt 14 g.evidence cborBytes else [])
  ++ opt 15 g.evstate cborUint
  ++ list 16 g.counts cborCounts
  ++ opt 17 g.suspect (fun v => cborArray [cborUint v.1, cborUint v.2.1, cborUint v.2.2.1, cborUint v.2.2.2])
  ++ list 18 g.effect cborEffect
  ++ opt 19 g.refers cborUint

/-- The self-described tag 55799, and the record's map. -/
def sigBytes (device : BitVec 64) (whole : Bool) (g : Sig) : List Byte := cborHead 6 55799 ++ cborMap (sigEntries device whole g)

end Sys2Proof.Machine
end

