-- ==== Sys2Proof/Machine/Records.lean ====
section
/-! DEFINITION. Intake windows (R317 to R324): record bytes, the seal, the judgement of each record in its window's order, and the
step records. -/

namespace Sys2Proof.Machine

/-! ### Windows (R317 to R321) -/

/-- Bytes of an intake window. -/
def windowBytes : Nat := 65536

/-- The bytes of a record (R318): header, payload and trailer. -/
def recordBytes (typ : Nat) (r : RecordIn) : List Byte :=
  leBytes 1 typ ++ leBytes 1 r.flags.toNat ++ leBytes 2 r.length.toNat ++ leBytes 1 r.client.toNat ++ leBytes 3 r.hdrZero.toNat
    ++ leBytes 8 r.tag.toNat ++ r.payload ++ leBytes 4 r.seq.toNat ++ leBytes 4 r.sealWd.toNat ++ leBytes 4 r.trlZero.toNat
    ++ leBytes 4 r.crc.toNat

/-- Does an offset lie in `[start, start + len)` modulo the window? -/
def inWindow (start len off : Nat) : Bool := decide ((off + windowBytes - start % windowBytes) % windowBytes < len)

/-- Forget the bytes of a part of a window. -/
def wipeWindow (w : List Host.Cell) (start len : Nat) : List Host.Cell := w.filter fun c => !inWindow start len c.1

/-- Bytes placed in a window at consecutive offsets modulo its size. -/
def placeWindow (w : List Host.Cell) (start : Nat) (bs : List Byte) : List Host.Cell :=
  wipeWindow w start bs.length ++ bs.zipIdx.map fun p => ((start + p.2) % windowBytes, p.1)

/-- The bytes from an offset on, if every one of them has been written. -/
def windowRead (w : List Host.Cell) (start len : Nat) : Option (List Byte) :=
  (List.range len).mapM fun i => (w.find? fun c => c.1 == (start + i) % windowBytes).map (·.2)

/-- Why a record is dropped, coded as in CTX_ERRn (R341). -/
inductive Drop where
  | length
  | sealWord
  | crc
  | seq
  | unbound
deriving DecidableEq, Repr

/-- The code of a drop. -/
def Drop.code : Drop → Nat
  | .length => 1
  | .sealWord => 2
  | .crc => 3
  | .seq => 4
  | .unbound => 5

/-- Judge the frame of a complete record (R319): its SEAL, CRC and SEQ, and whether an unbound context may take it. -/
def frameDrop (x : Ctx) (bs : List Byte) : Option Drop :=
  let n := bs.length
  if field bs (n - 12) 4 ≠ Config.sealWord.toNat then some .sealWord
  else if field bs (n - 4) 4 ≠ (crc32c (bs.take (n - 4))).toNat then some .crc
  else if field bs (n - 16) 4 ≠ x.regs.seq.toNat then some .seq
  else if x.unbound ∧ field bs 0 1 ≠ 4 then some .unbound
  else none

/-- Drop a record (R319): nothing advances, and its bytes are to be written again. -/
def State.dropRecord (s : State) (c : CtxId) (d : Drop) (len : Nat) : State :=
  let s1 := s.modCtx c fun x =>
    { x with regs := { x.regs with drops := satNat 8 (x.regs.drops + 1), lastDrop := d.code
                                   window := wipeWindow x.regs.window x.regs.consumed.toNat len } }
  { s1 with slu := { s1.slu with drops := satInc s1.slu.drops } }

/-! ### Judgement (R322, R324, R327, R331) -/

/-- A record between a STEP_HEAD and END (R324): COMMANDS add their entries, any other type is refused and ends the assembly
(DESIGN CHOICE, log entry 57). With END the step is judged. -/
def State.assemble (s : State) (c : CtxId) (a : Assembly) (end_ : Bool) (w : Who) : State :=
  if end_ then (s.modCtx c fun x => { x with asm := none }).judgeStep c a.header a.entries w
  else s.modCtx c fun x => { x with asm := some a }

/-- Judge a STEP_HEAD or COMMANDS record. -/
def State.judgeStepRecord (s : State) (c : CtxId) (typ : Nat) (bs : List Byte) (end_ : Bool) (w : Who) : State :=
  match (s.ctx c).asm with
  | some a =>
    if typ = 0x11 ∧ bs.length % 64 = 0 then s.assemble c { a with entries := a.entries ++ bs } end_ w
    else (s.modCtx c fun x => { x with asm := none }).denyStep c w badShape (field a.header 0 8)
  | none =>
    if typ = 0x10 ∧ 64 ≤ bs.length ∧ bs.length % 64 = 0 then
      s.assemble c { header := bs.take 64, entries := bs.drop 64 } end_ w
    else s.denyStep c w badShape 0

/-- Judge a record of a context that exists, by its TYPE (R322). -/
def State.judgeType (s : State) (c : CtxId) (typ : Nat) (bs : List Byte) (end_ : Bool) (w : Who) : State :=
  match typ with
  | 0x01 => s.judgeCreate c bs w
  | 0x02 => s.judgeTeardown c bs w
  | 0x03 => s.judgePreempt c bs w
  | 0x04 => s.judgeRebind c bs w
  | 0x10 | 0x11 => s.judgeStepRecord c typ bs end_ w
  | 0x20 => s.judgeEpoch c bs w
  | 0x21 => s.judgeGroups c bs w
  | 0x22 => s.judgePeers c bs w
  | 0x23 => s.judgeTargets c bs w
  | 0x24 => s.judgeMirror c bs w
  | 0x25 => s.judgeRestore c bs w
  | 0x30 => s.judgePattern c bs w
  | 0x31 => s.judgeJoin c bs w
  | 0x32 => s.judgeLeave c bs w
  | 0x33 => s.judgeStop c bs w
  | 0x34 => s.judgeManifest c bs w
  | 0x35 => s.judgeLoad c bs w
  | 0x36 => s.judgeFinal c bs w
  | _ => s.deny c w badShape

/-- Judge an accepted record: header and trailer bits that must be zero, then the context, then the record. -/
def State.judgeRecord (s : State) (c : CtxId) (bs : List Byte) : State :=
  let n := bs.length
  let typ := field bs 0 1
  let w : Who := { seq := BitVec.ofNat 32 (field bs (n - 16) 4), tag := BitVec.ofNat 64 (field bs 8 8)
                   client := BitVec.ofNat 8 (field bs 4 1) }
  let x := s.ctx c
  let payload := slice bs 16 (n - 32)
  if field bs 1 1 / 2 ≠ 0 ∨ field bs 5 3 ≠ 0 ∨ field bs (n - 8) 4 ≠ 0 then
    (s.modCtx c fun x => { x with asm := none }).deny c w badShape
  else if x.state = .tearing ∨ (x.state = .free ∧ typ ≠ 1) then s.deny c w { code := .refusedShape, reason := .noContext }
  else if x.asm.isSome ∧ typ ≠ 0x10 ∧ typ ≠ 0x11 then (s.modCtx c fun x => { x with asm := none }).deny c w badShape
  else s.judgeType c typ payload (field bs 1 1 % 2 == 1) w

/-- May the window's records be judged: Sluice admits, and no manifest of the context is being verified (R321, R433)? While Sluice
does not admit, complete records wait in their window (DESIGN CHOICE, log entry 58). -/
def State.judging (s : State) (c : CtxId) : Bool := s.slu.admitting && !(s.sec.queue.any fun q => q.ctx == c)

/-- A record of `len` bytes is accepted for judgement: CTX_CONSUMEDn and CTX_SEQn advance, and its bytes leave the window (R319). -/
def State.advance (s : State) (c : CtxId) (len : Nat) (rest : List Host.Cell) : State :=
  s.modCtx c fun x =>
    { x with regs := { x.regs with consumed := x.regs.consumed + BitVec.ofNat 32 len, seq := x.regs.seq + 1#32, window := rest } }

/-- Evaluate the record at the window's current position, if it is complete (R319): it is dropped, or counted and judged. The flag says
whether the window still holds bytes. -/
def State.evalOne (s : State) (c : CtxId) : Option (State × Bool) :=
  let x := s.ctx c
  let pos := x.regs.consumed.toNat
  match if s.judging c then windowRead x.regs.window pos 16 else none with
  | none => none
  | some h =>
    let units := field h 2 2
    if units < 2 ∨ 2048 < units then some (s.dropRecord c .length 32768, true)
    else match windowRead x.regs.window pos (16 * units) with
      | none => none
      | some bs =>
        match frameDrop x bs with
        | some d => some (s.dropRecord c d (16 * units), true)
        | none =>
          let rest := wipeWindow x.regs.window pos (16 * units)
          some (((s.advance c (16 * units) rest).judgeRecord c bs).dispatch, !rest.isEmpty)

/-- Evaluate records in order while they are complete. -/
def State.evalWindow (c : CtxId) : Nat → State → State
  | 0, s => s
  | n + 1, s => match s.evalOne c with
    | some t => if t.2 then State.evalWindow c n t.1 else t.1
    | none => s

/-- Every window, ascending: Sluice admits again. -/
def State.evalAll (s : State) : State := s.forCtx fun t c => State.evalWindow c 2048 t

/-- Bytes reach a window (R317, R394): the other host's are discarded and reported, and during a device reset the owner's are
discarded too. -/
def State.windowWrite (s : State) (p : Port) (c : CtxId) (off : Nat) (bs : List Byte) : State :=
  if !s.powered || s.warming || s.cooling || !s.linkUp p then s
  else if s.own.owner ≠ some p then s.discardForeign p
  else State.evalWindow c 2048 (s.modCtx c fun x =>
    { x with regs := { x.regs with window := placeWindow x.regs.window off bs } })

/-- A whole record is written at its window's current position. -/
def State.recordIn (s : State) (typ : Nat) (r : RecordIn) : State :=
  s.windowWrite r.port r.ctx (s.ctx r.ctx).regs.consumed.toNat (recordBytes typ r)

/-! ### The rows -/

/-- CREATE, TYPE 0x01 (R331). -/
def execCreate (r : RecordIn) (s : State) : Host.Outcome State Fault Refusal := .next (s.recordIn 0x01 r)

/-- TEARDOWN, TYPE 0x02 (R337). -/
def execTeardown (r : RecordIn) (s : State) : Host.Outcome State Fault Refusal := .next (s.recordIn 0x02 r)

/-- PREEMPT, TYPE 0x03 (R336). -/
def execPreempt (r : RecordIn) (s : State) : Host.Outcome State Fault Refusal := .next (s.recordIn 0x03 r)

/-- REBIND, TYPE 0x04 (R395). -/
def execRebind (r : RecordIn) (s : State) : Host.Outcome State Fault Refusal := .next (s.recordIn 0x04 r)

/-- STEP_HEAD, TYPE 0x10 (R324). -/
def execStepHead (r : RecordIn) (s : State) : Host.Outcome State Fault Refusal := .next (s.recordIn 0x10 r)

/-- COMMANDS, TYPE 0x11 (R324). -/
def execCommands (r : RecordIn) (s : State) : Host.Outcome State Fault Refusal := .next (s.recordIn 0x11 r)

/-- An epoch record, TYPE 0x20 (R285). -/
def execEpoch (r : RecordIn) (s : State) : Host.Outcome State Fault Refusal := .next (s.recordIn 0x20 r)

/-- A group table, TYPE 0x21 (R245). -/
def execGroupTable (r : RecordIn) (s : State) : Host.Outcome State Fault Refusal := .next (s.recordIn 0x21 r)

/-- Peer addresses, TYPE 0x22 (R274). -/
def execPeerAddress (r : RecordIn) (s : State) : Host.Outcome State Fault Refusal := .next (s.recordIn 0x22 r)

/-- Riffle targets, TYPE 0x23 (R284). -/
def execRiffleTargets (r : RecordIn) (s : State) : Host.Outcome State Fault Refusal := .next (s.recordIn 0x23 r)

/-- A mirror configuration, TYPE 0x24 (R230). -/
def execMirrorConfiguration (r : RecordIn) (s : State) : Host.Outcome State Fault Refusal := .next (s.recordIn 0x24 r)

/-- RESTORE, TYPE 0x25 (R376). -/
def execRestore (r : RecordIn) (s : State) : Host.Outcome State Fault Refusal := .next (s.recordIn 0x25 r)

/-- A pattern, TYPE 0x30 (R295). -/
def execPattern (r : RecordIn) (s : State) : Host.Outcome State Fault Refusal := .next (s.recordIn 0x30 r)

/-- A join, TYPE 0x31 (R299). -/
def execJoin (r : RecordIn) (s : State) : Host.Outcome State Fault Refusal := .next (s.recordIn 0x31 r)

/-- A leave, TYPE 0x32 (R302). -/
def execLeave (r : RecordIn) (s : State) : Host.Outcome State Fault Refusal := .next (s.recordIn 0x32 r)

/-- STOP, TYPE 0x33 (R314). -/
def execStop (r : RecordIn) (s : State) : Host.Outcome State Fault Refusal := .next (s.recordIn 0x33 r)

/-- A manifest, TYPE 0x34 (R308). -/
def execManifest (r : RecordIn) (s : State) : Host.Outcome State Fault Refusal := .next (s.recordIn 0x34 r)

/-- A load part, TYPE 0x35 (R306). -/
def execLoad (r : RecordIn) (s : State) : Host.Outcome State Fault Refusal := .next (s.recordIn 0x35 r)

/-- FINAL, TYPE 0x36 (R313). -/
def execFinal (r : RecordIn) (s : State) : Host.Outcome State Fault Refusal := .next (s.recordIn 0x36 r)

/-- A write of the owner places record bytes in a window (R318); a write that would cross the window's end must be split, and its
bytes beyond the end are not taken. -/
def execIntakeWindowWrite (p : Port) (c : CtxId) (offset : BitVec 16) (bytes : List Byte) (s : State) :
    Host.Outcome State Fault Refusal :=
  .next (s.windowWrite p c offset.toNat (bytes.take (windowBytes - offset.toNat)))

/-- The verifier finishes the request at its head (R433, R434): the manifest is accepted or refused, the next verification begins with
the key table as it stands, and the window goes on. -/
def execManifestVerified (s : State) : Host.Outcome State Fault Refusal :=
  .next <| s.whenUp fun s =>
    match s.sec.queue with
    | [] => s
    | q :: rest =>
      let next := match rest with
        | [] => []
        | r :: rs => { r with keys := some s.sec.keys } :: rs
      let s1 : State := { s with sec := { s.sec with queue := next } }
      let w : Who := { seq := q.seq, tag := q.tag, client := q.client }
      if (s1.ctx q.ctx).state ≠ .active then s1
      else match verified q with
        | some m => State.evalWindow q.ctx 2048 (((s1.adopt q.ctx [(q.addr, q.bytes.length)]).modCtx q.ctx fun x =>
            { x with manifests := m :: x.manifests.filter fun k => k.version != m.version }).measure 4 m.name |>.accept q.ctx w id)
        | none => State.evalWindow q.ctx 2048 (s1.failVerify.deny q.ctx w badSignature)

end Sys2Proof.Machine
end

