-- ==== Sys2Proof/Machine/Ladder.lean ====
section
/-! DEFINITION. Watchdogs, the reset ladder and suspect replay (R25, R125, R152, R177, R209, R210, R320, R365 to R375, R382, R391, R394,
R412, R463). -/

namespace Sys2Proof.Machine

/-! ### Scopes (R367, R368, R370) -/

/-- The region that a rung's scope lies in; none for the device rungs and the ford die. -/
def State.scopeRegion (s : State) : RungScope → Option (Fin 4)
  | .engine e => s.engineRegion e
  | .core n => (s.physCluster? (n / 2)).map regionOf
  | .cluster n => (s.physCluster? n).map regionOf
  | .region r => some r
  | _ => none

/-- The logical cluster of an engine of a core or cluster. -/
def engineCluster : Engine → Option Nat
  | .matrix n | .vector n => some (n / 2)
  | .update n => some n
  | _ => none

/-- Does an engine lie in a scope? -/
def State.inScope (s : State) (scope : RungScope) (e : Engine) : Bool :=
  match scope with
  | .engine f => e == f
  | .core n => e == .matrix n || e == .vector n
  | .cluster n => engineCluster e == some n
  | .region r => s.engineRegion e == some r
  | .warm | .cold => true

/-- Does a running rung's scope hold another scope (R370)? -/
def State.holdsScope (s : State) (big small : RungScope) : Bool :=
  big == small ||
  match big, small with
  | .cold, _ => true
  | .warm, .cold => false
  | .warm, _ => true
  | .region r, x => s.scopeRegion x == some r
  | .cluster n, .engine e => engineCluster e == some n
  | .cluster n, .core m => m / 2 == n
  | .core n, .engine e => e == .matrix n || e == .vector n
  | _, _ => false

/-- The bound of a rung, ns (R367). -/
def rungBound : RungScope → Ns
  | .engine _ => 50000
  | .core _ => 200000
  | .cluster _ => 1000000
  | .region _ => 20000000
  | .warm => 8000000000
  | .cold => 12000000000

/-- UNIT of RCV_LAST (R383). -/
def scopeUnit : RungScope → Nat
  | .engine e => engineCode e
  | .core n => n
  | .cluster n => n
  | .region r => r.val
  | .warm | .cold => 0

/-- The rung's word: RCV_LAST bits 16:0 with a MISSED flag (R383, R468). -/
def Rung.word (g : Rung) (missed : Bool) : Nat :=
  b2n missed * 65536 + scopeUnit g.scope % 256 * 256 + (g.engine.map engineKind).getD 0 * 8 + RungScope.code g.scope

/-- The rung above a rung that missed its bound (R368): by the kind of engine that hung, or up from the region. -/
def State.nextScope (s : State) (g : Rung) : RungScope :=
  let region (e : Engine) : RungScope := match s.engineRegion e with
    | some r => .region r
    | none => .warm
  match g.scope, g.engine with
  | .engine (.matrix n), _ | .engine (.vector n), _ => .core n
  | .engine (.update n), _ => .cluster n
  | .engine e, _ => region e
  | .core n, _ => .cluster (n / 2)
  | .cluster n, _ => region (.update n)
  | .region _, _ => .warm
  | .warm, _ => .cold
  | .cold, _ => .cold

/-! ### What a rung clears (R125) -/

/-- The SRAM ranges that a rung below the device rungs clears. -/
def State.scopeSram (s : State) : RungScope → List (Nat × Nat)
  | .core n => [(coreBase n, 2 ^ 22)]
  | .cluster n => clusterSram n
  | .region r => (bedBase (24 + r.val), 2 ^ 24) :: ((List.range 24).filter fun n => (s.physCluster? n).map regionOf == some r).flatMap clusterSram
  | _ => []

/-- Does a range meet one of some ranges? -/
def meetsAny (rs : List (Nat × Nat)) (start len : Nat) : Bool := rs.any fun r => decide (r.1 < start + len ∧ start < r.1 + r.2)

/-- Has a context an allocation in memory that a rung clears? -/
def Ctx.clearedBy (x : Ctx) (rs : List (Nat × Nat)) : Bool :=
  (x.alloc ++ x.steps.flatMap fun t => t.alloc).any fun r => meetsAny rs r.start r.len

/-- The steps of a context that a rung aborts (R369). -/
def State.rungSteps (s : State) (scope : RungScope) (c : CtxId) : List Step :=
  let x := s.ctx c
  let rs := s.scopeSram scope
  match scope with
  | .engine e => x.steps.filter fun t => t.cmds.any fun k => k.state == .running && k.entry.engine == e
  | .warm | .cold => x.steps
  | _ => x.steps.filter fun t => (t.cmds.any fun k => k.alive && s.inScope scope k.entry.engine)
      || (t.alloc ++ x.alloc).any (fun r => meetsAny rs r.start r.len)

/-- Abort the steps of a context that a rung touches; a committed step keeps its commit and loses its tail. -/
def State.rungAborts (s : State) (scope : RungScope) (c : CtxId) : State :=
  let tell := match scope with
    | .warm | .cold => false
    | _ => true
  (s.rungSteps scope c).foldl (fun u t =>
    match (u.ctx c).step? t.uid with
    | some v => if v.state = .committed then u.dropTail c v.uid else u.abortStep c v.uid .abortedReset .none 0 tell
    | none => u) s

/-- One context at the start of a rung below the device rungs: its steps abort and its generation advances (R369, R371). -/
def State.rungCtx (scope : RungScope) (s : State) (c : CtxId) : State :=
  let touched := !(s.rungSteps scope c).isEmpty || (s.ctx c).clearedBy (s.scopeSram scope)
  if touched then
    let s1 := s.rungAborts scope c
    let s2 := if (s.ctx c).clearedBy (s.scopeSram scope) then s1.modCtx c fun x => { x with carryOk := false } else s1
    s2.advanceGen c
  else s

/-- Evidence areas are lost with their bank: their evidence is dropped from the records that wait, which say so (R359). -/
def State.loseEvidence (s : State) (lost : Nat → Bool) : State :=
  let hit (g : Sig) : Bool := (g.area.map lost).getD false
  let fix (g : Sig) : Sig := if hit g then { g with evidence := none, evstate := some 3, area := none } else g
  let n := (s.intg.records.filter hit).length + (s.intg.repeats.filter fun r => hit r.sig).length
  { s with intg := { s.intg with
      records := s.intg.records.map fix
      repeats := s.intg.repeats.map fun r => { r with sig := fix r.sig }
      areas := Vector.ofFn fun i : Fin 8 => s.intg.areas[i] && !lost i.val
      evDrops := satAdd s.intg.evDrops n } }

/-! ### The device rungs -/

/-- What a device reset clears (R463): every counter but the OWN_ ones and the lifetime counts, and every latch. -/
def State.clearCounters (s : State) : State :=
  { s with
    lat := State.reset.lat
    slu := { s.slu with admits := 0#32, refuses := 0#32, drops := 0#32
                        clients := s.slu.clients.map fun k => { k with admitted := 0, refused := 0, committed := 0, aborted := 0 } }
    ctxs := s.ctxs.map fun x => { x with regs := { x.regs with drops := 0, lastDrop := 0 } }
    weir := { s.weir with commits := 0#32, aborts := 0#32, reverts := 0#32, conflicts := 0#32, lateAborts := 0#32, vtFixed := 0
                          vtLost := 0, mirMiss := 0#32 }
    hbm := { s.hbm with corr := 0#32, poisoned := 0#32, crc := 0#32, retry := 0#32, retryFail := 0#32, retrainFail := 0#32
                        sweeps := 0 }
    sram := { s.sram with corr := 0#32, poisoned := 0#32 }
    fab := { s.fab with dropEpoch := 0#32, dropGen := 0#32, dropBad := 0#32, retx := 0#32, nacks := 0#32, suspects := 0#32
                        echoes := 0#32, unmatched := 0 }
    dma := { s.dma with bursts := 0#32, reencode := 0, reencodeBad := 0, lineFaults := 0#32, nacks := 0#32, stale := 0#32
                        replays := 0#32, repairs := 0#32 }
    intg := { s.intg with checksum := 0#32, combiner := 0#32, vector := 0#32, lockstep := 0#32, update := 0#32, transient := 0#32
                          permanent := 0#32, samples := 0#32, mismatches := 0#32, checkers := 0#32, katFails := 0#32
                          evDrops := 0#32, tails := 0#32 }
    rcv := { s.rcv with counts := Vector.replicate 6 0#32, misses := 0#32, watchdogs := 0#32, replays := 0#32, guilty := 0#32
                        retires := 0#32, restores := 0#32, lost := 0#32 }
    pwr := { s.pwr with levels := 0#32, aborts := 0#32, losses := 0#32 }
    sec := { s.sec with failed := 0#32, signed := 0#32 }
    boot := { s.boot with testFails := 0#32, jrnDrops := 0#32, compacts := 0#32 }
    tel := { s.tel with reqs := 0#32, drops := 0#32 } }

/-- One context at the start of a warm device reset: its steps abort, its stream is abandoned, what it had not sealed is discarded, and
its generation advances (R209, R236, R242, R320, R369, R371). A checkpoint not yet clean stays unclean (log entry 74). -/
def State.warmCtx (s : State) (c : CtxId) : State :=
  if (s.ctx c).state = .free then s
  else
    let s1 := ((s.rungAborts .warm c).dropStream c false).advanceGen c
    let lost := (s1.ctx c).alloc.filter fun r => r.kind == .scratch || r.kind == .capture || isSram r.start
    let s2 : State := { s1 with mem := lost.foldl (fun m r => m.forget r.start r.len) s1.mem }
    s2.modCtx c fun x =>
      { x with asm := none, carryOk := false, wcFlag := false, ckpts := [], folds := []
               regs := { x.regs with window := [] } }

/-- Receive groups that are open abort (R236). -/
def State.dropReceives (s : State) : State :=
  (List.range s.recv.slots.length).foldl (fun t i =>
    if (t.recv.slots[i]?.map (·.state)) = some .receiving then t.abortReceive i else t) s

/-- Open groups of the device row abort: a migration that has not committed (R160). -/
def State.dropDeviceGroups (s : State) : State :=
  (List.finRange 8).foldl (fun t k => if t.slot 16 k = .open then t.abortGroup 16 k else t) s

/-- An update that a reset or a change of owner cuts off leaves its slot without a valid page 0 (R424). -/
def State.abandonUpdate (s : State) : State :=
  if 1 ≤ s.boot.updState ∧ s.boot.updState ≤ 4 then
    { s with
      boot := { s.boot with updState := 0, validA := s.boot.validA && !s.boot.slotB, validB := s.boot.validB && s.boot.slotB }
      flash := if s.boot.slotB then { s.flash with slotA := [] } else { s.flash with slotB := [] } }
  else s

/-- A warm device reset starts (R152, R209, R210, R394, R412): everything but the stacks in self-refresh and the version table. -/
def State.warmStart (s : State) : State :=
  let s1 := ((s.abandonUpdate.loseEvidence fun _ => true).forCtx State.warmCtx).dropReceives.dropDeviceGroups.clearCounters
  State.recomputeLevels { s1 with
    slu := { s1.slu with admitting := false, retest := false }
    weir := { s1.weir with ready := false, rebuild := true }
    hbm := { s1.hbm with ready := false, slotGroup := none, lineFixes := []
                         migration := if s1.hbm.migration = .none then .none else .declared s1.clk.now }
    sram := { s1.sram with fixes := [], replace := [] }
    fab := { s1.fab with ports := Fab.reset.ports, flows := [], probeAt := s1.clk.now }
    dma := { s1.dma with ready := Dma.reset.ready, reqs := [], d2d := Dma.reset.d2d, ford := Dma.reset.ford }
    hw := { s1.hw with lineDown := [], pendingOut := [] }
    intg := { s1.intg with areas := Intg.reset.areas, repeats := [], transients := [], pending := [], votes := [] }
    rcv := { s1.rcv with rungs := [], quarantines := [], unresolved := [], kills := [] }
    pwr := { s1.pwr with power := 0, clkOk := false, lostClk := [] }
    sec := { s1.sec with meas := Sec.reset.meas, queue := [], idReady := false
                         attest := s1.sec.attest.map fun a => { a with state := 0, fields := [] } }
    boot := { s1.boot with phase := .flash, err := 0, warm := true, fetched := [], fetchBad := [], trained := false
                           reconciled := false, jtime := s1.jnow, start := s1.clk.now, warms := satInc s1.boot.warms } }

/-- The miss that waits for its journal entry, if one does (R420). -/
def State.waitingMiss (s : State) : Option (List Nat × Nat) :=
  (s.boot.queue.findSome? fun b => match b with
    | .miss u r _ => some (u, r)
    | _ => none).orElse fun _ => s.rcv.heldMiss

/-- A cold boot's time 0 (R5, R209, R401, R446): everything at its reset value but the pins, the fuses, the flash and what has been sent.
HBM contents are undefined (R152). -/
def State.coldStart (s : State) (clk : Clk) (strap : BitVec 2) (held : Option (List Nat × Nat)) : State :=
  { State.reset with
    pending := s.pending
    clk := clk
    fuse := s.fuse
    flash := s.abandonUpdate.flash
    out := s.out
    mem := { State.reset.mem with undef := [(0, 960 * 2 ^ 30, s.mem.draws)], draws := s.mem.draws + 1 }
    rcv := { Rcv.reset with heldMiss := held }
    boot := { Boot.reset with strap := strap, phase := if strap = 3#2 then .held else .powerOn } }

/-! ### Starting a rung -/

/-- A rung is counted, named in RCV_LAST, traced and told to both hosts (R382, R393, R467). -/
def State.noteRung (s : State) (g : Rung) : State :=
  let i : Fin 6 := ⟨(RungScope.code g.scope - 1) % 6, Nat.mod_lt _ (by decide)⟩
  let s1 : State := { s with rcv := { s.rcv with
    rungs := s.rcv.rungs ++ [g], counts := s.rcv.counts.set i (satInc s.rcv.counts[i])
    last := BitVec.ofNat 32 (g.word false) } }
  ((s1.trace 2 0x20 0 (g.word g.missed)).freezeTrace).msixBoth 0

/-- A rung ends what the engines of its scope were doing, so no earlier kill is open on them. -/
def State.forgetKills (s : State) (scope : RungScope) : State :=
  { s with rcv := { s.rcv with kills := s.rcv.kills.filter fun o => !s.inScope scope o.engine } }

/-- A rung starts (R369 to R371): absorbed where a running rung holds its scope, it takes over what lies within its own. -/
def State.startRung (s : State) (scope : RungScope) (missed : Bool) (engine : Option Engine) (todo : List CtxId) : State :=
  if s.rcv.rungs.any fun g => s.holdsScope g.scope scope then s
  else
    let g : Rung := { scope := scope, start := s.clk.now, missed := missed, engine := engine, todo := todo }
    match scope with
    | .cold => (s.coldStart { s.clk with now := 0 } s.boot.strap s.waitingMiss).noteRung { g with start := 0 }
    | .warm => s.warmStart.noteRung g
    | _ =>
      let s1 : State := { s with rcv := { s.rcv with rungs := s.rcv.rungs.filter fun r => !(s.holdsScope scope r.scope) } }
      let s2 := ((s1.noteRung g).forCtx (State.rungCtx scope)).forgetKills scope
      let s3 : State := match scope with
        | .region r => State.loseEvidence { s2 with dma := { s2.dma with ready := s2.dma.ready.set r.val false } } fun a => a / 2 == r.val
        | _ => s2
      match scope with
      | .engine _ => s3.dispatch
      | _ => s3.retestAll .capacityLost

/-! ### Watchdog, heartbeats and bounds (R25, R365, R366) -/

/-- The contexts with a command running or suspended on an engine, ascending: the suspects of R374. Collective commands and those with W above
100 ms are not replayed. -/
def State.suspects (s : State) (e : Engine) : List CtxId :=
  allCtx.filter fun c => (s.ctx c).steps.any fun t => t.cmds.any fun k =>
    k.entry.engine == e && (k.state == .running || k.state == .suspended) && engineKind e != 5 && decide (k.entry.w ≤ 100000000)

/-- An expiry is counted and starts the engine rung. -/
def State.expireWatchdog (s : State) (e : Engine) (todo : List CtxId) : State :=
  State.startRung { s with rcv := { s.rcv with watchdogs := satInc s.rcv.watchdogs } } (.engine e) false (some e) todo

/-- The suspects of an engine that did not obey a kill: the killed command was running there still. -/
def State.killSuspects (s : State) (k : Kill) : List CtxId :=
  allCtx.filter fun c => (s.suspects k.engine).contains c || (k.replay && k.ctx == c && decide ((s.ctx c).state ≠ .free))

/-- A progress watchdog expires at 1.25 × W + 20 µs of running time, on a command that runs or on one whose kill the engine did not
obey (R365, log entry 141). -/
def execWatchdogExpiry (e : Engine) (s : State) : Host.Outcome State Fault Refusal :=
  .next <| s.whenUp fun s =>
    match s.running? e with
    | some (_, k) => if k.waitSince = none ∧ 5 * k.entry.w + 80000 ≤ 4 * k.runTime s.clk.now then s.expireWatchdog e (s.suspects e) else s
    | none =>
      match s.rcv.kills.find? fun o => o.engine == e with
      | some k => if k.due ≤ s.clk.now then s.expireWatchdog e (s.killSuspects k) else s
      | none => s

/-- Three heartbeats of a steward are missed, or the device manager has stopped (R366). -/
def execHeartbeatMiss (w : Steward) (s : State) : Host.Outcome State Fault Refusal :=
  .next <| s.whenUp fun s =>
    match w with
    | .region r => s.startRung (.region r) false none []
    | .die _ | .device => s.startRung .warm false none []

/-- A unit that runs no commands misses its bound (R366). -/
def execUnitBoundMiss (_ : BoundUnit) (s : State) : Host.Outcome State Fault Refusal :=
  .next <| s.whenUp fun s => s.startRung .warm false none []

/-- May traffic pass along the segments `lo` to `hi` − 1 of a ring? -/
def State.ringClear (s : State) (ring : Fin 2) (lo hi : Nat) : Bool :=
  !(s.ring.breaks.any fun b => b.1 == ring && decide (lo ≤ b.2.val ∧ b.2.val < hi))

/-- Is a stop cut off from the device manager, in either direction (R25)? The rings run in opposite directions, and segment i joins
stops i and i + 1 (DEDUCED, log entry 76). -/
def State.isolated (s : State) (stop : Nat) : Bool :=
  !(s.ringClear 0 0 stop || s.ringClear 1 stop 7) || !(s.ringClear 0 stop 7 || s.ringClear 1 0 stop)

/-- The regions behind isolated stewards: stops 1 and 4 are the die stewards, 2, 3, 5 and 6 the region stewards. -/
def State.isolatedRegions (s : State) : List (Fin 4) :=
  (List.finRange 4).filter fun r =>
    s.isolated ([2, 3, 5, 6].getD r.val 0) || s.isolated ([1, 4].getD (dieOf r).val 0)

/-- A management ring segment fails (R25): journalled, and the regions behind an isolated steward start the ladder at the region rung. -/
def execRingBreak (ring : Fin 2) (segment : Fin 7) (s : State) : Host.Outcome State Fault Refusal :=
  .next <| s.whenPowered fun s =>
    if s.ring.breaks.contains (ring, segment) then s
    else
      let s1 := State.journal { s with ring := { s.ring with breaks := (ring, segment) :: s.ring.breaks } } (.ringBreak ring segment)
      if s1.up then s1.isolatedRegions.foldl (fun u r => u.startRung (.region r) false none []) s1 else s1

/-! ### Completion and misses (R125, R177, R368, R372, R374) -/

/-- The number of a logical cluster within its region (R175). -/
def State.localIndex (s : State) (n : Nat) : Nat :=
  ((List.range n).filter fun m => (s.physCluster? m).map regionOf == (s.physCluster? n).map regionOf).length

/-- Request lines that a completed rung enables again (R177). -/
def State.linesBack (s : State) (scope : RungScope) : State :=
  let back (l : Fin 5 × Fin 64) : Bool := match scope with
    | .region r => l.1.val == r.val
    | .cluster n => s.scopeRegion scope == (if h : l.1.val < 4 then some ⟨l.1.val, h⟩ else none) && l.2.val / 8 == s.localIndex n
    | _ => false
  { s with hw := { s.hw with lineDown := s.hw.lineDown.filter fun l => !back l } }

/-- The engine is quarantined once the ladder has cleared it (R374). -/
def State.quarantine (s : State) (g : Rung) : State :=
  match g.engine with
  | some e =>
    if g.todo.isEmpty then s
    else { s with rcv := { s.rcv with quarantines := s.rcv.quarantines ++ [{ engine := e, since := s.clk.now, suspects := g.todo, todo := g.todo }] } }
  | none => s

/-- The failed clusters of a region that wait leave service with its reset (R367, rung 4). -/
def State.swapIn (s : State) (r : Fin 4) : State :=
  let mine (u : HwUnit) : Bool := match u with
    | .cluster c => regionOf c == r
    | .array c _ _ => regionOf c == r
    | _ => false
  let due := s.hw.pendingOut.filter mine
  (due.foldl State.retireUnit { s with hw := { s.hw with pendingOut := s.hw.pendingOut.filter fun u => !mine u } }).gradeChanged

/-- A rung below the device rungs completes: what it clears reads zero (R125), and its scope accepts commands again. -/
def State.endRung (s : State) (g : Rung) : State :=
  let rs := s.scopeSram g.scope
  let s1 : State := { s with
    mem := rs.foldl (fun m r => m.clear r.1 r.2) s.mem
    rcv := { s.rcv with rungs := s.rcv.rungs.filter fun r => r.scope != g.scope } }
  let s2 := s1.linesBack g.scope
  let s3 : State := match g.scope with
    | .region r => State.swapIn { s2 with dma := { s2.dma with ready := s2.dma.ready.set r.val true } } r
    | _ => s2
  (s3.trace 2 0x21 0 (g.word false)).quarantine g

/-- The periods of a pattern that passed during a device reset are used up. -/
def Ctx.skipPeriods (x : Ctx) (now : Ns) : Ctx :=
  { x with pattern := x.pattern.map fun p => { p with next := p.indexAt now } }

/-- A device rung completes once Sluice admits again (R367, R391, R393): the lease restarts in full after a warm reset. -/
def State.endDevice (s : State) (g : Rung) : State :=
  let s1 : State := { s with
    rcv := { s.rcv with rungs := s.rcv.rungs.filter fun r => r.scope != g.scope, tripping := false }
    pwr := { s.pwr with trip := false }
    own := { s.own with leaseEnd := if s.own.owner.isSome then s.clk.now + s.cfg.leaseCfg * 1000000000 else s.own.leaseEnd } }
  let s2 := (s1.forCtx fun t c => t.modCtx c fun x => x.skipPeriods t.clk.now).trace 2 0x21 0 (g.word false)
  (if g.scope = .warm then s2.msixBoth 0 else s2).evalAll

/-- A rung completes. -/
def execRungComplete (scope : RungScope) (s : State) : Host.Outcome State Fault Refusal :=
  .next <| s.whenPowered fun s =>
    match s.rcv.rungs.find? fun g => g.scope == scope with
    | none => s
    | some g =>
      match scope with
      | .warm | .cold =>
        if (s.boot.phase = .ready ∨ s.boot.phase = .retired) ∧ s.weir.ready then s.endDevice g else s
      | _ => (s.endRung g).dispatch

/-- The unit that a missed rung counts against (R372). -/
def State.scopeHwUnit (s : State) : RungScope → Option (List Nat × HwUnit)
  | .engine e => (s.engineUnit e).map fun u => (s.engineName e, u)
  | .core n => (s.engineUnit (.matrix n)).map fun u => (s.engineName (.matrix n), u)
  | .cluster n => (s.engineUnit (.update n)).map fun u => (s.engineName (.update n), u)
  | .region r => some (unitName (.region r), .region r)
  | .warm => some (unitName .device, .device)
  | .cold => none

/-- A rung misses its bound (R368, R372, R373): the next rung starts; a cold reset that misses holds the device in reset. -/
def execRungBoundMiss (scope : RungScope) (s : State) : Host.Outcome State Fault Refusal :=
  .next <| s.whenPowered fun s =>
    match s.rcv.rungs.find? fun g => g.scope == scope with
    | none => s
    | some g =>
      if s.clk.now < g.start + rungBound scope then s
      else
        let s1 : State := { s with rcv := { s.rcv with
          misses := satInc s.rcv.misses, last := BitVec.ofNat 32 (g.word true)
          rungs := s.rcv.rungs.filter fun r => r.scope != scope } }
        let s2 := s1.trace 2 0x21 0 (g.word true)
        if scope = .cold then { s2 with rcv := { s2.rcv with dead := true } }
        else
          let s3 := match s2.scopeHwUnit scope with
            | some u => s2.missUnit u.1 u.2 (RungScope.code scope)
            | none => s2
          s3.startRung (s3.nextScope g) true g.engine g.todo

/-! ### Suspect replay (R374) -/

/-- The quarantine ends: a record of KIND 1 for each suspect gives the outcome (log entry 75), and the engine serves again. -/
def State.endQuarantine (s : State) (q : Quarantine) (outcome : Nat) : State :=
  let s1 := q.suspects.foldl (fun u c => u.record { Sig.empty 1 with
    cls := some 5, unit := u.engineName q.engine, ctx := some (c.val, (u.ctx c).regs.gen.toNat), outcome := some outcome
    evstate := some 0 }) s
  State.dispatch { s1 with rcv := { s1.rcv with quarantines := s1.rcv.quarantines.filter fun r => r.engine != q.engine } }

/-- An unresolved case is counted; the third on one engine within 24 h retires it. -/
def State.unresolved (s : State) (q : Quarantine) : State :=
  let day := 86400000000000
  let before := (s.rcv.unresolved.filter fun u => u.1 == q.engine && decide (s.clk.now < u.2 + day)).length
  let s1 : State := { s with rcv := { s.rcv with unresolved := (q.engine, s.clk.now) :: s.rcv.unresolved } }
  let s2 := match s1.engineUnit q.engine with
    | some u =>
      if 2 ≤ before then
        (State.journalRetire { s1 with rcv := { s1.rcv with retires := satInc s1.rcv.retires } } u).retireSoon u
      else s1
    | none => s1
  s2.endQuarantine q 0

/-- One suspect's command has been replayed alone (R374). Suspects are replayed in ascending order. -/
def execSuspectReplayComplete (e : Engine) (c : CtxId) (hung hungElsewhere : Bool) (s : State) :
    Host.Outcome State Fault Refusal :=
  .next <| s.whenUp fun s =>
    match s.rcv.quarantines.find? fun q => q.engine == e with
    | none => s
    | some q =>
      if q.todo.head? ≠ some c then s
      else
        let s1 : State := { s with rcv := { s.rcv with replays := satAdd s.rcv.replays (1 + b2n hung) } }
        if hung && hungElsewhere then
          State.endQuarantine ((State.startTeardown { s1 with rcv := { s1.rcv with guilty := satInc s1.rcv.guilty } } c
            .abortedFault .fault Who.device)) q 5
        else if hung then
          (match s1.engineUnit e with
            | some u => s1.missUnit (s1.engineName e) u 1
            | none => s1).endQuarantine q 2
        else if q.todo.length ≤ 1 then s1.unresolved q
        else
          { s1 with rcv := { s1.rcv with quarantines := s1.rcv.quarantines.map fun r =>
              ({ r with todo := if r.engine = e then r.todo.drop 1 else r.todo } : Quarantine) } }

/-- A quarantine lasts at most 200 ms. -/
def execQuarantineLimit (e : Engine) (s : State) : Host.Outcome State Fault Refusal :=
  .next <| s.whenUp fun s =>
    match s.rcv.quarantines.find? fun q => q.engine == e with
    | some q => if s.clk.now < q.since + 200000000 then s else s.unresolved q
    | none => s

end Sys2Proof.Machine
end

