-- ==== Sys2Proof/Machine/Mesh.lean ====
section
/-! DEFINITION. The mesh and the bridges (R181, R184 to R188): packets that arrive, stale generations, regions in reset, and modules
that need repair. -/

namespace Sys2Proof.Machine

/-! ### Packets (R181, R186, R187) -/

/-- TYPEs that ask for something to be done: a read, a write, a write with byte enables, a collective message. -/
def meshAsks (p : MeshPkt) : Bool := p.typ.toNat ≤ 2 || p.typ == 6#4

/-- A reply to a packet, from its destination back to its source. -/
def meshReply (p : MeshPkt) (gen : BitVec 16) (typ : BitVec 4) (data : List Byte) : MeshPkt :=
  { p with gen := gen, typ := typ, src := p.dst, dst := p.src, enables := [], data := data }

/-- RESET_NACK with the context's current generation (R186, R187). -/
def State.meshNack (s : State) (p : MeshPkt) : State :=
  State.emit { s with dma := { s.dma with nacks := satInc s.dma.nacks } } (.mesh (meshReply p (s.ctx p.ctx).regs.gen 5#4 []))

/-- A reply is dropped, and counted. -/
def State.meshStale (s : State) : State := { s with dma := { s.dma with stale := satInc s.dma.stale } }

/-- The extents that a write packet stores: all of its data, or the bytes that its enables name. -/
def meshStores (p : MeshPkt) : List (Nat × List Byte) :=
  if p.typ = 1#4 then [(p.addr.toNat, p.data)]
  else (p.data.zip p.enables).zipIdx.filterMap fun b => if b.1.2 then some (p.addr.toNat + b.2, [b.1.1]) else none

/-- Bytes of a read packet. -/
def meshLen (p : MeshPkt) : Nat := (p.lines.toNat + 1) * 64

/-- A read is executed: its data go back, from the command's view or, for device work, from the committed view. -/
def State.meshRead (s : State) (p : MeshPkt) : State :=
  match p.cmd with
  | some r =>
    match s.step? r with
    | some t =>
      if s.canRead r.ctx t [(p.addr.toNat, (meshLen p))] then
        s.emit (.mesh (meshReply p p.gen 3#4 ((List.range (meshLen p)).map fun i => s.cmdView r.ctx t (p.addr.toNat + i))))
      else s.faultCmd r .fault
    | none => s
  | none => s.emit (.mesh (meshReply p p.gen 3#4 (s.committedBytes p.addr.toNat (meshLen p))))

/-- A write is executed and acknowledged: a command's goes to its step's copies, device work's to the base. -/
def State.meshWrite (s : State) (p : MeshPkt) : State :=
  let ack (t : State) : State := t.emit (.mesh (meshReply p p.gen 4#4 []))
  match p.cmd with
  | some r =>
    match s.step? r with
    | some t =>
      match s.cmdWrite r.ctx t (meshStores p) with
      | (s1, none) => ack s1
      | (s1, some reason) => s1.faultCmd r reason
    | none => s
  | none => ack ((meshStores p).foldl (fun u w => u.putBase w.1 w.2) s)

/-- A packet with a current generation is executed. Read data, acknowledgements and collective messages have their effect in the
completion of the command that they serve (log entry 69). -/
def State.meshRun (s : State) (p : MeshPkt) : State :=
  match p.typ.toNat with
  | 0 => s.meshRead p
  | 1 | 2 => s.meshWrite p
  | 5 => match p.cmd with
    | some r => (s.abortStep r.ctx r.step .abortedReset .none r.idx).dispatch
    | none => s
  | _ => s

/-- A mesh packet arrives. -/
def execMeshPacketArrival (p : MeshPkt) (s : State) : Host.Outcome State Fault Refusal :=
  .next <| s.whenUp fun s =>
    let absorbed := s.rcv.rungs.any fun g => match g.scope, p.region with
      | .region r, some q => r == q
      | _, _ => false
    if 7 ≤ p.typ.toNat then s.meshStale
    else if absorbed then (if meshAsks p && p.gen != 0#16 then s.meshNack p else s)
    else if p.gen != 0#16 && p.gen != (s.ctx p.ctx).regs.gen then (if meshAsks p then s.meshNack p else s.meshStale)
    else s.meshRun p

/-! ### Bridges (R185) -/

/-- A module that needs 16 replays in a row leaves service for repair, and rates are scaled. -/
def execUcieReplayLimit (m : Module) (s : State) : Host.Outcome State Fault Refusal :=
  .next <| s.whenPowered fun s =>
    if s.module m = .live then
      let s1 : State := { s with dma := { s.dma with replays := satAdd s.dma.replays 16, repairs := satInc s.dma.repairs } }
      (s1.setModule m .repair).retestAll .bridgeLost
    else s

/-- A module's retraining and lane repair end: it returns to service, or it is lost. -/
def execUcieModuleRepair (m : Module) (ok : Bool) (s : State) : Host.Outcome State Fault Refusal :=
  .next <| s.whenPowered fun s =>
    if s.module m = .repair then (if ok then s.setModule m .live else s.loseModule m) else s

end Sys2Proof.Machine
end

