-- ==== Sys2Proof/Machine/Hbm.lean ====
section
/-! DEFINITION. The HBM subsystem (R145 to R163): group checks, retries, retraining, temperature, scrub, and the loss of a channel with its
migration. -/

namespace Sys2Proof.Machine

/-! ### Retraining (R150, R151) -/

/-- Slot k starts at 32,000 k ns and retrains channel k mod 32 of every stack. -/
def execRetrainSlot (s : State) : Host.Outcome State Fault Refusal :=
  .next <| s.whenUp fun s =>
    if s.clk.now % 32000 = 0 ∧ s.hbm.ready ∧ s.hbm.slotGroup = none then
      { s with hbm := { s.hbm with slotGroup := some (s.clk.now / 32000 % 32) } }
    else s

/-- The result of one stack's channel: a second failure in a row loses it. -/
def State.retrained (s : State) (c : Fin 256) (bad : Bool) : State :=
  let ch := s.hbm.chans[c]
  if ch.lost then s
  else if bad then
    let s1 : State := { s with hbm := { s.hbm with retrainFail := satInc s.hbm.retrainFail } }
    if ch.suspect then s1.loseChannel c
    else { s1 with hbm := { s1.hbm with chans := s1.hbm.chans.set c { ch with suspect := true } } }
  else { s with hbm := { s.hbm with chans := s.hbm.chans.set c { ch with suspect := false } } }

/-- The results of a slot, at the earliest 1.3 µs after its start: bit k for stack k. A stack without its clock fails (R443). -/
def execRetrainResult (failed : BitVec 8) (s : State) : Host.Outcome State Fault Refusal :=
  .next <| s.whenUp fun s =>
    match s.hbm.slotGroup with
    | none => s
    | some g =>
      if s.clk.now % 32000 < 1300 then s
      else
        let s1 : State := { s with hbm := { s.hbm with slotGroup := none } }
        ((List.finRange 8).foldl (fun u k =>
          State.retrained u ⟨(32 * k.val + g) % 256, Nat.mod_lt _ (by decide)⟩ (failed.getLsbD k.val || u.pwr.lostClk.contains (.hbm k))) s1).dispatch

/-! ### Faults on a read (R147, R149, R357) -/

/-- A record of KIND 3 for memory errors beyond correction (DESIGN CHOICE, log entry 78). -/
def State.memoryRecord (s : State) (unit : HwUnit) (cls corrected poisoned : Nat) : State :=
  s.record { Sig.empty 3 with cls := some cls, unit := unitName unit, counts := [(1, corrected), (2, poisoned)] }

/-- The reading command ends as a detected fault. -/
def State.faultReader (s : State) (r : Option CmdRef) : State :=
  match r with
  | some c => if (s.cmd? c).isSome then s.faultCmd c .fault else s
  | none => s

/-- Channel numbers of a place. -/
def chanOf (lost : List Nat) (g : Nat) : Fin 256 := ⟨(placeGroup lost g).1 % 256, Nat.mod_lt _ (by decide)⟩

/-- A burst shows a parity error and is issued again, at most three times (R149). After four failed attempts the reader's command ends, and
the third such burst of the channel within 24 h loses it (R158). -/
def execHbmParityError (chan : Fin 256) (failedAttempts : Nat) (reader : Option CmdRef) (s : State) :
    Host.Outcome State Fault Refusal :=
  .next <| s.whenUp fun s =>
    if failedAttempts = 0 ∨ 4 < failedAttempts ∨ !s.hbm.ready then s
    else
      let s1 : State := { s with hbm := { s.hbm with retry := satAdd s.hbm.retry (min 3 failedAttempts) } }
      if failedAttempts < 4 then s1
      else
        let ch := s1.hbm.chans[chan]
        let fails := s1.jnow :: ch.fails.filter fun t => decide (s1.jnow < t + 86400)
        let s2 : State := { s1 with hbm := { s1.hbm with
          retryFail := satInc s1.hbm.retryFail, chans := s1.hbm.chans.set chan { ch with fails := fails } } }
        let s3 := ((s2.journal (.miss (unitName (.hbmChannel chan)) 0 s2.jnow)).memoryRecord (.hbmChannel chan) 7 0 0).faultReader reader
        if 3 ≤ fails.length then s3.loseChannel chan else s3

/-- What a read finds in data line `n`: the measured weight, and what a test has injected. -/
def State.lineWeight (s : State) (g n : Nat) (measured : List Nat) : Nat :=
  measured.getD n 0 + ((s.mem.flips.find? fun f => f.1 == g * 16 + n).map (·.2)).getD 0

/-- Is the group's CRC wrong once its lines are right: as measured, or by an injection into the check line (log entry 71)? -/
def State.groupCrcBad (s : State) (g : Nat) (measured : Bool) : Bool := measured || s.mem.flips.any fun f => f.1 == g * 16 + 15

/-- A correction of a line is counted; the third within 24 h has its row recorded for repair (R157). -/
def State.fixLine (s : State) (line : Nat) : State :=
  let day := 86400000000000
  let recent := s.hbm.lineFixes.filter fun f => f.1 == line && decide (s.clk.now < f.2 + day)
  let s1 : State := { s with hbm := { s.hbm with corr := satInc s.hbm.corr, lineFixes := (line, s.clk.now) :: s.hbm.lineFixes } }
  if recent.length = 2 then s1.journal (.hbmRow line) else s1

/-- Lines of a group are poisoned. -/
def State.poisonLines (s : State) (g : Nat) (lines : List Nat) : State :=
  let addrs := (lines.map fun n => (g * 15 + n) * 64).filter fun a => !s.mem.poison.contains a
  { s with
    mem := { s.mem with poison := s.mem.poison ++ addrs, flips := s.mem.flips.filter fun f => f.1 / 16 != g }
    hbm := { s.hbm with poisoned := satAdd s.hbm.poisoned addrs.length } }

/-- Correct the lines with one or two bits in error: the group is written back. -/
def State.correctLines (s : State) (g : Nat) (measured : List Nat) : State :=
  let fixed := (List.range 15).filter fun n => let w := s.lineWeight g n measured; w == 1 || w == 2
  let s1 := fixed.foldl (fun u n => u.fixLine (g * 15 + n)) s
  { s1 with mem := { s1.mem with flips := s1.mem.flips.filter fun f => !(f.1 / 16 == g && fixed.contains (f.1 % 16)) } }

/-- The checks of R147 on one group: the state after, and whether the reading command ends. -/
def State.checkGroup (s : State) (g : Nat) (f : GroupFinding) : State × Bool :=
  let bad (m : List Nat) : List Nat := (List.range 15).filter fun n => decide (3 ≤ s.lineWeight g n m)
  let record (u : State) : State := u.memoryRecord (.hbmChannel (chanOf s.hbm.mapped g)) 7 0 ((u.mem.poison.length) - s.mem.poison.length)
  if !(bad f.first).isEmpty then
    let s1 := s.correctLines g f.first
    let again := bad f.again
    if !again.isEmpty then (record ((s1.correctLines g f.again).poisonLines g again), true)
    else if s.groupCrcBad g f.crcAgain then
      let s2 : State := { s1 with hbm := { s1.hbm with crc := satInc s1.hbm.crc } }
      (record (s2.poisonLines g (List.range 15)), true)
    else (s1, false)
  else
    let s1 := s.correctLines g f.first
    if s.groupCrcBad g f.crcFirst then
      let s2 : State := { s1 with hbm := { s1.hbm with crc := satInc s1.hbm.crc } }
      let again := bad f.again
      if !again.isEmpty then (record (s2.poisonLines g again), true)
      else if s.groupCrcBad g f.crcAgain then (record (s2.poisonLines g (List.range 15)), true)
      else (s2, false)
    else (s1, false)

/-- A group is read and checked (R147). -/
def execHbmGroupRead (group : Nat) (reader : Option CmdRef) (finding : GroupFinding) (s : State) :
    Host.Outcome State Fault Refusal :=
  .next <| s.whenUp fun s =>
    if s.hbm.ready && s.groupValid group then
      let r := s.checkGroup group finding
      if r.2 then r.1.faultReader reader else r.1
    else s

/-- The scrub reads the next physical group; after the last one a sweep is complete (R156). -/
def execHbmScrubGroup (finding : GroupFinding) (s : State) : Host.Outcome State Fault Refusal :=
  .next <| s.whenUp fun s =>
    if s.hbm.ready && s.groupValid s.hbm.scrubPos then
      let s1 := (s.checkGroup s.hbm.scrubPos finding).1
      let next := s1.hbm.scrubPos + 1
      if s1.groupValid next then { s1 with hbm := { s1.hbm with scrubPos := next } }
      else { s1 with hbm := { s1.hbm with scrubPos := 0, sweeps := s1.hbm.sweeps + 1 } }
    else s

/-! ### Temperature (R153, R154, R449, R451) -/

/-- Every stack and every zone reads below 95 °C (R153, R449, R451). -/
def State.cooled (s : State) : Bool :=
  (s.hbm.temps.toList.all fun t => decide (t < 95)) && s.pwr.zones.toList.all fun z => decide (z.temp < 95)

/-- The warm device reset that ends a trip. -/
def State.endTrip (s : State) : State :=
  if s.pwr.trip && s.cooled && !s.warming && !s.cooling then s.startRung .warm false none [] else s

/-- A controller reads its stack's temperature: the stack takes the level that follows, and its die's zone H follows the highest of its
stacks. -/
def execHbmTemperatureRead (stack : Fin 8) (temp : Nat) (s : State) : Host.Outcome State Fault Refusal :=
  .next <| s.whenPowered fun s =>
    let temps := s.hbm.temps.set stack temp
    let levels := s.hbm.levels.set stack (levelAfter [85, 95, 102, 108] s.hbm.levels[stack] temp)
    let z : Fin 7 := if stack.val < 4 then 2 else 5
    let mine (v : Vector Nat 8) : Nat := (((List.finRange 8).filter fun k => k.val / 4 == stack.val / 4).map fun k => v[k]).foldl max 0
    let s1 : State := { s with
      hbm := { s.hbm with temps := temps, levels := levels }
      pwr := { s.pwr with zones := s.pwr.zones.set z { s.pwr.zones[z] with temp := mine temps, thermal := zoneOfStacks (mine levels) } } }
    s1.applyLevels.endTrip

/-! ### Migration (R159, R160, R212) -/

/-- Every channel declared lost, ascending. -/
def State.lostSet (s : State) : List Nat := (List.finRange 256).filterMap fun c => if s.hbm.chans[c].lost then some c.val else none

/-- Steps that run: their end is awaited. -/
def State.noneRunning (s : State) : Bool :=
  allCtx.all fun c => (s.ctx c).steps.all fun t => t.state != .running && t.state != .prepared

/-- The migration's commit group on the device row. -/
def migrationGroup (k : Fin 8) : Group where
  row := 16
  slot := k
  uid := 0
  step := 0#64
  tag := 0#64
  seq := 0#32
  p := 0
  c := 0
  copies := []
  displaced := 0
  walkFrom := 0

/-- The running steps have ended: the migration starts. -/
def execMigrationStart (s : State) : Host.Outcome State Fault Refusal :=
  .next <| s.whenUp fun s =>
    match s.hbm.migration, s.freeSlot 16 with
    | .declared _, some k =>
      if s.noneRunning && decide (s.lostCount < 17) then
        State.openGroup { s with hbm := { s.hbm with migration := .moving s.clk.now s.lostSet } } (migrationGroup k)
      else s
    | _, _ => s

/-- HBM bytes that a context holds. -/
def State.ctxBytes (s : State) (c : CtxId) : Nat :=
  unionBytes [] (hbmRanges ((s.ctx c).heldRanges ++ (s.ctx c).walking)) + (((s.ctx c).pattern.map (·.kvGib)).getD 0) * 2 ^ 30

/-- Tear contexts down in descending number until the rest fit. -/
def State.shrink : List CtxId → Nat → State → State
  | [], _, s => s
  | c :: rest, total, s =>
    if total ≤ s.allocatable then s
    else if (s.ctx c).state = .active then
      State.shrink rest (total - s.ctxBytes c) (s.startTeardown c .abortedFault .capacityLost Who.device)
    else State.shrink rest (total - s.ctxBytes c) s

/-- Admission resumes, unless something else holds it: a further loss, a trip, or a boot that has not ended. -/
def State.resumeAdmission (s : State) : State :=
  let free : Bool := match s.hbm.migration with
    | .none => !s.pwr.trip && s.weir.ready && (s.boot.phase == .ready || s.boot.phase == .retired)
    | _ => false
  if free then State.evalAll { s with slu := { s.slu with admitting := true } } else s

/-- The migration commits in one write of the device row, with the new lost-channel set; groups that could not be read stand poisoned at their
new places. -/
def execMigrationCommit (unreadable : List Nat) (s : State) : Host.Outcome State Fault Refusal :=
  .next <| s.whenUp fun s =>
    match s.hbm.migration with
    | .moving _ set =>
      let mine := (List.finRange 8).find? fun k => s.slot 16 k == .open && !(s.recv.slots.any fun r => r.group == some k)
      let s1 := match mine with
        | some k => s.commitGroup 16 k (s.version 16 + 1#64) true
        | none => s
      let s2 : State := { s1 with hbm := { s1.hbm with
        mapped := set, scrubPos := if s1.hbm.scrubPos < (256 - set.length) * 4194304 then s1.hbm.scrubPos else 0
        migration := if set.length < s1.lostCount ∧ s1.lostCount < 17 then .declared s1.clk.now else .none } }
      let bad := unreadable.filter s2.groupValid
      let s3 := bad.foldl (fun u g => u.poisonLines g (List.range 15)) s2
      let s4 := s3.record { Sig.empty 7 with effect := s3.effect }
      let s5 := if bad.isEmpty then s4 else s4.record { Sig.empty 3 with cls := some 7, counts := [(4, bad.length)] }
      let s6 := State.shrink allCtx.reverse (allCtx.map s5.ctxBytes).sum s5
      (s6.retestAll .capacityLost).resumeAdmission
    | _ => s

end Sys2Proof.Machine
end

