-- ==== Sys2Proof/Machine/Sram.lean ====
section
/-! DEFINITION. Scrub and repair of on-die SRAM (R138 to R141). -/

namespace Sys2Proof.Machine

/-- The unit that a bank belongs to. -/
def bankUnit : SramBank → HwUnit
  | .clusterBank c => .cluster c
  | .regionBank r => .region r
  | .coreBank c => .cluster ⟨c.val / 2, by omega⟩

/-- Spare rows: eight for each sub-bank of a bed bank, two for a core SRAM bank (R141). -/
def State.sparesUsed (s : State) (bank : SramBank) (sub : Nat) : Nat :=
  (s.sram.spares.filter fun u => u.1 == bank && (match bank with
    | .coreBank _ => true
    | _ => u.2.1 == sub)).length

/-- Spare rows of a bank. -/
def spareLimit : SramBank → Nat
  | .coreBank _ => 2
  | _ => 8

/-- One word as the scrub finds it: corrected, poisoned, or beyond the code. -/
def State.scrubWord (bank : SramBank) (s : State) (w : ScrubWord) : State :=
  if w.weight = 1 ∨ w.weight = 2 then
    let day := 86400000000000
    let recent := s.sram.fixes.filter fun f => f.1 == w.addr && decide (s.clk.now < f.2 + day)
    let key := (bank, w.sub, w.row)
    let due := recent.length = 2 ∧ !s.sram.replace.contains key
    { s with sram := { s.sram with
        corr := satInc s.sram.corr, fixes := (w.addr, s.clk.now) :: s.sram.fixes
        replace := if due then s.sram.replace ++ [key] else s.sram.replace } }
  else if w.weight = 3 then
    let a := w.addr / 8 * 8
    if s.mem.poison.contains a then s
    else
      State.memoryRecord { s with
        mem := { s.mem with poison := s.mem.poison ++ [a] }
        sram := { s.sram with poisoned := satInc s.sram.poisoned } } (bankUnit bank) 6 0 1
  else s

/-- A bank scrubs itself (R140): the words that it reads are checked under R138. -/
def execSramScrub (bank : SramBank) (words : List ScrubWord) (s : State) : Host.Outcome State Fault Refusal :=
  .next <| s.whenPowered fun s =>
    words.foldl (State.scrubWord bank) s

/-- One row is replaced by a spare row, and recorded; where no spare is left its cluster is treated as failed, or its region is
retired and the ladder starts at rung 4 (R368). -/
def State.replaceRow (s : State) (r : SramBank × Nat × Nat) : State :=
  if s.sparesUsed r.1 r.2.1 < spareLimit r.1 then
    State.journal { s with sram := { s.sram with spares := s.sram.spares ++ [r] } } (.spare r.1 r.2.1 r.2.2)
  else
    match r.1 with
    | .regionBank g => (s.retireUnit (.region g)).startRung (.region g) false none []
    | b => s.retireUnit (bankUnit b)

/-- A step boundary (R141): the rows that wait and whose unit no running step uses are replaced. -/
def execSpareRowReplace (s : State) : Host.Outcome State Fault Refusal :=
  .next <| s.whenUp fun s =>
    let due := s.sram.replace.filter fun r => !s.unitBusy (bankUnit r.1)
    if due.isEmpty then s
    else
      let s1 : State := { s with sram := { s.sram with replace := s.sram.replace.filter fun r => s.unitBusy (bankUnit r.1) } }
      ((due.foldl State.replaceRow s1).gradeChanged).retestAll .capacityLost

end Sys2Proof.Machine
end

