-- ==== Sys2Proof/Machine/Eddy.lean ====
section
/-! DEFINITION. Integrity (R343 to R363): checker mismatches and their repeats, Eddy's recomputes and votes, and the export of signature
records. -/

namespace Sys2Proof.Machine

/-! ### Faulty units (R346, R347) -/

/-- The physical array in logical slot `slot` of a core: slots number the live arrays in ascending order (R73). -/
def State.arrayAt (s : State) (c : Fin 28) (k : Fin 2) (slot : Nat) : Fin 4 :=
  let live := (List.finRange 4).filter fun i => ((s.hw.live[2 * c.val + k.val]?).getD 0#4).getLsbD i.val
  (live[slot]?).getD 0

/-- The logical slot that computes a sample unit of a matrix command: its output tile, or its token chunk in broadcast mode. -/
def State.unitSlot (s : State) (c : CtxId) (t : Step) (k : Cmd) (ordinal : Nat) : Nat :=
  match readMatrix (s.stepView c t) k.entry.desc with
  | some j =>
    let chunks := max 1 (cdiv j.d.m j.d.regTokens)
    (if j.d.broadcast then ordinal % chunks else ordinal / chunks) % max 1 k.entry.arrays
  | none => 0

/-- The unit that a checker's mismatch names. Lane groups take the units of a command in turn (DESIGN CHOICE, log entry 81). -/
def State.faultyUnit (s : State) (c : CtxId) (t : Step) (k : Cmd) (chk : Checker) (ordinal : Nat) : Option HwUnit :=
  match k.entry.engine, chk with
  | .matrix n, .checksum | .matrix n, .combiner =>
    (s.physCluster? (n / 2)).map fun p =>
      let core : Fin 2 := if n % 2 = 0 then 0 else 1
      .array p core (s.arrayAt p core (s.unitSlot c t k ordinal))
  | .coll _, _ => some (.laneGroup ⟨ordinal % 8, Nat.mod_lt _ (by decide)⟩)
  | e, _ => s.engineUnit e

/-- Does a checker guard an engine (R343)? -/
def checkerFits (e : Engine) (chk : Checker) : Bool :=
  match e, chk with
  | .matrix _, .checksum | .matrix _, .combiner | .matrix _, .lockstep => true
  | .vector _, .vector | .vector _, .lockstep => true
  | .update _, .update => true
  | .coll _, .lanes => true
  | _, _ => false

/-- The class of R357. -/
def checkerClass : Checker → Nat
  | .checksum => 1
  | .combiner => 2
  | .vector => 3
  | .update | .lanes => 4
  | .lockstep => 5

/-- Count a mismatch (R362). -/
def State.countChecker (s : State) (chk : Checker) : State :=
  let i := s.intg
  { s with intg := match chk with
      | .checksum => { i with checksum := satInc i.checksum }
      | .combiner => { i with combiner := satInc i.combiner }
      | .vector => { i with vector := satInc i.vector }
      | .lockstep => { i with lockstep := satInc i.lockstep }
      | .update | .lanes => { i with update := satInc i.update } }

/-! ### Evidence (R359) -/

/-- The Oxbow that checks a region (R348): the region's own, else the die's other. -/
def State.checkerOf (s : State) (r : Fin 4) : Option (Fin 28) :=
  let ox := s.oxbows (dieOf r)
  (ox.find? fun o => regionOf o == r).orElse fun _ => ox.head?

/-- The evidence area of a region's checker: bit 2k + r of EVBUSY. -/
def State.areaFor (s : State) (r : Fin 4) : Option (Fin 8) :=
  (s.checkerOf r).map fun o => ⟨2 * (regionOf o).val + r.val % 2, by have := (regionOf o).isLt; omega⟩

/-- Put a failure's evidence into its area, at most 4 MiB of it; where the area is occupied, it is dropped and counted. -/
def State.keepEvidence (s : State) (r : Fin 4) (bs : List Byte) (g : Sig) : State × Sig :=
  match s.areaFor r with
  | some a =>
    if s.intg.areas[a] then
      ({ s with intg := { s.intg with evDrops := satInc s.intg.evDrops } }, { g with evstate := some 2 })
    else
      ({ s with intg := { s.intg with areas := s.intg.areas.set a true } },
       { g with evidence := some (bs.take 4194304), evstate := some 1, area := some a.val })
  | none => ({ s with intg := { s.intg with evDrops := satInc s.intg.evDrops } }, { g with evstate := some 2 })

/-- The job of a context, as a record names it. -/
def Ctx.jobKey (x : Ctx) : Option (Nat × Nat × Nat) := x.job.rank.map fun r => (x.job.tag.toNat, x.job.epoch.toNat, r)

/-! ### Checkers (R345, R346) -/

/-- A checker's mismatch in a command: it ends as a detected fault, its operands are kept, and its unit is to be repeated. -/
def State.checkerFault (s : State) (r : CmdRef) (chk : Checker) (ordinal : Nat) (operands : List Byte) : State :=
  match s.step? r, s.cmd? r with
  | some t, some k =>
    let x := s.ctx r.ctx
    let region := s.unitRegion k.entry.engine ordinal
    let g : Sig := { Sig.empty 1 with
      cls := some (checkerClass chk), unit := s.engineName k.entry.engine, ctx := some (r.ctx.val, x.regs.gen.toNat)
      step := some t.hdr.step.toNat, job := x.jobKey, detail := [(1, r.idx), (2, ordinal), (5, Reason.fault.value.toNat)] }
    let e := (s.countChecker chk).keepEvidence region operands g
    let s1 : State := match s.faultyUnit r.ctx t k chk ordinal with
      | some u =>
        let g1 : Sig := match u with
          | .array _ _ _ | .laneGroup _ => { e.2 with unit := unitName u }
          | _ => e.2
        { e.1 with intg := { e.1.intg with repeats := e.1.intg.repeats ++
            [{ engine := some k.entry.engine, unit := u, since := s.clk.now, sig := g1, pending := none }] } }
      | none => e.1.record { e.2 with outcome := some 0 }
    s1.faultCmd r .fault
  | _, _ => s

/-- A checker finds a mismatch. -/
def execCheckerMismatch (r : CmdRef) (chk : Checker) (ordinal : Nat) (operands : List Byte) (s : State) :
    Host.Outcome State Fault Refusal :=
  .next <| s.whenUp fun s =>
    match s.cmd? r with
    | some k => if k.state = .running ∧ checkerFits k.entry.engine chk then s.checkerFault r chk ordinal operands else s
    | none => s

/-- The checker that INTG_INJECT arms, when it guards the engine of a command and names its core (R362; log entry 84). -/
def State.injected (s : State) (r : CmdRef) : Option Checker :=
  let v := s.intg.inject.toNat
  let chk : Checker := match v / 64 % 4 with
    | 0 => .checksum
    | 1 => .combiner
    | 2 => .vector
    | _ => .lockstep
  match s.cmd? r with
  | some k =>
    let core : Option Nat := match k.entry.engine with
      | .matrix n | .vector n => some n
      | _ => none
    if 2 ^ 31 ≤ v ∧ core = some (v % 64) ∧ checkerFits k.entry.engine chk then some chk else none
  | none => none

/-- The end of a core's command, with the fault that a test has armed. -/
def State.endCore (s : State) (r : CmdRef) (f : State → CmdRef → State) : State :=
  match s.injected r, s.cmd? r with
  | some chk, some k =>
    if k.state = .running ∧ k.waitSince = none ∧ s.up then
      State.checkerFault { s with intg := { s.intg with inject := 0#32 } } r chk 0 []
    else s
  | _, _ => f s r

/-- A matrix command completes (R61, R69, R345). -/
def execMatrixCommandComplete (r : CmdRef) (s : State) : Host.Outcome State Fault Refusal := .next (s.endCore r State.matrixComplete)

/-- A vector command completes (R101, R116, R345). -/
def execVectorCommandComplete (r : CmdRef) (s : State) : Host.Outcome State Fault Refusal := .next (s.endCore r State.vectorComplete)

/-- Is the engine of a repeat idle: no admitted command running or ready (R346)? -/
def State.repeatIdle (s : State) (q : Repeat) : Bool :=
  match q.engine with
  | some e => (s.running? e).isNone && !(s.ready.any fun ch => ((s.cmd? ch.ref).map fun k => k.entry.engine == e).getD false)
  | none => true

/-- The record that gives an outcome: the one that waits, or a later one that refers to it. -/
def Repeat.final (q : Repeat) (outcome : Nat) : Sig :=
  match q.pending with
  | none => { q.sig with outcome := some outcome }
  | some n => { q.sig with outcome := some outcome, refers := some n, evidence := none, evstate := some 0, area := none }

/-- The failing unit is repeated (R346): the first whose engine is idle. -/
def execCheckerRepeat (mismatchAgain : Bool) (s : State) : Host.Outcome State Fault Refusal :=
  .next <| s.whenUp fun s =>
    match s.intg.repeats.find? s.repeatIdle with
    | none => s
    | some q =>
      let day := 86400000000000
      let before := (s.intg.transients.filter fun u => u.1 == q.unit && decide (s.clk.now < u.2 + day)).length
      let outcome := if mismatchAgain then 2 else if 2 ≤ before then 3 else 1
      let s1 : State := { s with intg := { s.intg with repeats := s.intg.repeats.erase q } }
      if outcome = 1 then
        State.record { s1 with intg := { s1.intg with
          transient := satInc s1.intg.transient, transients := (q.unit, s1.clk.now) :: s1.intg.transients } } (q.final 1)
      else
        (State.record { s1 with intg := { s1.intg with permanent := satInc s1.intg.permanent } } (q.final outcome)).retireSoon q.unit

/-- The engine has not been idle within 100 ms: the record goes out with its outcome pending. -/
def execRepeatPending (s : State) : Host.Outcome State Fault Refusal :=
  .next <| s.whenUp fun s =>
    match s.intg.repeats.find? fun q => q.pending.isNone && decide (q.since + 100000000 ≤ s.clk.now) with
    | none => s
    | some q =>
      let s1 := s.record { q.sig with outcome := some 0 }
      let mark (u : Repeat) : Repeat := if u == q then { u with pending := some s1.intg.recSeq } else u
      { s1 with intg := { s1.intg with repeats := s1.intg.repeats.map mark } }

/-! ### Eddy (R234, R348 to R356) -/

/-- Checkpoints whose window has been recomputed become CLEAN, in order: no recompute and no vote of the window is left, and no tail holds
them. A checkpoint waits for its SEAL (DEDUCED, log entry 85). -/
def State.cleanUpTo (s : State) (c : CtxId) (step : Nat) : State :=
  (s.ctx c).ckpts.foldl (fun (u : State) k =>
    let last := k.step.toNat + k.ws
    let open_ := (u.intg.pending.any fun r => r.ctx == c && decide (r.step ≤ last)) || u.intg.votes.any fun v => v.ctx == c && decide (v.step ≤ last)
    if k.sealed && decide (last ≤ step) && !open_ && !(u.ctx c).tailHolds k.step then
      (u.sendVerdict c 4 k.step).modCtx c fun x => { x with ckpts := x.ckpts.filter fun q => q.step != k.step }
    else u) s

/-- DISCARD for every unclean checkpoint that a mismatch in the recompute of step `d` touches (R234). -/
def State.discardFrom (s : State) (c : CtxId) (d : Nat) : State :=
  (s.ctx c).ckpts.foldl (fun (u : State) k =>
    if d + 1 ≤ k.step.toNat + k.ws then
      let u1 := (u.sendVerdict c 5 k.step).modCtx c fun x => { x with ckpts := x.ckpts.filter fun q => q.step != k.step }
      if ((u1.ctx c).stream.map fun st => st.step == k.step).getD false then u1.dropStream c false else u1
    else u) s

/-- A closing sweep has covered a program (R355): its tail is gone, and its checkpoints become CLEAN. -/
def State.coverTail (s : State) (c : CtxId) (digest : BitVec 256) : State :=
  let x := s.ctx c
  let current := x.digest == some digest
  let mine (k : Ckpt) : Bool := k.sealed && (if current then decide (x.progFirst.toNat ≤ k.step.toNat) else decide (k.step.toNat < x.progFirst.toNat))
  let s1 := s.modCtx c fun x =>
    { x with tail := if (x.tail.map fun t => t.digest == digest).getD false then none else x.tail
             swept := if current then some digest else x.swept }
  (x.ckpts.filter mine).foldl (fun (u : State) k =>
    (u.sendVerdict c 4 k.step).modCtx c fun y => { y with ckpts := y.ckpts.filter fun q => q.step != k.step }) s1

/-- What was served in a window of periods (R305, R358). -/
def Ctx.servedIn (x : Ctx) (first last : Nat) : List (Nat × Nat) :=
  ((x.history.filter fun h => decide (first ≤ h.1 ∧ h.1 ≤ last)).flatMap fun h => h.2.map fun p => (p.1.toNat, p.2.toNat)).eraseDups

/-- A confirmed mismatch in step `d` (R356, R358). `named` is the engine that an address comparison names; an engine named twice is
retired (R347). The bytes of the unit's capture are not modelled (log entry 82). -/
def State.confirm (s : State) (c : CtxId) (d : Nat) (u : SampleRef) (engine named : Option Engine) : State :=
  let x := s.ctx c
  let region := match engine with
    | some e => s.unitRegion e u.ordinal
    | none => regionMod u.ordinal
  let m := if s.rate region = 0 then 128 else s.rate region
  let first := d + 1 - m
  let s1 : State := { s with intg := { s.intg with mismatches := satInc s.intg.mismatches } }
  let s2 := x.steps.foldl (fun (v : State) t =>
    if ((v.ctx c).step? t.uid).isSome then v.abortStep c t.uid .abortedFault .fault 0 else v) s1
  let s3 := s2.discardFrom c d
  let g : Sig := { Sig.empty 2 with
    cls := some 9, unit := (named.map s.engineName).getD [], ctx := some (c.val, x.regs.gen.toNat), step := some d, job := x.jobKey
    outcome := some 5, window := some (first, d), serving := x.servedIn first d
    detail := [(1, u.idx), (2, u.ordinal), (3, unitKey u.idx u.ordinal), (4, m), (5, Reason.fault.value.toNat)] }
  let e := s3.keepEvidence region [] g
  let s4 := e.1.record e.2
  let s5 : State := match named with
    | some n =>
      match s4.intg.localised.contains n, s4.engineUnit n with
      | true, some w => s4.retireSoon w
      | _, _ => { s4 with intg := { s4.intg with localised := n :: s4.intg.localised } }
    | none => s4
  s5.dispatch

/-- The known-answer tests of a step number: entry 2r is the first test of the Oxbow in region r and entry 2r + 1 its repeat; true is a failure. -/
def katOf (katFails : List Bool) (o : Fin 28) : Bool × Bool :=
  let r := (regionOf o).val
  (katFails.getD (2 * r) false, katFails.getD (2 * r) false && katFails.getD (2 * r + 1) false)

/-- Every working Oxbow. -/
def State.allOxbows (s : State) : List (Fin 28) := s.oxbows 0 ++ s.oxbows 1

/-- An Oxbow has failed its known-answer test twice (R353, R354): a record of KIND 9, and it leaves use. -/
def State.failOxbow (s : State) (o : Fin 28) : State :=
  let name := [(dieOf (regionOf o)).val, (regionOf o).val, o.val, 0, 6, 0]
  (s.record { Sig.empty 9 with cls := some 11, unit := name, outcome := some 2 }).retireUnit (.cluster o)

/-- An Oxbow finishes the recomputes of a step (R352, R353). -/
def execEddyRecomputeComplete (c : CtxId) (step : Nat) (katFails : List Bool) (mismatch : Option SampleRef) (address : Bool)
    (s : State) : Host.Outcome State Fault Refusal :=
  .next <| s.whenUp fun s =>
    match s.intg.pending.find? fun r => r.ctx == c && r.step == step with
    | none => s
    | some q =>
      let ox := s.allOxbows
      let fails := (ox.map fun o => b2n (katOf katFails o).1 + b2n (katOf katFails o).2).sum
      let dead := ox.filter fun o => (katOf katFails o).2
      let s1 : State := { s with intg := { s.intg with
        pending := s.intg.pending.erase q, katFails := satAdd s.intg.katFails fails } }
      if !dead.isEmpty then
        (((dead.foldl State.failOxbow s1).discardFrom c step).gradeChanged).retestAll .capacityLost
      else
        let s2 : State := { s1 with intg := { s1.intg with samples := satAdd s1.intg.samples q.units.length } }
        match mismatch with
        | none => (if q.sweep then s2.coverTail c q.digest else s2).cleanUpTo c step
        | some u =>
          let engine := (q.engines.find? fun e => e.1 == u.idx).map (·.2)
          if address then s2.confirm c step u engine engine
          else { s2 with intg := { s2.intg with votes := s2.intg.votes ++ [{ ctx := c, step := step, unit := u, engine := engine }] } }

/-- The second recompute decides (R356): the checker is at fault, or the mismatch is confirmed. -/
def execEddyVote (agreesWithEngine : Bool) (s : State) : Host.Outcome State Fault Refusal :=
  .next <| s.whenUp fun s =>
    match s.intg.votes with
    | [] => s
    | v :: rest =>
      let s1 : State := { s with intg := { s.intg with votes := rest } }
      if agreesWithEngine then
        let x := s1.ctx v.ctx
        let region := match v.engine with
          | some e => s1.unitRegion e v.unit.ordinal
          | none => regionMod v.unit.ordinal
        let g : Sig := { Sig.empty 2 with
          cls := some 11, ctx := some (v.ctx.val, x.regs.gen.toNat), step := some v.step, job := x.jobKey, outcome := some 4
          detail := [(1, v.unit.idx), (2, v.unit.ordinal)] }
        let s2 : State := { s1 with intg := { s1.intg with checkers := satInc s1.intg.checkers } }
        let e := s2.keepEvidence region [] g
        let s3 : State := match s2.checkerOf region with
          | some o =>
            let u : HwUnit := .array o 0 (s2.arrayAt o 0 0)
            let h : Sig := { Sig.empty 1 with cls := some 11, unit := unitName u, evstate := some 0 }
            { e.1 with intg := { e.1.intg with repeats := e.1.intg.repeats ++
                [{ engine := none, unit := u, since := s.clk.now, sig := h, pending := none }] } }
          | none => e.1
        (s3.record e.2).cleanUpTo v.ctx v.step
      else s1.confirm v.ctx v.step v.unit v.engine none

/-! ### Export (R360, R421) -/

/-- Does a record go into the field journal: KIND 2, 5, 6, 7 and 9, and KIND 1 with OUTCOME 2 or 3? -/
def Sig.journalled (g : Sig) : Bool := [2, 5, 6, 7, 9].contains g.kind || (g.kind == 1 && (g.outcome == some 2 || g.outcome == some 3))

/-- The allowance for signature entries now: 400 KiB that refill at 4 KiB/s. -/
def State.allowanceNow (s : State) : Nat := min 409600 (s.boot.allowance + (s.clk.now - s.boot.refilled) * 4096 / 1000000000)

/-- Bytes of the pages that an entry with a payload of `n` bytes takes (R417). -/
def entryPages (n : Nat) : Nat := min 16 (cdiv (24 + n) 256)

/-- A signature entry draws on the allowance; where that is short, it is not written and counted. -/
def State.journalSig (s : State) (g : Sig) (bs : List Byte) : State :=
  if g.journalled then
    let cost := entryPages bs.length * 256
    let left := s.allowanceNow
    if cost ≤ left then
      State.journal { s with boot := { s.boot with allowance := left - cost, refilled := s.clk.now } } (.signature (bs.take 4072))
    else { s with boot := { s.boot with jrnDrops := satInc s.boot.jrnDrops } }
  else s

/-- Bytes to the signature ring: each to its offset modulo the ring's size. -/
def ringPieces (base size at_ : Nat) (bs : List Byte) : List Output :=
  let off := at_ % size
  let n := size - off
  if bs.length ≤ n then [.hostWrite (base + off) bs] else [.hostWrite (base + off) (bs.take n), .hostWrite base (bs.drop n)]

/-- The oldest record that waits is written: to the ring with its length and then the tail word when a ring is configured, to INTG_LASTREC, and
to the journal. Its evidence area is free again. -/
def execSignatureRecordExport (s : State) : Host.Outcome State Fault Refusal :=
  .next <| s.whenPowered fun s =>
    match s.intg.records with
    | [] => s
    | g :: rest =>
      let whole := sigBytes s.fuse.control true g
      let short := sigBytes s.fuse.control false g
      let areas := match g.area with
        | some a => Vector.ofFn fun i : Fin 8 => s.intg.areas[i] && i.val != a
        | none => s.intg.areas
      let s1 : State := { s with intg := { s.intg with records := rest, areas := areas, lastRec := short } }
      let s2 : State :=
        if s1.cfg.ringLog2 = 0 then s1
        else
          let item := leBytes 4 whole.length ++ whole
          let n := s1.intg.ringCount + item.length
          let base := s1.cfg.ringHi.toNat * 2 ^ 32 + s1.cfg.ringLo.toNat
          let tail := s1.cfg.tailHi.toNat * 2 ^ 32 + s1.cfg.tailLo.toNat
          State.emits { s1 with intg := { s1.intg with ringCount := n } }
            (ringPieces base (2 ^ s1.cfg.ringLog2) s1.intg.ringCount item ++ [.hostWrite tail (leBytes 8 n)])
      s2.journalSig g short

end Sys2Proof.Machine
end

