-- ==== Sys2Proof/Machine/Owner.lean ====
section
/-! DEFINITION. Ownership, links and the aperture (R385 to R400). -/

namespace Sys2Proof.Machine

/-! ### A change of owner (R391, R392) -/

/-- A step declares host bytes. -/
def Step.hostBytes (t : Step) : Bool := t.cmds.any fun k => k.entry.hostOut != 0 || k.entry.hostIn != 0

/-- Steps with host bytes that are not PREPARED end. -/
def State.abortHostSteps (s : State) (c : CtxId) : State :=
  (s.ctx c).steps.foldl (fun (u : State) t =>
    if t.hostBytes && (t.state == .admitted || t.state == .running) && ((u.ctx c).step? t.uid).isSome then
      u.abortStep c t.uid .abortedPreempt .none 0
    else u) s

/-- An AFTER_COMMIT command with a host end does not run any further. -/
def Cmd.loseHost (k : Cmd) : Cmd := if k.afterCommit && k.hostEnd then k.kill else k

/-- The AFTER_COMMIT commands with a host end of what has committed or is PREPARED are given up; a step with nothing left ends. -/
def State.dropHostTails (s : State) (c : CtxId) : State :=
  let held (t : Step) : Bool := t.state == .committed || t.state == .prepared
  let killed := (s.ctx c).steps.flatMap fun t => if held t then t.cmds.filter fun k => k.alive && k.afterCommit && k.hostEnd && k.lineAcked else []
  let s1 := s.emits (killed.filterMap fun k => k.line.map fun l => .lineDone l.1 l.2 true)
  s1.modCtx c fun x =>
    { x with steps := (x.steps.map fun t => if held t then { t with cmds := t.cmds.map Cmd.loseHost } else t).filter fun t =>
        !(t.state == .committed && t.tailOver) }

/-- What one context loses with its owner: its unsealed record bytes, its rings, its work with the host. -/
def State.unbindCtx (s : State) (c : CtxId) : State :=
  let s1 := s.modCtx c fun x => { x with unbound := x.unbound || x.resident, regs := { x.regs with window := [] } }
  (s1.abortHostSteps c).dropHostTails c

/-- The owner becomes another port, or nobody. The terms stand in the order of R392. -/
def State.changeOwner (s : State) (new : Option Port) : State :=
  let s1 : State := { s with own := { s.own with
    owner := new, offer := none, term := satInc s.own.term
    leaseEnd := if new.isSome then s.clk.now + s.cfg.leaseCfg * 1000000000 else s.own.leaseEnd } }
  let s2 := (s1.msixBoth 3).forCtx State.unbindCtx
  State.dispatch (State.abandonUpdate { s2 with cfg := { s2.cfg with ringLog2 := 0 }, intg := { s2.intg with ringCount := 0 } })

/-! ### Claims, leases and offers -/

/-- A port may own: it is up and not limited. -/
def State.eligible (s : State) (p : Port) : Bool := s.linkUp p

/-- A lease that has run out takes effect. -/
def State.expire (s : State) : State :=
  if s.own.owner.isSome && decide (s.own.leaseEnd ≤ s.clk.now) && !s.warming then s.changeOwner none else s

/-- A write of OWN_CLAIM: a claim in the cycle of expiry follows it. -/
def State.writeClaim (s : State) (p : Port) (v : Reg) : State :=
  if v.toNat / 65536 ≠ 0x4F57 then s
  else
    let s1 := s.expire
    match s1.own.owner, s1.own.offer with
    | none, _ => if s1.eligible p then s1.changeOwner (some p) else s1
    | some _, some (q, t) => if q = p ∧ s1.clk.now ≤ t then s1.changeOwner (some p) else s1
    | some _, none => s1

/-- A write of OWN_RENEW by the owner: a renewal in the cycle of expiry keeps the lease. -/
def State.writeRenew (s : State) (v : Reg) : State :=
  if v.getLsbD 0 && decide (s.clk.now ≤ s.own.leaseEnd) then
    { s with own := { s.own with leaseEnd := s.clk.now + s.cfg.leaseCfg * 1000000000 } }
  else s

/-- A write of OWN_RELEASE by the owner: a release, or an offer to the other port. -/
def State.writeRelease (s : State) (p : Port) (v : Reg) : State :=
  if v.getLsbD 0 then s.changeOwner none
  else if v.getLsbD 1 && s.eligible p.other then
    { s with own := { s.own with offer := some (p.other, s.clk.now + 1000000000) } }
  else s

/-- An offer with no claim lapses after 1 s. -/
def execOfferLapse (s : State) : Host.Outcome State Fault Refusal :=
  .next <| s.whenPowered fun s =>
    match s.own.offer with
    | some (_, t) => if t ≤ s.clk.now then { s with own := { s.own with offer := none } } else s
    | none => s

/-- The lease expires: nobody owns the device. -/
def execLeaseExpiry (s : State) : Host.Outcome State Fault Refusal := .next (s.whenPowered State.expire)

/-! ### Ports (R385, R386, R391) -/

/-- The owner's port is reset: it releases ownership. -/
def State.releasePort (s : State) (p : Port) : State := if s.own.owner = some p then s.changeOwner none else s

/-- Set the state of a link; its last rate and width stay. -/
def State.setLink (s : State) (p : Port) (st : LinkState) : State :=
  { s with own := { s.own with links := s.own.links.set p.index { s.own.links[p.index] with state := st } } }

/-- PERST#: the port is reset, and trains again from its release. -/
def execPerst (p : Port) (s : State) : Host.Outcome State Fault Refusal :=
  .next <| s.whenPowered fun s => State.setLink (s.releasePort p) p .down

/-- A Function Level Reset. -/
def execFunctionLevelReset (p : Port) (s : State) : Host.Outcome State Fault Refusal :=
  .next <| s.whenPowered fun s => s.releasePort p

/-- A hot reset: the link trains again. -/
def execHotReset (p : Port) (s : State) : Host.Outcome State Fault Refusal :=
  .next <| s.whenPowered fun s => State.setLink (s.releasePort p) p .training

/-- A port trains at a rate in GT/s, a width in lanes and a payload size in bytes; below 32 GT/s or ×8 it is limited. A change of the owner's
port is applied under R55. -/
def execPcieLinkTrained (p : Port) (gts width mps : Nat) (s : State) : Host.Outcome State Fault Refusal :=
  .next <| s.whenPowered fun s =>
    let l : Link :=
      { state := if gts < 32 ∨ width < 8 then .limited else .up
        speed := if gts < 32 then 0 else if gts < 64 then 1 else 2
        width := min 16 width
        mps := if mps < 256 then 0 else if mps < 512 then 1 else 2 }
    let s1 : State := { s with own := { s.own with links := s.own.links.set p.index l } }
    if s1.own.owner = some p then s1.retestAll .capacityLost else s1

/-- A port's link goes down without PERST#: ownership stays, and the lease runs on. -/
def execPcieLinkDown (p : Port) (s : State) : Host.Outcome State Fault Refusal :=
  .next <| s.whenPowered fun s => s.setLink p .down

/-! ### The aperture (R387 to R390) -/

/-- The device address of an aperture offset. -/
def State.apertureAddr (s : State) (p : Port) (offset : Nat) : Nat := s.cfg.aperture[p.index] * 2 ^ 30 + offset

/-- The kind of the allocation that a device address lies in, over every context. -/
def State.heldKind (s : State) (a : Nat) : Option AllocKind := allCtx.findSome? fun c => kindAt (s.ctx c).alloc a

/-- A byte as a host reads it: the committed view, or zero in a page that nobody holds. -/
def State.hostByte (s : State) (a : Nat) : Byte := if (s.heldKind a).isSome then s.committed a else 0#8

/-- Does a host's read meet a poisoned line of an allocated page? -/
def State.hostPoison (s : State) (a n : Nat) : Bool :=
  s.readsPoison none a n && s.mem.badLines.any fun p => decide (p < a + n ∧ a < p + 64) && (s.heldKind p).isSome

/-- An unsupported request. -/
def State.unsupportedRead (s : State) (p : Port) : State := s.emits [.unsupported p, .aer p .nonFatal]

/-- A BAR4 read. -/
def execBar4Read (p : Port) (offset len : Nat) (s : State) : Host.Outcome State Fault Refusal :=
  .next <|
    if !s.powered || !s.linked p then s
    else
      let a := s.apertureAddr p offset
      if !s.up || !s.linkUp p || decide (s.usable < a + len) || decide (2 ^ 36 < offset + len) then s.unsupportedRead p
      else
        let bs := (List.range len).map fun i => s.hostByte (a + i)
        if s.hostPoison a len then s.emits [.apertureData p bs true, .aer p .nonFatal] else s.emit (.apertureData p bs false)

/-- The part of a write in one page: into a scratch or capture page, or aside where nobody holds the page (log entry 47); whether it has been
discarded. -/
def State.aperturePart (s : State) (a : Nat) (bs : List Byte) : State × Bool :=
  match s.heldKind a with
  | some .scratch | some .capture => (s.putBase a bs, false)
  | some _ => (s, true)
  | none =>
    if a + bs.length ≤ s.usable then ({ s with hbm := { s.hbm with aside := writeCells s.hbm.aside a bs } }, true) else (s, true)

/-- Every part of a write. -/
def State.apertureParts (s : State) (parts : List (Nat × List Byte)) : State × Bool :=
  parts.foldl (fun r w => let n := State.aperturePart r.1 w.1 w.2; (n.1, r.2 || n.2)) (s, false)

/-- A BAR4 write: the owner's, into pages that take it; everything else is discarded and reported. -/
def execBar4Write (p : Port) (offset : Nat) (bytes : List Byte) (s : State) : Host.Outcome State Fault Refusal :=
  .next <|
    if !s.up || !s.linkUp p then s
    else if s.own.owner ≠ some p then s.discardAperture p .correctable
    else
      let r := s.apertureParts (pageParts (bytes.length + 1) (s.apertureAddr p offset) bytes)
      if r.2 then r.1.discardAperture p .nonFatal else r.1

end Sys2Proof.Machine
end

