-- ==== Sys2Proof/Machine/Image.lean ====
section
/-! DEFINITION. The Dunem image (R406 to R409, R424, R428 to R430, R434) and its verification. -/

namespace Sys2Proof.Machine

/-- A section of an image: TYPE, OFFSET, LENGTH and digest. -/
structure Section where
  typ    : Nat
  offset : Nat
  len    : Nat
  digest : BitVec 256
  zero   : Bool
deriving DecidableEq, Repr

/-- Section entry `k`. -/
def readSection (bs : List Byte) (k : Nat) : Section :=
  let o := 64 + 48 * k
  { typ := field bs o 4, offset := field bs (o + 4) 4, len := field bs (o + 8) 4, digest := digestOf (slice bs (o + 16) 32)
    zero := zeroAt bs (o + 12) 4 }

/-- The six sections. -/
def sections (bs : List Byte) : List Section := (List.range 6).map (readSection bs)

/-- The section of a type. -/
def sectionOf (bs : List Byte) (typ : Nat) : Option Section := (sections bs).find? fun x => x.typ == typ

/-- Bytes of a section. -/
def Section.bytes (x : Section) (bs : List Byte) : List Byte := slice bs x.offset x.len

/-- IMAGE_BYTES, IMAGE_SEQ and SECURITY_VERSION. -/
def imageBytes (bs : List Byte) : Nat := field bs 12 4
def imageSeqOf (bs : List Byte) : Nat := field bs 8 4
def imageVersion (bs : List Byte) : Nat := field bs 20 4

/-- The signature's length, SLH-DSA-SHA2-128s. -/
def imageSigBytes : Nat := 7856

/-- The configuration section (R407). -/
structure ImageCfg where
  large : Bool
  pool  : Nat
  lease : Nat
deriving DecidableEq, Repr

/-- Read the configuration; none where a value lies outside its range. -/
def readImageCfg (bs : List Byte) : Option ImageCfg :=
  let mode := field bs 0 1
  let pool := field bs 1 2
  let lease := field bs 3 1
  if bs.length = 8 ∧ mode ≤ 1 ∧ (pool = 0 ∨ (2 ≤ pool ∧ pool ≤ 256)) ∧ lease ≤ 60 ∧ zeroAt bs 4 4 then
    some { large := mode == 1, pool := pool, lease := lease }
  else none

/-- The layout rules of R406. -/
def imageFormed (bs : List Byte) : Bool :=
  let n := imageBytes bs
  let ss := sections bs
  decide (field bs 0 4 = 0x4D4E5544) && decide (field bs 4 4 = 1) && decide (field bs 16 4 = 6) && zeroAt bs 24 40
    && decide (352 + imageSigBytes ≤ n ∧ n ≤ 2 ^ 24 ∧ n ≤ bs.length)
    && (List.range 6).all (fun i => (ss.filter fun x => x.typ == i + 1).length == 1)
    && ss.all (fun x => x.zero && decide (352 ≤ x.offset ∧ x.offset + x.len ≤ n - imageSigBytes))
    && ss.all (fun x => x.typ != 4 || decide (x.len ≤ 2 ^ 20))

/-- Every section hashes to its digest (R409, R429). -/
def sectionsMatch (bs : List Byte) : Bool := (sections bs).all fun x => sha256 (x.bytes bs) == x.digest

/-- The configuration of an image. -/
def imageCfg (bs : List Byte) : Option ImageCfg := (sectionOf bs 1).bind fun x => readImageCfg (x.bytes bs)

/-- An image verifies (R429). -/
def imageVerifies (key : BitVec 256) (fsv : Nat) (bs : List Byte) : Bool :=
  let n := imageBytes bs
  imageFormed bs && sectionsMatch bs && (imageCfg bs).isSome && decide (fsv ≤ imageVersion bs ∧ imageVersion bs ≤ 64)
    && Config.slhVerify 1 (digestBytes key) (bs.take (n - imageSigBytes)) (slice bs (n - imageSigBytes) imageSigBytes)

/-- The slots in the order they are tried (R408): true is slot B. -/
def bootOrder (strap : BitVec 2) (f : Flash) : List Bool :=
  match strap.toNat with
  | 0 =>
    let d := (imageSeqOf f.slotB + 2 ^ 32 - imageSeqOf f.slotA % 2 ^ 32) % 2 ^ 32
    if 0 < d ∧ d < 2 ^ 31 then [true, false] else [false, true]
  | 1 => [false]
  | 2 => [true]
  | _ => []

/-- The bytes of a slot. -/
def Flash.slot (f : Flash) (b : Bool) : List Byte := if b then f.slotB else f.slotA

/-- Record whether a slot verified. -/
def State.setValid (s : State) (b ok : Bool) : State :=
  if b then { s with boot := { s.boot with validB := ok } } else { s with boot := { s.boot with validA := ok } }

/-- M3 of an operation on a key slot: 1 load, 2 erase (R435). -/
def keyEvent (op : Nat) (slot : Fin 16) (k : Key) : BitVec 256 := sha256 (leBytes 1 op ++ leBytes 1 slot.val ++ leBytes 1 k.param ++ k.bytes)

/-- The measurements of a boot that follow the image: M1, each occupied key slot, and the resident versions again (R435). -/
def State.measureBoot (s : State) : State :=
  let bs := s.boot.store
  let s1 := s.measure 1 (sha256 (bs.take (imageBytes bs - imageSigBytes)))
  let s2 := s1.measure 1 (match sectionOf bs 1 with
    | some x => sha256 (x.bytes bs)
    | none => 0#256)
  let s3 := (List.finRange 16).foldl (fun (u : State) n => match s.sec.keys[n] with
    | some k => u.measure 3 (keyEvent 1 n k)
    | none => u) s2
  allCtx.foldl (fun (u : State) c => ((s.ctx c).models.filter (·.resident)).foldl (fun v m => v.measure 4 m.name) u) s3

/-- Take the boot's next phase: training until the channels have trained, then firmware (DEDUCED, log entry 86). -/
def State.afterImage (s : State) : State := { s with boot := { s.boot with phase := if s.boot.trained then .firmware else .training } }

/-- An image has verified: it fills the boot store, and on a cold boot its configuration gives two reset values. -/
def State.takeImage (s : State) (b : Bool) (bs : List Byte) : State :=
  let img := bs.take (imageBytes bs)
  let c := (imageCfg img).getD { large := false, pool := 0, lease := 0 }
  let s1 : State := { s with
    boot := { s.boot with slotB := b, store := img, imageSeq := imageSeqOf img, mgmt := c.large }
    sec := { s.sec with svn := imageVersion img }
    cfg := if s.boot.warm then s.cfg else { s.cfg with
      poolGib := if c.pool = 0 then 8 else c.pool, leaseCfg := if c.lease = 0 then 10 else c.lease } }
  ((s1.setValid b true).measureBoot).afterImage

/-- The next slot is read and verified (R408). -/
def State.trySlot (s : State) : State :=
  match (bootOrder s.boot.strap s.flash).find? fun b => !s.boot.tried.contains b with
  | none => s
  | some b =>
    let bs := s.flash.slot b
    let s1 : State := { s with boot := { s.boot with tried := s.boot.tried ++ [b] } }
    if imageVerifies s.fuse.imageKey s.fuse.fsv bs then s1.takeImage b bs
    else
      let s2 := s1.setValid b false
      let left := (bootOrder s.boot.strap s.flash).any fun x => !s1.boot.tried.contains x
      if left then { s2 with boot := { s2.boot with err := if b then 3 else 2 } }
      else { s2 with boot := { s2.boot with err := 4, phase := .noImage } }

/-- The image is verified: on a warm boot the stored one, and else the next slot of the flash. -/
def execBootImageVerified (s : State) : Host.Outcome State Fault Refusal :=
  .next <| s.whenPowered fun s =>
    if s.boot.phase ≠ .image then s
    else if s.boot.store.isEmpty then s.trySlot
    else if sectionsMatch s.boot.store then s.measureBoot.afterImage
    else { s with boot := { s.boot with store := [], err := 7 } }

/-! ### Updates (R424) -/

/-- A write of BOOT_UPD_CTL with GO. -/
def State.writeUpdCtl (s : State) (v : Reg) : State :=
  if v.getLsbD 31 && !(decide (1 ≤ s.boot.updState ∧ s.boot.updState ≤ 4)) then
    { s with boot := { s.boot with
        updState := 1, updLen := s.cfg.updLen, updAddr := (s.cfg.updAddrHi.toNat % 65536) * 2 ^ 32 + s.cfg.updAddrLo.toNat } }
  else s

/-- The update ends: 6 where the image does not verify, 7 where programming or the read-back fails, else 5 with an image entry. -/
def execImageUpdateDone (programOk : Bool) (s : State) : Host.Outcome State Fault Refusal :=
  .next <| s.whenUp fun s =>
    if s.boot.updState = 0 ∨ 5 ≤ s.boot.updState then s
    else
      let bs := s.committedBytes s.boot.updAddr s.boot.updLen
      let b := !s.boot.slotB
      if !imageVerifies s.fuse.imageKey s.fuse.fsv bs then
        { s with boot := { s.boot with updState := 6 }, sec := { s.sec with failed := satInc s.sec.failed } }
      else if !programOk then
        State.setValid { s with
          boot := { s.boot with updState := 7 }
          flash := if b then { s.flash with slotB := [] } else { s.flash with slotA := [] } } b false
      else
        let s1 : State := { s with
          boot := { s.boot with updState := 5 }
          flash := if b then { s.flash with slotB := bs } else { s.flash with slotA := bs } }
        (s1.setValid b true).journal (.image b (imageSeqOf bs))

end Sys2Proof.Machine
end

