-- ==== Sys2Proof/Machine/Journal.lean ====
section
/-! DEFINITION. The field journal (R417 to R423): appends, replay, compaction and time marks. -/

namespace Sys2Proof.Machine

/-- Pages of an entry (R417): its header, trailer and payload. -/
def entryPagesOf : JBody → Nat
  | .signature bs => entryPages bs.length
  | _ => 1

/-- An area's AREA_SEQ is newer than another's (R419). -/
def newerArea (a b : Nat) : Bool := let d := (a + 2 ^ 32 - b % 2 ^ 32) % 2 ^ 32; decide (0 < d ∧ d < 2 ^ 31)

/-- The active area: the one with a valid header and the higher AREA_SEQ. -/
def activeArea (f : Flash) : Fin 2 :=
  match f.areas[0].header, f.areas[1].header with
  | some a, some b => if newerArea b.1 a.1 then 1 else 0
  | none, some _ => 1
  | _, none => 0

/-- The entries that a replay accepts, in ENTRY_SEQ order (R419). -/
def replayed (f : Flash) : List JEntry :=
  let i := activeArea f
  let mine := f.areas[i]
  let other := f.areas[1 - i]
  let more := match mine.header, other.header with
    | some a, some b => if b.1 + 1 = a.1 then other.entries.filter fun e => decide (a.2 < e.seq) && !(mine.entries.any fun m => m.seq == e.seq) else []
    | _, _ => []
  match mine.header with
  | some _ => (mine.entries ++ more).mergeSort fun a b => decide (a.seq ≤ b.seq)
  | none => []

/-- The last time mark. -/
def lastMarkOf (es : List JEntry) : Option (Nat × Nat × Nat × List Nat × Nat) :=
  es.foldl (fun acc e => match e.body with
    | .mark t c w r n => some (t, c, w, r, n)
    | _ => acc) none

/-- The working copy takes an entry that has been written, or that is kept in SRAM alone. -/
def State.keepEntry (s : State) (e : JEntry) : State :=
  { s with boot := { s.boot with journal := s.boot.journal ++ [e], queue := s.boot.queue.drop 1 } }

/-- The flash has failed a status check (R423): JRN_FAULT, ERR 6 and vector 0. -/
def State.journalFault (s : State) : State := State.msixBoth { s with boot := { s.boot with jrnFault := true, err := 6 } } 0

/-- Retirements and grades stay in force in SRAM after a journal fault. -/
def keptAfterFault : JBody → Bool
  | .retirement _ _ => true
  | .grade _ _ _ => true
  | _ => false

/-- Change an area of the flash. -/
def State.setArea (s : State) (i : Fin 2) (a : Area) : State := { s with flash := { s.flash with areas := s.flash.areas.set i a } }

/-- The oldest event that waits is written to the journal (R417, R422): an area that has no header yet gets one (DESIGN CHOICE, log entry 87).
Past 75% of the area, compaction starts. -/
def execJournalAppend (programOk : Bool) (s : State) : Host.Outcome State Fault Refusal :=
  .next <| s.whenPowered fun s =>
    match s.boot.queue with
    | [] => s
    | b :: rest =>
      let e : JEntry := { seq := s.boot.jrnSeq + 1, pages := entryPagesOf b, body := b }
      if s.boot.jrnFault then
        (if keptAfterFault b then s.keepEntry e else { s with boot := { s.boot with queue := rest } })
      else if !programOk then
        (if keptAfterFault b then s.keepEntry e else { s with boot := { s.boot with queue := rest } }).journalFault
      else
        let a := s.flash.areas[s.boot.active]
        if 32768 < a.fill + e.pages then s
        else
          let a1 : Area := { header := some (a.header.getD (1, 0)), entries := a.entries ++ [e], fill := a.fill + e.pages }
          let s1 := (s.setArea s.boot.active a1).keepEntry e
          { s1 with boot := { s1.boot with
              jrnSeq := e.seq, compacting := s1.boot.compacting || (decide (24576 < a1.fill) && !s1.boot.erasing) } }

/-- Bytes of an entry. -/
def JEntry.size (e : JEntry) : Nat := e.pages * 256

/-- The newest signature entries up to a number of bytes; the list is newest first. -/
def newestSigs : List JEntry → Nat → List JEntry
  | [], _ => []
  | e :: es, left => if e.size ≤ left then e :: newestSigs es (left - e.size) else []

/-- Is an entry part of every snapshot (R422)? A miss stays for 24 h of journal time. -/
def inSnapshot (now : Nat) (e : JEntry) : Bool :=
  match e.body with
  | .mark _ _ _ _ _ | .signature _ | .snapshot | .image _ _ => false
  | .miss _ _ t => decide (now < t + 86400)
  | _ => true

/-- The snapshot of a journal: the latest mark, what must stay, and the newest signature entries up to 1 MiB in all. Entries keep their
numbers (DESIGN CHOICE, log entry 88). -/
def snapshotOf (now : Nat) (es : List JEntry) : List JEntry :=
  let isMark (e : JEntry) : Bool := match e.body with
    | .mark _ _ _ _ _ => true
    | _ => false
  let isSig (e : JEntry) : Bool := match e.body with
    | .signature _ => true
    | _ => false
  let base := ((es.filter isMark).getLast?).toList ++ es.filter (inSnapshot now)
  let used := (base.map JEntry.size).sum
  (base ++ newestSigs (es.filter isSig).reverse (2 ^ 20 - used)).mergeSort fun a b => decide (a.seq ≤ b.seq)

/-- The event of a time mark (R418, R420). -/
def State.markBody (s : State) : JBody :=
  .mark s.jnow s.boot.cold.toNat s.boot.warms.toNat ((s.boot.lifeRungs.zip s.rcv.counts.toList).map fun p => p.1 + p.2.toNat)
    (s.boot.lifeRetires + s.rcv.retires.toNat)

/-- A time mark is written. -/
def State.mark (s : State) : State := State.journal { s with boot := { s.boot with lastMark := s.jnow } } s.markBody

/-- Compaction ends (R422): the other area holds the snapshot and takes over, and the old one is to be erased. -/
def execCompactionDone (programOk : Bool) (s : State) : Host.Outcome State Fault Refusal :=
  .next <| s.whenPowered fun s =>
    if !s.boot.compacting then s
    else if !programOk then State.journalFault { s with boot := { s.boot with compacting := false } }
    else
      let i := s.boot.active
      let es := snapshotOf s.jnow s.boot.journal
      let seq := ((s.flash.areas[i].header.map (·.1)).getD 0 + 1) % 2 ^ 32
      let a : Area := { header := some (seq, s.boot.jrnSeq), entries := es, fill := 1 + (es.map (·.pages)).sum }
      let s1 := s.setArea (1 - i) a
      State.mark { s1 with boot := { s1.boot with
        active := 1 - i, compacting := false, erasing := true, journal := es, compacts := satInc s1.boot.compacts } }

/-- The old area has been erased. -/
def execAreaEraseDone (eraseOk : Bool) (s : State) : Host.Outcome State Fault Refusal :=
  .next <| s.whenPowered fun s =>
    if !s.boot.erasing then s
    else
      let s1 : State := { s with boot := { s.boot with erasing := false } }
      if eraseOk then s1.setArea (1 - s.boot.active) Area.erased else s1.journalFault

/-- A time mark is due every 900 s. -/
def execTimeMark (s : State) : Host.Outcome State Fault Refusal :=
  .next <| s.whenPowered fun s => if s.boot.lastMark + 900 ≤ s.jnow then s.mark else s

end Sys2Proof.Machine
end

