-- ==== Sys2Proof/Machine/Boot.lean ====
section
/-! DEFINITION. Bring-up (R401, R402, R408 to R416, R419, R420, R435, R475): the pins, the replay of the journal, training, firmware, the
start-up test, reconciliation, and the start of admission. -/

namespace Sys2Proof.Machine

/-! ### Pins (R401, R475) -/

/-- Is the device booting an image: it has power, and it is neither held nor without an image? -/
def State.bootable (s : State) : Bool := s.powered && s.boot.phase != .held && s.boot.phase != .noImage

/-- A hold boot is an event of M5 (R435). -/
def State.holdEvent (s : State) : State :=
  if s.boot.phase = .held then s.measure 5 (sha256 (leBytes 4 (Config.eventCode 1).toNat)) else s

/-- PWRGD_IN rises: a cold boot starts at once, or with the rise of RESET_IN_N. -/
def execPwrgdInRise (straps : BitVec 2) (s : State) : Host.Outcome State Fault Refusal :=
  .next <|
    if s.clk.pwrgd then s
    else if s.clk.resetN then (s.coldStart { now := 0, pwrgd := true, resetN := true, straps := straps } straps none).holdEvent
    else s.coldStart { now := 0, pwrgd := true, resetN := false, straps := straps } 0#2 none

/-- PWRGD_IN falls: the device stops at once and writes nothing further. -/
def execPwrgdInFall (s : State) : Host.Outcome State Fault Refusal := .next { s with clk := { s.clk with pwrgd := false } }

/-- The cold reset of the reset-in pin. -/
def State.pinReset (s : State) : State :=
  (s.coldStart { s.clk with now := 0, resetN := false } 0#2 s.waitingMiss).noteRung
    { scope := .cold, start := 0, missed := false, engine := none, todo := [] }

/-- RESET_IN_N is low for a time: 1 µs or more is a cold reset, and holds the device in reset. A device that holds itself in reset
answers to nothing but its power (R373). -/
def execResetInNAssert (heldNs : Nat) (s : State) : Host.Outcome State Fault Refusal :=
  .next <|
    if heldNs < 1000 ∨ !s.clk.resetN then s
    else if s.clk.pwrgd && !s.rcv.dead then s.pinReset
    else { s with clk := { s.clk with resetN := false } }

/-- RESET_IN_N rises: the cold boot starts, and the straps are latched. -/
def execResetInNRelease (straps : BitVec 2) (s : State) : Host.Outcome State Fault Refusal :=
  .next <|
    if s.clk.resetN then s
    else if s.clk.pwrgd && !s.rcv.dead then
      let s1 := s.coldStart { now := 0, pwrgd := true, resetN := true, straps := straps } straps s.rcv.heldMiss
      State.holdEvent { s1 with rcv := { s1.rcv with rungs := s.rcv.rungs, counts := s.rcv.counts, last := s.rcv.last } }
    else { s with clk := { s.clk with resetN := true, straps := straps } }

/-! ### The journal at boot (R419, R420, R423) -/

/-- The unit that a missed rung's name stands for (R372, R418). -/
def unitOfName (name : List Nat) (rung : Nat) : Option HwUnit :=
  let at_ (i : Nat) : Nat := name.getD i 0
  let cluster : Option HwUnit := if h : at_ 2 < 28 then some (.cluster ⟨at_ 2, h⟩) else none
  match rung with
  | 1 =>
    match at_ 4 with
    | 3 => if h : at_ 1 < 5 ∧ at_ 5 < 32 then some (.dmaChannel ⟨at_ 1, h.1⟩ ⟨at_ 5, h.2⟩) else none
    | 5 => if h : at_ 1 < 4 then some (.agent ⟨at_ 1, h⟩) else none
    | _ => cluster
  | 2 | 3 => cluster
  | 4 => if h : at_ 1 < 4 then some (.region ⟨at_ 1, h⟩) else none
  | 5 => some .device
  | _ => none

/-- The misses of a journal: unit, rung, time. -/
def missesOf (bs : List JBody) : List (List Nat × Nat × Nat) :=
  bs.filterMap fun b => match b with
    | .miss u r t => if r = 0 then none else some (u, r, t)
    | _ => none

/-- The retry failures of a channel in a journal. -/
def chanFailsOf (bs : List JBody) (c : Fin 256) : List Nat :=
  bs.filterMap fun b => match b with
    | .miss u 0 t => if u = unitName (.hbmChannel c) then some t else none
    | _ => none

/-- The lost channels of a journal. -/
def lostOf (bs : List JBody) : List Nat :=
  bs.foldl (fun acc b => match b with
    | .chanLost _ set => (acc ++ set).eraseDups
    | _ => acc) []

/-- The last grade of a journal. -/
def gradeOf (bs : List JBody) : Nat × Nat × Nat :=
  bs.foldl (fun acc b => match b with
    | .grade a x y => (a, x, y)
    | _ => acc) (0, 0, 0)

/-- The miss that a cold reset cut off is written first, with the retirement that it brings (R372, R420). -/
def State.writeHeldMiss (s : State) : State :=
  match s.rcv.heldMiss with
  | none => s
  | some (u, r) =>
    let s1 : State := { s with rcv := { s.rcv with heldMiss := none } }
    let again := s1.rcv.missLog.any fun m => m.1 == u && m.2.1 == r && decide (s1.jnow < m.2.2 + 86400)
    let s2 := State.journal { s1 with rcv := { s1.rcv with missLog := (u, r, s1.jnow) :: s1.rcv.missLog } } (.miss u r s1.jnow)
    match again, unitOfName u r with
    | true, some w => s2.journalRetire w
    | _, _ => s2

/-- What the journal gives the device: its windows, spares, breaks, lost channels, last grade, and the lifetime counts. -/
def State.loadJournal (s : State) (es : List JEntry) : State :=
  let bs := es.map (·.body) ++ s.boot.queue
  let m := (lastMarkOf es).getD (0, 0, 0, [0, 0, 0, 0, 0, 0], 0)
  let lost := lostOf bs
  let spares := bs.filterMap fun b => match b with
    | .spare k sub row => some (k, sub, row)
    | _ => none
  let breaks := bs.filterMap fun b => match b with
    | .ringBreak r g => some (r, g)
    | _ => none
  let chan (c : Fin 256) : Channel :=
    { suspect := false, lost := s.hbm.chans[c].lost || lost.contains c.val, fails := chanFailsOf bs c }
  { s with
    boot := { s.boot with
      journal := es, jtime := m.1, start := s.clk.now, lastMark := m.1
      jrnSeq := (es.map (·.seq)).foldl max s.boot.jrnSeq, active := activeArea s.flash
      compacting := decide (24576 < s.flash.areas[activeArea s.flash].fill)
      erasing := (s.flash.areas[1 - activeArea s.flash].header).isSome
      cold := if s.boot.warm then s.boot.cold else satInc (BitVec.ofNat 32 m.2.1)
      warms := if s.boot.warm then s.boot.warms else BitVec.ofNat 32 m.2.2.1
      lifeRungs := m.2.2.2.1, lifeRetires := m.2.2.2.2, lastGrade := gradeOf bs }
    rcv := { s.rcv with missLog := missesOf bs }
    sram := { s.sram with spares := spares.eraseDups }
    ring := { breaks := breaks.eraseDups }
    hbm := { s.hbm with
      chans := Vector.ofFn chan
      mapped := if s.boot.warm then s.hbm.mapped else lost } }

/-- The replay of the journal ends (R419): M0 holds the boot ROM and the fuse map, and the image is next. A journal that cannot be read leaves
the fuse map and the test (R423); one that failed earlier in this power cycle stands in SRAM. -/
def execJournalReplayDone (readable : Bool) (s : State) : Host.Outcome State Fault Refusal :=
  .next <| s.whenPowered fun s =>
    if s.boot.phase ≠ .powerOn ∧ s.boot.phase ≠ .flash then s
    else
      let s1 := (s.measure 0 s.fuse.romHash).measure 0 s.fuse.mapHash
      let es := if s1.boot.jrnFault then s1.boot.journal else if readable then replayed s1.flash else []
      let s2 := s1.loadJournal es
      let s3 : State := if readable then s2 else { s2 with boot := { s2.boot with err := 5 } }
      let s4 : State := { s3 with boot := { s3.boot with phase := .image } }
      s4.writeHeldMiss

/-! ### Training and firmware (R411, R412, R414) -/

/-- Who fetches firmware. -/
def State.fetchers (s : State) : List Fetcher :=
  ((List.finRange 56).filter fun k => (s.fuse.present[k.val / 2]?).getD false).map Fetcher.core
  ++ (List.finRange 4).map Fetcher.regionSteward ++ (List.finRange 2).map Fetcher.dieSteward
  ++ ((List.finRange 28).filter fun c => s.fuse.present[c] && s.fuse.oxbow[c]).map Fetcher.oxbow

/-- The next phase, when what it waits for is there. -/
def State.nextPhase (s : State) : State :=
  let p : Phase := match s.boot.phase, s.boot.trained with
    | .training, true => .firmware
    | q, _ => q
  let done := s.fetchers.all s.boot.fetched.contains
  let q : Phase := if p = .firmware ∧ done then .test else p
  { s with boot := { s.boot with phase := q } }

/-- Every channel has trained: those that failed are lost, at once on a cold boot, and by migration once Weir is READY on a warm one. -/
def execHbmTrainingDone (failed : List (Fin 256)) (s : State) : Host.Outcome State Fault Refusal :=
  .next <|
    if s.bootable && !s.boot.trained then
      let s1 := failed.foldl State.loseChannel s
      let s2 : State := if s1.boot.warm then s1 else { s1 with hbm := { s1.hbm with mapped := s1.lostSet, migration := .none } }
      let s3 : State := { s2 with
        hbm := { s2.hbm with ready := true, chans := s2.hbm.chans.map fun c => { c with suspect := false } }
        slu := { s2.slu with admitting := false }
        boot := { s2.boot with trained := true } }
      s3.nextPhase
    else s

/-- On a cold boot every group is written with zero data and valid check lines. -/
def execHbmInitialised (s : State) : Host.Outcome State Fault Refusal :=
  .next <|
    if s.bootable && s.boot.trained && !s.boot.warm && !s.hbm.initialised then
      { s with mem := { s.mem.clear 0 (960 * 2 ^ 30) with flips := [] }, hbm := { s.hbm with initialised := true } }
    else s

/-- A fetcher has its section, or has failed. -/
def State.fetchEnd (s : State) (f : Fetcher) (ok : Bool) : State :=
  if s.bootable && (s.boot.phase == .training || s.boot.phase == .firmware) && !s.boot.fetched.contains f && s.fetchers.contains f then
    let s1 : State := { s with boot := { s.boot with
      fetched := s.boot.fetched ++ [f], fetchBad := if ok then s.boot.fetchBad else s.boot.fetchBad ++ [f] } }
    s1.nextPhase
  else s

/-- A fetcher has finished; a wrong CRC fails it. -/
def execFirmwareFetchDone (f : Fetcher) (crcOk : Bool) (s : State) : Host.Outcome State Fault Refusal := .next (s.fetchEnd f crcOk)

/-- A fetcher has not finished within 10 ms. -/
def execFirmwareFetchTimeout (f : Fetcher) (s : State) : Host.Outcome State Fault Refusal := .next (s.fetchEnd f false)

/-- The identity key is derived from the device secret (R431). -/
def execIdentityKeyDerived (s : State) : Host.Outcome State Fault Refusal :=
  .next <|
    if s.bootable && !s.sec.idReady then
      let seed (n : Nat) : List Byte := (digestBytes (sha256 (digestBytes s.fuse.secret ++ leBytes 1 n))).take 16
      { s with sec := { s.sec with idReady := true, idpk := Config.slhPublic (seed 1) (seed 2) (seed 3) } }
    else s

/-! ### Reconciliation (R415, R416) -/

/-- Fuses and journal combined: the use of each cluster, the place in the numbering that it stands for, and the rest of the units. -/
structure Standing where
  use   : Vector ClusterUse 28
  place : Vector Nat 28
  hw    : Hw
deriving DecidableEq, Repr

/-- What the fuses leave. -/
def standingOf (f : Fuse) : Standing where
  use := Vector.ofFn fun c : Fin 28 => if !f.present[c] then .out else if f.oxbow[c] then .checker else .logical 0
  place := Vector.ofFn fun c : Fin 28 => c.val
  hw := { Hw.reset with live := f.live }

/-- A unit that the journal has retired. -/
def Standing.retire (x : Standing) (u : HwUnit) : Standing :=
  match u with
  | .array c k i =>
    let core : Fin 56 := ⟨2 * c.val + k.val, by omega⟩
    { x with hw := { x.hw with live := x.hw.live.set core (x.hw.live[core] &&& ~~~(1#4 <<< i.val)) } }
  | .cluster c => { x with use := x.use.set c .out }
  | .region r => { x with use := (clustersOf r).foldl (fun v (c : Fin 28) => v.set c .out) x.use }
  | .die d => { x with use := ((List.finRange 28).filter fun c => dieOf (regionOf c) == d).foldl (fun v (c : Fin 28) => v.set c .out) x.use }
  | .dmaChannel y ch => { x with hw := { x.hw with chanDown := (y, ch) :: x.hw.chanDown } }
  | .requestLine y l => { x with hw := { x.hw with lineDown := (y, l) :: x.hw.lineDown } }
  | .agent r => { x with hw := { x.hw with agentDown := r :: x.hw.agentDown } }
  | .laneGroup g => { x with hw := { x.hw with lanes := x.hw.lanes &&& ~~~(1#8 <<< g.val) } }
  | .shaEngine e => { x with hw := { x.hw with sha := x.hw.sha &&& ~~~(1#32 <<< e.val) } }
  | .device => { x with hw := { x.hw with retired := true } }
  | .d2dModule _ | .fordModule _ _ | .hbmChannel _ => x

/-- One journal entry. -/
def Standing.apply (x : Standing) (b : JBody) : Standing :=
  match b with
  | .retirement u _ => x.retire u
  | .remap failed oxbow =>
    { x with use := (x.use.set failed .out).set oxbow (.logical 0), place := x.place.set oxbow x.place[failed] }
  | _ => x

/-- Is a unit bad already: the fuses or the journal say so (R415)? -/
def State.knownBad (s : State) (u : HwUnit) : Bool :=
  match u with
  | .array c k i => s.hw.use[c] == .out || !((s.hw.live[2 * c.val + k.val]?.getD 0#4).getLsbD i.val)
  | .cluster c => s.hw.use[c] == .out
  | .region r => (clustersOf r).all fun c => s.hw.use[c] == .out
  | .die d => (List.finRange 28).all fun c => dieOf (regionOf c) != d || s.hw.use[c] == .out
  | .dmaChannel y ch => s.hw.chanDown.contains (y, ch)
  | .requestLine y l => s.hw.lineDown.contains (y, l)
  | .agent r => s.hw.agentDown.contains r
  | .laneGroup g => !s.hw.lanes.getLsbD g.val
  | .shaEngine e => !s.hw.sha.getLsbD e.val
  | .d2dModule m => s.dma.d2d[m] == .lost
  | .fordModule d m => s.dma.ford[d][m] == .lost
  | .hbmChannel c => s.hbm.chans[c].lost
  | .device => s.hw.retired

/-- Where a unit stands in ascending physical cluster order; the others follow. -/
def testOrder : HwUnit → Nat
  | .array c _ _ | .cluster c => c.val
  | _ => 28

/-- The unit that a failed fetcher is (R411, R413). -/
def fetcherUnit : Fetcher → HwUnit
  | .core c => .cluster ⟨c.val / 2, by omega⟩
  | .regionSteward r => .region r
  | .dieSteward d => .die d
  | .oxbow c => .cluster c

/-- A unit that the test finds bad: counted, written and out of use. -/
def State.testFail (s : State) (u : HwUnit) : State :=
  if s.knownBad u then s
  else State.retireUnit { s with boot := { s.boot with testFails := satInc s.boot.testFails } } u

/-- The modules that bring-up leaves live: those that the journal has not lost. -/
def State.modulesUp (s : State) : State :=
  let lost (m : Module) : Bool := (s.boot.journal.map (·.body) ++ s.boot.queue).any fun b => match b with
    | .modLost n => n == m
    | _ => false
  let d2d (i : Fin 48) : ModState := if lost (.d2d i) then .lost else .live
  let ford (d : Fin 2) (i : Fin 16) : ModState := if lost (.ford d i) then .lost else .live
  { s with dma := { s.dma with
      d2d := Vector.ofFn d2d, ford := Vector.ofFn fun d => Vector.ofFn (ford d), ready := Vector.replicate 5 true } }

/-- SRAM after the start-up test: cleared (R125). -/
def State.clearSram (s : State) : State :=
  { s with mem := { s.mem with
      cells := s.mem.cells.filter fun c => !isSram c.1
      undef := s.mem.undef.filter fun u => !isSram u.1
      poison := s.mem.poison.filter fun p => !isSram p } }

/-- The grade of this boot: M2 at each reconciliation, a grade entry where it differs from the last one, and vector 0 and a record of KIND 6 where
it is below the fused one. -/
def State.setGrade (s : State) : State :=
  let g := s.gradeNow
  let below := decide (g.1 < s.fuse.arrays) || decide (g.2.1 + g.2.2 < s.fuse.oxbows)
  let s1 := if s.boot.lastGrade = g then s else s.journal (.grade g.1 g.2.1 g.2.2)
  let s2 : State := { s1 with boot := { s1.boot with lastGrade := g, below := below, reconciled := true, phase := .reconcile } }
  let s3 := s2.measure 2 (sha256 (leBytes 4 s2.bootGrade.toNat))
  if below then (s3.record { Sig.empty 6 with effect := s3.effect }).msixBoth 0 else s3

/-- The start-up test ends, and the device reconciles its fuses, its journal and the test. -/
def execStartUpTestDone (failed : List HwUnit) (s : State) : Host.Outcome State Fault Refusal :=
  .next <|
    if s.bootable && s.boot.phase == .test && s.boot.trained && (s.boot.warm || s.hbm.initialised) then
      let x := (s.boot.journal.map (·.body) ++ s.boot.queue).foldl Standing.apply (standingOf s.fuse)
      let s1 : State := { s.clearSram with hw := { x.hw with use := renumber x.use fun c => x.place[c] } }
      let bad := (failed ++ s.boot.fetchBad.map fetcherUnit).mergeSort fun a b => decide (testOrder a ≤ testOrder b)
      (bad.foldl State.testFail s1.modulesUp).setGrade
    else s

/-! ### Admission (R210, R412) -/

/-- Weir finishes every walk of a row. -/
def State.endWalks (s : State) (r : Fin 17) : State :=
  (List.finRange 8).foldl (fun (u : State) k =>
    if u.slot r k = .folding ∨ u.slot r k = .aborting then u.endWalk r k else u) s

/-- Weir has rebuilt its free pages: it is READY, and Sluice admits unless a migration is to come first (R160, R414). -/
def execWeirRebuildDone (s : State) : Host.Outcome State Fault Refusal :=
  .next <| s.whenPowered fun s =>
    if s.boot.phase ≠ .reconcile ∨ !s.hbm.ready then s
    else
      let s1 := (List.finRange 17).foldl State.endWalks s
      let s2 := s1.forCtx fun t c => t.modCtx c fun x => { x with walking := [] }
      let s3 : State := { s2 with
        weir := { s2.weir with ready := true, rebuild := false }
        boot := { s2.boot with phase := if s2.hw.retired then .retired else .ready }
        slu := { s2.slu with admitting := s2.hbm.migration == .none } }
      if s3.warming then s3 else s3.evalAll

end Sys2Proof.Machine
end

