-- ==== Sys2Proof/Machine/Fabric.lean ====
section
/-! DEFINITION. The Ethernet ports, Riffle and the management path (R25 to R28, R267 to R271, R282 to R291, R467, R469). -/

namespace Sys2Proof.Machine

/-! ### Telemetry settings (R467, R469) -/

/-- Write TEL_TRACE_CTL: CLEAR empties the buffer and clears FROZEN and WRAPPED; reserved bits are ignored. -/
def State.writeTraceCtl (s : State) (v : Reg) : State :=
  let s1 : State := { s with cfg := { s.cfg with traceOn := v.getLsbD 31, freezeOn := v.getLsbD 30, traceCls := v.setWidth 5 } }
  if v.getLsbD 29 then { s1 with tel := { s1.tel with entries := [], frozen := false, wrapped := false } } else s1

/-- Write TEL_TRACE_PAGE of a path's bank. -/
def State.writeTracePage (s : State) (path : Path) (v : Reg) : State :=
  { s with cfg := { s.cfg with tracePage := s.cfg.tracePage.set path.index (v.toNat % 8) } }

/-- Write TEL_VIEW_SEL of a path's bank: a block above 0xC is ignored. -/
def State.writeViewSel (s : State) (path : Path) (v : Reg) : State :=
  if v.toNat % 16 ≤ 12 then
    { s with cfg := { s.cfg with viewSel := s.cfg.viewSel.set path.index (v.toNat % 16, v.toNat / 16 % 16) } }
  else s

/-- May the management path write a TEL_ offset (R469)? -/
def mgmtWritable (off : Nat) : Bool := off == 0x4 || off == 0xC || off == 0x10

/-- Write one of the three TEL_ controls. -/
def State.writeTel (s : State) (path : Path) (off : Nat) (v : Reg) : State :=
  match off with
  | 0x4 => s.writeTraceCtl v
  | 0xC => s.writeTracePage path v
  | 0x10 => s.writeViewSel path v
  | _ => s

/-! ### Management requests (R288) -/

/-- The fields of a management request. -/
structure MgmtReq where
  op     : Nat
  tag    : Nat
  offset : Nat
  count  : Nat
  data   : Reg
  formed : Bool
deriving DecidableEq, Repr

/-- Read a request: whether it is well formed, that is, has a known OP, its zero bytes zero, its count in range and its length. -/
def parseMgmt (p : OxtPkt) : MgmtReq :=
  let bs := p.payload
  let op := field bs 0 1
  let n := field bs 8 2
  let off := field bs 4 4
  let len := if op = 2 then 20 else 16
  let counted := if op = 2 then n == 1 else decide (1 ≤ n ∧ n ≤ 1024 ∧ off % 4096 + 4 * n ≤ 4096)
  { op := op, tag := field bs 2 2, offset := off, count := n, data := BitVec.ofNat 32 (field bs 16 4)
    formed := (op == 1 || op == 2) && bs.length == len && zeroAt bs 1 1 && zeroAt bs 10 6
      && (counted || decide (65536 ≤ off ∨ off % 4 ≠ 0)) && p.psn == 0#32 && p.ackPsn == 0#32 && p.credit == 0#16 }

/-- The payload of a reply. -/
def mgmtReply (q : MgmtReq) (status count : Nat) (data : List Byte) : List Byte :=
  leBytes 1 (q.op % 128 + 128) ++ leBytes 1 status ++ leBytes 2 q.tag ++ leBytes 4 q.offset ++ leBytes 2 count
    ++ leBytes 6 0 ++ data

/-- Count a management packet dropped. -/
def State.dropMgmt (s : State) : State := { s with tel := { s.tel with drops := satInc s.tel.drops } }

/-- Answer a request once (R288). -/
def State.answerMgmt (s : State) (p : OxtPkt) (bs : List Byte) : State :=
  State.emit { s with tel := { s.tel with reqs := satInc s.tel.reqs } } (.mgmtReply p.srcAddr p.srcPort bs)

/-- Serve a request that names this device: a write elsewhere is counted as dropped and answered with STATUS 2 (R288, R469). -/
def State.serveMgmt (s : State) (p : OxtPkt) : State :=
  let q := parseMgmt p
  if !q.formed then s.answerMgmt p (mgmtReply q 3 0 [])
  else if 65536 ≤ q.offset ∨ q.offset % 4 ≠ 0 then s.answerMgmt p (mgmtReply q 1 0 [])
  else if q.op = 1 then
    let r := s.readRegs .mgmt (0xC0000 + q.offset) q.count
    r.1.answerMgmt p (mgmtReply q 0 q.count r.2)
  else if mgmtWritable q.offset then (s.writeTel .mgmt q.offset q.data).answerMgmt p (mgmtReply q 0 0 [])
  else s.dropMgmt.answerMgmt p (mgmtReply q 2 0 [])

/-- A management request (R288): judged by the first row of R281, then dropped in small mode, for another control address, or when it
is a reply. -/
def execManagementRequest (p : OxtPkt) (s : State) : Host.Outcome State Fault Refusal :=
  .next <| s.whenUp fun s =>
    if !pktSound p then s.dropBad
    else if p.typ ≠ 0#4 ∨ p.cls ≠ 5#4 then s
    else if s.boot.mgmt = false ∨ p.job ++ p.epoch ≠ s.fuse.control ∨ (field p.payload 0 1).testBit 7 then s.dropMgmt
    else s.serveMgmt p

/-! ### Riffle (R282 to R284) -/

/-- Is a port up? -/
def State.portUp (s : State) (p : Fin 8) : Bool := decide (2 ≤ s.fab.ports[p].state)

/-- Does the port's MAC answer: the device has power and neither warm nor cold reset runs (R283)? -/
def State.echoes (s : State) (p : Fin 8) : Bool := s.powered && !s.warming && !s.cooling && s.portUp p

/-- STATE of an echo: FENCED and READY. -/
def State.echoState (s : State) : BitVec 8 :=
  BitVec.ofNat 8 (b2n (allCtx.any fun c => (s.ctx c).fenced) + 2 * b2n s.slu.admitting)

/-- A probe addressed to the port's MAC is echoed (R283). -/
def execRiffleProbe (port : Fin 8) (f : RiffleFrame) (s : State) : Host.Outcome State Fault Refusal :=
  .next <|
    if s.echoes port && f.good && f.mine && f.typ == 0x11#8 then
      State.emit { s with fab := { s.fab with echoes := satInc s.fab.echoes } }
        (.riffle port { f with typ := 0x12#8, state := s.echoState, echoTime := BitVec.ofNat 64 s.clk.now })
    else s

/-- Does an echo match a target: SEQ and JOB, on the target's rank and port? -/
def echoMatches (port : Fin 8) (f : RiffleFrame) (x : Ctx) (t : Target) : Bool :=
  x.job.tag == f.job && t.seq == f.seq && t.rank == f.target.toNat && t.local_ == port

/-- A matching echo restarts the target's timer. -/
def Ctx.restartTarget (x : Ctx) (port : Fin 8) (f : RiffleFrame) (now : Ns) : Ctx :=
  let again (t : Target) : Target := if echoMatches port f x t then { t with restart := now, suspect := false } else t
  { x with job := { x.job with targets := x.job.targets.map again } }

/-- An echo (R284): its round trip is traced, and FENCED in it is a suspicion (R287). -/
def execRiffleEcho (port : Fin 8) (f : RiffleFrame) (s : State) : Host.Outcome State Fault Refusal :=
  .next <|
    if s.echoes port && f.good && f.mine && f.typ == 0x12#8 then
      match allCtx.find? fun c => (s.ctx c).job.targets.any (echoMatches port f (s.ctx c)) with
      | none => s
      | some c =>
        let rank := f.target.toNat
        let rtt := min (s.clk.now - f.probeTime.toNat) (2 ^ 22 - 1)
        let s1 := (s.modCtx c fun x => x.restartTarget port f s.clk.now).trace 3 0x30 c.val (rank % 2 ^ 14 * 2 ^ 22 + rtt)
        if f.state.getLsbD 0 then s1.suspect .fencedSeen (some c) rank port.val (s1.ctx c).job.epoch.toNat else s1
    else s

/-- The probe of a target. -/
def Ctx.probe (x : Ctx) (t : Target) (now : Ns) : RiffleFrame where
  good := true
  mine := true
  typ := 0x11#8
  state := 0#8
  seq := t.seq
  prober := BitVec.ofNat 16 (x.job.rank.getD 0)
  target := BitVec.ofNat 16 t.rank
  job := x.job.tag
  probeTime := BitVec.ofNat 64 now
  echoTime := 0#64

/-- Probe every target of a context: each takes the next sequence number. -/
def State.probeTargets (s : State) (c : CtxId) : State :=
  let x := s.ctx c
  if x.maySend then
    let ts := x.job.targets.map fun t => { t with seq := t.seq + 1#16 }
    (s.setCtx c { x with job := { x.job with targets := ts } }).emits
      (ts.filterMap fun t => if s.portUp t.local_ then some (.riffle t.local_ (x.probe t s.clk.now)) else none)
  else s

/-- Every INTERVAL each target is probed (R284). -/
def execRiffleInterval (s : State) : Host.Outcome State Fault Refusal :=
  .next <| s.whenUp fun s =>
    if s.cfg.riffleOn && decide (s.fab.probeAt ≤ s.clk.now) then
      let s1 : State := { s with fab := { s.fab with probeAt := s.clk.now + s.cfg.riffleUs * 1000 } }
      s1.forCtx State.probeTargets
    else s

/-- A target's timer of three intervals expires: the target is suspect (R284). -/
def execRiffleTimerExpiry (c : CtxId) (i : Nat) (s : State) : Host.Outcome State Fault Refusal :=
  .next <| s.whenUp fun s =>
    let x := s.ctx c
    match x.job.targets[i]? with
    | some t =>
      if s.cfg.riffleOn && x.maySend && !t.suspect && decide (t.restart + 3 * s.cfg.riffleUs * 1000 ≤ s.clk.now) then
        (s.modCtx c fun x => { x with job := { x.job with targets := x.job.targets.modify i fun t => { t with suspect := true } } }).suspect
          .riffle (some c) t.rank t.local_.val x.job.epoch.toNat
      else s
    | none => s

/-! ### Priority flow control (R270, R271) -/

/-- Change a port. -/
def State.modPort (s : State) (p : Fin 8) (f : EthPort → EthPort) : State :=
  { s with fab := { s.fab with ports := s.fab.ports.set p (f s.fab.ports[p]) } }

/-- A pause or its end, for one priority: a pause that stands goes on. -/
def EthPort.pause (e : EthPort) (priority : Fin 8) (xoff : Bool) (now : Ns) : EthPort :=
  let at_ (old : Option Ns) : Option Ns := if xoff then some (old.getD now) else none
  match priority.val with
  | 3 => { e with pause3 := at_ e.pause3, storm3 := e.storm3 && xoff }
  | 4 => { e with pause4 := at_ e.pause4, storm4 := e.storm4 && xoff }
  | _ => e

/-- A PFC frame: only priorities 3 and 4 are honoured (R270). -/
def execPfcFrame (port : Fin 8) (priority : Fin 8) (xoff : Bool) (s : State) : Host.Outcome State Fault Refusal :=
  .next <| s.whenPowered fun s =>
    if s.portUp port then s.modPort port fun e => e.pause priority xoff s.clk.now else s

/-- Is a pause of 1 ms due to be reported? -/
def EthPort.storms (e : EthPort) (priority : Fin 8) (now : Ns) : Bool :=
  let old (start : Option Ns) : Bool := match start with
    | some t => decide (t + 1000000 ≤ now)
    | none => false
  match priority.val with
  | 3 => old e.pause3 && !e.storm3
  | 4 => old e.pause4 && !e.storm4
  | _ => false

/-- The pause has been reported. -/
def EthPort.reported (e : EthPort) (priority : Fin 8) : EthPort :=
  match priority.val with
  | 3 => { e with storm3 := true }
  | 4 => { e with storm4 := true }
  | _ => e

/-- A lossless priority has stayed paused for 1 ms (R271): a suspicion, once for each pause. -/
def execPauseStorm (port : Fin 8) (priority : Fin 8) (s : State) : Host.Outcome State Fault Refusal :=
  .next <| s.whenPowered fun s =>
    if s.portUp port && s.fab.ports[port].storms priority s.clk.now then
      (s.modPort port fun e => e.reported priority).suspect .pauseStorm none 0 port.val 0
    else s

/-! ### Ports up and down (R267, R268) -/

/-- The state of a port from the lanes that trained, and the lanes it runs on. -/
def trained (lanes : BitVec 8) : Nat × BitVec 8 :=
  if lanes = 0xFF#8 then (2, lanes)
  else if lanes &&& 0x0F#8 = 0x0F#8 then (3, 0x0F#8)
  else if lanes &&& 0xF0#8 = 0xF0#8 then (3, 0xF0#8)
  else (0, 0#8)

/-- A port takes a state; admitted work is tested again when the counted rate has fallen (R55, R268). -/
def State.setPort (s : State) (p : Fin 8) (st : Nat) (lanes : BitVec 8) : State :=
  let old := s.fab.ports[p].gbps
  let s1 := s.modPort p fun e =>
    { e with state := st, lanes := lanes
             pause3 := if st = 0 then none else e.pause3, pause4 := if st = 0 then none else e.pause4
             storm3 := e.storm3 && st != 0, storm4 := e.storm4 && st != 0 }
  if s1.fab.ports[p].gbps < old then s1.retestAll .capacityLost else s1

/-- A port has trained. -/
def execPortUp (port : Fin 8) (lanes : BitVec 8) (s : State) : Host.Outcome State Fault Refusal :=
  .next <| s.whenPowered fun s => s.setPort port (trained lanes).1 (trained lanes).2

/-- A port goes down. -/
def execPortDown (port : Fin 8) (s : State) : Host.Outcome State Fault Refusal :=
  .next <| s.whenPowered fun s => s.setPort port 0 0#8

end Sys2Proof.Machine
end

