-- ==== Sys2Proof/Machine/Power.lean ====
section
/-! DEFINITION. Power, clocks and temperature (R443 to R455), and the test port (R435). -/

namespace Sys2Proof.Machine

/-! ### Temperature (R449, R451) -/

/-- A die steward reads a zone's sensors: twelve of them in a compute zone. The zones H follow their stacks. -/
def execZoneTemperatureRead (z : Fin 7) (readings : List Nat) (s : State) : Host.Outcome State Fault Refusal :=
  .next <| s.whenPowered fun s =>
    if z ∈ zonesH ∨ readings = [] ∨ (isCompute z ∧ readings.length ≠ 12) then s
    else
      let t := readings.foldl max 0
      let q := s.pwr.zones[z]
      let s1 : State := { s with pwr := { s.pwr with
        zones := s.pwr.zones.set z { q with temp := t, thermal := zoneLevel z q.thermal t } } }
      s1.applyLevels.endTrip

/-! ### Power (R453) -/

/-- A 1 ms window: above the limit, it requires L1 from L0 at once, and one level more after each 10 ms. -/
def execPowerWindow (watts : Nat) (s : State) : Host.Outcome State Fault Refusal :=
  .next <| s.whenPowered fun s =>
    let above := decide (s.cfg.pwrLimit < watts)
    let up := above && (s.pwr.power == 0 || (decide (s.pwr.raised + 10000000 ≤ s.clk.now) && decide (s.pwr.power < 3)))
    let s1 : State := { s with pwr := { s.pwr with
      nowW := watts, overNow := above
      over95 := if s.cfg.pwrLimit * 95 < watts * 100 then s.clk.now else s.pwr.over95
      power := if up then s.pwr.power + 1 else s.pwr.power
      raised := if up then s.clk.now else s.pwr.raised } }
    s1.applyLevels

/-- The power level falls by one after 10 ms with no window above 95% of the limit, and no earlier than 10 ms after it was required. -/
def execPowerLevelFall (s : State) : Host.Outcome State Fault Refusal :=
  .next <| s.whenPowered fun s =>
    if s.pwr.power = 0 ∨ s.clk.now < s.pwr.over95 + 10000000 ∨ s.clk.now < s.pwr.raised + 10000000 then s
    else
      State.applyLevels { s with pwr := { s.pwr with power := s.pwr.power - 1, raised := s.clk.now, over95 := s.clk.now } }

/-! ### Clocks (R443, R445) -/

/-- The modules of a bridge: between the compute dies, and from each of them to the ford die. -/
def bridgeModules (b : Fin 3) : List Module :=
  match b.val with
  | 0 => (List.finRange 48).map Module.d2d
  | 1 => (List.finRange 16).map (Module.ford 0)
  | _ => (List.finRange 16).map (Module.ford 1)

/-- The loss of a clock is counted and recorded (DESIGN CHOICE for its CLASS, log entry 89). -/
def State.countClock (s : State) : State :=
  State.record { s with pwr := { s.pwr with losses := satInc s.pwr.losses } } { Sig.empty 3 with cls := some 8 }

/-- What a lost clock does below the device resets. A stack's retrains fail from then on, as RETRAIN_RESULT finds. -/
def State.loseClock (s : State) (d : Domain) : State :=
  match d with
  | .ucie b => (bridgeModules b).foldl State.loseModule s
  | .ethernet p => s.setPort p 0 0#8
  | .pcie p => s.setLink p .down
  | _ => s

/-- Does the loss of a clock start a warm device reset? -/
def isWarmDomain : Domain → Bool
  | .arithmetic _ | .mesh _ => true
  | _ => false

/-- Each domain's clock is compared with the management clock. -/
def execClockCheck (lost : List Domain) (s : State) : Host.Outcome State Fault Refusal :=
  .next <| s.whenPowered fun s =>
    let new := lost.filter fun d => !s.pwr.lostClk.contains d
    let s1 := new.foldl (fun (u : State) d => (u.countClock).loseClock d) s
    let s2 : State := { s1 with pwr := { s1.pwr with lostClk := lost, clkOk := s1.pwr.clkOk || lost.isEmpty } }
    if new.contains .management then s2.startRung .cold false none []
    else if new.any fun d => isWarmDomain d then s2.startRung .warm false none []
    else s2

/-! ### The test port (R435) -/

/-- The test port leaves bypass: an event of M5, in a held device too. -/
def execTestPortBypassExit (s : State) : Host.Outcome State Fault Refusal :=
  .next <| s.whenPowered fun s => s.measure 5 (sha256 (leBytes 4 (Config.eventCode 0).toNat))

end Sys2Proof.Machine
end

