-- ==== Sys2Proof/Machine/Registers.lean ====
section
/-! DEFINITION. Writes and latching reads of BAR0 (R16, R286, R338, R355, R362, R382, R386, R390, R391, R394, R424, R430, R432, R435 to
R437, R459 to R464, R467): one operation for every offset. -/

namespace Sys2Proof.Machine

/-! ### Access (R16, R390, R460, R464) -/

/-- Who may write a register: nobody, the owner, or either host. -/
inductive Access where
  | none
  | owner
  | both
deriving DecidableEq, Repr

/-- The access of an offset (R459). -/
def accessOf (off : Nat) : Access :=
  if off % 4 ≠ 0 then .none
  else if off = 0x804 ∨ off = 0x818 ∨ off = 0xA0170 ∨ (0xA0150 ≤ off ∧ off ≤ 0xA016C) then .both
  else if off = 0xC0004 ∨ off = 0xC000C ∨ off = 0xC0010 then .both
  else if off = 0x808 ∨ off = 0x80C ∨ off = 0x810 ∨ off = 0x10010 ∨ off = 0x20004 then .owner
  else if off = 0x40004 ∨ (0x40008 ≤ off ∧ off ≤ 0x40018) ∨ off = 0x40080 ∨ off = 0x50004 ∨ off = 0x60090 then .owner
  else if off = 0x70004 ∨ off = 0x70008 ∨ (0x70010 ≤ off ∧ off ≤ 0x70034) then .owner
  else if off = 0x90004 ∨ off = 0xA0008 ∨ (0xA0100 ≤ off ∧ off ≤ 0xA0140) ∨ (0xB0020 ≤ off ∧ off ≤ 0xB002C) then .owner
  else .none

/-- Is a write of the form that R460 asks for? -/
def writeFormed (off : Nat) (w : RegWrite) : Bool := w.dwords == 1 && w.enables == 0xF#4 && off % 4 == 0

/-- Does the device serve more than the ID_ and BOOT_ blocks (R402, R408), and does no device reset run (R464)? -/
def State.serving (s : State) : Bool :=
  !s.warming && !s.cooling && s.boot.phase != .held && s.boot.phase != .noImage

/-! ### Settings -/

/-- Does a context exist; does a job context exist? -/
def State.anyCtx (s : State) : Bool := allCtx.any fun c => (s.ctx c).resident
def State.anyJob (s : State) : Bool := allCtx.any fun c => (s.ctx c).resident && (s.ctx c).job.tag != 0#32

/-- Change the settings. -/
def State.modCfg (s : State) (f : Cfg → Cfg) : State := { s with cfg := f s.cfg }

/-- A write of a FAB_ address setting, which is ignored while any job context exists (R289). -/
def State.writeFab (s : State) (f : Cfg → Cfg) : State := if s.anyJob then s else s.modCfg f

/-- FAB_RIFFLE_CFG: when probing starts, every liveness timer starts (log entry 66). -/
def State.writeRiffle (s : State) (v : Reg) : State :=
  let us := v.toNat % 128
  if us = 0 ∨ 100 < us then s
  else
    let on := v.getLsbD 31
    let s1 := s.modCfg fun c => { c with riffleOn := on, riffleUs := us }
    if on && !s.cfg.riffleOn then
      let again (t : Target) : Target := { t with restart := s.clk.now, suspect := false }
      State.forCtx { s1 with fab := { s1.fab with probeAt := s.clk.now } } fun u c => u.modCtx c fun x =>
        { x with job := { x.job with targets := x.job.targets.map again } }
    else s1

/-- INTG_RING_CFG: the ring counts from its configuration (R360). -/
def State.writeRing (s : State) (v : Reg) : State :=
  let n := v.toNat % 32
  if n = 0 ∨ (20 ≤ n ∧ n ≤ 30) then
    let s1 := s.modCfg fun c => { c with ringLog2 := n }
    { s1 with intg := { s1.intg with ringCount := 0 } }
  else s

/-! ### Triggers -/

/-- An event of M5 that a register's arming makes: its BAR0 offset as four bytes, little-endian (DESIGN CHOICE, log entry 90). -/
def State.armed (s : State) (off : Nat) : State := s.measure 5 (sha256 (leBytes 4 off))

/-- FAB_FENCE names a context to fence (R286). -/
def State.writeFence (s : State) (v : Reg) : State :=
  if v.getLsbD 31 then
    let c : CtxId := ⟨v.toNat % 16, Nat.mod_lt _ (by decide)⟩
    if (s.ctx c).job.tag = 0#32 then s else s.fence c Who.device
  else s

/-- SLU_CLIENT_CLEAR clears one client's counts; a context that is resident stays counted (DEDUCED, log entry 91). -/
def State.writeClientClear (s : State) (v : Reg) : State :=
  if v.getLsbD 31 then
    s.modClient (v.setWidth 8) fun k => { k with admitted := 0, refused := 0, committed := 0, aborted := 0 }
  else s

/-- RCV_RESET starts rung 4 for a region, or rung 5. -/
def State.writeReset (s : State) (v : Reg) : State :=
  if !v.getLsbD 31 then s
  else match v.toNat % 8 with
    | 4 => s.startRung (.region ⟨v.toNat / 256 % 4, Nat.mod_lt _ (by decide)⟩) false none []
    | 5 => s.startRung .warm false none []
    | _ => s

/-- HBM_INJECT arms an error. -/
def State.writeHbmInject (s : State) (v : Reg) : State :=
  let s1 : State := { s with hbm := { s.hbm with inject := v &&& 0x7FF#32 } }
  if v.toNat / 256 % 4 = 0 then s1 else s1.armed 0x60090

/-- INTG_INJECT arms a fault; a core that does not exist leaves it unchanged. -/
def State.writeIntgInject (s : State) (v : Reg) : State :=
  if 48 ≤ v.toNat % 64 then s
  else
    let s1 : State := { s with intg := { s.intg with inject := v &&& 0x800000FF#32 } }
    if v.getLsbD 31 then s1.armed 0x40080 else s1

/-- INTG_COVER arms a closing sweep. -/
def State.writeCover (s : State) (v : Reg) : State :=
  let c : Option CtxId := if v.getLsbD 31 then some ⟨v.toNat % 16, Nat.mod_lt _ (by decide)⟩ else none
  { s with intg := { s.intg with cover := c } }

/-! ### Security (R430, R432, R436, R437) -/

/-- SEC_SVN_COMMIT raises FSV to the booted version. -/
def State.writeSvn (s : State) (v : Reg) : State :=
  if v.getLsbD 31 && decide (s.fuse.fsv < s.sec.svn) then { s with fuse := { s.fuse with fsv := s.sec.svn } } else s

/-- The key in the staging registers: 32, 48 or 64 bytes for parameter sets 1, 2 or 3. -/
def State.stagedKey (s : State) (param : Nat) : Key :=
  { param := param, bytes := (s.cfg.keyData.toList.flatMap fun r => leBytes 4 r.toNat).take (16 + 16 * param) }

/-- The digest that identifies a key. -/
def Key.id (k : Key) : BitVec 256 := sha256 k.bytes

/-- LOAD: into an empty slot, a key that no other slot holds. -/
def State.loadKey (s : State) (slot : Fin 16) (param : Nat) : State :=
  let k := s.stagedKey param
  let known := s.sec.keys.toList.any fun o => match o with
    | some q => q.id == k.id
    | none => false
  if param = 0 ∨ (s.sec.keys[slot]).isSome ∨ known then s
  else State.measure { s with sec := { s.sec with keys := s.sec.keys.set slot (some k) } } 3 (keyEvent 1 slot k)

/-- ERASE: an occupied slot is emptied. -/
def State.eraseKey (s : State) (slot : Fin 16) : State :=
  match s.sec.keys[slot] with
  | some k => State.measure { s with sec := { s.sec with keys := s.sec.keys.set slot none } } 3 (keyEvent 2 slot k)
  | none => s

/-- SEC_KEY_CTL: LOAD and ERASE together are ignored. -/
def State.writeKeyCtl (s : State) (v : Reg) : State :=
  let slot : Fin 16 := ⟨v.toNat % 16, Nat.mod_lt _ (by decide)⟩
  match v.getLsbD 31, v.getLsbD 30 with
  | true, false => s.loadKey slot (v.toNat / 16 % 4)
  | false, true => s.eraseKey slot
  | _, _ => s

/-- The 336 bytes of an attestation record that are signed. -/
def State.attestFields (s : State) (p : Port) : List Byte :=
  leBytes 4 1 ++ leBytes 4 17424 ++ (s.cfg.nonce[p.index].toList.flatMap fun r => leBytes 4 r.toNat)
  ++ digestBytes (sha256 (digestBytes s.sec.idpk)) ++ leBytes 8 s.fuse.control.toNat ++ leBytes 8 s.clk.now ++ leBytes 4 s.boot.imageSeq
  ++ leBytes 4 s.sec.svn ++ leBytes 4 s.fuse.fsv ++ leBytes 4 s.bootGrade.toNat ++ leBytes 4 s.own.term.toNat
  ++ leBytes 4 (b2n s.boot.slotB + 2 * b2n s.boot.warm + 4 * p.index.val + 8 * b2n s.boot.mgmt)
  ++ s.sec.meas.toList.flatMap digestBytes ++ digestBytes s.sec.idpk

/-- SEC_ATT_CTL: GO snapshots the record of the port. -/
def State.writeAttest (s : State) (p : Port) (v : Reg) : State :=
  let a := s.sec.attest[p.index]
  if v.getLsbD 31 && a.state != 1 then
    let b : Attest := { a with state := 1, since := s.clk.now, fields := s.attestFields p }
    { s with sec := { s.sec with attest := s.sec.attest.set p.index b } }
  else s

/-- The port whose signature runs: the earlier request, port 0 first. -/
def State.signing (s : State) : Option (Fin 2) :=
  let a := s.sec.attest[0]
  let b := s.sec.attest[1]
  if a.state = 1 ∧ (b.state ≠ 1 ∨ a.since ≤ b.since) then some 0 else if b.state = 1 then some 1 else none

/-- The signing unit finishes: the record is ready. -/
def execAttestationSigned (s : State) : Host.Outcome State Fault Refusal :=
  .next <| s.whenUp fun s =>
    match s.signing with
    | none => s
    | some i =>
      let a := s.sec.attest[i]
      let r := a.fields ++ Config.slhSign s.sec.idpk a.fields
      { s with sec := { s.sec with
          attest := s.sec.attest.set i { a with state := 2, record := r }, signed := satInc s.sec.signed } }

/-! ### One write -/

/-- The effect of a permitted write, by offset. -/
def State.applyReg (s : State) (p : Port) (off : Nat) (v : Reg) : State :=
  match off with
  | 0x804 => s.writeClaim p v
  | 0x808 => s.writeRenew v
  | 0x80C => s.writeRelease p v
  | 0x810 => if 1 ≤ v.toNat % 64 ∧ v.toNat % 64 ≤ 60 then s.modCfg fun c => { c with leaseCfg := v.toNat % 64 } else s
  | 0x818 => if v.toNat % 1024 ≤ 896 then s.modCfg fun c => { c with aperture := c.aperture.set p.index (v.toNat % 1024) } else s
  | 0x10010 => s.writeClientClear v
  | 0x20004 =>
    if 2 ≤ v.toNat % 512 ∧ v.toNat % 512 ≤ 256 ∧ !s.anyCtx then s.modCfg fun c => { c with poolGib := v.toNat % 512 } else s
  | 0x40004 => s.writeCover v
  | 0x40008 => if v.toNat % 64 = 0 then s.modCfg fun c => { c with ringLo := v } else s
  | 0x4000C => s.modCfg fun c => { c with ringHi := v }
  | 0x40010 => s.writeRing v
  | 0x40014 => s.modCfg fun c => { c with tailLo := v }
  | 0x40018 => s.modCfg fun c => { c with tailHi := v }
  | 0x40080 => s.writeIntgInject v
  | 0x50004 => s.writeReset v
  | 0x60090 => s.writeHbmInject v
  | 0x70004 => s.writeFab fun c => { c with fabCfg := v &&& 0xFFFFFFF0#32 }
  | 0x70008 => s.writeFab fun c => { c with fabVlan := v &&& 0xFFF#32 }
  | 0x70020 => if v.toNat % 8 = 0 then s.writeFab fun c => { c with fabMacLo := v } else s
  | 0x70024 => s.writeFab fun c => { c with fabMacHi := v &&& 0xFFFF#32 }
  | 0x70028 => s.writeFab fun c => { c with fabGwLo := v }
  | 0x7002C => s.writeFab fun c => { c with fabGwHi := v &&& 0xFFFF#32 }
  | 0x70030 => s.writeRiffle v
  | 0x70034 => s.writeFence v
  | 0x90004 =>
    if 1000 ≤ v.toNat % 4096 ∧ v.toNat % 4096 ≤ 1900 then s.modCfg fun c => { c with pwrLimit := v.toNat % 4096 } else s
  | 0xA0008 => s.writeSvn v
  | 0xA0140 => s.writeKeyCtl v
  | 0xA0170 => s.writeAttest p v
  | 0xB0020 => if v.toNat % 64 = 0 then s.modCfg fun c => { c with updAddrLo := v } else s
  | 0xB0024 => s.modCfg fun c => { c with updAddrHi := v &&& 0xFFFF#32 }
  | 0xB0028 => if v.toNat ≤ 2 ^ 24 then s.modCfg fun c => { c with updLen := v.toNat } else s
  | 0xB002C => s.writeUpdCtl v
  | 0xC0004 => s.writeTraceCtl v
  | 0xC000C => s.writeTracePage (.port p) v
  | 0xC0010 => s.writeViewSel (.port p) v
  | _ =>
    match nth off 0x70010 4, nth off 0xA0100 16, nth off 0xA0150 8 with
    | some k, _, _ => s.writeFab fun c => { c with fabAddr := c.fabAddr.set k v }
    | _, some k, _ => s.modCfg fun c => { c with keyData := c.keyData.set k v }
    | _, _, some k => s.modCfg fun c => { c with nonce := c.nonce.set p.index (c.nonce[p.index].set k v) }
    | _, _, _ => s

/-- A write of a BAR0 register by a host (R16, R386, R390, R460, R461, R464). -/
def State.writeReg (s : State) (off : Nat) (w : RegWrite) : State :=
  if !s.powered || !s.linked w.port then s
  else if !writeFormed off w then s.emit (.aer w.port .nonFatal)
  else if !s.serving || !s.linkUp w.port then s
  else match accessOf off with
    | .none => s
    | .owner => if s.own.owner = some w.port then s.applyReg w.port off w.value else s.discardForeign w.port
    | .both => s.applyReg w.port off w.value

/-- A host's read of a register outside the ID_, OWN_, RCV_ and BOOT_ blocks: zero during a device reset and on a device that boots no image
(R402, R408, R464). -/
def State.hostRead (s : State) (p : Port) (off : Nat) : State :=
  if !s.powered || !s.linked p then s
  else if s.serving then
    let r := s.readReg (.port p) off
    r.1.emit (.registerData p r.2)
  else s.emit (.registerData p 0#32)

/-! ### The commands -/

/-- A write of any register. -/
def execRegisterWrite (offset : Nat) (w : RegWrite) (s : State) : Host.Outcome State Fault Refusal := .next (s.writeReg offset w)

/-- OWN_CLAIM (R391). -/
def execOwnClaim (w : RegWrite) (s : State) : Host.Outcome State Fault Refusal := .next (s.writeReg 0x804 w)

/-- OWN_RENEW (R391). -/
def execOwnRenew (w : RegWrite) (s : State) : Host.Outcome State Fault Refusal := .next (s.writeReg 0x808 w)

/-- OWN_RELEASE (R391). -/
def execOwnRelease (w : RegWrite) (s : State) : Host.Outcome State Fault Refusal := .next (s.writeReg 0x80C w)

/-- An offer, by OWN_RELEASE bit 1 (R391). -/
def execOwnOffer (w : RegWrite) (s : State) : Host.Outcome State Fault Refusal := .next (s.writeReg 0x80C w)

/-- FAB_FENCE (R286). -/
def execFabFence (w : RegWrite) (s : State) : Host.Outcome State Fault Refusal := .next (s.writeReg 0x70034 w)

/-- RCV_RESET (R382). -/
def execRcvReset (w : RegWrite) (s : State) : Host.Outcome State Fault Refusal := .next (s.writeReg 0x50004 w)

/-- SLU_CLIENT_CLEAR (R338). -/
def execSluClientClear (w : RegWrite) (s : State) : Host.Outcome State Fault Refusal := .next (s.writeReg 0x10010 w)

/-- HBM_INJECT (R162). -/
def execHbmInject (w : RegWrite) (s : State) : Host.Outcome State Fault Refusal := .next (s.writeReg 0x60090 w)

/-- INTG_INJECT (R362). -/
def execIntgInject (w : RegWrite) (s : State) : Host.Outcome State Fault Refusal := .next (s.writeReg 0x40080 w)

/-- INTG_COVER (R355). -/
def execIntgCover (w : RegWrite) (s : State) : Host.Outcome State Fault Refusal := .next (s.writeReg 0x40004 w)

/-- BOOT_UPD_CTL (R424). -/
def execBootUpdGo (w : RegWrite) (s : State) : Host.Outcome State Fault Refusal := .next (s.writeReg 0xB002C w)

/-- SEC_SVN_COMMIT (R430). -/
def execSecSvnCommit (w : RegWrite) (s : State) : Host.Outcome State Fault Refusal := .next (s.writeReg 0xA0008 w)

/-- SEC_KEY_CTL with LOAD (R432). -/
def execKeyLoad (w : RegWrite) (s : State) : Host.Outcome State Fault Refusal := .next (s.writeReg 0xA0140 w)

/-- SEC_KEY_CTL with ERASE (R432). -/
def execKeyErase (w : RegWrite) (s : State) : Host.Outcome State Fault Refusal := .next (s.writeReg 0xA0140 w)

/-- SEC_ATT_CTL (R436). -/
def execAttestationGo (w : RegWrite) (s : State) : Host.Outcome State Fault Refusal := .next (s.writeReg 0xA0170 w)

/-- TEL_TRACE_CTL with CLEAR (R467). -/
def execTraceClear (w : RegWrite) (s : State) : Host.Outcome State Fault Refusal := .next (s.writeReg 0xC0004 w)

/-- WEIR_FENCE_LOn (R208). -/
def execFenceRead (p : Port) (row : Fin 17) (s : State) : Host.Outcome State Fault Refusal := .next (s.hostRead p (0x20040 + 4 * row.val))

/-- PWR_NOW_LO (R462). -/
def execPwrNowLoRead (p : Port) (s : State) : Host.Outcome State Fault Refusal := .next (s.hostRead p 0x9000C)

/-- WEIR_MIR_CLEAN_LO (R462). -/
def execWeirMirCleanLoRead (p : Port) (s : State) : Host.Outcome State Fault Refusal := .next (s.hostRead p 0x20208)

/-- BOOT_JRN_SEQ_LO (R462): a device that boots no image serves it too. -/
def execBootJrnSeqLoRead (p : Port) (s : State) : Host.Outcome State Fault Refusal :=
  .next <|
    if s.powered && s.linked p && !s.warming && !s.cooling then
      let r := s.readReg (.port p) 0xB0018
      r.1.emit (.registerData p r.2)
    else s.hostRead p 0xB0018

end Sys2Proof.Machine
end

