-- ==== Sys2Proof/Machine/Dispatch.lean ====
section
/-! DEFINITION. The meaning of every command: one arm for each row of spec/opcode_table.json. -/

namespace Sys2Proof.Machine

/-- The effect of a command on everything but the queue. -/
def exec (i : Instr) (s : State) : Host.Outcome State Fault Refusal :=
  match i with
  | .create r => Sys2Proof.Machine.execCreate r s
  | .teardown r => Sys2Proof.Machine.execTeardown r s
  | .preempt r => Sys2Proof.Machine.execPreempt r s
  | .rebind r => Sys2Proof.Machine.execRebind r s
  | .stepHead r => Sys2Proof.Machine.execStepHead r s
  | .commands r => Sys2Proof.Machine.execCommands r s
  | .epoch r => Sys2Proof.Machine.execEpoch r s
  | .groupTable r => Sys2Proof.Machine.execGroupTable r s
  | .peerAddress r => Sys2Proof.Machine.execPeerAddress r s
  | .riffleTargets r => Sys2Proof.Machine.execRiffleTargets r s
  | .mirrorConfiguration r => Sys2Proof.Machine.execMirrorConfiguration r s
  | .restore r => Sys2Proof.Machine.execRestore r s
  | .pattern r => Sys2Proof.Machine.execPattern r s
  | .join r => Sys2Proof.Machine.execJoin r s
  | .leave r => Sys2Proof.Machine.execLeave r s
  | .stop r => Sys2Proof.Machine.execStop r s
  | .manifest r => Sys2Proof.Machine.execManifest r s
  | .load r => Sys2Proof.Machine.execLoad r s
  | .final r => Sys2Proof.Machine.execFinal r s
  | .intakeWindowWrite port ctx offset bytes => Sys2Proof.Machine.execIntakeWindowWrite port ctx offset bytes s
  | .manifestVerified => Sys2Proof.Machine.execManifestVerified s
  | .stepStart ctx => Sys2Proof.Machine.execStepStart ctx s
  | .commandRelease c => Sys2Proof.Machine.execCommandRelease c s
  | .timeSliceBoundary e => Sys2Proof.Machine.execTimeSliceBoundary e s
  | .matrixCommandComplete c => Sys2Proof.Machine.execMatrixCommandComplete c s
  | .vectorCommandComplete c => Sys2Proof.Machine.execVectorCommandComplete c s
  | .dmaCommandComplete c hostData => Sys2Proof.Machine.execDmaCommandComplete c hostData s
  | .updateCommandComplete c => Sys2Proof.Machine.execUpdateCommandComplete c s
  | .collectiveCommandComplete c => Sys2Proof.Machine.execCollectiveCommandComplete c s
  | .overrun c => Sys2Proof.Machine.execOverrun c s
  | .checkerMismatch c chk ordinal operands => Sys2Proof.Machine.execCheckerMismatch c chk ordinal operands s
  | .weirPageWrite c page => Sys2Proof.Machine.execWeirPageWrite c page s
  | .commit ctx step => Sys2Proof.Machine.execCommit ctx step s
  | .reducedRecord ctx step r => Sys2Proof.Machine.execReducedRecord ctx step r s
  | .collectiveDeadline w missing => Sys2Proof.Machine.execCollectiveDeadline w missing s
  | .walkComplete row slot => Sys2Proof.Machine.execWalkComplete row slot s
  | .servingPeriodStart ctx => Sys2Proof.Machine.execServingPeriodStart ctx s
  | .fetchRequest p => Sys2Proof.Machine.execFetchRequest p s
  | .fetchChunk p => Sys2Proof.Machine.execFetchChunk p s
  | .fetchAbsent p => Sys2Proof.Machine.execFetchAbsent p s
  | .fetchWaitExpiry ctx chunk => Sys2Proof.Machine.execFetchWaitExpiry ctx chunk s
  | .mirrorStreamEnd ctx => Sys2Proof.Machine.execMirrorStreamEnd ctx s
  | .mirrorStreamDeadline ctx => Sys2Proof.Machine.execMirrorStreamDeadline ctx s
  | .mirrorChunk p => Sys2Proof.Machine.execMirrorChunk p s
  | .mirrorDigest p => Sys2Proof.Machine.execMirrorDigest p s
  | .mirrorRepeat p => Sys2Proof.Machine.execMirrorRepeat p s
  | .mirrorSeal p => Sys2Proof.Machine.execMirrorSeal p s
  | .mirrorClean p => Sys2Proof.Machine.execMirrorClean p s
  | .mirrorDiscard p => Sys2Proof.Machine.execMirrorDiscard p s
  | .mirrorRefuse p => Sys2Proof.Machine.execMirrorRefuse p s
  | .take p => Sys2Proof.Machine.execTake p s
  | .none p => Sys2Proof.Machine.execNone p s
  | .restoreWaitExpiry ctx chunk => Sys2Proof.Machine.execRestoreWaitExpiry ctx chunk s
  | .collectiveMessage p => Sys2Proof.Machine.execCollectiveMessage p s
  | .stageQueueData p => Sys2Proof.Machine.execStageQueueData p s
  | .oxtAck p => Sys2Proof.Machine.execOxtAck p s
  | .oxtNack p => Sys2Proof.Machine.execOxtNack p s
  | .oxtResetNack p => Sys2Proof.Machine.execOxtResetNack p s
  | .oxtAbort p => Sys2Proof.Machine.execOxtAbort p s
  | .notReadyWaitExpiry f => Sys2Proof.Machine.execNotReadyWaitExpiry f s
  | .retransmitTimeout f => Sys2Proof.Machine.execRetransmitTimeout f s
  | .ackTimer f => Sys2Proof.Machine.execAckTimer f s
  | .managementRequest p => Sys2Proof.Machine.execManagementRequest p s
  | .riffleProbe port f => Sys2Proof.Machine.execRiffleProbe port f s
  | .riffleEcho port f => Sys2Proof.Machine.execRiffleEcho port f s
  | .riffleInterval => Sys2Proof.Machine.execRiffleInterval s
  | .riffleTimerExpiry ctx target => Sys2Proof.Machine.execRiffleTimerExpiry ctx target s
  | .pfcFrame port priority xoff => Sys2Proof.Machine.execPfcFrame port priority xoff s
  | .pauseStorm port priority => Sys2Proof.Machine.execPauseStorm port priority s
  | .portUp port lanes => Sys2Proof.Machine.execPortUp port lanes s
  | .portDown port => Sys2Proof.Machine.execPortDown port s
  | .reqRise complex line => Sys2Proof.Machine.execReqRise complex line s
  | .dmaBurstComplete c hostData => Sys2Proof.Machine.execDmaBurstComplete c hostData s
  | .requestLineParityFault complex line => Sys2Proof.Machine.execRequestLineParityFault complex line s
  | .meshPacketArrival p => Sys2Proof.Machine.execMeshPacketArrival p s
  | .ucieReplayLimit m => Sys2Proof.Machine.execUcieReplayLimit m s
  | .ucieModuleRepair m ok => Sys2Proof.Machine.execUcieModuleRepair m ok s
  | .ringBreak ring segment => Sys2Proof.Machine.execRingBreak ring segment s
  | .retrainSlot => Sys2Proof.Machine.execRetrainSlot s
  | .retrainResult failed => Sys2Proof.Machine.execRetrainResult failed s
  | .hbmParityError chan failedAttempts reader => Sys2Proof.Machine.execHbmParityError chan failedAttempts reader s
  | .hbmGroupRead group reader finding => Sys2Proof.Machine.execHbmGroupRead group reader finding s
  | .hbmTemperatureRead stack temp => Sys2Proof.Machine.execHbmTemperatureRead stack temp s
  | .hbmScrubGroup finding => Sys2Proof.Machine.execHbmScrubGroup finding s
  | .migrationStart => Sys2Proof.Machine.execMigrationStart s
  | .migrationCommit unreadable => Sys2Proof.Machine.execMigrationCommit unreadable s
  | .sramScrub bank words => Sys2Proof.Machine.execSramScrub bank words s
  | .spareRowReplace => Sys2Proof.Machine.execSpareRowReplace s
  | .stepBoundaryRetirement => Sys2Proof.Machine.execStepBoundaryRetirement s
  | .eddyRecomputeComplete ctx step katFails mismatch address => Sys2Proof.Machine.execEddyRecomputeComplete ctx step katFails mismatch address s
  | .eddyVote agreesWithEngine => Sys2Proof.Machine.execEddyVote agreesWithEngine s
  | .checkerRepeat mismatchAgain => Sys2Proof.Machine.execCheckerRepeat mismatchAgain s
  | .repeatPending => Sys2Proof.Machine.execRepeatPending s
  | .signatureRecordExport => Sys2Proof.Machine.execSignatureRecordExport s
  | .watchdogExpiry e => Sys2Proof.Machine.execWatchdogExpiry e s
  | .rungComplete rung => Sys2Proof.Machine.execRungComplete rung s
  | .rungBoundMiss rung => Sys2Proof.Machine.execRungBoundMiss rung s
  | .heartbeatMiss w => Sys2Proof.Machine.execHeartbeatMiss w s
  | .unitBoundMiss u => Sys2Proof.Machine.execUnitBoundMiss u s
  | .suspectReplayComplete e ctx hung hungElsewhere => Sys2Proof.Machine.execSuspectReplayComplete e ctx hung hungElsewhere s
  | .quarantineLimit e => Sys2Proof.Machine.execQuarantineLimit e s
  | .teardownComplete ctx => Sys2Proof.Machine.execTeardownComplete ctx s
  | .ownClaim w => Sys2Proof.Machine.execOwnClaim w s
  | .ownRenew w => Sys2Proof.Machine.execOwnRenew w s
  | .ownRelease w => Sys2Proof.Machine.execOwnRelease w s
  | .ownOffer w => Sys2Proof.Machine.execOwnOffer w s
  | .offerLapse => Sys2Proof.Machine.execOfferLapse s
  | .leaseExpiry => Sys2Proof.Machine.execLeaseExpiry s
  | .perst port => Sys2Proof.Machine.execPerst port s
  | .functionLevelReset port => Sys2Proof.Machine.execFunctionLevelReset port s
  | .hotReset port => Sys2Proof.Machine.execHotReset port s
  | .pcieLinkTrained port gts width mps => Sys2Proof.Machine.execPcieLinkTrained port gts width mps s
  | .pcieLinkDown port => Sys2Proof.Machine.execPcieLinkDown port s
  | .bar4Read port offset len => Sys2Proof.Machine.execBar4Read port offset len s
  | .bar4Write port offset bytes => Sys2Proof.Machine.execBar4Write port offset bytes s
  | .registerWrite offset w => Sys2Proof.Machine.execRegisterWrite offset w s
  | .fenceRead port row => Sys2Proof.Machine.execFenceRead port row s
  | .pwrNowLoRead port => Sys2Proof.Machine.execPwrNowLoRead port s
  | .weirMirCleanLoRead port => Sys2Proof.Machine.execWeirMirCleanLoRead port s
  | .bootJrnSeqLoRead port => Sys2Proof.Machine.execBootJrnSeqLoRead port s
  | .fabFence w => Sys2Proof.Machine.execFabFence w s
  | .rcvReset w => Sys2Proof.Machine.execRcvReset w s
  | .sluClientClear w => Sys2Proof.Machine.execSluClientClear w s
  | .hbmInject w => Sys2Proof.Machine.execHbmInject w s
  | .intgInject w => Sys2Proof.Machine.execIntgInject w s
  | .intgCover w => Sys2Proof.Machine.execIntgCover w s
  | .bootUpdGo w => Sys2Proof.Machine.execBootUpdGo w s
  | .imageUpdateDone programOk => Sys2Proof.Machine.execImageUpdateDone programOk s
  | .secSvnCommit w => Sys2Proof.Machine.execSecSvnCommit w s
  | .keyLoad w => Sys2Proof.Machine.execKeyLoad w s
  | .keyErase w => Sys2Proof.Machine.execKeyErase w s
  | .attestationGo w => Sys2Proof.Machine.execAttestationGo w s
  | .attestationSigned => Sys2Proof.Machine.execAttestationSigned s
  | .traceClear w => Sys2Proof.Machine.execTraceClear w s
  | .pwrgdInRise straps => Sys2Proof.Machine.execPwrgdInRise straps s
  | .pwrgdInFall => Sys2Proof.Machine.execPwrgdInFall s
  | .resetInNAssert heldNs => Sys2Proof.Machine.execResetInNAssert heldNs s
  | .resetInNRelease straps => Sys2Proof.Machine.execResetInNRelease straps s
  | .journalReplayDone readable => Sys2Proof.Machine.execJournalReplayDone readable s
  | .bootImageVerified => Sys2Proof.Machine.execBootImageVerified s
  | .firmwareFetchDone f crcOk => Sys2Proof.Machine.execFirmwareFetchDone f crcOk s
  | .firmwareFetchTimeout f => Sys2Proof.Machine.execFirmwareFetchTimeout f s
  | .hbmTrainingDone failed => Sys2Proof.Machine.execHbmTrainingDone failed s
  | .hbmInitialised => Sys2Proof.Machine.execHbmInitialised s
  | .identityKeyDerived => Sys2Proof.Machine.execIdentityKeyDerived s
  | .startUpTestDone failed => Sys2Proof.Machine.execStartUpTestDone failed s
  | .weirRebuildDone => Sys2Proof.Machine.execWeirRebuildDone s
  | .journalAppend programOk => Sys2Proof.Machine.execJournalAppend programOk s
  | .compactionDone programOk => Sys2Proof.Machine.execCompactionDone programOk s
  | .areaEraseDone eraseOk => Sys2Proof.Machine.execAreaEraseDone eraseOk s
  | .timeMark => Sys2Proof.Machine.execTimeMark s
  | .zoneTemperatureRead zone readings => Sys2Proof.Machine.execZoneTemperatureRead zone readings s
  | .powerWindow watts => Sys2Proof.Machine.execPowerWindow watts s
  | .powerLevelFall => Sys2Proof.Machine.execPowerLevelFall s
  | .clockCheck lost => Sys2Proof.Machine.execClockCheck lost s
  | .testPortBypassExit => Sys2Proof.Machine.execTestPortBypassExit s

end Sys2Proof.Machine
end

