-- ==== Sys2Proof/Safety.lean ====
section
/-! DEFINITION. What claims say of the device: the legal settings, the fuses that never change, the canonical form of memory, and the
output pin that the state determines. -/

namespace Sys2Proof.Machine

/-- The settings hold only values that the registers' own rules admit (R162, R213, R289, R360, R388, R391, R424, R453, R467). -/
structure Cfg.Legal (c : Cfg) : Prop where
  lease    : 1 ≤ c.leaseCfg ∧ c.leaseCfg ≤ 60
  aperture : ∀ i : Fin 2, c.aperture[i] ≤ 896
  pool     : 2 ≤ c.poolGib ∧ c.poolGib ≤ 256
  fabCfg   : c.fabCfg.toNat % 16 = 0
  fabVlan  : c.fabVlan.toNat < 4096
  mac      : c.fabMacLo.toNat % 8 = 0 ∧ c.fabMacHi.toNat < 65536
  gateway  : c.fabGwHi.toNat < 65536
  riffle   : 1 ≤ c.riffleUs ∧ c.riffleUs ≤ 100
  power    : 1000 ≤ c.pwrLimit ∧ c.pwrLimit ≤ 1900
  ring     : c.ringLo.toNat % 64 = 0 ∧ (c.ringLog2 = 0 ∨ 20 ≤ c.ringLog2 ∧ c.ringLog2 ≤ 30)
  update   : c.updAddrLo.toNat % 64 = 0 ∧ c.updAddrHi.toNat < 65536 ∧ c.updLen ≤ 2 ^ 24
  trace    : ∀ i : Fin 3, c.tracePage[i] < 8
  view     : ∀ i : Fin 3, c.viewSel[i].1 ≤ 12 ∧ c.viewSel[i].2 < 16

/-- The fuses of a device: its field security version only rises, and every other fuse keeps its value (R429 to R431). -/
structure Fuse.Held (f g : Fuse) : Prop where
  same : g = { f with fsv := g.fsv }
  fsv  : f.fsv ≤ g.fsv

/-- The canonical form of the device's memory: addresses strictly rising, no entry equal to what an unlisted address reads. -/
abbrev Memory.wf (m : Mem) : Prop := Cells.wf m.cells

/-- FAULT_OUT_N is low (R401): stack level 4, a thermal trip, a cold-reset miss, no image, or a retired device. -/
def State.faultOut (s : State) : Bool :=
  (s.hbm.levels.toList.any fun l => decide (4 ≤ l)) || s.pwr.trip || s.rcv.dead || s.boot.phase == .noImage || s.hw.retired

/-- A host may write registers through a port: the link is up, the device has power and no device reset runs (R16, R460, R464). -/
structure State.Writable (s : State) (p : Port) : Prop where
  powered : s.powered = true
  link    : s.linkUp p = true
  serving : s.serving = true

/-- A write of one whole DWORD by a port (R460). -/
def whole (p : Port) (v : Reg) : RegWrite := { port := p, value := v, enables := 0xF#4, dwords := 1 }

/-- The commands that may change the settings, the owner, the key table, the counter or the pins: register writes, port events, pins, a
boot's image, management requests, the lapse of an offer or lease, and whatever can start a cold reset. -/
def mayConfigure : Instr → Bool
  | .registerWrite _ _ | .ownClaim _ | .ownRenew _ | .ownRelease _ | .ownOffer _ | .fabFence _ | .rcvReset _ | .sluClientClear _
  | .hbmInject _ | .intgInject _ | .intgCover _ | .bootUpdGo _ | .secSvnCommit _ | .keyLoad _ | .keyErase _ | .attestationGo _
  | .traceClear _ | .managementRequest _ | .offerLapse | .leaseExpiry | .perst _ | .functionLevelReset _ | .hotReset _
  | .pwrgdInRise _ | .pwrgdInFall | .resetInNAssert _ | .resetInNRelease _ | .bootImageVerified | .watchdogExpiry _
  | .heartbeatMiss _ | .unitBoundMiss _ | .ringBreak _ _ | .rungBoundMiss _ | .hbmTemperatureRead _ _ | .zoneTemperatureRead _ _
  | .clockCheck _ | .spareRowReplace => true
  | _ => false

/-- Who a record's result entries answer. -/
def whoOf (r : RecordIn) : Who := { seq := r.seq, tag := r.tag, client := r.client }

/-- A record of the owner's arrives whole in an empty window of a context that takes records, and its frame is sound (R317 to R319,
R321): SEAL, CRC and SEQ are right, the bits that must be zero are, and an unbound context is offered a REBIND only. -/
structure State.Takes (s : State) (typ : Nat) (r : RecordIn) : Prop where
  powered : s.powered = true
  running : s.warming = false ∧ s.cooling = false
  link    : s.linkUp r.port = true
  owner   : s.own.owner = some r.port
  judging : s.judging r.ctx = true
  window  : (s.ctx r.ctx).regs.window = []
  size    : 32 + r.payload.length = 16 * r.length.toNat ∧ r.length.toNat ≤ 2048
  zeros   : r.flags.toNat / 2 = 0 ∧ r.hdrZero = 0#24 ∧ r.trlZero = 0#32
  sealed  : r.sealWd = Config.sealWord
  seq     : r.seq = (s.ctx r.ctx).regs.seq
  crc     : r.crc = crc32c ((recordBytes typ r).take (28 + r.payload.length))
  bound   : (s.ctx r.ctx).unbound = false ∨ typ = 4

/-- The state in which a taken record is judged: CTX_CONSUMEDn and CTX_SEQn have advanced past it (R319). -/
def State.taken (s : State) (r : RecordIn) : State := s.advance r.ctx (32 + r.payload.length) []

/-- Only contexts, Sluice's counts, flows, the trace and the outputs may differ between two states. -/
def State.Aside (s t : State) : Prop :=
  t = { s with ctxs := t.ctxs, slu := t.slu, fab := { s.fab with flows := t.fab.flows }, tel := t.tel, out := t.out }

/-- A step without its commands, and a context with such steps: what the choice of engines cannot change (R333). -/
def Step.still (t : Step) : Step := { t with cmds := [] }
def Ctx.still (x : Ctx) : Ctx := { x with steps := x.steps.map Step.still }

/-- A taken record has been accepted (R319, R329): the window's position has advanced past it, one result entry says ACCEPTED, SLU_ADMIT_COUNT
has counted it, and no other context and nothing outside the contexts has changed. -/
structure State.Answers (s t : State) (r : RecordIn) : Prop where
  aside  : s.Aside t
  counts : t.slu = { s.slu with admits := satInc s.slu.admits }
  others : ∀ d : CtxId, d ≠ r.ctx → (t.ctx d).still = (s.ctx d).still
  regs   : (t.ctx r.ctx).regs = { (s.taken r).ctx r.ctx |>.regs with
             results := (s.ctx r.ctx).regs.results + 1, lastCode := 0x01#8, lastSeq := r.seq }
  rings  : (t.ctx r.ctx).rings = { (s.ctx r.ctx).rings with kept := (t.ctx r.ctx).rings.kept }

/-- A step has ended with a code, and what follows it with it (R37, R43, R203, R329): the last result entry of its context carries the code, the
committed versions stand, no other context is touched, and outside contexts, Weir, base memory, counts, flows, trace and outputs these
parts of the device are as they were. -/
structure State.EndsStep (s t : State) (c : CtxId) (uid : Nat) (code : Code) : Prop where
  gone    : ∀ u ∈ (t.ctx c).steps, u.uid ≠ uid
  kept    : ∀ u ∈ (t.ctx c).steps, ∃ v ∈ (s.ctx c).steps, u.still = v.still
  others  : ∀ d : CtxId, d ≠ c → (t.ctx d).still = (s.ctx d).still
  told    : (t.ctx c).regs.lastCode = code.value ∧ (s.ctx c).regs.results < (t.ctx c).regs.results
  same    : (t.ctx c).state = (s.ctx c).state ∧ (t.ctx c).regs.gen = (s.ctx c).regs.gen ∧ (t.ctx c).job = (s.ctx c).job
              ∧ (t.ctx c).alloc = (s.ctx c).alloc
  version : ∀ r : Fin 17, (t.row r).version = (s.row r).version
  rest    : t.cfg = s.cfg ∧ t.own = s.own ∧ t.fuse = s.fuse ∧ t.clk = s.clk ∧ t.sec = s.sec ∧ t.boot = s.boot ∧ t.pwr = s.pwr
              ∧ t.recv = s.recv ∧ t.flash = s.flash

/-- The step whose command reads is gone, when it had not committed (R46, R147). -/
def State.ReaderEnds (s t : State) (reader : Option CmdRef) : Prop :=
  ∀ (r : CmdRef) (v : Step), reader = some r → s.step? r = some v → v.state ≠ .committed → (s.cmd? r).isSome = true →
    ∀ u ∈ (t.ctx r.ctx).steps, u.uid ≠ r.step

/-- A command has completed (R46): it is done, or its committed step has ended with it; memory and page copies are as its writes `w` left
them, and no other context and none of these parts of the device has changed. -/
structure State.Completes (s w t : State) (r : CmdRef) : Prop where
  ended  : (t.cmd? r).map (·.state) = some .done ∨ t.step? r = none
  mem    : t.mem = w.mem
  groups : t.weir.groups = w.weir.groups
  others : ∀ d : CtxId, d ≠ r.ctx → (t.ctx d).still = (s.ctx d).still
  same   : (t.ctx r.ctx).state = (s.ctx r.ctx).state ∧ (t.ctx r.ctx).alloc = (s.ctx r.ctx).alloc
             ∧ (t.ctx r.ctx).regs.gen = (s.ctx r.ctx).regs.gen ∧ (t.ctx r.ctx).job = (s.ctx r.ctx).job
  rows   : ∀ c : Fin 17, (t.row c).version = (s.row c).version
  rest   : t.cfg = s.cfg ∧ t.own = s.own ∧ t.fuse = s.fuse ∧ t.clk = s.clk ∧ t.sec = s.sec ∧ t.boot = s.boot ∧ t.pwr = s.pwr
             ∧ t.recv = s.recv ∧ t.flash = s.flash ∧ t.hw = s.hw

/-- What a step's start, a release and a commit leave of the rest of the device. -/
structure State.OthersStand (s t : State) (c : CtxId) : Prop where
  ctxs : ∀ d : CtxId, d ≠ c → (t.ctx d).still = (s.ctx d).still
  rows : ∀ r : Fin 17, r ≠ rowOf c → t.row r = s.row r
  rest : t.cfg = s.cfg ∧ t.own = s.own ∧ t.fuse = s.fuse ∧ t.clk = s.clk ∧ t.sec = s.sec ∧ t.boot = s.boot ∧ t.pwr = s.pwr
           ∧ t.flash = s.flash ∧ t.hw = s.hw

/-- The step that a wait for peers belongs to. -/
def waitStep : WaitRef → CtxId × Nat
  | .command r => (r.ctx, r.step)
  | .commitReady c uid => (c, uid)

/-- Step numbers name one step each (R41): no two steps of a context share one, and the next one is new. -/
def State.Numbered (s : State) : Prop := ∀ c, ((s.ctx c).steps.map (·.uid)).Nodup ∧ ∀ u ∈ (s.ctx c).steps, u.uid < s.slu.nextUid

/-- A packet passes the rows of R281 up to DST_GEN for a context: sound, of the context's job and epoch, from a rank of the recorded
generation, and for the context's own generation. -/
structure State.Hears (s : State) (p : OxtPkt) (c : CtxId) : Prop where
  up    : s.up = true
  sound : pktSound p = true
  job   : s.jobCtx p = some c
  epoch : p.epoch = (s.ctx c).job.epoch
  gen   : s.recordedGen c p.srcRank.toNat = some p.srcGen ∨ s.recordedGen c p.srcRank.toNat = none
  dst   : p.dstGen = 0#16 ∨ p.dstGen = (s.ctx c).regs.gen

/-- The next message in order of its flow, of a TYPE and CLASS (R281). -/
structure State.Delivers (s : State) (p : OxtPkt) (typ cls : Nat) (c : CtxId) : Prop where
  heard : s.Hears p c
  typ   : p.typ = BitVec.ofNat 4 typ
  cls   : p.cls = BitVec.ofNat 4 cls
  psn   : p.psn = (s.flow (pktKey c p)).expect

/-- The state after the packet's generation is recorded, and after its acknowledgement and its PSN are taken (R278, R281): flows and outputs
alone differ. -/
def State.heard (s : State) (c : CtxId) (p : OxtPkt) : State := s.recordGen (pktKey c p) p.srcGen false
def State.arrived (s : State) (c : CtxId) (p : OxtPkt) : State :=
  ((s.heard c p).applyAck (pktKey c p) p).takeInOrder (pktKey c p) p

/-- A restore is lost (R378): its step is gone, and MIRROR_LOST is the context's last result. -/
structure State.LosesRestore (s t : State) (c : CtxId) (uid : Nat) : Prop where
  gone   : ∀ u ∈ (t.ctx c).steps, u.uid ≠ uid
  told   : (t.ctx c).regs.lastCode = Code.mirrorLost.value
  count  : t.rcv.lost = satInc s.rcv.lost
  none   : (t.ctx c).restore = none
  others : ∀ d : CtxId, d ≠ c → (t.ctx d).still = (s.ctx d).still
  rest   : t.cfg = s.cfg ∧ t.own = s.own ∧ t.fuse = s.fuse ∧ t.clk = s.clk ∧ t.boot = s.boot ∧ t.hw = s.hw ∧ t.recv = s.recv

end Sys2Proof.Machine
end

