-- ==== Sys2Proof/Certificates/Slice0/Obligations.lean ====
section
/-! DEFINITION. The statements about the model: what each command of the table does when it takes effect, what it leaves unchanged, and
what no command can change. -/

open Sys2Proof Sys2Proof.Machine

/-! ### The machine -/

/-- A step takes the command at the front of the queue and runs it on the state that keeps the queue's rest; on an empty queue a powered
device idles for one management cycle of 2 ns and changes nothing else (log entry 2), and one without power stands still. -/
def Obligations.StepTakesFront : Prop :=
  (∀ (s : State) (c : Instr) (rest : List Instr), s.pending = c :: rest → step s = exec c { s with pending := rest })
  ∧ (∀ s : State, s.pending = [] → s.powered = true →
      step s = .next { s with clk := { s.clk with now := s.clk.now + 2 } })
  ∧ (∀ s : State, s.pending = [] → s.powered = false → step s = .next s)

/-- Every command of the table answers a next state, in every state, and leaves the queue as it finds it: no command faults, none is
refused, and none adds or removes a waiting command (log entry 1). -/
def Obligations.EveryCommandAnswers : Prop :=
  ∀ (c : Instr) (s : State), ∃ t, exec c s = .next t ∧ t.pending = s.pending

/-- After reset the settings are legal, the step numbers are distinct and below the next one, and on every path the registers whose
Reset column is not zero read that value: ID_CAP, OWN_LEASE_CFG, WEIR_POOL_CFG, FAB_CFG, FAB_RIFFLE_CFG, PWR_LIMIT_CFG and
SEC_SHA_LIVE. -/
def Obligations.AfterReset : Prop :=
  State.reset.cfg.Legal ∧ State.reset.Numbered ∧
  ∀ (path : Path), ∀ q ∈ [(0x00004, 0x10084000), (0x00810, 10), (0x20004, 8), (0x70004, 0x7E506B00), (0x70030, 10),
    (0x90004, 1900), (0xA0180, 0xFFFFFFFF)], (State.reset.reg path q.1).toNat = q.2

/-- Every step keeps the settings legal, whoever writes what: a write that the register's rule does not admit leaves it unchanged, a boot
image gives only admitted reset values, and a cold reset returns to the Reset column. -/
def Obligations.SettingsStayLegal : Prop := ∀ s t : State, s.cfg.Legal → step s = .next t → t.cfg.Legal

/-- Every step leaves every fuse as it was but FSV, and FSV never falls, across every reset too. -/
def Obligations.FusesHeld : Prop := ∀ s t : State, step s = .next t → s.fuse.Held t.fuse

/-- No other command changes a setting, a fuse, the owner, the term, an offer, a publisher key, the counter or a pin: records, engines,
messages, memories, Eddy and the journal do not reach them. -/
def Obligations.OnlyTheseConfigure : Prop :=
  ∀ (c : Instr) (s t : State), mayConfigure c = false → exec c s = .next t →
    t.cfg = s.cfg ∧ t.fuse = s.fuse ∧ t.clk = s.clk ∧ t.own.owner = s.own.owner ∧ t.own.term = s.own.term
      ∧ t.own.offer = s.own.offer ∧ t.sec.keys = s.sec.keys


/-! ### Records (R317 to R323) -/

/-- A group table, a peer address record or a Riffle target record of an active job context that is well formed replaces what the context
knew (R244, R274, R284), and changes nothing else of it but the registers of R320 and the result ring. -/
def Obligations.JobRecordsReplaceTables : Prop :=
  ∀ (s : State) (r : RecordIn), (s.ctx r.ctx).state = .active → (s.ctx r.ctx).asm = none → (s.ctx r.ctx).job.tag ≠ 0#32 →
    (s.Takes 0x21 r →
      let g := (readGroups r.payload (min (field r.payload 4 4) 64) 8)
      1 ≤ field r.payload 4 4 ∧ field r.payload 4 4 ≤ 64 → packed r.payload g.2 = true →
      (∀ l ∈ g.1, l ≠ [] ∧ ascending (s.ctx r.ctx).job.count l = true) → g.1.head? = some (List.range (s.ctx r.ctx).job.count) →
      ∃ t, exec (.groupTable r) s = .next t ∧ s.Answers t r ∧
        (t.ctx r.ctx).still = { (s.ctx r.ctx).still with
          regs := (t.ctx r.ctx).regs, rings := (t.ctx r.ctx).rings
          job := { (s.ctx r.ctx).job with groups := some (BitVec.ofNat 32 (field r.payload 0 4), g.1) } })
    ∧ (s.Takes 0x22 r →
      let n := (s.ctx r.ctx).job.count
      let entry (i : Nat) : List Byte := slice r.payload (16 + 32 * i) 32
      field r.payload 4 4 = n → packed r.payload (16 + 32 * n) = true → gap r.payload 8 16 = true →
      (∀ i < n, zeroAt (entry i) 22 10 = true) →
      (allCtx.map fun d => if d ≠ r.ctx ∧ (s.ctx d).job.peers.isSome then 8 * (s.ctx d).job.count else 0).sum + 8 * n ≤ 262144 →
      ∃ t, exec (.peerAddress r) s = .next t ∧ s.Answers t r ∧
        (t.ctx r.ctx).still = { (s.ctx r.ctx).still with
          regs := (t.ctx r.ctx).regs, rings := (t.ctx r.ctx).rings
          job := { (s.ctx r.ctx).job with
            peers := some (BitVec.ofNat 32 (field r.payload 0 4), (List.range n).map fun i =>
              { addr := BitVec.ofNat 128 (beNat (slice (entry i) 0 16)), mac := BitVec.ofNat 48 (beNat (slice (entry i) 16 6)) }) } })
    ∧ (s.Takes 0x23 r →
      let n := field r.payload 0 4
      n ≤ 128 → packed r.payload (4 + 4 * n) = true →
      (∀ i < n, field r.payload (4 + 4 * i) 2 < (s.ctx r.ctx).job.count ∧ field r.payload (6 + 4 * i) 1 < 8
        ∧ field r.payload (7 + 4 * i) 1 < 8) →
      ∃ t, exec (.riffleTargets r) s = .next t ∧ s.Answers t r ∧
        (t.ctx r.ctx).still = { (s.ctx r.ctx).still with
          regs := (t.ctx r.ctx).regs, rings := (t.ctx r.ctx).rings
          job := { (s.ctx r.ctx).job with
            targets := (List.range n).map fun i =>
              { rank := field r.payload (4 + 4 * i) 2, local_ := Fin.ofNat 8 (field r.payload (6 + 4 * i) 1)
                peer := Fin.ofNat 8 (field r.payload (7 + 4 * i) 1), seq := 0#16, restart := s.clk.now, suspect := false } } })

/-- A CREATE into a free context of a device in service makes it ACTIVE with the record's role, job and rings, the next generation, the
record's VERSION in its row and one more resident context for its client (R196, R331, R332); the steps, tables, models and mirroring of
an earlier context are gone, and no other context or row changes. -/
def Obligations.CreateMakesContext : Prop :=
  ∀ (s : State) (r : RecordIn) (q : CreateRec), s.Takes 0x01 r → (s.ctx r.ctx).state = .free → (s.ctx r.ctx).asm = none →
    parseCreate r.payload = some q →
    s.hw.retired = false →
    ∃ t, exec (.create r) s = .next t ∧
      (t.ctx r.ctx).still = { Ctx.reset with
        state := .active, role := if q.role = 0 then .training else .serving, client := r.client
        walking := (s.ctx r.ctx).walking, job := { Ctx.reset.job with tag := q.job, count := q.count }
        rings := { base := q.base, log2 := q.log2, tail := q.tail, kept := (t.ctx r.ctx).rings.kept, dBase := 0, dLog2 := 0, dTail := 0
                   dCount := 0, dKept := [] }
        regs := { ((s.taken r).ctx r.ctx).regs with
          gen := genNext (s.ctx r.ctx).regs.gen, results := 1, lastCode := 0x01#8, lastSeq := r.seq } }
      ∧ (∀ d : CtxId, d ≠ r.ctx → (t.ctx d).still = (s.ctx d).still)
      ∧ t.row (rowOf r.ctx) = { s.row (rowOf r.ctx) with version := q.version, priorValid := false }
      ∧ (∀ k : Fin 17, k ≠ rowOf r.ctx → t.row k = s.row k)
      ∧ (t.client r.client).resident = satNat 32 ((s.client r.client).resident + 1)
      ∧ t.mem = s.mem ∧ t.hbm = s.hbm ∧ t.recv = s.recv ∧ t.weir.groups = s.weir.groups ∧ t.own = s.own ∧ t.cfg = s.cfg

/-- A PREEMPT ends every step that it names but a committed or PREPARED one, and leaves the context, its rings and its generation as they
are; a TEARDOWN of a context without steps ends it at once: it is TEARING, its pattern, restore and load are gone, its pages are no longer
allocated, and its generation is the next one (R207, R332, R336, R337). No other context changes. -/
def Obligations.PreemptAndTeardown : Prop :=
  ∀ (s : State) (r : RecordIn), (s.ctx r.ctx).state = .active → (s.ctx r.ctx).asm = none →
    (s.Takes 0x03 r → packed r.payload 8 = true → s.Numbered →
      ∃ t, exec (.preempt r) s = .next t
        ∧ (∀ u ∈ (t.ctx r.ctx).steps, (field r.payload 0 8 = 2 ^ 64 - 1 ∨ u.hdr.step.toNat = field r.payload 0 8) →
            u.state = .prepared ∨ u.state = .committed)
        ∧ (∀ u ∈ (t.ctx r.ctx).steps, ∃ v ∈ (s.ctx r.ctx).steps, u.still = v.still)
        ∧ (t.ctx r.ctx).state = .active ∧ (t.ctx r.ctx).regs.gen = (s.ctx r.ctx).regs.gen ∧ (t.ctx r.ctx).job = (s.ctx r.ctx).job
        ∧ (t.ctx r.ctx).alloc = (s.ctx r.ctx).alloc ∧ (∀ d : CtxId, d ≠ r.ctx → (t.ctx d).still = (s.ctx d).still)
        ∧ t.hbm = s.hbm ∧ t.recv = s.recv ∧ t.intg = s.intg ∧ t.sec = s.sec)
    ∧ (s.Takes 0x02 r → packed r.payload 0 = true → (s.ctx r.ctx).steps = [] → (s.ctx r.ctx).stream = none → s.recv.ctx ≠ some r.ctx →
      ∃ t, exec (.teardown r) s = .next t
        ∧ (t.ctx r.ctx).state = .tearing ∧ (t.ctx r.ctx).steps = [] ∧ (t.ctx r.ctx).alloc = []
        ∧ (t.ctx r.ctx).walking = (s.ctx r.ctx).alloc ++ (s.ctx r.ctx).walking
        ∧ (t.ctx r.ctx).pattern = none ∧ (t.ctx r.ctx).restore = none ∧ (t.ctx r.ctx).load = none
        ∧ (t.ctx r.ctx).regs.gen = genNext (s.ctx r.ctx).regs.gen ∧ (t.ctx r.ctx).regs.seq = (s.ctx r.ctx).regs.seq + 1#32
        ∧ (t.ctx r.ctx).tearing = some { code := .abortedPreempt, reason := .none, since := s.clk.now, tag := r.tag, seq := r.seq
                                         rowDone := true }
        ∧ (t.row (rowOf r.ctx)).version = 0#64 ∧ (t.row (rowOf r.ctx)).priorValid = false
        ∧ (∀ k, t.slot (rowOf r.ctx) k = .free ∨ t.slot (rowOf r.ctx) k = .aborting)
        ∧ (∀ d : CtxId, d ≠ r.ctx → (t.ctx d).still = (s.ctx d).still) ∧ t.hbm = s.hbm ∧ t.recv = s.recv)

/-- A REBIND gives its context the record's rings and binds it, whatever it was before; the entries that are still kept go to the new rings
(R395, R396). A training context names no delivery ring; a serving one names one of 2^9 to 2^20 entries. -/
def Obligations.RebindBindsContext : Prop :=
  ∀ (s : State) (r : RecordIn), s.Takes 0x04 r → (s.ctx r.ctx).state = .active → (s.ctx r.ctx).asm = none →
    packed r.payload 64 = true → gap r.payload 9 16 = true → gap r.payload 41 48 = true →
    8 ≤ field r.payload 8 1 ∧ field r.payload 8 1 ≤ 16 →
    ((s.ctx r.ctx).role = .training ∧ zeroAt r.payload 32 32 = true)
      ∨ ((s.ctx r.ctx).role = .serving ∧ 9 ≤ field r.payload 40 1 ∧ field r.payload 40 1 ≤ 20) →
    ∃ t, exec (.rebind r) s = .next t ∧ s.Aside t ∧ (∀ d : CtxId, d ≠ r.ctx → (t.ctx d).still = (s.ctx d).still)
      ∧ (t.ctx r.ctx).still = { (s.ctx r.ctx).still with
          unbound := false, regs := (t.ctx r.ctx).regs, rings := (t.ctx r.ctx).rings }
      ∧ (t.ctx r.ctx).rings = { (s.ctx r.ctx).rings with
          base := field r.payload 0 8, log2 := field r.payload 8 1, tail := field r.payload 16 8, kept := (t.ctx r.ctx).rings.kept
          dBase := field r.payload 32 8, dLog2 := field r.payload 40 1, dTail := field r.payload 48 8 }
      ∧ (t.ctx r.ctx).regs = { ((s.taken r).ctx r.ctx).regs with
          results := (s.ctx r.ctx).regs.results + 1, lastCode := 0x01#8, lastSeq := r.seq }
      ∧ (∀ e ∈ (s.ctx r.ctx).rings.kept, field r.payload 24 8 ≤ e.1 →
          .hostWrite (ringAddr (field r.payload 0 8) (field r.payload 8 1) e.1 64) e.2 ∈ t.out)
      ∧ ((s.ctx r.ctx).role = .serving → ∀ e ∈ (s.ctx r.ctx).rings.dKept, field r.payload 56 8 ≤ e.1 →
          .hostWrite (ringAddr (field r.payload 32 8) (field r.payload 40 1) e.1 16) e.2 ∈ t.out)

/-- A STEP_HEAD without END opens its context's assembly and a COMMANDS without END adds its entries; neither is answered (R324). -/
def Obligations.StepRecordsAreGathered : Prop :=
  ∀ (s : State) (r : RecordIn), (s.ctx r.ctx).state = .active → r.flags.toNat % 2 = 0 → r.payload.length % 64 = 0 →
    (s.Takes 0x10 r → (s.ctx r.ctx).asm = none → 64 ≤ r.payload.length →
      ∃ t, exec (.stepHead r) s = .next t ∧ s.Aside t ∧ t.slu = s.slu ∧ (∀ d : CtxId, d ≠ r.ctx → (t.ctx d).still = (s.ctx d).still)
        ∧ (t.ctx r.ctx).still = { (s.ctx r.ctx).still with
            regs := ((s.taken r).ctx r.ctx).regs, asm := some { header := r.payload.take 64, entries := r.payload.drop 64 } })
    ∧ (∀ a : Assembly, s.Takes 0x11 r → (s.ctx r.ctx).asm = some a →
      ∃ t, exec (.commands r) s = .next t ∧ s.Aside t ∧ t.slu = s.slu ∧ (∀ d : CtxId, d ≠ r.ctx → (t.ctx d).still = (s.ctx d).still)
        ∧ (t.ctx r.ctx).still = { (s.ctx r.ctx).still with
            regs := ((s.taken r).ctx r.ctx).regs, asm := some { a with entries := a.entries ++ r.payload } })

/-- With END the step is judged; one that passes the five tests of R327 joins its context's steps with the next admission number, its
origin fixed, as the new predecessor (R41, R43, R324, R327). The same holds when the entries came in one STEP_HEAD record and when a
COMMANDS record ends them. -/
def Obligations.JudgedStepIsAdmitted : Prop :=
  ∀ (s : State) (r : RecordIn) (a : Assembly) (p : Plan) (all : List Item),
    let c := r.ctx
    let u := (s.taken r).modCtx c fun x => { x with asm := none }
    let entries := a.entries ++ (if (s.ctx c).asm = none then [] else r.payload)
    let t0 := u.originOf c p.hdr p.entries.length
    let n := u.stepOf p t0 (whoOf r)
    (s.ctx c).state = .active → (s.ctx c).role = .training → (s.ctx c).final = false → r.flags.toNat % 2 = 1 → r.payload.length % 64 = 0 →
    ((s.ctx c).asm = none ∧ 64 ≤ r.payload.length ∧ a = { header := r.payload.take 64, entries := r.payload.drop 64 }
      ∨ (s.ctx c).asm = some a) →
    u.shapeStep c a.header entries = .ok p → u.gradeStep p.hdr.allowance p.entries = none → u.memoryStep c p t0 = none →
    u.deadlineStep c n (if p.hdr.mode = 4 then [] else u.newFold c n.uid t0 (t0 + p.hdr.commitDl)) = .ok all →
    ((s.ctx c).pred.bind (·.ended) = none ∨ (s.ctx c).pred.bind (·.ended) = some .committed) →
    (s.Takes 0x10 r → (s.ctx c).asm = none →
      ∃ t, exec (.stepHead r) s = .next t ∧ (t.ctx c).steps.map Step.still = (s.ctx c).steps.map Step.still ++ [n.still]
        ∧ t.slu.nextUid = s.slu.nextUid + 1 ∧ (t.ctx c).asm = none ∧ (t.ctx c).pred.map (·.uid) = some s.slu.nextUid
        ∧ (t.ctx c).regs = { ((s.taken r).ctx c).regs with
            results := (s.ctx c).regs.results + 1, lastCode := 0x01#8, lastSeq := r.seq }
        ∧ t.mem = s.mem ∧ t.weir = s.weir)
    ∧ (s.Takes 0x11 r → (s.ctx c).asm = some a →
      ∃ t, exec (.commands r) s = .next t ∧ (t.ctx c).steps.map Step.still = (s.ctx c).steps.map Step.still ++ [n.still]
        ∧ t.slu.nextUid = s.slu.nextUid + 1 ∧ (t.ctx c).asm = none ∧ (t.ctx c).pred.map (·.uid) = some s.slu.nextUid
        ∧ (t.ctx c).regs = { ((s.taken r).ctx c).regs with
            results := (s.ctx c).regs.results + 1, lastCode := 0x01#8, lastSeq := r.seq }
        ∧ t.mem = s.mem ∧ t.weir = s.weir)

/-- An epoch record with an epoch not greater than the current one is accepted and changes nothing; a greater one with MEMBER 1 becomes
current with its RANK and COUNT, and no step of an older epoch is left; a greater one with MEMBER 0 fences the context, which is TEARING
from then on (R34, R285, R286). -/
def Obligations.EpochsAdvance : Prop :=
  ∀ (s : State) (r : RecordIn), s.Takes 0x20 r → (s.ctx r.ctx).state = .active → (s.ctx r.ctx).asm = none →
    (s.ctx r.ctx).job.tag ≠ 0#32 → packed r.payload 10 = true → gap r.payload 5 6 = true →
    let epoch := field r.payload 0 4
    let rank := field r.payload 6 2
    let count := field r.payload 8 2
    (epoch ≤ (s.ctx r.ctx).job.epoch.toNat → (field r.payload 4 1 = 0 ∨ field r.payload 4 1 = 1 ∧ rank < count ∧ count ≤ 16384) →
      ∃ t, exec (.epoch r) s = .next t ∧ s.Answers t r
        ∧ (t.ctx r.ctx).still = { (s.ctx r.ctx).still with regs := (t.ctx r.ctx).regs, rings := (t.ctx r.ctx).rings })
    ∧ ((s.ctx r.ctx).job.epoch.toNat < epoch → field r.payload 4 1 = 1 → rank < count → count ≤ 16384 → s.recv.ctx ≠ some r.ctx →
      s.Numbered →
      ∃ t, exec (.epoch r) s = .next t
        ∧ (t.ctx r.ctx).job = { (s.ctx r.ctx).job with
            epoch := BitVec.ofNat 32 epoch, rank := some rank, count := count, aheadSeen := [] }
        ∧ (t.ctx r.ctx).genAdv = 0 ∧ (t.ctx r.ctx).state = .active ∧ (t.ctx r.ctx).regs.gen = (s.ctx r.ctx).regs.gen
        ∧ (t.ctx r.ctx).stream = none
        ∧ (∀ u ∈ (t.ctx r.ctx).steps, ∃ v ∈ (s.ctx r.ctx).steps, u.still = v.still ∧ v.oldEpoch = false)
        ∧ (∀ d : CtxId, d ≠ r.ctx → (t.ctx d).still = (s.ctx d).still))
    ∧ ((s.ctx r.ctx).job.epoch.toNat < epoch → field r.payload 4 1 = 0 → (s.ctx r.ctx).steps = [] → (s.ctx r.ctx).stream = none →
      s.recv.ctx ≠ some r.ctx →
      ∃ t, exec (.epoch r) s = .next t
        ∧ (t.ctx r.ctx).state = .tearing ∧ (t.ctx r.ctx).fenced = true ∧ (t.ctx r.ctx).regs.gen = genNext (s.ctx r.ctx).regs.gen
        ∧ (t.ctx r.ctx).alloc = [] ∧ ((t.ctx r.ctx).tearing.map (·.code)) = some .abortedEpoch
        ∧ (∀ d : CtxId, d ≠ r.ctx → (t.ctx d).still = (s.ctx d).still))

/-- A mirror configuration that fits gives its context the ranges, interval and partner, with new free receive slots where it names a rank
to receive from; a stream of the earlier configuration is abandoned (R54, R230). A RESTORE that fits is admitted as a step of its own and
waits for its chunks (R376). -/
def Obligations.MirrorAndRestoreRecords : Prop :=
  ∀ (s : State) (r : RecordIn), (s.ctx r.ctx).state = .active → (s.ctx r.ctx).asm = none → (s.ctx r.ctx).job.tag ≠ 0#32 →
    (∀ m : MirrorCfg, s.Takes 0x24 r → parseMirror r.payload (s.ctx r.ctx).job.count = some m →
      (s.taken r).stateRanges r.ctx m.ranges = true → rangesLen m.ranges ≤ 16 * m.interval * m.minPeriod →
      let recv : Recv := match m.recv with
        | some k => { ctx := some r.ctx, rank := k, gib := m.slotGib, slots := List.replicate m.slots RecvSlot.empty, refused := none }
        | none => if s.recv.ctx = some r.ctx then { ctx := none, rank := 0, gib := 0, slots := [], refused := none } else s.recv
      (m.recv = none ∨ State.capacityShort { s.taken r with recv := recv } r.ctx [] = 0) →
      ∃ t, exec (.mirrorConfiguration r) s = .next t ∧ (t.ctx r.ctx).mirror = some m ∧ t.recv = recv ∧ (t.ctx r.ctx).stream = none
        ∧ (t.ctx r.ctx).regs = { ((s.taken r).ctx r.ctx).regs with
            results := (s.ctx r.ctx).regs.results + 1, lastCode := 0x01#8, lastSeq := r.seq }
        ∧ (t.ctx r.ctx).job = (s.ctx r.ctx).job ∧ (t.ctx r.ctx).steps.map Step.still = (s.ctx r.ctx).steps.map Step.still
        ∧ (∀ d : CtxId, d ≠ r.ctx → (t.ctx d).still = (s.ctx d).still) ∧ t.mem = s.mem ∧ t.hbm = s.hbm)
    ∧ (∀ q : Restore, s.Takes 0x25 r → parseRestore r.payload = some q → (s.ctx r.ctx).role = .training →
      (s.taken r).stateRanges r.ctx q.ranges = true → (s.taken r).capacityShort r.ctx (pageRanges q.ranges .committed) = 0 →
      (∀ u ∈ (s.ctx r.ctx).steps, u.state = .committed) →
      let ps := writeSet (pageRanges q.ranges .committed) q.ranges
      let n := (s.taken r).innerStep .restore q.step ps.1 ps.2 (whoOf r)
      (s.taken r).groupShort r.ctx n.wholeSpan = none →
      ∃ t, exec (.restore r) s = .next t ∧ (t.ctx r.ctx).restore = some { q with uid := s.slu.nextUid }
        ∧ (t.ctx r.ctx).steps.map Step.still = (s.ctx r.ctx).steps.map Step.still ++ [n.still]
        ∧ t.slu.nextUid = s.slu.nextUid + 1 ∧ (t.ctx r.ctx).mirror = (s.ctx r.ctx).mirror ∧ t.mem = s.mem ∧ t.weir = s.weir
        ∧ (t.ctx r.ctx).regs = { ((s.taken r).ctx r.ctx).regs with
            results := (s.ctx r.ctx).regs.results + 1, lastCode := 0x01#8, lastSeq := r.seq })

/-- A pattern that no test refuses stands: its origin is 10 µs and 40 ns for each template entry from now, its delivery ring starts at 0, and
its template's pages join the context's allocation (R295, R296). A join that fits takes the lowest free slot, from the period that its T0
gives (R299 to R301). A leave takes effect at the period of its T0 (R302). A STOP ends the pattern at once when it serves nobody, and
at the end of its drain otherwise (R314). -/
def Obligations.ServingRecords : Prop :=
  ∀ (s : State) (r : RecordIn), (s.ctx r.ctx).state = .active → (s.ctx r.ctx).asm = none →
    (∀ (p0 : Pattern) (base log2 tail : Nat) (cs : List (Entry × CmdFacts)), s.Takes 0x30 r →
      parsePattern r.payload = some (p0, base, log2, tail) →
      let p := { p0 with t0 := s.clk.now + 10000 + 40 * p0.tlen }
      (s.taken r).templateOf r.ctx p = some cs → (s.taken r).refusePattern r.ctx p cs = none →
      ∃ t, exec (.pattern r) s = .next t ∧ (t.ctx r.ctx).pattern = some p
        ∧ (t.ctx r.ctx).rings = { (s.ctx r.ctx).rings with
            dBase := base, dLog2 := log2, dTail := tail, dCount := 0, dKept := [], kept := (t.ctx r.ctx).rings.kept }
        ∧ (t.ctx r.ctx).alloc = (s.ctx r.ctx).alloc ++ freshRanges (templateRanges p cs) (s.ctx r.ctx).alloc
        ∧ (t.ctx r.ctx).regs = { ((s.taken r).ctx r.ctx).regs with
            results := (s.ctx r.ctx).regs.results + 1, lastCode := 0x01#8, lastSeq := r.seq }
        ∧ (∀ d : CtxId, d ≠ r.ctx → (t.ctx d).still = (s.ctx d).still) ∧ t.cfg = s.cfg ∧ t.recv = s.recv)
    ∧ (∀ (p : Pattern) (x : Tensor) (m : Model) (free : Nat × Nat), s.Takes 0x31 r → (s.ctx r.ctx).pattern = some p →
      parseTensor (slice r.payload 8 32) = some x → (s.taken r).joinShape r.ctx r.payload p x = true →
      (s.ctx r.ctx).role = .serving → p.stopping = none →
      ((s.ctx r.ctx).models.any fun m => m.resident && !m.current && m.drainStep.isNone && m.quiesce) = false →
      let n := p.indexAt (s.clk.now + 20000)
      let q : Seqn :=
        { id := BitVec.ofNat 32 (field r.payload 0 4), prompt := slice r.payload 8 32, promptLen := field r.payload 40 4
          maxNew := field r.payload 44 4, sampling := BitVec.ofNat 64 (field r.payload 48 8), joinAt := n, joined := false
          version := m.version, slot := p.freeSlot, prefilled := 0, produced := 0, leaving := none, lostAt := none }
      pinAt p (s.ctx r.ctx).models n = some m → joinTest p (s.ctx r.ctx).models (p.seqs ++ [q]) = .ok free →
      ∃ t, exec (.join r) s = .next t ∧ (t.ctx r.ctx).pattern = some { p with seqs := p.seqs ++ [q] }
        ∧ (t.ctx r.ctx).models = (s.ctx r.ctx).models
        ∧ (t.ctx r.ctx).regs = { ((s.taken r).ctx r.ctx).regs with
            results := (s.ctx r.ctx).regs.results + 1, lastCode := 0x01#8, lastSeq := r.seq }
        ∧ (∀ d : CtxId, d ≠ r.ctx → (t.ctx d).still = (s.ctx d).still))
    ∧ (∀ (p : Pattern), s.Takes 0x32 r → (s.ctx r.ctx).pattern = some p → packed r.payload 4 = true →
      (p.seqs.any fun q => q.id == BitVec.ofNat 32 (field r.payload 0 4)) = true →
      let goes (q : Seqn) : Seqn :=
        if q.id = BitVec.ofNat 32 (field r.payload 0 4) ∧ q.leaving = none then { q with leaving := some (p.indexAt (s.clk.now + 20000)) }
        else q
      ∃ t, exec (.leave r) s = .next t ∧ s.Answers t r
        ∧ (t.ctx r.ctx).still = { (s.ctx r.ctx).still with
            regs := (t.ctx r.ctx).regs, rings := (t.ctx r.ctx).rings, pattern := some { p with seqs := p.seqs.map goes } })
    ∧ (∀ (p : Pattern), s.Takes 0x33 r → (s.ctx r.ctx).pattern = some p → packed r.payload 4 = true → field r.payload 0 4 ≤ 1048575 →
      ∃ t, exec (.stop r) s = .next t
        ∧ (t.ctx r.ctx).pattern = (if p.seqs = [] then none else
            some { p with stopping := some ((p.stopping.map fun k => min k (p.next + field r.payload 0 4)).getD (p.next + field r.payload 0 4)) })
        ∧ (t.ctx r.ctx).models = (s.ctx r.ctx).models ∧ (t.ctx r.ctx).alloc = (s.ctx r.ctx).alloc
        ∧ (∀ d : CtxId, d ≠ r.ctx → (t.ctx d).still = (s.ctx d).still) ∧ t.mem = s.mem)

/-- A manifest within reach waits for the verifier with its bytes as they stand (R308, R433). When the verifier accepts it the context holds
it in place of one of the same version, and measurement 4 is extended with its name; one that it refuses is counted (R434, R435). A load
part that no test refuses is admitted and fetches each of its chunks from its holders in turn (R306, R311, R312). FINAL closes the
context to further steps (R313). -/
def Obligations.ModelRecords : Prop :=
  ∀ (s : State) (r : RecordIn), (s.ctx r.ctx).state = .active → (s.ctx r.ctx).asm = none →
    (∀ n : Nat × Nat, s.Takes 0x34 r → packed r.payload 8 = true → field r.payload 0 8 % 64 = 0 → (s.ctx r.ctx).role = .serving →
      let a := field r.payload 0 8
      let v := (s.taken r).judgeView
      manifestLen (leNat (View.bytes v (a + 16) 4)) (v (a + 20)).toNat = some n →
      (s.taken r).reachable r.ctx [(a, 128)] = true → (s.taken r).reachable r.ctx [(a, n.2)] = true →
      ∃ t, exec (.manifest r) s = .next t
        ∧ t.sec = { s.sec with queue := s.sec.queue ++ [
            { ctx := r.ctx, addr := a, bytes := View.bytes v a n.2, tag := r.tag, seq := r.seq, client := r.client
              keys := if s.sec.queue = [] then some s.sec.keys else none }] }
        ∧ (t.ctx r.ctx).still = { (s.ctx r.ctx).still with regs := ((s.taken r).ctx r.ctx).regs }
        ∧ (∀ d : CtxId, d ≠ r.ctx → (t.ctx d).still = (s.ctx d).still) ∧ t.mem = s.mem ∧ t.weir = s.weir)
    ∧ (∀ (q : LoadRec) (m : Manifest), s.Takes 0x35 r → parseLoad r.payload = some q →
      (s.ctx r.ctx).manifests.find? (fun m => m.version == q.version) = some m →
      let n := (s.taken r).loadStep q m (whoOf r)
      (s.taken r).refuseLoad r.ctx q m n = none →
      ∃ t, exec (.load r) s = .next t ∧ (t.ctx r.ctx).models = withLoading (s.ctx r.ctx).models q m
        ∧ (t.ctx r.ctx).steps.map Step.still = (s.ctx r.ctx).steps.map Step.still ++ [n.still]
        ∧ (t.ctx r.ctx).load.map (fun l => (l.uid, l.version, l.holders)) = some (s.slu.nextUid, q.version, q.holders)
        ∧ ((t.ctx r.ctx).load.map fun l => l.fetches.map fun f => (f.chunk, f.holder, f.done))
            = some (q.chunkIds.map fun i => (i, i % q.holders.length, false))
        ∧ (t.ctx r.ctx).regs = { ((s.taken r).ctx r.ctx).regs with
            results := (s.ctx r.ctx).regs.results + 1, lastCode := 0x01#8, lastSeq := r.seq }
        ∧ t.mem = s.mem ∧ t.weir = s.weir)
    ∧ (s.Takes 0x36 r → packed r.payload 0 = true → (s.ctx r.ctx).role = .training →
      ∃ t, exec (.final r) s = .next t ∧ (t.ctx r.ctx).final = true ∧ (t.ctx r.ctx).state = .active
        ∧ (t.ctx r.ctx).steps.map Step.still = (s.ctx r.ctx).steps.map Step.still ∧ (t.ctx r.ctx).job = (s.ctx r.ctx).job
        ∧ (∀ d : CtxId, d ≠ r.ctx → (t.ctx d).still = (s.ctx d).still) ∧ t.mem = s.mem ∧ t.hbm = s.hbm)

/-- The verifier takes the request at the head of its queue: a manifest that it accepts replaces one of its version in the context and
extends measurement 4; one that it refuses is counted in SEC_SIG_FAIL_COUNT. The next verification begins with the key table as it stands
(R433 to R435). -/
def Obligations.VerifierFinishes : Prop :=
  ∀ (s : State) (q : Verify) (rest : List Verify), s.up = true → s.sec.queue = q :: rest → (s.ctx q.ctx).state = .active →
    (s.ctx q.ctx).regs.window = [] →
    ∃ t, exec .manifestVerified s = .next t
      ∧ t.sec.queue.map (·.addr) = rest.map (·.addr) ∧ (∀ n ∈ t.sec.queue.head?, n.keys = some s.sec.keys) ∧ t.sec.keys = s.sec.keys
      ∧ (∀ m, verified q = some m →
          (t.ctx q.ctx).manifests = m :: (s.ctx q.ctx).manifests.filter (fun k => k.version != m.version)
          ∧ t.sec.meas[4] = sha256 (digestBytes s.sec.meas[4] ++ digestBytes m.name)
          ∧ (t.ctx q.ctx).regs.lastCode = 0x01#8 ∧ t.sec.failed = s.sec.failed)
      ∧ (verified q = none →
          (t.ctx q.ctx).manifests = (s.ctx q.ctx).manifests ∧ t.sec.meas = s.sec.meas ∧ t.sec.failed = satInc s.sec.failed
          ∧ (t.ctx q.ctx).regs.lastCode = 0x13#8 ∧ t.mem = s.mem)
      ∧ (t.ctx q.ctx).regs.results = (s.ctx q.ctx).regs.results + 1 ∧ (t.ctx q.ctx).steps = (s.ctx q.ctx).steps
      ∧ (∀ d : CtxId, d ≠ q.ctx → t.ctx d = s.ctx d) ∧ t.hbm.chans = s.hbm.chans

/-- The owner's write of a part of a record only places its bytes in the window while no whole record stands there; the other host's write
is discarded and reported as a correctable error (R317, R318, R390). -/
def Obligations.WindowTakesBytes : Prop :=
  ∀ (s : State) (p : Port) (c : CtxId) (off : BitVec 16) (bs : List Byte), s.powered = true → s.warming = false → s.cooling = false →
    s.linkUp p = true → off.toNat + bs.length ≤ 65536 →
    (s.own.owner = some p →
      let w := placeWindow (s.ctx c).regs.window off.toNat bs
      (windowRead w (s.ctx c).regs.consumed.toNat 16 = none ∨
        ∃ h, windowRead w (s.ctx c).regs.consumed.toNat 16 = some h ∧ 2 ≤ field h 2 2 ∧ field h 2 2 ≤ 2048
          ∧ windowRead w (s.ctx c).regs.consumed.toNat (16 * field h 2 2) = none) →
      exec (.intakeWindowWrite p c off bs) s =
        .next (s.modCtx c fun x => { x with regs := { x.regs with window := w } }))
    ∧ (s.own.owner ≠ some p → exec (.intakeWindowWrite p c off bs) s = .next { s with out := s.out ++ [.aer p .correctable] })

/-! ### Hosts and registers (R385 to R394, R459 to R463) -/

/-- The owner's write of a setting takes the value that the register admits and nothing else; a value that it does not admit, and a write of
a setting while contexts hold it, change nothing (R162, R213, R289, R360, R391, R424, R432, R453). A reserved bit is not kept. -/
def Obligations.OwnerSettingsTakeValues : Prop :=
  ∀ (s : State) (p : Port) (v : Reg), s.Writable p → s.own.owner = some p →
    let write (off : Nat) := exec (.registerWrite off (whole p v)) s
    let put (c : Cfg) : Host.Outcome State Fault Refusal := .next { s with cfg := c }
    (1 ≤ v.toNat % 64 ∧ v.toNat % 64 ≤ 60 → write 0x810 = put { s.cfg with leaseCfg := v.toNat % 64 })
    ∧ (v.toNat % 64 = 0 ∨ 60 < v.toNat % 64 → write 0x810 = .next s)
    ∧ (2 ≤ v.toNat % 512 → v.toNat % 512 ≤ 256 → (∀ c, (s.ctx c).state = .free) → write 0x20004 = put { s.cfg with poolGib := v.toNat % 512 })
    ∧ (v.toNat % 512 < 2 ∨ 256 < v.toNat % 512 ∨ (∃ c, (s.ctx c).state ≠ .free) → write 0x20004 = .next s)
    ∧ (write 0x40008 = if v.toNat % 64 = 0 then put { s.cfg with ringLo := v } else .next s)
    ∧ write 0x4000C = put { s.cfg with ringHi := v }
    ∧ (v.toNat % 32 = 0 ∨ 20 ≤ v.toNat % 32 ∧ v.toNat % 32 ≤ 30 →
        write 0x40010 = .next { s with cfg := { s.cfg with ringLog2 := v.toNat % 32 }, intg := { s.intg with ringCount := 0 } })
    ∧ write 0x40014 = put { s.cfg with tailLo := v } ∧ write 0x40018 = put { s.cfg with tailHi := v }
    ∧ (1000 ≤ v.toNat % 4096 → v.toNat % 4096 ≤ 1900 → write 0x90004 = put { s.cfg with pwrLimit := v.toNat % 4096 })
    ∧ (v.toNat % 4096 < 1000 ∨ 1900 < v.toNat % 4096 → write 0x90004 = .next s)
    ∧ (write 0xB0020 = if v.toNat % 64 = 0 then put { s.cfg with updAddrLo := v } else .next s)
    ∧ write 0xB0024 = put { s.cfg with updAddrHi := v &&& 0xFFFF#32 }
    ∧ (write 0xB0028 = if v.toNat ≤ 2 ^ 24 then put { s.cfg with updLen := v.toNat } else .next s)
    ∧ (∀ k : Fin 16, write (0xA0100 + 4 * k.val) = put { s.cfg with keyData := s.cfg.keyData.set k v })
    ∧ ((∀ c, (s.ctx c).state = .free ∨ (s.ctx c).job.tag = 0#32) →
        write 0x70004 = put { s.cfg with fabCfg := v &&& 0xFFFFFFF0#32 } ∧ write 0x70008 = put { s.cfg with fabVlan := v &&& 0xFFF#32 }
        ∧ (∀ k : Fin 4, write (0x70010 + 4 * k.val) = put { s.cfg with fabAddr := s.cfg.fabAddr.set k v })
        ∧ (write 0x70020 = if v.toNat % 8 = 0 then put { s.cfg with fabMacLo := v } else .next s)
        ∧ write 0x70024 = put { s.cfg with fabMacHi := v &&& 0xFFFF#32 } ∧ write 0x70028 = put { s.cfg with fabGwLo := v }
        ∧ write 0x7002C = put { s.cfg with fabGwHi := v &&& 0xFFFF#32 })
    ∧ ((∃ c, (s.ctx c).state ≠ .free ∧ (s.ctx c).job.tag ≠ 0#32) → ∀ off,
        off = 0x70004 ∨ off = 0x70008 ∨ off = 0x70020 ∨ off = 0x70024 ∨ off = 0x70028 ∨ off = 0x7002C
          ∨ (∃ k : Fin 4, off = 0x70010 + 4 * k.val) → write off = .next s)

/-- Each host writes its own bank of the registers that both may write: the aperture page, the nonce, the trace page and the view
(R388, R436, R467). -/
def Obligations.HostBanksTakeValues : Prop :=
  ∀ (s : State) (p : Port) (v : Reg), s.Writable p →
    let write (off : Nat) := exec (.registerWrite off (whole p v)) s
    let put (c : Cfg) : Host.Outcome State Fault Refusal := .next { s with cfg := c }
    (write 0x818 = if v.toNat % 1024 ≤ 896 then put { s.cfg with aperture := s.cfg.aperture.set p.index (v.toNat % 1024) } else .next s)
    ∧ (∀ k : Fin 8, write (0xA0150 + 4 * k.val) = put { s.cfg with nonce := s.cfg.nonce.set p.index (s.cfg.nonce[p.index].set k v) })
    ∧ write 0xC000C = put { s.cfg with tracePage := s.cfg.tracePage.set (Path.port p).index (v.toNat % 8) }
    ∧ (write 0xC0010 = if v.toNat % 16 ≤ 12 then
        put { s.cfg with viewSel := s.cfg.viewSel.set (Path.port p).index (v.toNat % 16, v.toNat / 16 % 16) } else .next s)

/-- A write that is not one whole DWORD is a non-fatal error and nothing else; one of an OWN register by a host that does not own the device
is discarded and reported as a correctable error; one of a register that takes no writes changes nothing (R16, R390, R460). -/
def Obligations.WritesAreRefused : Prop :=
  ∀ (s : State) (off : Nat) (w : RegWrite), s.powered = true → s.linked w.port = true →
    (writeFormed off w = false → exec (.registerWrite off w) s = .next { s with out := s.out ++ [.aer w.port .nonFatal] })
    ∧ (writeFormed off w = true → s.linkUp w.port = true → s.serving = true → accessOf off = .owner → s.own.owner ≠ some w.port →
        exec (.registerWrite off w) s = .next { s with out := s.out ++ [.aer w.port .correctable] })
    ∧ (writeFormed off w = true → accessOf off = .none → exec (.registerWrite off w) s = .next s)

/-- Ownership passes: a claim of a device that nobody owns, or by the port it is offered to, a release, the end of a lease, and a reset of the
owner's port give it a new owner or none. The term counts up, an offer ends, each resident context is unbound with an empty window, the
record ring is off, and only a new owner starts a lease (R391, R392). PERST# leaves its link down, a hot reset leaves it training. -/
def Obligations.OwnershipPasses : Prop :=
  ∀ (s : State) (p : Port),
    let passed (new : Option Port) (t : State) : Prop :=
      t.own.owner = new ∧ t.own.offer = none ∧ t.own.term = satInc s.own.term ∧ t.own.discards = s.own.discards
      ∧ t.own.leaseEnd = (if new.isSome then s.clk.now + s.cfg.leaseCfg * 1000000000 else s.own.leaseEnd)
      ∧ t.cfg = { s.cfg with ringLog2 := 0 } ∧ t.intg.ringCount = 0 ∧ t.clk = s.clk ∧ t.fuse = s.fuse ∧ t.sec = s.sec
      ∧ (∀ c, (t.ctx c).regs.window = [] ∧ (t.ctx c).state = (s.ctx c).state ∧ (t.ctx c).job = (s.ctx c).job
          ∧ (t.ctx c).unbound = ((s.ctx c).unbound || (s.ctx c).resident))
    (∀ v : Reg, s.Writable p → v.toNat / 65536 = 0x4F57 → (s.own.owner = none ∨ (s.clk.now < s.own.leaseEnd ∧
        ∃ e, s.own.offer = some (p, e) ∧ s.clk.now ≤ e)) →
      ∃ t, exec (.ownClaim (whole p v)) s = .next t ∧ passed (some p) t ∧ t.own.links = s.own.links)
    ∧ (∀ v : Reg, s.Writable p → s.own.owner = some p → v.getLsbD 0 = true →
      ∃ t, exec (.ownRelease (whole p v)) s = .next t ∧ passed none t ∧ t.own.links = s.own.links)
    ∧ (s.powered = true → s.warming = false → s.own.owner.isSome = true → s.own.leaseEnd ≤ s.clk.now →
      ∃ t, exec .leaseExpiry s = .next t ∧ passed none t ∧ t.own.links = s.own.links)
    ∧ (s.powered = true → s.own.owner = some p →
      (∃ t, exec (.functionLevelReset p) s = .next t ∧ passed none t ∧ t.own.links = s.own.links)
      ∧ (∃ t, exec (.perst p) s = .next t ∧ passed none t
          ∧ t.own.links = s.own.links.set p.index { s.own.links[p.index] with state := .down })
      ∧ (∃ t, exec (.hotReset p) s = .next t ∧ passed none t
          ∧ t.own.links = s.own.links.set p.index { s.own.links[p.index] with state := .training }))

/-- The owner renews its lease up to and in the cycle of its end; it offers the device to the other port for 1 s if that link is up; an offer
that nobody has claimed lapses; and none of the three changes anything else (R391). -/
def Obligations.LeaseAndOffer : Prop :=
  ∀ (s : State) (p : Port) (v : Reg),
    (s.Writable p → s.own.owner = some p → v.getLsbD 0 = true → s.clk.now ≤ s.own.leaseEnd →
      exec (.ownRenew (whole p v)) s
        = .next { s with own := { s.own with leaseEnd := s.clk.now + s.cfg.leaseCfg * 1000000000 } })
    ∧ (s.Writable p → s.own.owner = some p → v.getLsbD 0 = false → v.getLsbD 1 = true →
      exec (.ownOffer (whole p v)) s =
        if s.linkUp p.other = true then .next { s with own := { s.own with offer := some (p.other, s.clk.now + 1000000000) } } else .next s)
    ∧ (∀ (q : Port) (e : Nat), s.powered = true → s.own.offer = some (q, e) →
      exec .offerLapse s = if e ≤ s.clk.now then .next { s with own := { s.own with offer := none } } else .next s)

/-- A link of a port that does not own the device: it trains to its rate, width and payload size, limited below 32 GT/s or ×8; it goes down
and keeps them; and a reset of it takes nothing from the owner (R385, R386, R391). -/
def Obligations.LinksTrainAndFall : Prop :=
  ∀ (s : State) (p : Port) (gts width mps : Nat), s.powered = true →
    let trained : Link :=
      { state := if gts < 32 ∨ width < 8 then .limited else .up
        speed := if gts < 32 then 0 else if gts < 64 then 1 else 2
        width := min 16 width
        mps := if mps < 256 then 0 else if mps < 512 then 1 else 2 }
    let down : Link := { s.own.links[p.index] with state := .down }
    (s.own.owner ≠ some p →
      exec (.pcieLinkTrained p gts width mps) s = .next { s with own := { s.own with links := s.own.links.set p.index trained } }
      ∧ exec (.perst p) s = .next (s.setLink p .down) ∧ exec (.hotReset p) s = .next (s.setLink p .training)
      ∧ exec (.functionLevelReset p) s = .next s)
    ∧ exec (.pcieLinkDown p) s = .next { s with own := { s.own with links := s.own.links.set p.index down } }

/-- A BAR4 read of a device in service answers the committed view of the aperture's page, zero where nobody holds it, with EP set where a
line is beyond correction; it changes nothing but what is sent. An owner's write lands in the bytes of a scratch page, byte for byte,
and nowhere else; the other host's is discarded, counted and reported (R387 to R390, R398). -/
def Obligations.ApertureAccess : Prop :=
  ∀ (s : State) (p : Port) (offset : Nat), s.up = true → s.linkUp p = true →
    let a := s.cfg.aperture[p.index] * 2 ^ 30 + offset
    (∀ len : Nat, a + len ≤ s.usable → offset + len ≤ 2 ^ 36 →
      let bs := (List.range len).map fun i => if (s.heldKind (a + i)).isSome then s.committed (a + i) else 0#8
      let sent : List Output := if s.hostPoison a len then [.apertureData p bs true, .aer p .nonFatal] else [.apertureData p bs false]
      exec (.bar4Read p offset len) s = .next { s with out := s.out ++ sent })
    ∧ (∀ len : Nat, s.usable < a + len → exec (.bar4Read p offset len) s =
        .next { s with out := s.out ++ [.unsupported p, .aer p .nonFatal] })
    ∧ (∀ bs : List Byte, s.own.owner = some p → bs ≠ [] → a % 4096 + bs.length ≤ 4096 → s.heldKind a = some .scratch → Memory.wf s.mem →
      ∃ t, exec (.bar4Write p offset bs) s = .next t ∧ t = { s with mem := t.mem }
        ∧ (∀ (i : Nat) (h : i < bs.length), readCell t.mem.cells (a + i) = bs[i])
        ∧ (∀ x, x < a ∨ a + bs.length ≤ x → readCell t.mem.cells x = readCell s.mem.cells x))
    ∧ (∀ bs : List Byte, s.own.owner ≠ some p → exec (.bar4Write p offset bs) s =
        .next { s with own := { s.own with discards := satInc s.own.discards }, out := s.out ++ [.aer p .correctable] })

/-- A read of the low half of a 64-bit pair answers it and latches the high half for its port: a row's VERSION, the device counter, the
newest clean checkpoint and the journal's number (R208, R462). -/
def Obligations.LowHalvesLatchHighHalves : Prop :=
  ∀ (s : State) (p : Port), s.powered = true → s.linked p = true → s.serving = true →
    let i := (Path.port p).index
    let answer (v : Nat) : Output := .registerData p (BitVec.ofNat 32 v)
    let high (v : Nat) : Reg := BitVec.ofNat 32 (v / 2 ^ 32)
    (∀ row : Fin 17, exec (.fenceRead p row) s = .next { s with
      lat := { s.lat with fenceHi := s.lat.fenceHi.set i (high (s.row row).version.toNat) }
      out := s.out ++ [answer (s.row row).version.toNat] })
    ∧ exec (.pwrNowLoRead p) s = .next { s with
      lat := { s.lat with pwrHi := s.lat.pwrHi.set i (high s.clk.now) }, out := s.out ++ [answer s.clk.now] }
    ∧ exec (.weirMirCleanLoRead p) s = .next { s with
      lat := { s.lat with mirHi := s.lat.mirHi.set i (high s.newestClean.toNat) }, out := s.out ++ [answer s.newestClean.toNat] }
    ∧ exec (.bootJrnSeqLoRead p) s = .next { s with
      lat := { s.lat with jrnHi := s.lat.jrnHi.set i (high s.boot.jrnSeq) }, out := s.out ++ [answer s.boot.jrnSeq] }

/-- FAB_FENCE of an ACTIVE job context fences it: it stops sending and is TEARING with ABORTED_EPOCH; of a context without a job it does
nothing (R286). INTG_COVER arms or disarms a closing sweep (R355). SLU_CLIENT_CLEAR zeroes one client's counts (R338). HBM_INJECT and
INTG_INJECT hold what they admit and, when they arm an error, extend measurement 5 (R162, R362, R435). -/
def Obligations.TriggersTakeEffect : Prop :=
  ∀ (s : State) (p : Port) (v : Reg), s.Writable p → s.own.owner = some p →
    (∀ c : CtxId, v.getLsbD 31 = true → v.toNat % 16 = c.val →
      ((s.ctx c).job.tag = 0#32 → exec (.fabFence (whole p v)) s = .next s)
      ∧ ((s.ctx c).job.tag ≠ 0#32 → (s.ctx c).state = .active → (s.ctx c).steps = [] → (s.ctx c).stream = none → s.recv.ctx ≠ some c →
        ∃ t, exec (.fabFence (whole p v)) s = .next t ∧ (t.ctx c).state = .tearing ∧ (t.ctx c).fenced = true
          ∧ (t.ctx c).regs = { (s.ctx c).regs with gen := genNext (s.ctx c).regs.gen } ∧ (t.ctx c).alloc = []
          ∧ (t.ctx c).tearing = some { code := .abortedEpoch, reason := .none, since := s.clk.now, tag := 0#64, seq := 0#32
                                       rowDone := true }
          ∧ (∀ d : CtxId, d ≠ c → (t.ctx d).still = (s.ctx d).still) ∧ t.hbm = s.hbm ∧ t.own = s.own))
    ∧ (∀ c : CtxId, v.toNat % 16 = c.val → exec (.intgCover (whole p v)) s =
        .next { s with intg := { s.intg with cover := if v.getLsbD 31 = true then some c else none } })
    ∧ (v.getLsbD 31 = true →
      let id : Byte := v.setWidth 8
      ∃ t, exec (.sluClientClear (whole p v)) s = .next t ∧ t = { s with slu := { s.slu with clients := t.slu.clients } }
        ∧ t.client id = { s.client id with admitted := 0, refused := 0, committed := 0, aborted := 0 }
        ∧ ∀ other, other ≠ id → t.client other = s.client other)
    ∧ (let armed : State := { s with hbm := { s.hbm with inject := v &&& 0x7FF#32 } }
      exec (.hbmInject (whole p v)) s =
        .next (if v.toNat / 256 % 4 = 0 then armed else armed.measure 5 (sha256 (leBytes 4 0x60090))))
    ∧ (v.toNat % 64 < 48 →
      let armed : State := { s with intg := { s.intg with inject := v &&& 0x800000FF#32 } }
      exec (.intgInject (whole p v)) s =
        .next (if v.getLsbD 31 = true then armed.measure 5 (sha256 (leBytes 4 0x40080)) else armed))

/-- RCV_RESET with GO starts rung 4 for the region it names, where no running rung holds it, or rung 5 for the device: the rung is named in
RCV_LAST and counted, the region's DMA complex is not ready, and at rung 5 Sluice and Weir stop and the boot begins again, while the
owner, the settings and the contexts stay (R367, R382, R383, R412). -/
def Obligations.HostStartsRungs : Prop :=
  ∀ (s : State) (p : Port) (v : Reg), s.Writable p → s.own.owner = some p → v.getLsbD 31 = true →
    (∀ r : Fin 4, v.toNat % 8 = 4 → v.toNat / 256 % 4 = r.val → (s.rcv.rungs.any fun g => s.holdsScope g.scope (.region r)) = false →
      ∃ t, exec (.rcvReset (whole p v)) s = .next t
        ∧ { scope := .region r, start := s.clk.now, missed := false, engine := none, todo := [] } ∈ t.rcv.rungs
        ∧ t.rcv.counts = s.rcv.counts.set 3 (satInc s.rcv.counts[3]) ∧ t.rcv.last = BitVec.ofNat 32 (r.val * 256 + 4)
        ∧ t.dma.ready = s.dma.ready.set r.val false ∧ t.own = s.own ∧ t.cfg = s.cfg ∧ t.boot = s.boot ∧ t.hbm = s.hbm)
    ∧ (v.toNat % 8 = 5 → (s.rcv.rungs.any fun g => s.holdsScope g.scope .warm) = false →
      ∃ t, exec (.rcvReset (whole p v)) s = .next t
        ∧ t.rcv.rungs = [{ scope := .warm, start := s.clk.now, missed := false, engine := none, todo := [] }]
        ∧ t.rcv.last = 5#32 ∧ t.slu.admitting = false ∧ t.weir.ready = false ∧ t.hbm.ready = false ∧ t.boot.phase = .flash
        ∧ t.boot.warm = true ∧ t.boot.warms = satInc s.boot.warms ∧ t.own = s.own ∧ t.cfg = s.cfg ∧ t.fuse = s.fuse
        ∧ (∀ c, ((t.ctx c).state = .free ↔ (s.ctx c).state = .free) ∧ (t.ctx c).regs.seq = (s.ctx c).regs.seq
            ∧ ((s.ctx c).state ≠ .free → (t.ctx c).regs.window = [] ∧ (t.ctx c).asm = none)))

/-- BOOT_UPD_CTL with GO takes the staged address and length; the update programs the slot that did not boot when the image verifies,
leaves both slots when it does not, and leaves no valid page 0 when programming fails (R424). SEC_SVN_COMMIT raises FSV to the booted
version and never lowers it (R430). LOAD puts the staged key into an empty slot, unless another slot holds it, and ERASE empties an
occupied one; both extend measurement 3 (R432, R435). -/
def Obligations.ImagesAndKeys : Prop :=
  ∀ (s : State) (p : Port) (v : Reg),
    (s.Writable p → s.own.owner = some p → v.getLsbD 31 = true → (s.boot.updState = 0 ∨ 5 ≤ s.boot.updState) →
      exec (.bootUpdGo (whole p v)) s = .next { s with boot := { s.boot with
        updState := 1, updLen := s.cfg.updLen, updAddr := (s.cfg.updAddrHi.toNat % 65536) * 2 ^ 32 + s.cfg.updAddrLo.toNat } })
    ∧ (∀ ok : Bool, s.up = true → 1 ≤ s.boot.updState → s.boot.updState ≤ 4 →
      let image := s.committedBytes s.boot.updAddr s.boot.updLen
      ∃ t, exec (.imageUpdateDone ok) s = .next t ∧ t = { s with boot := t.boot, sec := t.sec, flash := t.flash }
        ∧ t.flash.areas = s.flash.areas ∧ t.flash.slot s.boot.slotB = s.flash.slot s.boot.slotB
        ∧ (imageVerifies s.fuse.imageKey s.fuse.fsv image = false →
            t.boot = { s.boot with updState := 6 } ∧ t.flash = s.flash ∧ t.sec = { s.sec with failed := satInc s.sec.failed })
        ∧ (imageVerifies s.fuse.imageKey s.fuse.fsv image = true → ok = false →
            t.boot.updState = 7 ∧ t.flash.slot (!s.boot.slotB) = [] ∧ t.sec = s.sec)
        ∧ (imageVerifies s.fuse.imageKey s.fuse.fsv image = true → ok = true →
            t.boot.updState = 5 ∧ t.flash.slot (!s.boot.slotB) = image ∧ t.sec = s.sec
            ∧ t.boot.queue = s.boot.queue ++ [.image (!s.boot.slotB) (imageSeqOf image)]))
    ∧ (s.Writable p → s.own.owner = some p → v.getLsbD 31 = true →
      exec (.secSvnCommit (whole p v)) s = .next { s with fuse := { s.fuse with fsv := max s.fuse.fsv s.sec.svn } })
    ∧ (∀ slot : Fin 16, s.Writable p → s.own.owner = some p → v.toNat % 16 = slot.val →
      (v.getLsbD 31 = true → v.getLsbD 30 = false → v.toNat / 16 % 4 ≠ 0 → s.sec.keys[slot] = none →
        let k := s.stagedKey (v.toNat / 16 % 4)
        (∀ (i : Fin 16) (q : Key), s.sec.keys[i] = some q → q.id ≠ k.id) →
        exec (.keyLoad (whole p v)) s =
          .next (State.measure { s with sec := { s.sec with keys := s.sec.keys.set slot (some k) } } 3 (keyEvent 1 slot k)))
      ∧ (∀ k : Key, v.getLsbD 31 = false → v.getLsbD 30 = true → s.sec.keys[slot] = some k →
        exec (.keyErase (whole p v)) s =
          .next (State.measure { s with sec := { s.sec with keys := s.sec.keys.set slot none } } 3 (keyEvent 2 slot k)))
      ∧ (v.getLsbD 31 = v.getLsbD 30 → exec (.keyLoad (whole p v)) s = .next s ∧ exec (.keyErase (whole p v)) s = .next s))

/-- SEC_ATT_CTL with GO snapshots the 336 signed bytes for its port; the signing unit, which serves the earlier request first, completes the
record with its signature over exactly those bytes (R436). TEL_TRACE_CTL sets its three fields, and with CLEAR empties and unfreezes
the trace, whose count goes on (R467). None of them changes anything else. -/
def Obligations.AttestationAndTrace : Prop :=
  ∀ (s : State) (p : Port) (v : Reg),
    (s.Writable p → v.getLsbD 31 = true → s.sec.attest[p.index].state ≠ 1 →
      exec (.attestationGo (whole p v)) s = .next { s with sec := { s.sec with
        attest := s.sec.attest.set p.index { s.sec.attest[p.index] with state := 1, since := s.clk.now, fields := s.attestFields p } } })
    ∧ (∀ i : Fin 2, s.up = true → s.sec.attest[i].state = 1 →
      (s.sec.attest[1 - i].state ≠ 1 ∨ s.sec.attest[i].since < s.sec.attest[1 - i].since
        ∨ (s.sec.attest[i].since = s.sec.attest[1 - i].since ∧ i = 0)) →
      exec .attestationSigned s = .next { s with sec := { s.sec with
        attest := s.sec.attest.set i { s.sec.attest[i] with
          state := 2, record := s.sec.attest[i].fields ++ Config.slhSign s.sec.idpk s.sec.attest[i].fields }
        signed := satInc s.sec.signed } })
    ∧ (s.Writable p →
      let cfg : Cfg := { s.cfg with traceOn := v.getLsbD 31, freezeOn := v.getLsbD 30, traceCls := v.setWidth 5 }
      exec (.traceClear (whole p v)) s =
        .next (if v.getLsbD 29 = true then { s with cfg := cfg, tel := { s.tel with entries := [], frozen := false, wrapped := false } }
          else { s with cfg := cfg }))

/-! ### Generations, power and the pins -/

/-- At creation a context takes the generation that follows the last one its number carried; teardown advances it once more, when its row is
written: at once where nothing of the context is left, and else with its completion (R332, R337). 0x0001 follows 0xFFFF. -/
def Obligations.GenerationsAdvance : Prop :=
  (∀ g : BitVec 16, genNext g = if g = 0xFFFF#16 then 1#16 else g + 1#16)
  ∧ (∀ (s : State) (r : RecordIn) (q : CreateRec), s.Takes 0x01 r → (s.ctx r.ctx).state = .free → (s.ctx r.ctx).asm = none →
      parseCreate r.payload = some q → s.hw.retired = false →
      ∃ t, exec (.create r) s = .next t ∧ (t.ctx r.ctx).state = .active ∧ (t.ctx r.ctx).regs.gen = genNext (s.ctx r.ctx).regs.gen)
  ∧ (∀ (s : State) (r : RecordIn), s.Takes 0x02 r → (s.ctx r.ctx).state = .active → (s.ctx r.ctx).asm = none → packed r.payload 0 = true →
      (∀ t, exec (.teardown r) s = .next t → (t.ctx r.ctx).steps = [] → (t.ctx r.ctx).state = .tearing
        ∧ (t.ctx r.ctx).regs.gen = genNext (s.ctx r.ctx).regs.gen)
      ∧ (∀ t, exec (.teardown r) s = .next t → (t.ctx r.ctx).steps ≠ [] → (t.ctx r.ctx).state = .tearing
        ∧ (t.ctx r.ctx).regs.gen = (s.ctx r.ctx).regs.gen))
  ∧ (∀ (s : State) (c : CtxId) (x : Tearing), s.up = true → (s.ctx c).tearing = some x → (s.ctx c).steps = [] →
      ∃ t, exec (.teardownComplete c) s = .next t ∧ (t.ctx c).state = .free
        ∧ (t.ctx c).regs.gen = if x.rowDone then (s.ctx c).regs.gen else genNext (s.ctx c).regs.gen)

/-- When a cold reset misses its 12 s bound the device asserts FAULT_OUT_N and holds itself in reset; from then on no command changes
anything but the two pins that other hardware drives, and nothing is sent, until PWRGD_IN falls (R373). -/
def Obligations.ColdMissHoldsDevice : Prop :=
  (∀ (s : State) (g : Rung), s.powered = true → s.rcv.rungs.find? (fun g => g.scope == .cold) = some g →
    g.start + 12000000000 ≤ s.clk.now →
    ∃ t, exec (.rungBoundMiss .cold) s = .next t ∧ t.rcv.dead = true ∧ t.faultOut = true ∧ t.powered = false
      ∧ t.rcv.misses = satInc s.rcv.misses ∧ t.mem = s.mem ∧ t.flash = s.flash ∧ t.out = s.out)
  ∧ (∀ (c : Instr) (s t : State), s.rcv.dead = true → s.clk.pwrgd = true → c ≠ .pwrgdInFall → exec c s = .next t →
      t = { s with clk := { s.clk with resetN := t.clk.resetN, straps := t.clk.straps } })

/-- Without power or in reset the device stands still: whatever the outside does but to its power and reset pins changes nothing and sends
nothing (R401). -/
def Obligations.UnpoweredDeviceStands : Prop :=
  ∀ (c : Instr) (s : State), s.powered = false →
    (∀ b, c ≠ .pwrgdInRise b) → c ≠ .pwrgdInFall → (∀ n, c ≠ .resetInNAssert n) → (∀ b, c ≠ .resetInNRelease b) → exec c s = .next s

/-- PWRGD_IN falling stops the device where it stands. RESET_IN_N low for 1 µs is rung 6: both hosts are told, and it is held in reset until
the pin rises. The cold boot starts with the later of the two rises, latches the straps then, holds the device on strap 3, and finds every
register, context and link at its reset value; fuses, journal areas and what has been sent stay (R5, R401, R463). -/
def Obligations.PinsRestartDevice : Prop :=
  ∀ s : State,
    let fresh (t : State) : Prop :=
      t.cfg = Cfg.reset ∧ t.own = State.reset.own ∧ t.ctxs = State.reset.ctxs ∧ t.weir = Weir.reset ∧ t.slu = Slu.reset ∧ t.hbm = Hbm.reset
      ∧ t.fab = Fab.reset ∧ t.dma = Dma.reset ∧ t.intg = Intg.reset ∧ t.pwr = Pwr.reset ∧ t.tel = State.reset.tel ∧ t.lat = State.reset.lat
      ∧ t.sec.keys = Sec.reset.keys ∧ t.mem.cells = [] ∧ t.fuse = s.fuse ∧ t.flash.areas = s.flash.areas ∧ t.pending = s.pending
    (∀ b : BitVec 2, s.clk.pwrgd = false → s.clk.resetN = true →
      ∃ t, exec (.pwrgdInRise b) s = .next t ∧ fresh t ∧ t.clk = { now := 0, pwrgd := true, resetN := true, straps := b }
        ∧ t.boot.strap = b ∧ t.boot.phase = (if b = 3#2 then .held else .powerOn) ∧ t.out = s.out)
    ∧ (∀ b : BitVec 2, s.clk.pwrgd = false → s.clk.resetN = false →
      ∃ t, exec (.pwrgdInRise b) s = .next t ∧ fresh t ∧ t.clk = { now := 0, pwrgd := true, resetN := false, straps := b }
        ∧ t.powered = false ∧ t.out = s.out)
    ∧ exec .pwrgdInFall s = .next { s with clk := { s.clk with pwrgd := false } }
    ∧ (∀ n, n < 1000 → exec (.resetInNAssert n) s = .next s)
    ∧ (∀ n, 1000 ≤ n → s.powered = true →
      ∃ t, exec (.resetInNAssert n) s = .next t ∧ fresh t ∧ t.powered = false ∧ t.clk.pwrgd = true
        ∧ t.rcv.rungs = [{ scope := .cold, start := 0, missed := false, engine := none, todo := [] }] ∧ t.rcv.last = 6#32
        ∧ t.out = s.out ++ [.msix .p0 0, .msix .p1 0])
    ∧ (∀ b : BitVec 2, s.clk.pwrgd = true → s.clk.resetN = false → s.rcv.dead = false →
      ∃ t, exec (.resetInNRelease b) s = .next t ∧ fresh t ∧ t.clk = { now := 0, pwrgd := true, resetN := true, straps := b }
        ∧ t.powered = true ∧ t.boot.strap = b ∧ t.boot.phase = (if b = 3#2 then .held else .powerOn) ∧ t.rcv.rungs = s.rcv.rungs
        ∧ t.out = s.out)

/-! ### Boot and journal (R402, R408 to R423) -/

/-- The replay of a readable journal leaves its entries as the working copy, the journal's number past them, M0 extended by ROM and fuse map, and
the image next (R419, R435). The next untried slot that verifies fills the boot store and sets the version; where none is left the
device boots no image (R408, R429). A stored image of a warm boot whose sections still match is taken again, and dropped otherwise. -/
def Obligations.BootTakesImage : Prop :=
  ∀ s : State, s.powered = true →
    (s.boot.phase = .powerOn ∨ s.boot.phase = .flash → s.boot.jrnFault = false → s.rcv.heldMiss = none →
      ∃ t, exec (.journalReplayDone true) s = .next t ∧ t.boot.phase = .image ∧ t.boot.journal = replayed s.flash
        ∧ t.boot.active = activeArea s.flash ∧ t.boot.err = s.boot.err ∧ (∀ e ∈ t.boot.journal, e.seq ≤ t.boot.jrnSeq)
        ∧ t.sec.meas[0] = sha256 (digestBytes (sha256 (digestBytes s.sec.meas[0] ++ digestBytes s.fuse.romHash)) ++ digestBytes s.fuse.mapHash)
        ∧ t.flash = s.flash ∧ t.fuse = s.fuse ∧ t.mem = s.mem ∧ t.weir = s.weir ∧ t.own = s.own)
    ∧ (s.boot.phase = .powerOn ∨ s.boot.phase = .flash → s.boot.jrnFault = false → s.rcv.heldMiss = none →
      ∃ t, exec (.journalReplayDone false) s = .next t ∧ t.boot.phase = .image ∧ t.boot.journal = [] ∧ t.boot.err = 5)
    ∧ (∀ b : Bool, s.boot.phase = .image → s.boot.store = [] →
      (bootOrder s.boot.strap s.flash).find? (fun b => !s.boot.tried.contains b) = some b →
      (imageVerifies s.fuse.imageKey s.fuse.fsv (s.flash.slot b) = true →
        ∃ t, exec .bootImageVerified s = .next t ∧ t.boot.phase = (if s.boot.trained then .firmware else .training) ∧ t.boot.slotB = b
          ∧ t.boot.store = (s.flash.slot b).take (imageBytes (s.flash.slot b))
          ∧ t.sec.svn = imageVersion (t.boot.store) ∧ (if b then t.boot.validB else t.boot.validA) = true
          ∧ t.flash = s.flash ∧ t.fuse = s.fuse)
      ∧ (imageVerifies s.fuse.imageKey s.fuse.fsv (s.flash.slot b) = false →
          (∀ x ∈ bootOrder s.boot.strap s.flash, x = b ∨ s.boot.tried.contains x = true) →
        ∃ t, exec .bootImageVerified s = .next t ∧ t.boot.phase = .noImage ∧ t.boot.err = 4 ∧ t.boot.tried = s.boot.tried ++ [b]
          ∧ (if b then t.boot.validB else t.boot.validA) = false ∧ t.faultOut = true ∧ t.sec = s.sec ∧ t.flash = s.flash))
    ∧ (s.boot.phase = .image → s.boot.store ≠ [] → sectionsMatch s.boot.store = false →
      exec .bootImageVerified s = .next { s with boot := { s.boot with store := [], err := 7 } })
    ∧ (s.boot.phase = .image → s.boot.store ≠ [] → sectionsMatch s.boot.store = true →
      ∃ t, exec .bootImageVerified s = .next t ∧ t.boot = { s.boot with phase := if s.boot.trained then .firmware else .training })

/-- Before the start-up test a boot trains its channels, declares the failed ones lost and serves HBM reads; a cold boot then writes all of
HBM with zeros; each unit fetches its firmware once, and one that fails is a failed unit; the identity key follows from the device
secret alone. The end of the test reconciles fuses, journal and test: every unit that failed is out of use, M2 takes the effective grade
and the DMA complexes are ready. Once Weir has rebuilt its free pages the device is ready, no walk is left, and Sluice admits unless a
migration is to come first (R160, R210, R409 to R416, R431, R435). -/
def Obligations.BootStages : Prop :=
  (∀ s : State, s.bootable = true →
    (∀ failed : List (Fin 256), s.boot.trained = false →
      ∃ t, exec (.hbmTrainingDone failed) s = .next t ∧ t.boot.trained = true ∧ t.hbm.ready = true ∧ t.slu.admitting = false
        ∧ (∀ c : Fin 256, t.hbm.chans[c].lost = true ↔ s.hbm.chans[c].lost = true ∨ c ∈ failed)
        ∧ (∀ c : Fin 256, t.hbm.chans[c].suspect = false)
        ∧ (s.boot.warm = false → t.hbm.mapped = t.lostSet ∧ t.hbm.migration = .none)
        ∧ (s.boot.phase = .training → t.boot.phase = if s.fetchers.all s.boot.fetched.contains then .test else .firmware)
        ∧ t.flash = s.flash ∧ t.fuse = s.fuse ∧ t.cfg = s.cfg ∧ t.own = s.own ∧ t.clk = s.clk)
    ∧ (s.boot.trained = true → s.boot.warm = false → s.hbm.initialised = false →
      ∃ t, exec .hbmInitialised s = .next t ∧ t = { s with mem := t.mem, hbm := { s.hbm with initialised := true } }
        ∧ (∀ a, a < 960 * 2 ^ 30 → t.mem.base a = 0#8 ∧ a ∉ t.mem.poison)
        ∧ (∀ a, 960 * 2 ^ 30 ≤ a → t.mem.base a = s.mem.base a) ∧ t.mem.flips = [])
    ∧ (∀ f : Fetcher, (s.boot.phase = .training ∨ s.boot.phase = .firmware) → f ∈ s.fetchers → f ∉ s.boot.fetched →
      let ends (bad : List Fetcher) (t : State) : Prop :=
        t = { s with boot := { s.boot with fetched := s.boot.fetched ++ [f], fetchBad := bad, phase := t.boot.phase } }
        ∧ t.boot.phase = if s.boot.phase = .training ∧ s.boot.trained = false then .training
            else if s.fetchers.all (s.boot.fetched ++ [f]).contains then .test else .firmware
      (∃ t, exec (.firmwareFetchDone f true) s = .next t ∧ ends s.boot.fetchBad t)
      ∧ (∃ t, exec (.firmwareFetchDone f false) s = .next t ∧ ends (s.boot.fetchBad ++ [f]) t)
      ∧ (∃ t, exec (.firmwareFetchTimeout f) s = .next t ∧ ends (s.boot.fetchBad ++ [f]) t))
    ∧ (s.sec.idReady = false →
      let seed (n : Nat) : List Byte := (digestBytes (sha256 (digestBytes s.fuse.secret ++ leBytes 1 n))).take 16
      exec .identityKeyDerived s = .next { s with sec := { s.sec with
        idReady := true, idpk := Config.slhPublic (seed 1) (seed 2) (seed 3) } }))
  ∧ (∀ s : State,
    (∀ failed : List HwUnit, s.bootable = true → s.boot.phase = .test → s.boot.trained = true →
      (s.boot.warm = true ∨ s.hbm.initialised = true) →
      ∃ t, exec (.startUpTestDone failed) s = .next t ∧ t.boot.phase = .reconcile ∧ t.boot.reconciled = true
        ∧ (∀ u ∈ failed, t.knownBad u = true) ∧ (∀ f ∈ s.boot.fetchBad, t.knownBad (fetcherUnit f) = true)
        ∧ t.boot.lastGrade = t.gradeNow ∧ t.dma.ready = Vector.replicate 5 true
        ∧ t.boot.below = (decide (t.grade < s.fuse.arrays) || decide ((t.oxbows 0).length + (t.oxbows 1).length < s.fuse.oxbows))
        ∧ t.sec.meas = s.sec.meas.set 2 (sha256 (digestBytes s.sec.meas[2] ++ digestBytes (sha256 (leBytes 4 t.bootGrade.toNat))))
        ∧ t.fuse = s.fuse ∧ t.flash = s.flash ∧ t.cfg = s.cfg ∧ t.own = s.own)
    ∧ (s.powered = true → s.boot.phase = .reconcile → s.hbm.ready = true →
      (s.warming = true ∨ ∀ c, (s.ctx c).regs.window = []) →
      ∃ t, exec .weirRebuildDone s = .next t ∧ t.weir.ready = true ∧ t.weir.rebuild = false
        ∧ t.boot = { s.boot with phase := if s.hw.retired then .retired else .ready }
        ∧ t.slu = { s.slu with admitting := s.hbm.migration == .none }
        ∧ (∀ r k, t.slot r k ≠ .folding ∧ t.slot r k ≠ .aborting) ∧ (∀ c, (t.ctx c).walking = [])
        ∧ (∀ r, (t.row r).version = (s.row r).version)
        ∧ t.hw = s.hw ∧ t.hbm = s.hbm ∧ t.own = s.own ∧ t.cfg = s.cfg ∧ t.intg = s.intg ∧ t.rcv = s.rcv))

/-- The oldest waiting event is appended with the next number; an append that fails, like every later one, sets JRN_FAULT and ERR 6 and
leaves retirements and grades in force in SRAM. Compaction writes the snapshot to the other area, which takes over, with a time mark;
the old area is then erased. A time mark is due every 900 s (R417, R418, R420, R422, R423). -/
def Obligations.JournalKeeps : Prop :=
  ∀ s : State, s.powered = true →
    (∀ (b : JBody) (rest : List JBody), s.boot.queue = b :: rest →
      let e : JEntry := { seq := s.boot.jrnSeq + 1, pages := entryPagesOf b, body := b }
      let a := s.flash.areas[s.boot.active]
      let b1 : Area := { header := some (a.header.getD (1, 0)), entries := a.entries ++ [e], fill := a.fill + e.pages }
      let full : Bool := s.boot.compacting || (decide (24576 < a.fill + e.pages) && !s.boot.erasing)
      let kept : List JEntry := if keptAfterFault b then s.boot.journal ++ [e] else s.boot.journal
      (s.boot.jrnFault = false → a.fill + e.pages ≤ 32768 →
        exec (.journalAppend true) s = .next { s with
          flash := { s.flash with areas := s.flash.areas.set s.boot.active b1 }
          boot := { s.boot with queue := rest, journal := s.boot.journal ++ [e], jrnSeq := e.seq, compacting := full } })
      ∧ (s.boot.jrnFault = false → exec (.journalAppend false) s = .next { s with
          boot := { s.boot with queue := rest, jrnFault := true, err := 6, journal := kept }
          out := s.out ++ [.msix .p0 0, .msix .p1 0] })
      ∧ (∀ ok, s.boot.jrnFault = true →
          exec (.journalAppend ok) s = .next { s with boot := { s.boot with queue := rest, journal := kept } }))
    ∧ (s.boot.compacting = true →
      ∃ t, exec (.compactionDone true) s = .next t ∧ t = { s with boot := t.boot, flash := t.flash }
        ∧ t.boot.active = 1 - s.boot.active ∧ t.boot.compacting = false ∧ t.boot.erasing = true
        ∧ t.boot.journal = snapshotOf s.jnow s.boot.journal ∧ t.flash.areas[1 - s.boot.active].entries = t.boot.journal
        ∧ t.flash.areas[s.boot.active] = s.flash.areas[s.boot.active] ∧ t.boot.compacts = satInc s.boot.compacts
        ∧ t.boot.queue = s.boot.queue ++ [s.markBody] ∧ t.boot.lastMark = s.jnow
        ∧ (∀ e ∈ s.boot.journal, inSnapshot s.jnow e = true → e ∈ t.boot.journal)
        ∧ (∀ e ∈ t.boot.journal, e ∈ s.boot.journal))
    ∧ (s.boot.erasing = true →
      exec (.areaEraseDone true) s = .next { s with
        boot := { s.boot with erasing := false }
        flash := { s.flash with areas := s.flash.areas.set (1 - s.boot.active) Area.erased } })
    ∧ (s.boot.lastMark + 900 ≤ s.jnow →
      exec .timeMark s = .next { s with boot := { s.boot with
        lastMark := s.jnow, queue := s.boot.queue ++ [s.markBody] } })
    ∧ exec .testPortBypassExit s = .next (s.measure 5 (sha256 (leBytes 4 (Config.eventCode 0).toNat)))

/-! ### Power, clocks and temperature (R443 to R455) -/

/-- A zone's temperature and thermal level follow its highest reading, with each level held until the zone reads 3 °C below its threshold; a 1 ms
window above the limit raises the power level at once from L0 and at most once per 10 ms after; 10 ms below 95% lowers it by one.
Each zone then takes the level it requires, and THERM_ALERT_N follows. A lost HBM clock is counted and remembered, a lost management
clock is a cold reset, and a lost arithmetic or mesh clock a warm one (R443, R445, R449 to R455). -/
def Obligations.PowerAndClocksFollow : Prop :=
  (∀ s : State, s.powered = true →
    let settled (t : State) : Prop := (∀ z : Fin 7, t.pwr.zones[z].level = t.required z) ∧ t.pwr.alert = t.alertNow
    (∀ (z : Fin 7) (readings : List Nat), z ∉ zonesH → readings ≠ [] → (isCompute z = true → readings.length = 12) →
      let hot := readings.foldl max 0
      let thermal (y : Fin 7) : Nat := if y = z then zoneLevel z s.pwr.zones[z].thermal hot else s.pwr.zones[y].thermal
      (s.pwr.trip = false → s.pwr.power < 4 → (∀ y, thermal y < 4) →
        ∃ t, exec (.zoneTemperatureRead z readings) s = .next t ∧ t.pwr.zones[z].temp = hot
          ∧ (∀ y : Fin 7, t.pwr.zones[y].thermal = thermal y) ∧ (∀ y : Fin 7, y ≠ z → t.pwr.zones[y].temp = s.pwr.zones[y].temp)
          ∧ settled t ∧ t.pwr.power = s.pwr.power ∧ t.pwr.trip = false ∧ t.cfg = s.cfg ∧ t.own = s.own ∧ t.fuse = s.fuse ∧ t.hbm = s.hbm)
      ∧ (s.pwr.trip = false → 95 ≤ hot → (∃ y, 4 ≤ thermal y) →
        ∃ t, exec (.zoneTemperatureRead z readings) s = .next t ∧ t.pwr.zones[z].temp = hot ∧ t.pwr.trip = true ∧ t.faultOut = true
          ∧ t.slu.admitting = false ∧ settled t ∧ t.cfg = s.cfg ∧ t.own = s.own ∧ t.fuse = s.fuse ∧ t.hbm = s.hbm)
      ∧ (s.pwr.trip = true → hot < 95 → (∀ y : Fin 7, y ≠ z → s.pwr.zones[y].temp < 95) → (∀ k : Fin 8, s.hbm.temps[k] < 95) →
        s.warming = false → s.cooling = false →
        ∃ t, exec (.zoneTemperatureRead z readings) s = .next t ∧ t.warming = true ∧ t.boot.warm = true ∧ t.slu.admitting = false
          ∧ t.own = s.own ∧ t.cfg = s.cfg ∧ t.fuse = s.fuse))
    ∧ (∀ watts : Nat, ∃ t, exec (.powerWindow watts) s = .next t
        ∧ t.pwr.nowW = watts ∧ t.pwr.overNow = decide (s.cfg.pwrLimit < watts)
        ∧ t.pwr.power = (if s.cfg.pwrLimit < watts ∧ (s.pwr.power = 0 ∨ s.pwr.raised + 10000000 ≤ s.clk.now ∧ s.pwr.power < 3)
            then s.pwr.power + 1 else s.pwr.power)
        ∧ settled t ∧ t.cfg = s.cfg ∧ t.own = s.own ∧ t.hbm = s.hbm)
    ∧ (s.pwr.power ≠ 0 → s.pwr.over95 + 10000000 ≤ s.clk.now → s.pwr.raised + 10000000 ≤ s.clk.now →
      ∃ t, exec .powerLevelFall s = .next t ∧ t.pwr.power = s.pwr.power - 1 ∧ settled t
        ∧ (∀ z : Fin 7, t.pwr.zones[z].temp = s.pwr.zones[z].temp ∧ t.pwr.zones[z].thermal = s.pwr.zones[z].thermal)
        ∧ t.cfg = s.cfg ∧ t.own = s.own ∧ t.hbm = s.hbm))
  ∧ (∀ s : State, s.powered = true →
    (exec (.clockCheck []) s = .next { s with pwr := { s.pwr with lostClk := [], clkOk := true } })
    ∧ (∀ k : Fin 8, s.pwr.lostClk = [] → exec (.clockCheck [.hbm k]) s =
        .next { s.countClock with pwr := { s.countClock.pwr with lostClk := [.hbm k] } })
    ∧ (s.pwr.lostClk = [] → s.cooling = false →
      ∃ t, exec (.clockCheck [.management]) s = .next t ∧ t.cooling = true ∧ t.cfg = Cfg.reset ∧ t.fuse = s.fuse
        ∧ t.boot.phase = (if s.boot.strap = 3#2 then .held else .powerOn))
    ∧ (s.pwr.lostClk = [] → s.warming = false → s.cooling = false →
      ∀ d : Domain, isWarmDomain d = true → ∃ t, exec (.clockCheck [d]) s = .next t ∧ t.warming = true ∧ t.boot.warm = true
        ∧ t.slu.admitting = false ∧ t.own = s.own ∧ t.cfg = s.cfg ∧ t.fuse = s.fuse))

/-! ### HBM and SRAM (R138 to R163) -/

/-- A slot retrains channel k mod 32 of every stack. A channel that fails once is suspect, a suspect one that fails again is lost, and one that
trains is neither; the other channels keep their standing (R150, R151, R443). -/
def Obligations.RetrainingSuspectsChannels : Prop :=
  ∀ s : State, s.up = true →
    (s.clk.now % 32000 = 0 → s.hbm.ready = true → s.hbm.slotGroup = none →
      exec .retrainSlot s = .next { s with hbm := { s.hbm with slotGroup := some (s.clk.now / 32000 % 32) } })
    ∧ (∀ (failed : BitVec 8) (g : Nat), s.hbm.slotGroup = some g → g < 32 → 1300 ≤ s.clk.now % 32000 →
      ∃ t, exec (.retrainResult failed) s = .next t ∧ t.hbm.slotGroup = none ∧ t.hbm.mapped = s.hbm.mapped
        ∧ (∀ (c : Fin 256) (k : Fin 8), c.val = 32 * k.val + g →
            let bad := failed.getLsbD k.val || s.pwr.lostClk.contains (.hbm k)
            t.hbm.chans[c] = if s.hbm.chans[c].lost = true then s.hbm.chans[c]
              else if bad = false then { s.hbm.chans[c] with suspect := false }
              else if s.hbm.chans[c].suspect = true then { s.hbm.chans[c] with lost := true, suspect := false }
              else { s.hbm.chans[c] with suspect := true })
        ∧ (∀ c : Fin 256, c.val % 32 ≠ g → t.hbm.chans[c] = s.hbm.chans[c])
        ∧ t.cfg = s.cfg ∧ t.own = s.own ∧ t.fuse = s.fuse ∧ t.clk = s.clk ∧ t.pwr = s.pwr)

/-- A burst with a parity error is issued again at most three times; after four failed attempts it is journalled, and the third such burst
of a channel within 24 h of journal time loses the channel. A group that reads right changes nothing; data lines with one or two bits in
error are corrected and counted; lines still beyond correction on the one re-read are poisoned, a record is made, and the reading command
ends its step. The scrub does the same to the next group and moves on; past the last one the sweep is complete (R147, R149, R156, R158). -/
def Obligations.HbmChecksAct : Prop :=
  (∀ (s : State) (chan : Fin 256) (reader : Option CmdRef), s.up = true → s.hbm.ready = true →
    (∀ n, 1 ≤ n → n ≤ 3 → exec (.hbmParityError chan n reader) s = .next { s with hbm := { s.hbm with retry := satAdd s.hbm.retry n } })
    ∧ (let old := s.hbm.chans[chan].fails.filter fun t => decide (s.jnow < t + 86400)
      ∃ t, exec (.hbmParityError chan 4 reader) s = .next t
        ∧ t.hbm.retry = satAdd s.hbm.retry 3 ∧ t.hbm.retryFail = satInc s.hbm.retryFail
        ∧ t.hbm.chans[chan].fails = s.jnow :: old
        ∧ (t.hbm.chans[chan].lost = true ↔ s.hbm.chans[chan].lost = true ∨ 2 ≤ old.length)
        ∧ (∀ c : Fin 256, c ≠ chan → t.hbm.chans[c] = s.hbm.chans[c])
        ∧ .miss (unitName (.hbmChannel chan)) 0 s.jnow ∈ t.boot.queue
        ∧ s.ReaderEnds t reader
        ∧ t.cfg = s.cfg ∧ t.own = s.own ∧ t.fuse = s.fuse ∧ t.flash = s.flash))
  ∧ (∀ (s : State) (g : Nat) (f : GroupFinding), s.up = true → s.hbm.ready = true → s.groupValid g = true →
    let first (n : Nat) : Nat := s.lineWeight g n f.first
    let again (n : Nat) : Nat := s.lineWeight g n f.again
    let fixes : Nat := ((List.range 15).filter fun n => first n == 1 || first n == 2).length
    let right : Prop := (∀ n < 15, first n ≤ 2) ∧ s.groupCrcBad g f.crcFirst = false
    let corrected (t : State) (pos : Hbm) : Prop :=
      t = { s with hbm := { pos with corr := satAdd s.hbm.corr fixes, lineFixes := t.hbm.lineFixes }
                   mem := { s.mem with flips := t.mem.flips }, boot := t.boot }
      ∧ t.boot = { s.boot with queue := t.boot.queue } ∧ (∀ x ∈ t.mem.flips, x ∈ s.mem.flips)
    (∀ reader : Option CmdRef,
      ((∀ n < 15, first n = 0) → s.groupCrcBad g f.crcFirst = false → exec (.hbmGroupRead g reader f) s = .next s)
      ∧ (right → ∃ t, exec (.hbmGroupRead g reader f) s = .next t ∧ corrected t s.hbm)
      ∧ ((∃ n < 15, 3 ≤ first n) → (∃ n < 15, 3 ≤ again n) →
        ∃ t, exec (.hbmGroupRead g reader f) s = .next t
          ∧ (reader = none → (∀ n < 15, 3 ≤ again n → (g * 15 + n) * 64 ∈ t.mem.poison) ∧ t.mem.cells = s.mem.cells)
          ∧ t.intg.recSeq = s.intg.recSeq + 1
          ∧ s.ReaderEnds t reader
          ∧ t.cfg = s.cfg ∧ t.own = s.own ∧ t.fuse = s.fuse))
    ∧ (g = s.hbm.scrubPos → right →
      let next : Hbm := if s.groupValid (g + 1) then { s.hbm with scrubPos := g + 1 }
        else { s.hbm with scrubPos := 0, sweeps := s.hbm.sweeps + 1 }
      ∃ t, exec (.hbmScrubGroup f) s = .next t ∧ corrected t next))

/-- A stack's reading sets its temperature and the level that follows from it with 3 °C of hold; its die's zone H follows the hottest of
its stacks. Level 4 trips the device: FAULT_OUT_N, and nothing is admitted (R153, R154, R451). -/
def Obligations.StackTemperaturesAct : Prop :=
  ∀ (s : State) (k : Fin 8) (temp : Nat), s.powered = true → s.pwr.trip = false →
    let temps := s.hbm.temps.set k temp
    let levels := s.hbm.levels.set k (levelAfter [85, 95, 102, 108] s.hbm.levels[k] temp)
    let z : Fin 7 := if k.val < 4 then 2 else 5
    let most (v : Vector Nat 8) : Nat := (((List.finRange 8).filter fun j => j.val / 4 == k.val / 4).map fun j => v[j]).foldl max 0
    let shown (t : State) : Prop :=
      t.hbm = { s.hbm with temps := temps, levels := levels }
      ∧ t.pwr.zones[z].temp = most temps ∧ t.pwr.zones[z].thermal = zoneOfStacks (most levels)
      ∧ (∀ y : Fin 7, y ≠ z → t.pwr.zones[y].temp = s.pwr.zones[y].temp ∧ t.pwr.zones[y].thermal = s.pwr.zones[y].thermal)
      ∧ (∀ y : Fin 7, t.pwr.zones[y].level = t.required y) ∧ t.pwr.alert = t.alertNow
      ∧ t.cfg = s.cfg ∧ t.own = s.own ∧ t.fuse = s.fuse
    (s.pwr.power < 4 → (∀ y : Fin 7, y ≠ z → s.pwr.zones[y].thermal < 4) → zoneOfStacks (most levels) < 4 →
      ∃ t, exec (.hbmTemperatureRead k temp) s = .next t ∧ shown t ∧ t.pwr.trip = false)
    ∧ (108 ≤ temp →
      ∃ t, exec (.hbmTemperatureRead k temp) s = .next t ∧ shown t ∧ t.pwr.trip = true ∧ t.faultOut = true ∧ t.slu.admitting = false)

/-- A declared migration starts once no step runs, in a group of the device row and over the channels lost by then. It commits in one write of that
row: the lost set is in force, a further loss declares the next migration, records say so, and Sluice admits again where nothing else
holds it (R159, R160, R212). -/
def Obligations.MigrationRemaps : Prop :=
  ∀ s : State, s.up = true →
    (∀ (since : Ns) (k : Fin 8), s.hbm.migration = .declared since → s.freeSlot 16 = some k → s.noneRunning = true → s.lostCount < 17 →
      ∃ t, exec .migrationStart s = .next t ∧ t = { s with hbm := t.hbm, weir := t.weir }
        ∧ t.hbm = { s.hbm with migration := .moving s.clk.now s.lostSet } ∧ t.slot 16 k = .open
        ∧ (∀ j : Fin 8, j ≠ k → t.slot 16 j = s.slot 16 j) ∧ (∀ r : Fin 17, r ≠ 16 → t.row r = s.row r)
        ∧ t.version 16 = s.version 16)
    ∧ (∀ (unreadable : List Nat) (since : Ns) (set : List Nat), s.hbm.migration = .moving since set →
      ∃ t, exec (.migrationCommit unreadable) s = .next t ∧ t.hbm.mapped = set
        ∧ t.hbm.migration = (if set.length < s.lostCount ∧ s.lostCount < 17 then .declared s.clk.now else .none)
        ∧ (∀ k : Fin 8, s.slot 16 k = .open → (∀ j : Fin 8, s.slot 16 j = .open → ∀ r ∈ s.recv.slots, r.group ≠ some j) →
            t.version 16 = s.version 16 + 1#64)
        ∧ (∃ g ∈ t.intg.records, g.kind = 7)
        ∧ ((t.hbm.migration = .none ∧ s.pwr.trip = false ∧ s.weir.ready = true) → t.slu.admitting = true)
        ∧ t.cfg = s.cfg ∧ t.own = s.own ∧ t.fuse = s.fuse ∧ t.clk = s.clk ∧ t.flash = s.flash)

/-- A bank's scrub corrects words of one or two wrong bits, poisons words of three, and changes no data. At a step boundary each waiting row of
an idle unit goes to a spare row where one is left, and units whose loss waits leave service, with the effective grade that remains
(R138 to R141, R347). -/
def Obligations.RepairsAtBoundaries : Prop :=
  ∀ s : State,
    (∀ (bank : SramBank) (words : List ScrubWord), s.powered = true →
      ∃ t, exec (.sramScrub bank words) s = .next t
        ∧ t = { s with mem := { s.mem with poison := t.mem.poison }, sram := t.sram, intg := t.intg, out := t.out }
        ∧ t.sram.corr = satAdd s.sram.corr (words.filter fun w => w.weight == 1 || w.weight == 2).length
        ∧ (∀ w ∈ words, w.weight = 3 → w.addr / 8 * 8 ∈ t.mem.poison) ∧ (∀ a ∈ s.mem.poison, a ∈ t.mem.poison)
        ∧ (∀ a ∈ t.mem.poison, a ∈ s.mem.poison ∨ ∃ w ∈ words, w.weight = 3 ∧ a = w.addr / 8 * 8)
        ∧ (∀ r ∈ s.sram.replace, r ∈ t.sram.replace))
    ∧ (∀ (bank : SramBank) (sub row : Nat), s.up = true →
      (s.sram.replace.filter fun r => !s.unitBusy (bankUnit r.1)) = [(bank, sub, row)] →
      (s.sparesUsed bank sub < spareLimit bank →
        ∃ t, exec .spareRowReplace s = .next t
          ∧ t.sram = { s.sram with spares := s.sram.spares ++ [(bank, sub, row)], replace := s.sram.replace.filter fun r => s.unitBusy (bankUnit r.1) }
          ∧ .spare bank sub row ∈ t.boot.queue ∧ t.hw = s.hw ∧ t.cfg = s.cfg ∧ t.own = s.own ∧ t.fuse = s.fuse)
      ∧ (spareLimit bank ≤ s.sparesUsed bank sub →
        ∃ t, exec .spareRowReplace s = .next t ∧ t.sram.spares = s.sram.spares ∧ t.knownBad (bankUnit bank) = true
          ∧ t.cfg = s.cfg ∧ t.own = s.own ∧ t.fuse = s.fuse))
    ∧ (s.up = true → (s.hw.pendingOut.filter fun u => !s.unitBusy u) ≠ [] →
      ∃ t, exec .stepBoundaryRetirement s = .next t ∧ t.hw.pendingOut = s.hw.pendingOut.filter (fun u => s.unitBusy u)
        ∧ (∀ u ∈ s.hw.pendingOut, s.unitBusy u = false → t.knownBad u = true ∧ ∃ g ∈ t.intg.records, g.kind = 5 ∧ g.unit = unitName u)
        ∧ t.boot.lastGrade = t.gradeNow ∧ t.cfg = s.cfg ∧ t.own = s.own ∧ t.fuse = s.fuse ∧ t.clk = s.clk)

/-! ### Steps run (R41 to R51, R170 to R206, R241, R333) -/

/-- The earliest step due of a context starts at its T0. A host step whose base version is the committed one runs in a free slot with an
empty group; one whose base is the version before reverts the last commit first, once; any other base ends it with ABORTED_FAULT.
A replay runs without a group, and load parts and restores open theirs too (R41, R196, R205, R219, R241). -/
def Obligations.StepsStartAtOrigin : Prop :=
  ∀ (s : State) (c : CtxId) (t : Step) (later : List Step), s.up = true → s.dueSteps c = t :: later → s.hbm.migration = .none →
    (s.ctx c).step? t.uid = some t →
    let row := s.row (rowOf c)
    let runs (u : State) (n : Step) : Prop := (∃ v ∈ (u.ctx c).steps, v.still = n.still) ∧ s.OthersStand u c
    let opens (u : State) (k : Fin 8) : Prop := u.slot (rowOf c) k = .open ∧ t.group c k ∈ u.weir.groups
    (∀ k, t.kind = .host → t.hdr.mode ≠ 4 → row.version = t.hdr.base → s.freeSlot (rowOf c) = some k →
      ∃ u, exec (.stepStart c) s = .next u ∧ opens u k ∧ (u.row (rowOf c)).version = row.version
        ∧ runs u { t with state := .running, slot := some k, condFlag := (s.ctx c).wcFlag })
    ∧ (∀ k, t.kind = .host → t.hdr.mode ≠ 4 → row.version = t.hdr.base + 1#64 → row.priorValid = true → s.openIn (rowOf c) = 0 →
      s.freeSlot (rowOf c) = some k →
      ∃ u, exec (.stepStart c) s = .next u ∧ opens u k ∧ (∀ j, s.slotIn (rowOf c) .last = some j →
          (u.row (rowOf c)).version = t.hdr.base ∧ (u.row (rowOf c)).priorValid = false ∧ u.slot (rowOf c) j = .aborting)
        ∧ runs u { t with state := .running, slot := some k, reverted := true, condFlag := false })
    ∧ (t.kind = .host → t.hdr.mode = 4 → row.version = t.hdr.base →
      ∃ u, exec (.stepStart c) s = .next u ∧ u.row (rowOf c) = row
        ∧ runs u { t with state := .running, sweep := decide (s.intg.cover = some c), condFlag := false })
    ∧ (t.kind = .host → row.version ≠ t.hdr.base →
      (t.hdr.mode = 4 ∨ row.version ≠ t.hdr.base + 1#64 ∨ row.priorValid = false ∨ s.openIn (rowOf c) ≠ 0) →
      ∃ u, exec (.stepStart c) s = .next u ∧ s.EndsStep u c t.uid .abortedFault)
    ∧ (∀ k, (t.kind = .load ∧ (s.ctx c).load.isSome = true ∨ t.kind = .restore ∧ (s.ctx c).restore.isSome = true) →
      s.freeSlot (rowOf c) = some k →
      ∃ u, exec (.stepStart c) s = .next u ∧ opens u k ∧ (u.row (rowOf c)).version = row.version
        ∧ runs u { t with state := .running, slot := some k })

/-- A command reaches its release: a COND command whose step finds the working-copy flag set is done at once, and any other is ready, or
runs at once where its engine is idle and nothing else waits for it (R44, R47, R219, R333). At a slice boundary a running command gives way
to another context's earlier deadline, keeping the time it has run, and one that has run its W′ ends its step (R46, R333). -/
def Obligations.EnginesTakeCommands : Prop :=
  ∀ (s : State) (r : CmdRef) (t : Step) (k : Cmd), s.up = true → s.Numbered → s.step? r = some t → s.cmd? r = some k →
    (t.state = .running → k.afterCommit = false → k.state = .waiting → k.waitSince = none → t.release k ≤ s.clk.now →
      (k.entry.cond = true → t.condFlag = true →
        ∃ u, exec (.commandRelease r) s = .next u ∧ (u.cmd? r).map (·.state) = some .done ∧ u.mem = s.mem
          ∧ u.weir.groups = s.weir.groups ∧ (∀ d, d ≠ r.ctx → (u.ctx d).still = (s.ctx d).still) ∧ u.cfg = s.cfg ∧ u.own = s.own)
      ∧ ((k.entry.cond && t.condFlag) = false →
        ∃ u, exec (.commandRelease r) s = .next u ∧ u.mem = s.mem ∧ u.weir = s.weir ∧ u.slu = s.slu ∧ u.intg = s.intg
          ∧ (∀ d, (u.ctx d).still = (s.ctx d).still) ∧ u.cfg = s.cfg ∧ u.own = s.own
          ∧ ((s.running? k.entry.engine).isSome = true → engineKind k.entry.engine ≠ 5 → (u.cmd? r).map (·.state) = some .ready)
          ∧ ((s.running? k.entry.engine).isNone = true → engineKind k.entry.engine ≠ 5 → s.engineBlocked k.entry.engine = false →
              (∀ ch ∈ s.ready, ∀ q, s.cmd? ch.ref = some q → q.entry.engine ≠ k.entry.engine) →
              (u.cmd? r).map (·.state) = some .running)))
    ∧ (∀ e : Engine, s.running? e = some (r, k) → k.since + Config.slice ≤ s.clk.now → (s.clk.now - k.since) % Config.slice = 0 →
      s.earlierReady r e (t.deadline k) = true →
      ∃ u, exec (.timeSliceBoundary e) s = .next u ∧ u.mem = s.mem ∧ u.weir = s.weir ∧ u.slu = s.slu
        ∧ (∀ d, (u.ctx d).still = (s.ctx d).still) ∧ u.cfg = s.cfg ∧ u.own = s.own
        ∧ (engineKind e ≠ 5 → (u.cmd? r).map (fun q => (q.state, q.ran)) = some (.suspended, k.runTime s.clk.now)))
    ∧ (k.state = .running → k.wPrime ≤ k.runTime s.clk.now → t.state ≠ .committed →
      ∃ u, exec (.overrun r) s = .next u ∧ s.EndsStep u r.ctx r.step .abortedFault)

/-- A running command that has run for what its engine needs and not past its W′ completes: what it writes is what its meaning computes from
its view, at the places that its operands name, and nothing else of memory changes (R46, R61, R69, R101 to R116, R170 to R174, R224 to
R227, R254, R258). -/
def Obligations.CommandsComplete : Prop :=
  ∀ (s : State) (r : CmdRef) (t : Step) (k : Cmd), s.up = true → s.step? r = some t → s.cmd? r = some k →
    let v := s.cmdView r.ctx t
    (∀ (n : Nat) (j : MatJob) (m : Mode), k.entry.engine = .matrix n → s.injected r = none → s.matJob r.ctx t k = some j →
      j.mode = some m → k.mayEnd s.clk.now (matrixMinTime s r.ctx t k) = true →
      let w := s.cmdWrite r.ctx t (j.writes v m (coreOf k.entry.engine) k.entry.arrays)
      w.2 = none → ∃ u, exec (.matrixCommandComplete r) s = .next u ∧ s.Completes w.1 u r)
    ∧ (∀ (n : Nat) (j : VecJob), k.entry.engine = .vector n → s.injected r = none → s.vecJob r.ctx t k = some j →
      k.mayEnd s.clk.now (vectorMinTime s r.ctx t k) = true →
      let w := s.cmdWrite r.ctx t (j.writes v).1
      w.2 = none → ∃ u, exec (.vectorCommandComplete r) s = .next u ∧ s.Completes w.1 u r)
    ∧ (∀ (n : Nat) (j : UpdJob), k.entry.engine = .update n → s.updJob r.ctx t k = some j →
      j.nonFinite v (k.gscale.getD fp32One) = false → k.mayEnd s.clk.now (updateMinTime s r.ctx t k) = true →
      let w := s.cmdWrite r.ctx t (j.writes v (k.gscale.getD fp32One))
      w.2 = none → ∃ u, exec (.updateCommandComplete r) s = .next u ∧ s.Completes w.1 u r)
    ∧ (∀ host : List Byte, engineKind k.entry.engine = 3 → s.dmaPacedDone r = true →
      k.mayEnd s.clk.now (dmaMinTime s r.ctx t k) = true →
      let w := dmaEffect host r s t k
      w.2 = none → ∃ u, exec (.dmaCommandComplete r host) s = .next u ∧ s.Completes w.1 u r)
    ∧ (engineKind k.entry.engine = 5 → s.collDone r = true → k.mayEnd s.clk.now 2000 = true →
      let w := collEffect r s t k
      w.2 = none → ∃ u, exec (.collectiveCommandComplete r) s = .next u ∧ s.Completes w.1 u r)

/-- A checker's mismatch ends its running command as a detected fault, counts it by checker, and queues the failing unit for its repeat, or
records it with its outcome open where no unit can be named (R343 to R346, R357, R362). -/
def Obligations.CheckerMismatchEndsStep : Prop :=
  ∀ (s : State) (r : CmdRef) (t : Step) (k : Cmd) (chk : Checker) (ordinal : Nat) (operands : List Byte), s.up = true →
    s.step? r = some t → s.cmd? r = some k → t.state ≠ .committed → k.state = .running → checkerFits k.entry.engine chk = true →
    let i := (s.countChecker chk).intg
    ∃ u, exec (.checkerMismatch r chk ordinal operands) s = .next u ∧ s.EndsStep u r.ctx r.step .abortedFault
      ∧ u.intg.checksum = i.checksum ∧ u.intg.combiner = i.combiner ∧ u.intg.vector = i.vector ∧ u.intg.lockstep = i.lockstep
      ∧ u.intg.update = i.update
      ∧ (∀ unit, s.faultyUnit r.ctx t k chk ordinal = some unit → u.intg.recSeq = s.intg.recSeq
          ∧ ∃ q, u.intg.repeats = s.intg.repeats ++ [q] ∧ q.unit = unit ∧ q.engine = some k.entry.engine ∧ q.pending = none
            ∧ q.sig.cls = some (checkerClass chk))
      ∧ (s.faultyUnit r.ctx t k chk ordinal = none → u.intg.repeats = s.intg.repeats
          ∧ ∃ g, u.intg.records = s.intg.records ++ [g] ∧ g.kind = 1 ∧ g.outcome = some 0 ∧ g.cls = some (checkerClass chk))
      ∧ u.hw = s.hw ∧ u.hbm = s.hbm

/-- A command's first write to a page of committed state takes the page's shadow in its group, or ends the step where another group of the row
holds the page or the group's share is used up; a page that is held already costs nothing. The end of a walk frees its slot, and a
FOLDING group's copies are then what the base holds (R194, R200, R203). -/
def Obligations.PagesShadowAndFold : Prop :=
  (∀ (s : State) (r : CmdRef) (t : Step) (k : Cmd) (g : Fin 8) (f : CmdFacts) (page : Nat), s.up = true → s.step? r = some t →
    s.cmd? r = some k → t.slot = some g → s.readFacts r.ctx (s.stepView r.ctx t) t.hdr.commitDl k.entry = some f → k.state = .running →
    (f.writes.any fun e => decide (e.1 < (page + 1) * 4096 ∧ page * 4096 < e.1 + e.2)) = true →
    kindAt (s.ctx r.ctx).alloc (page * 4096) = some .committed →
    let o := s.shadowFor r.ctx g f.writes page
    (o.2 = none → exec (.weirPageWrite r page) s = .next o.1 ∧ (o.1.group? (rowOf r.ctx) g).any (·.holds page) = true
      ∧ o.1.ctxs = s.ctxs ∧ (∀ c, o.1.row c = s.row c))
    ∧ ((s.group? (rowOf r.ctx) g).any (·.holds page) = true → s.slot (rowOf r.ctx) g = .open →
        exec (.weirPageWrite r page) s = .next s)
    ∧ (o.2.isSome = true → t.state ≠ .committed →
        ∃ u, exec (.weirPageWrite r page) s = .next u ∧ s.EndsStep u r.ctx r.step .abortedFault))
  ∧ (∀ (s : State) (row : Fin 17) (k : Fin 8), s.powered = true →
    (s.slot row k = .aborting →
      ∃ u, exec (.walkComplete row k) s = .next u ∧ u.slot row k = .free ∧ u.mem = s.mem ∧ u.group? row k = none)
    ∧ (∀ g, s.slot row k = .folding → s.group? row k = some g → Cells.wf s.mem.cells →
      (∀ p ∈ g.copies, Cells.wf p.data ∧ ∀ x ∈ p.data, x.1 / Config.pageBytes = p.page) → (g.copies.map (·.page)).Nodup →
      ∃ u, exec (.walkComplete row k) s = .next u ∧ u.slot row k = .free ∧ u.group? row k = none
        ∧ (∀ p ∈ g.copies, ∀ a, a / Config.pageBytes = p.page → u.mem.base a = readCell p.data a)
        ∧ (∀ a, (∀ p ∈ g.copies, a / Config.pageBytes ≠ p.page) → u.mem.base a = s.mem.base a)
        ∧ (∀ c, (u.row c).version = (s.row c).version) ∧ u.cfg = s.cfg ∧ u.own = s.own ∧ u.slu = s.slu))

/-- A group commits by itself when everything that gates it is done and its deadline has not passed: the row takes the next VERSION with its
slot LAST, PRIOR_VALID and the old LAST folding, in one write; the working-copy flag and the carried memory hold. A restore's commit takes
the recorded VERSION, and a replay's leaves it. A step past its commit deadline aborts instead (R37, R202, R241, R378). -/
def Obligations.GroupsCommit : Prop :=
  ∀ (s : State) (c : CtxId) (t : Step), s.up = true → (s.ctx c).step? t.uid = some t → t.state = .running →
    let late : Prop := t.t0 + t.hdr.commitDl < s.clk.now
    let last (u : State) (version : BitVec 64) (prior : Bool) : Prop :=
      (∀ k, t.slot = some k → u.slot (rowOf c) k = .last ∧ (u.row (rowOf c)).lastSlot = k ∧ (u.row (rowOf c)).version = version
        ∧ (u.row (rowOf c)).priorValid = prior ∧ ∀ j, s.slotIn (rowOf c) .last = some j → j ≠ k → u.slot (rowOf c) j = .folding)
    (t.kind = .host → t.hdr.mode ≠ 4 → t.hdr.job = false → t.slot.isSome = true → ¬ late → t.gateDone = true →
      ∃ u, exec (.commit c t.uid) s = .next u ∧ last u ((s.row (rowOf c)).version + 1#64) true
        ∧ (u.ctx c).wcFlag = true ∧ (u.ctx c).carryOk = true ∧ (u.ctx c).alloc = t.alloc ∧ (u.ctx c).regs.gen = (s.ctx c).regs.gen
        ∧ (∀ v ∈ (u.ctx c).steps, v.uid = t.uid → v.state = .committed) ∧ s.OthersStand u c)
    ∧ (t.kind = .host → t.hdr.mode = 4 → t.gateDone = true → t.tailDone = true →
      ∃ u, exec (.commit c t.uid) s = .next u ∧ u.weir = s.weir ∧ u.mem = s.mem ∧ (∀ v ∈ (u.ctx c).steps, v.uid ≠ t.uid)
        ∧ (u.ctx c).alloc = t.alloc ∧ (u.ctx c).carryOk = true ∧ (u.ctx c).regs.lastCode = Code.committed.value ∧ s.OthersStand u c)
    ∧ (t.kind = .host ∧ t.hdr.mode ≠ 4 ∧ t.hdr.job = false ∨ t.kind = .period → late →
      ∃ u, exec (.commit c t.uid) s = .next u ∧ s.EndsStep u c t.uid .abortedFault)
    ∧ (∀ p, t.kind = .period → t.slot.isSome = true → ¬ late → t.gateDone = true → (s.ctx c).pattern = some p →
      ∃ u, exec (.commit c t.uid) s = .next u ∧ last u ((s.row (rowOf c)).version + 1#64) true
        ∧ (∀ q, (u.ctx c).pattern = some q → q = { p with seqs := (periodEnd p (s.ctx c).models s.mem.draws t.hdr.step.toNat).seqs })
        ∧ (u.ctx c).history = ((t.hdr.step.toNat, (periodEnd p (s.ctx c).models s.mem.draws t.hdr.step.toNat).served)
            :: (s.ctx c).history).take 128
        ∧ s.OthersStand u c)
    ∧ (∀ l, t.kind = .load → t.slot.isSome = true → (s.ctx c).load = some l → l.uid = t.uid → l.fetches.all (·.done) = true →
      ∃ u, exec (.commit c t.uid) s = .next u ∧ last u ((s.row (rowOf c)).version + 1#64) true ∧ (u.ctx c).load = none
        ∧ (∀ m ∈ (u.ctx c).models, m.version = l.version → m.resident = l.lastPart) ∧ s.OthersStand u c)
    ∧ (∀ q, t.kind = .restore → t.slot.isSome = true → (s.ctx c).restore = some q → q.uid = t.uid → q.done = true →
      ∃ u, exec (.commit c t.uid) s = .next u ∧ last u q.version false ∧ (u.ctx c).restore = none ∧ (u.ctx c).wcFlag = false
        ∧ u.rcv.restores = satInc s.rcv.restores ∧ s.OthersStand u c)

/-- A prepared job step decides on the reduced record of its epoch: it commits where every rank was ready with the same STEP and BASE, and aborts
with the commit mismatch where not; a record of another epoch is dropped and counted. A wait for peers that passes its deadline ends
the step and reports each missing rank (R35, R51, R206, R287). -/
def Obligations.JobStepsDecide : Prop :=
  (∀ (s : State) (c : CtxId) (t : Step) (d : Reduced), s.up = true → (s.ctx c).step? t.uid = some t → t.state = .prepared →
    s.clk.now ≤ min (t.prepared + 2000000) (t.t0 + t.hdr.commitDl) →
    (d.epoch ≠ (s.ctx c).job.epoch →
      exec (.reducedRecord c t.uid d) s = .next { s with fab := { s.fab with dropEpoch := satInc s.fab.dropEpoch } })
    ∧ (∀ k, d.epoch = (s.ctx c).job.epoch → reducedAgrees d t = true → t.slot = some k →
      ∃ u, exec (.reducedRecord c t.uid d) s = .next u ∧ u.slot (rowOf c) k = .last
        ∧ (u.row (rowOf c)).version = (s.row (rowOf c)).version + 1#64 ∧ (u.row (rowOf c)).priorValid = true
        ∧ (∀ v ∈ (u.ctx c).steps, v.uid = t.uid → v.state = .committed) ∧ s.OthersStand u c)
    ∧ (d.epoch = (s.ctx c).job.epoch → reducedAgrees d t = false →
      ∃ u, exec (.reducedRecord c t.uid d) s = .next u ∧ s.EndsStep u c t.uid .abortedFault ∧ u.fab.dropEpoch = s.fab.dropEpoch))
  ∧ (∀ (s : State) (w : WaitRef) (missing : List Nat), s.up = true → s.waitOver w = true →
    (∀ t, (s.ctx (waitStep w).1).step? (waitStep w).2 = some t → t.state ≠ .committed) →
    ∃ u, exec (.collectiveDeadline w missing) s = .next u ∧ s.EndsStep u (waitStep w).1 (waitStep w).2 .abortedFault
      ∧ u.fab.suspects = satAdd s.fab.suspects missing.length ∧ u.intg.recSeq = s.intg.recSeq + missing.length)

/-- A burst of a DMA command moves its bytes and advances the command; a paced one waits for a request on its line, which is acknowledged with
the burst's size and answered with DONE. A request with no paced command waiting for it is kept, and a parity fault disables the line and
ends the command on it (R170, R176, R177, R188). -/
def Obligations.BurstsFollowRequests : Prop :=
  (∀ (s : State) (r : CmdRef) (t : Step) (k : Cmd) (j : DmaJob) (host : List Byte), s.up = true → s.step? r = some t → s.cmd? r = some k →
    engineKind k.entry.engine = 3 → k.mayEnd s.clk.now 0 = true → s.dmaJob r.ctx t k = some j → k.position < j.d.total →
    let l := lineOf (dmaPlace k.entry.engine).1 j.d.reqLine
    let n := j.burst k.position
    (j.d.paced = true → s.requested k l = true) →
    let s0 := if j.d.paced && !k.lineAcked then s.ackLine r j l k.position else s
    let m := s0.dmaMove r.ctx t j host k.position n
    m.2 = none →
    ∃ u, exec (.dmaBurstComplete r host) s = .next u ∧ (u.cmd? r).map (fun q => (q.position, q.lineAcked)) = some (k.position + n, false)
      ∧ u.mem = m.1.mem ∧ u.weir = m.1.weir ∧ u.dma.bursts = satInc s.dma.bursts
      ∧ (j.d.paced = true → .lineDone l.1 l.2 false ∈ u.out ∧ (k.lineAcked = false → .lineAck l.1 l.2 n ∈ u.out))
      ∧ (∀ d, (u.ctx d).still = (s.ctx d).still) ∧ u.cfg = s.cfg ∧ u.own = s.own ∧ u.slu = s.slu ∧ u.intg = s.intg)
  ∧ (∀ (s : State) (x : Fin 5) (l : Fin 64), s.powered = true → s.hw.lineDown.contains (x, l) = false →
    let waits (st : List CmdState) : Option (CmdRef × Cmd) :=
      s.allCmds.find? fun p => p.2.line == some (x, l) && st.contains p.2.state
    ((∀ p ∈ s.allCmds, p.2.line = some (x, l) → p.2.state = .running → p.2.lineAcked = true) → s.dma.reqs.contains (x, l) = false →
      exec (.reqRise x l) s = .next { s with dma := { s.dma with reqs := s.dma.reqs ++ [(x, l)] } })
    ∧ (∀ p t j, (s.allCmds.find? fun p => p.2.line == some (x, l) && p.2.state == .running && !p.2.lineAcked) = some p →
      s.step? p.1 = some t → s.cmd? p.1 = some p.2 → s.dmaJob p.1.ctx t p.2 = some j → p.2.position < j.d.total →
      ∃ u, exec (.reqRise x l) s = .next u ∧ u.out = s.out ++ [.lineAck x l (j.burst p.2.position)]
        ∧ (u.cmd? p.1).map (·.lineAcked) = some true ∧ u.mem = s.mem ∧ u.weir = s.weir ∧ (∀ d, (u.ctx d).still = (s.ctx d).still))
    ∧ (waits [.running, .suspended] = none →
      exec (.requestLineParityFault x l) s = .next { s with
        hw := { s.hw with lineDown := s.hw.lineDown ++ [(x, l)] }
        dma := { s.dma with lineFaults := satInc s.dma.lineFaults, reqs := s.dma.reqs.filter fun q => q != (x, l) } })
    ∧ (∀ p t, waits [.running, .suspended] = some p → s.step? p.1 = some t → t.state ≠ .committed →
      ∃ u, exec (.requestLineParityFault x l) s = .next u ∧ s.EndsStep u p.1.ctx p.1.step .abortedFault
        ∧ u.hw = { s.hw with lineDown := s.hw.lineDown ++ [(x, l)] } ∧ u.dma.lineFaults = satInc s.dma.lineFaults))

/-! ### Serving and mirroring (R231 to R237, R294 to R315, R376 to R379) -/

/-- At a period's T0 a bound pattern with a joined sequence instantiates its template in a free slot and uses up the index; with no sequence,
unbound, or where its zones require more than its allowance, it runs nothing and uses up the index (R297, R397, R450). A REQUEST is
answered with the chunk from the holder's committed view, or with ABSENT; a piece that arrives joins its chunk; one that does not come, or
that the holder lacks, is asked for once more from the next holder, and then ends the load part (R309 to R311). -/
def Obligations.PeriodsAndFetches : Prop :=
  (∀ (s : State) (c : CtxId) (p : Pattern), s.up = true → (s.ctx c).pattern = some p → ((s.ctx c).steps.any fun t => t.kind == .period) = false →
    p.origin p.next ≤ s.clk.now → s.slu.admitting = true →
    let stays (u : State) : Prop := (u.ctx c).pattern = some { p with next := p.next + 1 } ∧ (∀ d, d ≠ c → (u.ctx d).still = (s.ctx d).still)
      ∧ u.cfg = s.cfg ∧ u.own = s.own ∧ u.fuse = s.fuse ∧ u.intg = s.intg ∧ u.boot = s.boot ∧ u.hw = s.hw
    ((s.ctx c).unbound = true ∨ s.zoneRefuses p.allow (s.patternZones p) = true →
      ∃ u, exec (.servingPeriodStart c) s = .next u ∧ stays u ∧ (u.ctx c).steps = (s.ctx c).steps ∧ u.weir = s.weir ∧ u.mem = s.mem)
    ∧ ((s.ctx c).unbound = false → s.zoneRefuses p.allow (s.patternZones p) = false →
      ((∀ q ∈ p.seqs, p.next < q.joinAt) →
        ∃ u, exec (.servingPeriodStart c) s = .next u ∧ stays u ∧ (u.ctx c).steps = (s.ctx c).steps)
      ∧ (∀ q cs k, q ∈ p.seqs → q.joinAt ≤ p.next → s.templateOf c p = some cs → s.freeSlot (rowOf c) = some k →
        ∃ u, exec (.servingPeriodStart c) s = .next u ∧ stays u ∧ u.slu.nextUid = s.slu.nextUid + 1
          ∧ u.slot (rowOf c) k = .open ∧ (u.row (rowOf c)).version = (s.row (rowOf c)).version
          ∧ ∃ v ∈ (u.ctx c).steps, v.kind = .period ∧ v.uid = s.slu.nextUid ∧ v.state = .running ∧ v.slot = some k
            ∧ v.hdr.step.toNat = p.next % 2 ^ 64 ∧ v.cmds.length = cs.length)))
  ∧ ((∀ (s : State) (p : OxtPkt) (c : CtxId), s.Delivers p 0 3 c →
    let u := s.arrived c p
    let i := p.slot.toNat
    let peer := p.srcRank.toNat
    let holds (m : Model) : Prop := m.resident = true ∧ m.name = digestOf (slice p.payload 0 32) ∧ i < m.count
    let mine (m : Model) : Prop := ∃ d, (s.ctx d).job.tag = (s.ctx c).job.tag ∧ m ∈ (s.ctx d).models
    (p.cmd = 0#12 → (∀ m, mine m → ¬ holds m) →
      exec (.fetchRequest p) s = .next (u.sendData c peer (flowFor i peer) 3 fun k => { k with cmd := 2#12, slot := p.slot }))
    ∧ (p.cmd = 0#12 → (∃ m, mine m ∧ holds m) →
      ∃ m, mine m ∧ holds m ∧ exec (.fetchRequest p) s =
        .next ((messages (u.committedBytes (m.base + i * Config.chunkBytes) (chunkBytesOf m.total i))).foldl (fun w q =>
          w.sendData c peer (flowFor i peer) 3 fun k =>
            { k with cmd := 1#12, slot := p.slot, offset := BitVec.ofNat 32 q.1, payload := q.2 }) u))
    ∧ (∀ l q, p.cmd = 1#12 → s.awaitsChunk c p = true → (s.ctx c).load = some l → l.fetches.find? (fun f => f.chunk == i) = some q →
      let now : RecvChunk := { index := i, pieces := q.pieces ++ [(p.offset.toNat, p.payload)], digest := none, verified := false, repeats := 0 }
      now.bytes.length < q.len →
      exec (.fetchChunk p) s = .next (u.modFetch c i fun f => { f with pieces := f.pieces ++ [(p.offset.toNat, p.payload)] }))
    ∧ (∀ l q, p.cmd = 2#12 → s.awaitsChunk c p = true → (s.ctx c).load = some l → l.fetches.find? (fun f => f.chunk == i) = some q →
      q.tries = 1 →
      ∃ t m, exec (.fetchAbsent p) s = .next t ∧ (t.ctx c).load = some m ∧ (t.ctx c).steps = (s.ctx c).steps
        ∧ ∀ f ∈ m.fetches, f.chunk = i → f.tries = 2 ∧ f.holder = (q.holder + 1) % l.holders.length ∧ f.asked = s.clk.now ∧ f.pieces = [])
    ∧ (p.cmd ≠ 0#12 → exec (.fetchRequest p) s = .next s) ∧ (p.cmd ≠ 1#12 → exec (.fetchChunk p) s = .next s)
    ∧ (p.cmd ≠ 2#12 → exec (.fetchAbsent p) s = .next s))
  ∧ (∀ (s : State) (c : CtxId) (l : LoadPart) (q : Fetch) (chunk : Nat), s.up = true → (s.ctx c).load = some l →
    l.fetches.find? (fun q => q.chunk == chunk && decide (0 < q.tries) && !q.done) = some q → q.asked + l.wait ≤ s.clk.now →
    l.fetches.find? (fun q => q.chunk == chunk) = some q →
    (q.tries = 1 →
      ∃ t m, exec (.fetchWaitExpiry c chunk) s = .next t ∧ (t.ctx c).load = some m ∧ (t.ctx c).steps = (s.ctx c).steps
        ∧ ∀ f ∈ m.fetches, f.chunk = chunk → f.tries = 2 ∧ f.holder = (q.holder + 1) % l.holders.length)
    ∧ (∀ v, q.tries ≠ 1 → (s.ctx c).step? l.uid = some v → v.state ≠ .committed →
      ∃ t, exec (.fetchWaitExpiry c chunk) s = .next t ∧ s.EndsStep t c l.uid .abortedFault)))

/-- The partner gathers a checkpoint's chunks in a receive slot, verifies each by its digest or asks for it once more, and commits the group when
every chunk is verified and SEAL has come; CLEAN and DISCARD decide what it keeps. A restorer gathers in the same way from the holder that
TAKE names, and a restore that NONE or a missing chunk ends is lost (R233 to R237, R376 to R378). -/
def Obligations.MirrorMessagesAct : Prop :=
  (∀ (s : State) (p : OxtPkt) (c : CtxId), s.Delivers p 0 2 c →
    let u := s.arrived c p
    let i := p.slot.toNat
    let n := BitVec.ofNat 64 (field p.payload 0 8)
    (p.cmd = 0#12 →
      (∀ r, (s.ctx c).restoreOf p = some r →
        exec (.mirrorChunk p) s = .next (u.modRestore c fun r => { r with chunks := addPiece r.chunks i p.offset.toNat p.payload }))
      ∧ (∀ j, (s.ctx c).restoreOf p = none → s.mirrorsFrom c p = true → s.receiving p.step = some j → i < s.recv.gib * 16 →
        exec (.mirrorChunk p) s = .next (u.modSlot j fun k => { k with chunks := addPiece k.chunks i p.offset.toNat p.payload }))
      ∧ ((s.ctx c).restoreOf p = none → s.mirrorsFrom c p = false →
        exec (.mirrorChunk p) s = .next { u with fab := { u.fab with unmatched := u.fab.unmatched + 1 } }))
    ∧ (∀ j k, p.cmd = 1#12 → (s.ctx c).restoreOf p = none → s.mirrorsFrom c p = true → s.receiving p.step = some j →
      s.recv.slots[j]? = some k →
      let v := judgeChunk k.chunks i (digestOf p.payload)
      (v.2 = .good → ∃ t, exec (.mirrorDigest p) s = .next t
          ∧ t.recv.slots[j]?.map (fun q => (q.chunks, q.state)) =
              some (v.1, if (k.sealCount.map (allVerified v.1)).getD false then .pending else .receiving)
          ∧ t.ctxs = s.ctxs ∧ t.mem = s.mem ∧ t.cfg = s.cfg ∧ t.own = s.own)
      ∧ (v.2 = .again → exec (.mirrorDigest p) s =
          .next ((u.modSlot j fun q => { q with chunks := v.1 }).sendMirror c p.srcRank.toNat 2 i (p.step.setWidth 64) 0 []))
      ∧ (v.2 = .bad → ∃ t, exec (.mirrorDigest p) s = .next t ∧ t.recv.slots[j]? = some RecvSlot.empty
          ∧ t.weir.mirMiss = satInc s.weir.mirMiss ∧ t.ctxs = s.ctxs))
    ∧ (∀ st m, p.cmd = 2#12 → (s.ctx c).stream = some st → (s.ctx c).mirror = some m → st.step.setWidth 32 = p.step →
      m.send = some p.srcRank.toNat →
      let bs := st.chunk (rangesLen m.ranges) i
      exec (.mirrorRepeat p) s = .next (u.sendChunk c p.srcRank.toNat i st.step bs (sha256 bs)))
    ∧ (p.cmd = 3#12 →
      (∀ r, (s.ctx c).restoreOf p = some r →
        exec (.mirrorSeal p) s = .next (u.modRestore c fun r => { r with sealed := some (field p.payload 8 4) }))
      ∧ (∀ j k, (s.ctx c).restoreOf p = none → s.mirrorsFrom c p = true → s.receiving p.step = some j → s.recv.slots[j]? = some k →
        ∃ t, exec (.mirrorSeal p) s = .next t ∧ t.ctxs = s.ctxs
          ∧ t.recv.slots[j]?.map (fun q => (q.step, q.sealCount, q.chunks, q.state)) =
              some (n, some (field p.payload 8 4), k.chunks, if allVerified k.chunks (field p.payload 8 4) then .pending else .receiving)))
    ∧ (∀ k ∈ s.recv.slots, p.cmd = 4#12 → s.mirrorsFrom c p = true → k.state = .pending → k.step = n →
      (∀ q ∈ s.recv.slots, q.state = .clean → q.step.toNat ≤ n.toNat) →
      ∃ t, exec (.mirrorClean p) s = .next t ∧ { k with state := .clean } ∈ t.recv.slots ∧ t.newestClean = n ∧ t.ctxs = s.ctxs)
    ∧ (∀ j, p.cmd = 5#12 → s.mirrorsFrom c p = true → s.recv.slots.findIdx? (fun k => (k.state == .pending && k.step == n)
        || (k.state == .receiving && k.step.setWidth 32 == n.setWidth 32)) = some j →
      ∃ t, exec (.mirrorDiscard p) s = .next t ∧ t.recv.slots = s.recv.slots.set j RecvSlot.empty ∧ t.ctxs = s.ctxs)
    ∧ (∀ st, p.cmd = 6#12 → (s.ctx c).stream = some st → st.step.setWidth 32 = p.step →
      exec (.mirrorRefuse p) s = .next ((u.modCtx c fun x =>
        { x with stream := none, ckpts := x.ckpts.filter fun k => k.step != st.step }).countMiss))
    ∧ (p.cmd = 7#12 →
      ((∀ k ∈ s.recv.slots, ¬ (k.state = .clean ∧ k.step = n ∧ s.recv.rank = field p.payload 8 2)) →
        exec (.take p) s = .next (u.sendMirror c p.srcRank.toNat 8 0 n 0 []))
      ∧ (∀ j, s.recv.slots.findIdx? (fun k => k.state == .clean && k.step == n && s.recv.rank == field p.payload 8 2) = some j →
        ∃ t, exec (.take p) s = .next t ∧ t.recv = { s.recv with slots := s.recv.slots.modify j fun k =>
            { k with taken := some (c, p.srcRank.toNat) } } ∧ t.ctxs = s.ctxs ∧ t.mem = s.mem ∧ t.weir = s.weir))
    ∧ (∀ r v, p.cmd = 8#12 → (s.ctx c).restoreOf p = some r → (s.ctx c).step? r.uid = some v → v.state ≠ .committed → v.kind = .restore →
      ∃ t, exec (.none p) s = .next t ∧ s.LosesRestore t c r.uid))
  ∧ (∀ (s : State) (c : CtxId) (r : Restore) (v : Step) (chunk : Nat), s.up = true → (s.ctx c).restore = some r →
    (s.ctx c).step? r.uid = some v → v.state ≠ .committed → v.kind = .restore → r.done = false →
    (r.chunks.any fun k => k.index == chunk && k.verified && r.sealed.isSome) = false → r.since + r.wait ≤ s.clk.now →
    chunk < chunkCount (rangesLen r.ranges) →
    ∃ t, exec (.restoreWaitExpiry c chunk) s = .next t ∧ s.LosesRestore t c r.uid)
  ∧ (∀ (s : State) (c : CtxId) (st : Stream) (m : MirrorCfg), s.up = true → (s.ctx c).stream = some st → (s.ctx c).mirror = some m →
    st.sentAll = false →
    (s.clk.now ≤ st.deadline → st.nextDone = false → exec (.mirrorStreamEnd c) s =
      .next (s.modCtx c fun x => { x with stream := some { st with sentAll := true, held := [] } }))
    ∧ (s.clk.now ≤ st.deadline → st.nextDone = true → ∃ t, exec (.mirrorStreamEnd c) s = .next t ∧ (t.ctx c).stream = none
        ∧ (t.ctx c).ckpts = (s.ctx c).ckpts.map (fun k => if k.step = st.step then { k with sealed := true } else k)
        ∧ t.weir = s.weir ∧ t.mem = s.mem)
    ∧ (st.deadline ≤ s.clk.now → ∃ t, exec (.mirrorStreamDeadline c) s = .next t ∧ (t.ctx c).stream = none
        ∧ (t.ctx c).ckpts = (s.ctx c).ckpts.filter (fun k => k.step != st.step) ∧ t.weir.mirMiss = satInc s.weir.mirMiss
        ∧ t.mem = s.mem ∧ t.recv = s.recv))

/-! ### OXT, ports and Riffle (R257 to R261, R267 to R291) -/

/-- A contribution that a running command awaits is staged at its list position, and a second one for the same place is counted and dropped; a
stage-queue buffer beyond the queue's depth or size ends its RECV. An ABORT message ends its step, or marks a committed one late; a
message that fails a row of R281 changes nothing but its count (R51, R207, R253, R257, R260, R281). -/
def Obligations.MessagesReachCommands : Prop :=
  (∀ (s : State) (p : OxtPkt) (c : CtxId), s.Delivers p 0 0 c →
    let u := s.arrived c p
    let lost : State := { u with fab := { u.fab with unmatched := u.fab.unmatched + 1 } }
    (s.collOf c p = none → exec (.collectiveMessage p) s = .next lost)
    ∧ (∀ r t k j, s.collOf c p = some (r, t, k) → s.collJob c t k = some j → j.d.op ≠ 7 → j.d.op ≠ 8 → p.slot.toNat < j.g →
      (((k.arrived p.slot.toNat).any fun x => x.1 == p.offset.toNat) = true → exec (.collectiveMessage p) s = .next lost)
      ∧ (((k.arrived p.slot.toNat).any fun x => x.1 == p.offset.toNat) = false →
        exec (.collectiveMessage p) s =
          .next ((u.modCmd r fun k => k.stagePiece p.slot.toNat p.offset.toNat p.payload).collAdvance r)
        ∧ ∃ w, exec (.collectiveMessage p) s = .next w ∧ w.mem = s.mem ∧ w.weir = s.weir ∧ w.cfg = s.cfg
          ∧ ∀ d, (w.ctx d).still = (s.ctx d).still)))
  ∧ (∀ (s : State) (p : OxtPkt) (c : CtxId), s.Delivers p 0 1 c →
    let u := s.arrived c p
    (s.commandOf c p = none → exec (.stageQueueData p) s = .next { u with fab := { u.fab with unmatched := u.fab.unmatched + 1 } })
    ∧ (∀ r t k j, s.commandOf c p = some r → s.step? r = some t → s.cmd? r = some k → s.collJob c t k = some j → j.d.op = 8 →
      k.alive = true → (j.d.depth ≤ p.slot.toNat ∨ j.d.buf < p.offset.toNat + p.payload.length → t.state ≠ .committed →
        ∃ w, exec (.stageQueueData p) s = .next w ∧ s.EndsStep w r.ctx r.step .abortedFault)
      ∧ (∀ stage, p.slot.toNat < j.d.depth → p.offset.toNat + p.payload.length ≤ j.d.buf →
        ((k.arrived 0).any fun x => x.1 == p.offset.toNat) = false → j.stage = some stage →
        ∃ w, exec (.stageQueueData p) s = .next w
          ∧ w.mem = s.mem.put (stage.base + p.slot.toNat * j.d.buf + p.offset.toNat) p.payload ∧ w.weir = s.weir
          ∧ ∀ d, (w.ctx d).still = (s.ctx d).still)))
  ∧ (∀ (s : State) (p : OxtPkt) (c : CtxId), s.Delivers p 4 4 c →
    (∀ t, (s.ctx c).steps.find? (fun t => t.hdr.step.setWidth 32 == p.step && t.state != .committed) = some t →
      (s.ctx c).step? t.uid = some t →
      ∃ w, exec (.oxtAbort p) s = .next w ∧ s.EndsStep w c t.uid .abortedFault)
    ∧ (∀ g ∈ s.weir.groups, (∀ t ∈ (s.ctx c).steps, t.hdr.step.setWidth 32 = p.step → t.state = .committed) → g.row = rowOf c →
      g.step.setWidth 32 = p.step → (s.slot g.row g.slot = .last ∨ s.slot g.row g.slot = .folding) →
      ∃ w, exec (.oxtAbort p) s = .next w ∧ w.weir = { s.weir with lateAborts := satInc s.weir.lateAborts } ∧ w.mem = s.mem
        ∧ ∀ t ∈ (w.ctx c).steps, t.hdr.step.setWidth 32 = p.step → t.late = true))
  ∧ (∀ (s : State) (p : OxtPkt), s.up = true → pktSound p = false →
    let bad : State := { s with fab := { s.fab with dropBad := satInc s.fab.dropBad } }
    exec (.collectiveMessage p) s = .next bad ∧ exec (.stageQueueData p) s = .next bad ∧ exec (.oxtAbort p) s = .next bad
      ∧ exec (.managementRequest p) s = .next bad)

/-- An ACK takes what it covers off its flow and sets the credit; a NACK of reason gap, or 20 µs without progress, retransmits everything not
acknowledged, and after 7 retransmissions the flow fails with the steps of its commands and a suspicion; a NACK of reason not ready waits
4 µs first. A RESET_NACK ends the commands that were sending. An ACK leaves 2 µs after the oldest unacknowledged packet (R278, R279, R281). -/
def Obligations.FlowsAcknowledge : Prop :=
  (∀ (s : State) (p : OxtPkt) (c : CtxId), s.Hears p c →
    let k := pktKey c p
    let u := (s.heard c p).applyAck k p
    let w := u.flow k
    (exec (.oxtAck p) s = .next u ∧ w.credit = min 128 p.credit.toNat
      ∧ (∀ m ∈ w.unacked, m ∈ (s.flow k).unacked ∧ serialLe (m.psn + BitVec.ofNat 32 (pktCount m - 1)) p.ackPsn = false
          ∨ m ∈ (s.flow k).held)
      ∧ u.ctxs = s.ctxs ∧ u.mem = s.mem ∧ u.weir = s.weir)
    ∧ (p.reason = 1#4 → exec (.oxtNack p) s = .next (u.setFlow { w with wait := some (s.clk.now + 4000) }))
    ∧ (p.reason ≠ 1#4 → w.unacked = [] → exec (.oxtNack p) s = .next u)
    ∧ (p.reason ≠ 1#4 → w.unacked ≠ [] → w.retx < 7 → ∃ t, exec (.oxtNack p) s = .next t
        ∧ t.fab.retx = satAdd u.fab.retx (w.unacked.map pktCount).sum ∧ t.out = u.out ++ w.unacked.map (fun q => .oxt { q with retx := true })
        ∧ (t.flow k).retx = w.retx + 1 ∧ (t.flow k).unacked = w.unacked ∧ t.ctxs = s.ctxs)
    ∧ (p.reason ≠ 1#4 → w.unacked ≠ [] → 7 ≤ w.retx → ∃ t, exec (.oxtNack p) s = .next t ∧ (t.flow k).failed = true
        ∧ t.fab.suspects = satInc s.fab.suspects ∧ t.cfg = s.cfg ∧ t.own = s.own)
    ∧ (∀ q, q ∈ ((s.heard c p).flow k).unacked → q.cls.toNat ≤ 1 →
        ∀ r v, s.commandOf c q = some r → s.step? r = some v → v.state ≠ .committed →
        ∃ t, exec (.oxtResetNack p) s = .next t ∧ (∀ x ∈ (t.ctx c).steps, x.uid ≠ r.step) ∧ t.cfg = s.cfg ∧ t.own = s.own))
  ∧ (∀ (s : State) (k : FlowKey), s.up = true →
    let w := s.flow k
    let resent (t : State) : Prop := t.fab.retx = satAdd s.fab.retx (w.unacked.map pktCount).sum
      ∧ t.out = s.out ++ w.unacked.map (fun q => .oxt { q with retx := true })
      ∧ t.flow k = { w with retx := w.retx + 1, progress := s.clk.now, wait := none } ∧ t.ctxs = s.ctxs ∧ t.mem = s.mem
    (∀ at_, w.wait = some at_ → at_ ≤ s.clk.now → w.retx < 7 → ∃ t, exec (.notReadyWaitExpiry k) s = .next t ∧ resent t)
    ∧ (w.unacked ≠ [] → w.wait = none → w.progress + 20000 ≤ s.clk.now →
      (w.retx < 7 → ∃ t, exec (.retransmitTimeout k) s = .next t ∧ resent t)
      ∧ (7 ≤ w.retx → ∃ t, exec (.retransmitTimeout k) s = .next t ∧ (t.flow k).failed = true ∧ t.fab.suspects = satInc s.fab.suspects))
    ∧ (0 < w.rxUnacked → w.rxOldest + 2000 ≤ s.clk.now →
      ∃ t, exec (.ackTimer k) s = .next t ∧ t.flow k = { w with rxUnacked := 0 } ∧ t.ctxs = s.ctxs ∧ t.mem = s.mem ∧ t.weir = s.weir
        ∧ ∃ q, t.out = s.out ++ [.oxt q] ∧ q.typ = 1#4 ∧ q.ackPsn = w.expect - 1#32))

/-- A port that is up echoes a probe with its state and the time; an echo restarts its target's timer; every INTERVAL each target is probed with
its next number; a timer of three intervals makes its target suspect (R282 to R284, R287). Ports follow their lanes, PFC pauses
priorities 3 and 4 alone, a pause of 1 ms is reported once, and a management request is answered or counted as dropped (R267 to R271,
R288, R469). -/
def Obligations.PortsAndRiffle : Prop :=
  (∀ (s : State) (port : Fin 8) (f : RiffleFrame), s.echoes port = true → f.good = true → f.mine = true →
    (f.typ = 0x11#8 → exec (.riffleProbe port f) s = .next { s with
      fab := { s.fab with echoes := satInc s.fab.echoes }
      out := s.out ++ [.riffle port { f with typ := 0x12#8, state := s.echoState, echoTime := BitVec.ofNat 64 s.clk.now }] })
    ∧ (f.typ = 0x12#8 → (∀ c, ((s.ctx c).job.targets.any (echoMatches port f (s.ctx c))) = false) → exec (.riffleEcho port f) s = .next s)
    ∧ (∀ c, f.typ = 0x12#8 → (allCtx.find? fun c => (s.ctx c).job.targets.any (echoMatches port f (s.ctx c))) = some c →
      ∃ t, exec (.riffleEcho port f) s = .next t ∧ (∀ d, d ≠ c → t.ctx d = s.ctx d) ∧ t.mem = s.mem ∧ t.weir = s.weir ∧ t.cfg = s.cfg
        ∧ (t.ctx c).job.targets = (s.ctx c).job.targets.map (fun x =>
            if echoMatches port f (s.ctx c) x then { x with restart := s.clk.now, suspect := false } else x)
        ∧ t.fab.suspects = if f.state.getLsbD 0 then satInc s.fab.suspects else s.fab.suspects))
  ∧ (∀ s : State, s.up = true → s.cfg.riffleOn = true →
    (s.fab.probeAt ≤ s.clk.now → ∃ t, exec .riffleInterval s = .next t ∧ t.fab.probeAt = s.clk.now + s.cfg.riffleUs * 1000
      ∧ (∀ c, (t.ctx c).job.targets = if (s.ctx c).maySend then (s.ctx c).job.targets.map (fun x => { x with seq := x.seq + 1#16 })
          else (s.ctx c).job.targets)
      ∧ t = { s with fab := t.fab, ctxs := t.ctxs, out := t.out })
    ∧ (∀ c i x, (s.ctx c).job.targets[i]? = some x → (s.ctx c).maySend = true → x.suspect = false →
      x.restart + 3 * s.cfg.riffleUs * 1000 ≤ s.clk.now →
      ∃ t, exec (.riffleTimerExpiry c i) s = .next t ∧ (t.ctx c).job.targets = (s.ctx c).job.targets.modify i (fun y => { y with suspect := true })
        ∧ t.fab.suspects = satInc s.fab.suspects ∧ t.fab.suspectLast = BitVec.ofNat 32 (suspectWord .riffle c.val x.local_.val x.rank)
        ∧ (∀ d, d ≠ c → t.ctx d = s.ctx d) ∧ t.mem = s.mem))
  ∧ (∀ (s : State) (port : Fin 8), s.powered = true →
    (∀ lanes : BitVec 8, ∃ t, exec (.portUp port lanes) s = .next t
        ∧ (t.fab.ports[port].state, t.fab.ports[port].lanes) = trained lanes ∧ (∀ q : Fin 8, q ≠ port → t.fab.ports[q] = s.fab.ports[q])
        ∧ t.cfg = s.cfg ∧ t.own = s.own)
    ∧ (∃ t, exec (.portDown port) s = .next t ∧ t.fab.ports[port].state = 0 ∧ t.fab.ports[port].pause3 = none
        ∧ t.fab.ports[port].pause4 = none ∧ (∀ q : Fin 8, q ≠ port → t.fab.ports[q] = s.fab.ports[q]) ∧ t.cfg = s.cfg ∧ t.own = s.own)
    ∧ (∀ (n : Fin 8) (off : Bool), s.portUp port = true → exec (.pfcFrame port n off) s = .next { s with fab := { s.fab with
        ports := s.fab.ports.set port (s.fab.ports[port].pause n off s.clk.now) } })
    ∧ (∀ n : Fin 8, s.portUp port = true → s.fab.ports[port].storms n s.clk.now = true →
      ∃ t, exec (.pauseStorm port n) s = .next t ∧ t.fab.ports = s.fab.ports.set port (s.fab.ports[port].reported n)
        ∧ t.fab.ports[port].storms n s.clk.now = false ∧ t.fab.suspects = satInc s.fab.suspects ∧ t.ctxs = s.ctxs))
  ∧ (∀ (s : State) (p : OxtPkt), s.up = true → pktSound p = true → p.typ = 0#4 → p.cls = 5#4 →
    (s.boot.mgmt = false ∨ p.job ++ p.epoch ≠ s.fuse.control → exec (.managementRequest p) s =
      .next { s with tel := { s.tel with drops := satInc s.tel.drops } })
    ∧ (s.boot.mgmt = true → p.job ++ p.epoch = s.fuse.control → (field p.payload 0 1).testBit 7 = false →
      let q := parseMgmt p
      (q.formed = false → ∃ t, exec (.managementRequest p) s = .next t ∧ t.tel.reqs = satInc s.tel.reqs
        ∧ t.out = s.out ++ [.mgmtReply p.srcAddr p.srcPort (mgmtReply q 3 0 [])] ∧ t.cfg = s.cfg ∧ t.ctxs = s.ctxs)
      ∧ (q.formed = true → q.offset < 65536 → q.offset % 4 = 0 → q.op ≠ 1 → mgmtWritable q.offset = false →
        ∃ t, exec (.managementRequest p) s = .next t ∧ t.tel.drops = satInc s.tel.drops ∧ t.cfg = s.cfg ∧ t.ctxs = s.ctxs)
      ∧ (q.formed = true → q.op = 2 → q.offset = 0x10 → q.data.toNat % 16 ≤ 12 →
        ∃ t, exec (.managementRequest p) s = .next t ∧ t.cfg = { s.cfg with
          viewSel := s.cfg.viewSel.set Path.mgmt.index (q.data.toNat % 16, q.data.toNat / 16 % 16) } ∧ t.ctxs = s.ctxs
          ∧ t.out = s.out ++ [.mgmtReply p.srcAddr p.srcPort (mgmtReply q 0 0 [])])))

/-! ### Mesh, ladder and integrity (R181 to R188, R343 to R374) -/

/-- A packet of a current generation is executed, one of an old generation is refused with RESET_NACK when it asks for something and dropped
when it does not, and an unknown TYPE is dropped; all three are counted. A module that needs 16 replays leaves service for repair and
comes back live or lost; a broken ring segment is journalled and sends the regions behind an isolated steward to the ladder (R25, R181,
R185 to R187). -/
def Obligations.MeshAndRingsAct : Prop :=
  (∀ (s : State) (p : MeshPkt), s.up = true →
    (7 ≤ p.typ.toNat → exec (.meshPacketArrival p) s = .next { s with dma := { s.dma with stale := satInc s.dma.stale } })
    ∧ (p.typ.toNat < 7 → s.rcv.rungs = [] → p.gen ≠ 0#16 → p.gen ≠ (s.ctx p.ctx).regs.gen →
      (meshAsks p = true → exec (.meshPacketArrival p) s = .next { s with
        dma := { s.dma with nacks := satInc s.dma.nacks }
        out := s.out ++ [.mesh (meshReply p (s.ctx p.ctx).regs.gen 5#4 [])] })
      ∧ (meshAsks p = false → exec (.meshPacketArrival p) s = .next { s with dma := { s.dma with stale := satInc s.dma.stale } }))
    ∧ (s.rcv.rungs = [] → (p.gen = 0#16 ∨ p.gen = (s.ctx p.ctx).regs.gen) → p.cmd = none →
      (p.typ = 0#4 → exec (.meshPacketArrival p) s =
        .next { s with out := s.out ++ [.mesh (meshReply p p.gen 3#4 (s.committedBytes p.addr.toNat (meshLen p)))] })
      ∧ (p.typ = 1#4 → exec (.meshPacketArrival p) s =
        .next { s with mem := s.mem.put p.addr.toNat p.data, out := s.out ++ [.mesh (meshReply p p.gen 4#4 [])] })))
  ∧ (∀ (s : State) (m : Module), s.powered = true →
    (s.module m = .live → ∃ t, exec (.ucieReplayLimit m) s = .next t ∧ t.module m = .repair
        ∧ t.dma.replays = satAdd s.dma.replays 16 ∧ t.dma.repairs = satInc s.dma.repairs
        ∧ (∀ n, n ≠ m → t.module n = s.module n) ∧ t.cfg = s.cfg ∧ t.own = s.own ∧ t.hw = s.hw)
    ∧ (s.module m = .repair →
      (∃ t, exec (.ucieModuleRepair m true) s = .next t ∧ t = { s with dma := t.dma } ∧ t.module m = .live
        ∧ ∀ n, n ≠ m → t.module n = s.module n)
      ∧ (∃ t, exec (.ucieModuleRepair m false) s = .next t ∧ t.module m = .lost ∧ .modLost m ∈ t.boot.queue
        ∧ (∀ n, n ≠ m → t.module n = s.module n) ∧ t.cfg = s.cfg ∧ t.own = s.own)))
  ∧ (∀ (s : State) (r : Fin 2) (g : Fin 7), s.powered = true → (r, g) ∉ s.ring.breaks →
    let broken : State := { s with ring := { s.ring with breaks := (r, g) :: s.ring.breaks } }
    (broken.isolatedRegions = [] ∨ s.up = false → exec (.ringBreak r g) s = .next (broken.journal (.ringBreak r g)))
    ∧ (∀ q, s.up = true → broken.isolatedRegions = [q] → s.rcv.rungs = [] →
      ∃ t, exec (.ringBreak r g) s = .next t ∧ t.ring = broken.ring
        ∧ t.rcv.rungs = [{ scope := .region q, start := s.clk.now, missed := false, engine := none, todo := [] }]
        ∧ t.cfg = s.cfg ∧ t.own = s.own ∧ t.fuse = s.fuse))

/-- A watchdog that expires, on a running command or on one whose kill its engine did not obey (how that shows is the model's choice, log
entry 141), starts rung 1 on its engine; a missed heartbeat or unit bound starts the rung of its scope; a rung that misses its bound
gives way to the next; one that completes leaves its memory zero and its engines free, and a device rung ends once Sluice may admit, with
the lease in full. A quarantined engine that hangs again alone on a suspect's command, which hangs elsewhere too, ends that context
(R125, R365 to R374, R391). -/
def Obligations.LadderClimbs : Prop :=
  ∀ s : State,
    (∀ (e : Engine) (r : CmdRef) (k : Cmd), s.up = true → s.running? e = some (r, k) → k.waitSince = none →
      5 * k.entry.w + 80000 ≤ 4 * k.runTime s.clk.now → s.rcv.rungs = [] →
      ∃ t, exec (.watchdogExpiry e) s = .next t ∧ t.rcv.watchdogs = satInc s.rcv.watchdogs
        ∧ t.rcv.rungs = [{ scope := .engine e, start := s.clk.now, missed := false, engine := some e, todo := s.suspects e }]
        ∧ t.rcv.counts = s.rcv.counts.set 0 (satInc s.rcv.counts[0]) ∧ t.cfg = s.cfg ∧ t.own = s.own ∧ t.fuse = s.fuse)
    ∧ (∀ (e : Engine) (k : Kill), s.up = true → s.running? e = none → s.rcv.kills.find? (fun o => o.engine == e) = some k →
      k.due ≤ s.clk.now → s.rcv.rungs = [] →
      ∃ t, exec (.watchdogExpiry e) s = .next t ∧ t.rcv.watchdogs = satInc s.rcv.watchdogs
        ∧ t.rcv.rungs = [{ scope := .engine e, start := s.clk.now, missed := false, engine := some e, todo := s.killSuspects k }]
        ∧ (∀ o ∈ t.rcv.kills, o.engine ≠ e) ∧ t.cfg = s.cfg ∧ t.own = s.own ∧ t.fuse = s.fuse)
    ∧ (s.up = true → s.rcv.rungs = [] →
      (∀ r : Fin 4, ∃ t, exec (.heartbeatMiss (.region r)) s = .next t
        ∧ t.rcv.rungs = [{ scope := .region r, start := s.clk.now, missed := false, engine := none, todo := [] }]
        ∧ t.dma.ready = s.dma.ready.set r.val false ∧ t.cfg = s.cfg ∧ t.own = s.own)
      ∧ (∀ w : Steward, (∀ r, w ≠ .region r) → ∃ t, exec (.heartbeatMiss w) s = .next t ∧ t.warming = true ∧ t.boot.warm = true
        ∧ t.slu.admitting = false ∧ t.cfg = s.cfg ∧ t.own = s.own)
      ∧ (∀ b : BoundUnit, ∃ t, exec (.unitBoundMiss b) s = .next t ∧ t.warming = true ∧ t.boot.warm = true ∧ t.slu.admitting = false
        ∧ t.cfg = s.cfg ∧ t.own = s.own))
    ∧ (∀ g : Rung, s.powered = true → s.rcv.rungs = [g] → g.start + rungBound g.scope ≤ s.clk.now → g.scope ≠ .cold →
      ∃ t h, exec (.rungBoundMiss g.scope) s = .next t ∧ t.rcv.rungs = [h] ∧ h.scope = s.nextScope g ∧ h.missed = true
        ∧ h.start = (if g.scope = .warm then 0 else s.clk.now) ∧ h.engine = g.engine ∧ h.todo = g.todo
        ∧ (s.nextScope g ≠ .warm → s.nextScope g ≠ .cold → t.rcv.misses = satInc s.rcv.misses ∧ t.own = s.own ∧ t.cfg = s.cfg))
    ∧ (∀ g : Rung, s.powered = true → s.rcv.rungs.find? (fun g' => g'.scope == g.scope) = some g →
      (g.scope ≠ .warm → g.scope ≠ .cold → (∀ r, g.scope ≠ .region r) →
        ∃ t, exec (.rungComplete g.scope) s = .next t ∧ t.rcv.rungs = s.rcv.rungs.filter (fun r => r.scope != g.scope)
          ∧ (∀ e, g.engine = some e → g.todo ≠ [] → ∃ q ∈ t.rcv.quarantines, q.engine = e ∧ q.todo = g.todo ∧ q.since = s.clk.now)
          ∧ (∀ a len, (a, len) ∈ s.scopeSram g.scope → ∀ x, a ≤ x → x < a + len → t.mem.base x = 0#8)
          ∧ t.cfg = s.cfg ∧ t.own = s.own ∧ t.hbm = s.hbm)
      ∧ (g.scope = .warm ∨ g.scope = .cold → (s.boot.phase = .ready ∨ s.boot.phase = .retired) → s.weir.ready = true →
        (∀ c, (s.ctx c).regs.window = []) →
        ∃ t, exec (.rungComplete g.scope) s = .next t ∧ t.rcv.rungs = s.rcv.rungs.filter (fun r => r.scope != g.scope)
          ∧ t.pwr.trip = false ∧ t.rcv.tripping = false
          ∧ (s.own.owner.isSome = true → t.own = { s.own with leaseEnd := s.clk.now + s.cfg.leaseCfg * 1000000000 })
          ∧ t.mem = s.mem ∧ t.weir = s.weir ∧ t.cfg = s.cfg))
    ∧ (∀ (q : Quarantine) (c : CtxId), s.up = true → s.rcv.quarantines.find? (fun r => r.engine == q.engine) = some q →
      q.todo.head? = some c →
      ((s.ctx c).state = .active →
        ∃ t, exec (.suspectReplayComplete q.engine c true true) s = .next t ∧ (t.ctx c).state = .tearing
          ∧ t.rcv.guilty = satInc s.rcv.guilty ∧ t.rcv.replays = satAdd s.rcv.replays 2
          ∧ (∀ r ∈ t.rcv.quarantines, r.engine ≠ q.engine) ∧ t.cfg = s.cfg ∧ t.own = s.own)
      ∧ (∃ t, exec (.suspectReplayComplete q.engine c true false) s = .next t ∧ t.rcv.guilty = s.rcv.guilty
          ∧ (∀ r ∈ t.rcv.quarantines, r.engine ≠ q.engine)
          ∧ (∀ u, s.engineUnit q.engine = some u → .miss (s.engineName q.engine) 1 s.jnow ∈ t.boot.queue) ∧ t.cfg = s.cfg ∧ t.own = s.own)
      ∧ (1 < q.todo.length → ∀ elsewhere, ∃ t, exec (.suspectReplayComplete q.engine c false elsewhere) s = .next t
          ∧ t = { s with rcv := { s.rcv with replays := satAdd s.rcv.replays 1, quarantines := t.rcv.quarantines } }
          ∧ ∀ r ∈ t.rcv.quarantines, r.engine = q.engine → ∃ o ∈ s.rcv.quarantines, r = { o with todo := o.todo.drop 1 })
      ∧ (q.since + 200000000 ≤ s.clk.now → ∃ t, exec (.quarantineLimit q.engine) s = .next t
          ∧ (∀ r ∈ t.rcv.quarantines, r.engine ≠ q.engine) ∧ t.rcv.unresolved = (q.engine, s.clk.now) :: s.rcv.unresolved
          ∧ t.cfg = s.cfg ∧ t.own = s.own))

/-- A failing unit that repeats right is a transient, and the third such of a unit within 24 h, like one that fails again, is permanent and leaves
service. Eddy's recompute covers its step when it agrees; a mismatch is voted on, or confirmed at once where an address names the engine; a
confirmed one ends the context's steps and a checker at fault is recorded. Records leave oldest first, for the ring, INTG_LASTREC and the
journal (R346, R347, R352 to R360, R421). -/
def Obligations.EddyDecides : Prop :=
  ∀ s : State,
    (∀ (q : Repeat) (again : Bool), s.up = true → s.intg.repeats.find? s.repeatIdle = some q →
      let before := (s.intg.transients.filter fun u => u.1 == q.unit && decide (s.clk.now < u.2 + 86400000000000)).length
      ∃ t g, exec (.checkerRepeat again) s = .next t ∧ t.intg.repeats = s.intg.repeats.erase q ∧ t.intg.records = s.intg.records ++ [g]
        ∧ g.outcome = some (if again then 2 else if 2 ≤ before then 3 else 1)
        ∧ t.intg.transient = (if again = false ∧ before < 2 then satInc s.intg.transient else s.intg.transient)
        ∧ t.intg.permanent = (if again = false ∧ before < 2 then s.intg.permanent else satInc s.intg.permanent)
        ∧ (again = true ∨ 2 ≤ before → q.unit ∈ t.hw.pendingOut)
        ∧ t = { s with intg := t.intg, hw := t.hw, out := t.out })
    ∧ (∀ q : Repeat, s.up = true →
      s.intg.repeats.find? (fun q => q.pending.isNone && decide (q.since + 100000000 ≤ s.clk.now)) = some q →
      ∃ t g, exec .repeatPending s = .next t ∧ t.intg.records = s.intg.records ++ [g] ∧ g.outcome = some 0
        ∧ t.intg.repeats = s.intg.repeats.map (fun u => if u == q then { u with pending := some (s.intg.recSeq + 1) } else u)
        ∧ t = { s with intg := t.intg, out := t.out })
    ∧ (∀ (c : CtxId) (step : Nat) (q : Recompute), s.up = true →
      s.intg.pending.find? (fun r => r.ctx == c && r.step == step) = some q →
      let rest := s.intg.pending.erase q
      (q.sweep = false → (s.ctx c).ckpts = [] →
        exec (.eddyRecomputeComplete c step [] none false) s = .next { s with intg := { s.intg with
          pending := rest, katFails := satAdd s.intg.katFails 0, samples := satAdd s.intg.samples q.units.length } })
      ∧ (∀ u : SampleRef, exec (.eddyRecomputeComplete c step [] (some u) false) s = .next { s with intg := { s.intg with
          pending := rest, katFails := satAdd s.intg.katFails 0, samples := satAdd s.intg.samples q.units.length
          votes := s.intg.votes ++ [{ ctx := c, step := step, unit := u, engine := (q.engines.find? fun e => e.1 == u.idx).map (·.2) }] } })
      ∧ (∀ u : SampleRef, s.Numbered → ∃ t, exec (.eddyRecomputeComplete c step [] (some u) true) s = .next t
          ∧ t.intg.mismatches = satInc s.intg.mismatches ∧ (∀ v ∈ (t.ctx c).steps, v.state = .committed)
          ∧ (∃ g ∈ t.intg.records, g.kind = 2 ∧ g.outcome = some 5 ∧ g.step = some step) ∧ t.cfg = s.cfg ∧ t.own = s.own))
    ∧ (∀ (v : Vote) (rest : List Vote), s.up = true → s.intg.votes = v :: rest →
      (∃ t, exec (.eddyVote true) s = .next t ∧ t.intg.votes = rest ∧ t.intg.checkers = satInc s.intg.checkers
        ∧ t.intg.mismatches = s.intg.mismatches ∧ (∃ g ∈ t.intg.records, g.kind = 2 ∧ g.outcome = some 4)
        ∧ (∀ d, (t.ctx d).steps = (s.ctx d).steps) ∧ t.cfg = s.cfg ∧ t.own = s.own)
      ∧ (s.Numbered → ∃ t, exec (.eddyVote false) s = .next t ∧ t.intg.votes = rest ∧ t.intg.checkers = s.intg.checkers
        ∧ t.intg.mismatches = satInc s.intg.mismatches ∧ (∀ u ∈ (t.ctx v.ctx).steps, u.state = .committed)
        ∧ (∃ g ∈ t.intg.records, g.kind = 2 ∧ g.outcome = some 5) ∧ t.cfg = s.cfg ∧ t.own = s.own))
    ∧ (∀ (g : Sig) (rest : List Sig), s.powered = true → s.intg.records = g :: rest →
      let short := sigBytes s.fuse.control false g
      let item := leBytes 4 (sigBytes s.fuse.control true g).length ++ sigBytes s.fuse.control true g
      ∃ t, exec .signatureRecordExport s = .next t ∧ t = { s with intg := t.intg, boot := t.boot, out := t.out }
        ∧ t.intg.records = rest ∧ t.intg.lastRec = short
        ∧ (s.cfg.ringLog2 = 0 → t.out = s.out ∧ t.intg.ringCount = s.intg.ringCount)
        ∧ (s.cfg.ringLog2 ≠ 0 → t.intg.ringCount = s.intg.ringCount + item.length
            ∧ .hostWrite (s.cfg.tailHi.toNat * 2 ^ 32 + s.cfg.tailLo.toNat) (leBytes 8 t.intg.ringCount) ∈ t.out)
        ∧ (g.journalled = true → entryPages short.length * 256 ≤ s.allowanceNow → t.boot.queue = s.boot.queue ++ [.signature (short.take 4072)])
        ∧ (g.journalled = true → s.allowanceNow < entryPages short.length * 256 →
            t.boot.queue = s.boot.queue ∧ t.boot.jrnDrops = satInc s.boot.jrnDrops)
        ∧ (g.journalled = false → t.boot = s.boot))

/-! ### Step numbers (R41) -/

/-- Every step of the machine keeps the admission numbers of a context's steps distinct and the next number new: whatever is admitted,
instantiated, started, moved on, aborted or reset. -/
def Obligations.StepNumbersStayDistinct : Prop := ∀ s t : State, s.Numbered → step s = .next t → t.Numbered
end

