-- ==== Sys2Proof/Laws/State.lean ====
section
/-! SUPPORT. One lemma for each field of the state and each elementary update of it. -/

namespace Sys2Proof.Machine

@[simp] theorem State.emit_pending (s : State) (o : Output) : (s.emit o).pending = s.pending := rfl
@[simp] theorem State.emit_clk (s : State) (o : Output) : (s.emit o).clk = s.clk := rfl
@[simp] theorem State.emit_own (s : State) (o : Output) : (s.emit o).own = s.own := rfl
@[simp] theorem State.emit_cfg (s : State) (o : Output) : (s.emit o).cfg = s.cfg := rfl
@[simp] theorem State.emit_lat (s : State) (o : Output) : (s.emit o).lat = s.lat := rfl
@[simp] theorem State.emit_slu (s : State) (o : Output) : (s.emit o).slu = s.slu := rfl
@[simp] theorem State.emit_ctxs (s : State) (o : Output) : (s.emit o).ctxs = s.ctxs := rfl
@[simp] theorem State.emit_weir (s : State) (o : Output) : (s.emit o).weir = s.weir := rfl
@[simp] theorem State.emit_recv (s : State) (o : Output) : (s.emit o).recv = s.recv := rfl
@[simp] theorem State.emit_mem (s : State) (o : Output) : (s.emit o).mem = s.mem := rfl
@[simp] theorem State.emit_hbm (s : State) (o : Output) : (s.emit o).hbm = s.hbm := rfl
@[simp] theorem State.emit_sram (s : State) (o : Output) : (s.emit o).sram = s.sram := rfl
@[simp] theorem State.emit_fuse (s : State) (o : Output) : (s.emit o).fuse = s.fuse := rfl
@[simp] theorem State.emit_hw (s : State) (o : Output) : (s.emit o).hw = s.hw := rfl
@[simp] theorem State.emit_fab (s : State) (o : Output) : (s.emit o).fab = s.fab := rfl
@[simp] theorem State.emit_dma (s : State) (o : Output) : (s.emit o).dma = s.dma := rfl
@[simp] theorem State.emit_ring (s : State) (o : Output) : (s.emit o).ring = s.ring := rfl
@[simp] theorem State.emit_intg (s : State) (o : Output) : (s.emit o).intg = s.intg := rfl
@[simp] theorem State.emit_rcv (s : State) (o : Output) : (s.emit o).rcv = s.rcv := rfl
@[simp] theorem State.emit_pwr (s : State) (o : Output) : (s.emit o).pwr = s.pwr := rfl
@[simp] theorem State.emit_sec (s : State) (o : Output) : (s.emit o).sec = s.sec := rfl
@[simp] theorem State.emit_flash (s : State) (o : Output) : (s.emit o).flash = s.flash := rfl
@[simp] theorem State.emit_boot (s : State) (o : Output) : (s.emit o).boot = s.boot := rfl
@[simp] theorem State.emit_tel (s : State) (o : Output) : (s.emit o).tel = s.tel := rfl
@[simp] theorem State.emit_out (s : State) (o : Output) : (s.emit o).out = s.out ++ [o] := rfl

@[simp] theorem State.emits_pending (s : State) (os : List Output) : (s.emits os).pending = s.pending := rfl
@[simp] theorem State.emits_clk (s : State) (os : List Output) : (s.emits os).clk = s.clk := rfl
@[simp] theorem State.emits_own (s : State) (os : List Output) : (s.emits os).own = s.own := rfl
@[simp] theorem State.emits_cfg (s : State) (os : List Output) : (s.emits os).cfg = s.cfg := rfl
@[simp] theorem State.emits_lat (s : State) (os : List Output) : (s.emits os).lat = s.lat := rfl
@[simp] theorem State.emits_slu (s : State) (os : List Output) : (s.emits os).slu = s.slu := rfl
@[simp] theorem State.emits_ctxs (s : State) (os : List Output) : (s.emits os).ctxs = s.ctxs := rfl
@[simp] theorem State.emits_weir (s : State) (os : List Output) : (s.emits os).weir = s.weir := rfl
@[simp] theorem State.emits_recv (s : State) (os : List Output) : (s.emits os).recv = s.recv := rfl
@[simp] theorem State.emits_mem (s : State) (os : List Output) : (s.emits os).mem = s.mem := rfl
@[simp] theorem State.emits_hbm (s : State) (os : List Output) : (s.emits os).hbm = s.hbm := rfl
@[simp] theorem State.emits_sram (s : State) (os : List Output) : (s.emits os).sram = s.sram := rfl
@[simp] theorem State.emits_fuse (s : State) (os : List Output) : (s.emits os).fuse = s.fuse := rfl
@[simp] theorem State.emits_hw (s : State) (os : List Output) : (s.emits os).hw = s.hw := rfl
@[simp] theorem State.emits_fab (s : State) (os : List Output) : (s.emits os).fab = s.fab := rfl
@[simp] theorem State.emits_dma (s : State) (os : List Output) : (s.emits os).dma = s.dma := rfl
@[simp] theorem State.emits_ring (s : State) (os : List Output) : (s.emits os).ring = s.ring := rfl
@[simp] theorem State.emits_intg (s : State) (os : List Output) : (s.emits os).intg = s.intg := rfl
@[simp] theorem State.emits_rcv (s : State) (os : List Output) : (s.emits os).rcv = s.rcv := rfl
@[simp] theorem State.emits_pwr (s : State) (os : List Output) : (s.emits os).pwr = s.pwr := rfl
@[simp] theorem State.emits_sec (s : State) (os : List Output) : (s.emits os).sec = s.sec := rfl
@[simp] theorem State.emits_flash (s : State) (os : List Output) : (s.emits os).flash = s.flash := rfl
@[simp] theorem State.emits_boot (s : State) (os : List Output) : (s.emits os).boot = s.boot := rfl
@[simp] theorem State.emits_tel (s : State) (os : List Output) : (s.emits os).tel = s.tel := rfl
@[simp] theorem State.emits_out (s : State) (os : List Output) : (s.emits os).out = s.out ++ os := rfl

@[simp] theorem State.setCtx_pending (s : State) (c : CtxId) (x : Ctx) : (s.setCtx c x).pending = s.pending := rfl
@[simp] theorem State.setCtx_clk (s : State) (c : CtxId) (x : Ctx) : (s.setCtx c x).clk = s.clk := rfl
@[simp] theorem State.setCtx_own (s : State) (c : CtxId) (x : Ctx) : (s.setCtx c x).own = s.own := rfl
@[simp] theorem State.setCtx_cfg (s : State) (c : CtxId) (x : Ctx) : (s.setCtx c x).cfg = s.cfg := rfl
@[simp] theorem State.setCtx_lat (s : State) (c : CtxId) (x : Ctx) : (s.setCtx c x).lat = s.lat := rfl
@[simp] theorem State.setCtx_slu (s : State) (c : CtxId) (x : Ctx) : (s.setCtx c x).slu = s.slu := rfl
@[simp] theorem State.setCtx_ctxs (s : State) (c : CtxId) (x : Ctx) : (s.setCtx c x).ctxs = s.ctxs.set c x := rfl
@[simp] theorem State.setCtx_weir (s : State) (c : CtxId) (x : Ctx) : (s.setCtx c x).weir = s.weir := rfl
@[simp] theorem State.setCtx_recv (s : State) (c : CtxId) (x : Ctx) : (s.setCtx c x).recv = s.recv := rfl
@[simp] theorem State.setCtx_mem (s : State) (c : CtxId) (x : Ctx) : (s.setCtx c x).mem = s.mem := rfl
@[simp] theorem State.setCtx_hbm (s : State) (c : CtxId) (x : Ctx) : (s.setCtx c x).hbm = s.hbm := rfl
@[simp] theorem State.setCtx_sram (s : State) (c : CtxId) (x : Ctx) : (s.setCtx c x).sram = s.sram := rfl
@[simp] theorem State.setCtx_fuse (s : State) (c : CtxId) (x : Ctx) : (s.setCtx c x).fuse = s.fuse := rfl
@[simp] theorem State.setCtx_hw (s : State) (c : CtxId) (x : Ctx) : (s.setCtx c x).hw = s.hw := rfl
@[simp] theorem State.setCtx_fab (s : State) (c : CtxId) (x : Ctx) : (s.setCtx c x).fab = s.fab := rfl
@[simp] theorem State.setCtx_dma (s : State) (c : CtxId) (x : Ctx) : (s.setCtx c x).dma = s.dma := rfl
@[simp] theorem State.setCtx_ring (s : State) (c : CtxId) (x : Ctx) : (s.setCtx c x).ring = s.ring := rfl
@[simp] theorem State.setCtx_intg (s : State) (c : CtxId) (x : Ctx) : (s.setCtx c x).intg = s.intg := rfl
@[simp] theorem State.setCtx_rcv (s : State) (c : CtxId) (x : Ctx) : (s.setCtx c x).rcv = s.rcv := rfl
@[simp] theorem State.setCtx_pwr (s : State) (c : CtxId) (x : Ctx) : (s.setCtx c x).pwr = s.pwr := rfl
@[simp] theorem State.setCtx_sec (s : State) (c : CtxId) (x : Ctx) : (s.setCtx c x).sec = s.sec := rfl
@[simp] theorem State.setCtx_flash (s : State) (c : CtxId) (x : Ctx) : (s.setCtx c x).flash = s.flash := rfl
@[simp] theorem State.setCtx_boot (s : State) (c : CtxId) (x : Ctx) : (s.setCtx c x).boot = s.boot := rfl
@[simp] theorem State.setCtx_tel (s : State) (c : CtxId) (x : Ctx) : (s.setCtx c x).tel = s.tel := rfl
@[simp] theorem State.setCtx_out (s : State) (c : CtxId) (x : Ctx) : (s.setCtx c x).out = s.out := rfl

@[simp] theorem State.modCtx_pending (s : State) (c : CtxId) (f : Ctx → Ctx) : (s.modCtx c f).pending = s.pending := rfl
@[simp] theorem State.modCtx_clk (s : State) (c : CtxId) (f : Ctx → Ctx) : (s.modCtx c f).clk = s.clk := rfl
@[simp] theorem State.modCtx_own (s : State) (c : CtxId) (f : Ctx → Ctx) : (s.modCtx c f).own = s.own := rfl
@[simp] theorem State.modCtx_cfg (s : State) (c : CtxId) (f : Ctx → Ctx) : (s.modCtx c f).cfg = s.cfg := rfl
@[simp] theorem State.modCtx_lat (s : State) (c : CtxId) (f : Ctx → Ctx) : (s.modCtx c f).lat = s.lat := rfl
@[simp] theorem State.modCtx_slu (s : State) (c : CtxId) (f : Ctx → Ctx) : (s.modCtx c f).slu = s.slu := rfl
@[simp] theorem State.modCtx_ctxs (s : State) (c : CtxId) (f : Ctx → Ctx) : (s.modCtx c f).ctxs = s.ctxs.set c (f (s.ctx c)) := rfl
@[simp] theorem State.modCtx_weir (s : State) (c : CtxId) (f : Ctx → Ctx) : (s.modCtx c f).weir = s.weir := rfl
@[simp] theorem State.modCtx_recv (s : State) (c : CtxId) (f : Ctx → Ctx) : (s.modCtx c f).recv = s.recv := rfl
@[simp] theorem State.modCtx_mem (s : State) (c : CtxId) (f : Ctx → Ctx) : (s.modCtx c f).mem = s.mem := rfl
@[simp] theorem State.modCtx_hbm (s : State) (c : CtxId) (f : Ctx → Ctx) : (s.modCtx c f).hbm = s.hbm := rfl
@[simp] theorem State.modCtx_sram (s : State) (c : CtxId) (f : Ctx → Ctx) : (s.modCtx c f).sram = s.sram := rfl
@[simp] theorem State.modCtx_fuse (s : State) (c : CtxId) (f : Ctx → Ctx) : (s.modCtx c f).fuse = s.fuse := rfl
@[simp] theorem State.modCtx_hw (s : State) (c : CtxId) (f : Ctx → Ctx) : (s.modCtx c f).hw = s.hw := rfl
@[simp] theorem State.modCtx_fab (s : State) (c : CtxId) (f : Ctx → Ctx) : (s.modCtx c f).fab = s.fab := rfl
@[simp] theorem State.modCtx_dma (s : State) (c : CtxId) (f : Ctx → Ctx) : (s.modCtx c f).dma = s.dma := rfl
@[simp] theorem State.modCtx_ring (s : State) (c : CtxId) (f : Ctx → Ctx) : (s.modCtx c f).ring = s.ring := rfl
@[simp] theorem State.modCtx_intg (s : State) (c : CtxId) (f : Ctx → Ctx) : (s.modCtx c f).intg = s.intg := rfl
@[simp] theorem State.modCtx_rcv (s : State) (c : CtxId) (f : Ctx → Ctx) : (s.modCtx c f).rcv = s.rcv := rfl
@[simp] theorem State.modCtx_pwr (s : State) (c : CtxId) (f : Ctx → Ctx) : (s.modCtx c f).pwr = s.pwr := rfl
@[simp] theorem State.modCtx_sec (s : State) (c : CtxId) (f : Ctx → Ctx) : (s.modCtx c f).sec = s.sec := rfl
@[simp] theorem State.modCtx_flash (s : State) (c : CtxId) (f : Ctx → Ctx) : (s.modCtx c f).flash = s.flash := rfl
@[simp] theorem State.modCtx_boot (s : State) (c : CtxId) (f : Ctx → Ctx) : (s.modCtx c f).boot = s.boot := rfl
@[simp] theorem State.modCtx_tel (s : State) (c : CtxId) (f : Ctx → Ctx) : (s.modCtx c f).tel = s.tel := rfl
@[simp] theorem State.modCtx_out (s : State) (c : CtxId) (f : Ctx → Ctx) : (s.modCtx c f).out = s.out := rfl

@[simp] theorem State.putBase_pending (s : State) (a : Nat) (bs : List Byte) : (s.putBase a bs).pending = s.pending := rfl
@[simp] theorem State.putBase_clk (s : State) (a : Nat) (bs : List Byte) : (s.putBase a bs).clk = s.clk := rfl
@[simp] theorem State.putBase_own (s : State) (a : Nat) (bs : List Byte) : (s.putBase a bs).own = s.own := rfl
@[simp] theorem State.putBase_cfg (s : State) (a : Nat) (bs : List Byte) : (s.putBase a bs).cfg = s.cfg := rfl
@[simp] theorem State.putBase_lat (s : State) (a : Nat) (bs : List Byte) : (s.putBase a bs).lat = s.lat := rfl
@[simp] theorem State.putBase_slu (s : State) (a : Nat) (bs : List Byte) : (s.putBase a bs).slu = s.slu := rfl
@[simp] theorem State.putBase_ctxs (s : State) (a : Nat) (bs : List Byte) : (s.putBase a bs).ctxs = s.ctxs := rfl
@[simp] theorem State.putBase_weir (s : State) (a : Nat) (bs : List Byte) : (s.putBase a bs).weir = s.weir := rfl
@[simp] theorem State.putBase_recv (s : State) (a : Nat) (bs : List Byte) : (s.putBase a bs).recv = s.recv := rfl
@[simp] theorem State.putBase_mem (s : State) (a : Nat) (bs : List Byte) : (s.putBase a bs).mem = s.mem.put a bs := rfl
@[simp] theorem State.putBase_hbm (s : State) (a : Nat) (bs : List Byte) : (s.putBase a bs).hbm = s.hbm := rfl
@[simp] theorem State.putBase_sram (s : State) (a : Nat) (bs : List Byte) : (s.putBase a bs).sram = s.sram := rfl
@[simp] theorem State.putBase_fuse (s : State) (a : Nat) (bs : List Byte) : (s.putBase a bs).fuse = s.fuse := rfl
@[simp] theorem State.putBase_hw (s : State) (a : Nat) (bs : List Byte) : (s.putBase a bs).hw = s.hw := rfl
@[simp] theorem State.putBase_fab (s : State) (a : Nat) (bs : List Byte) : (s.putBase a bs).fab = s.fab := rfl
@[simp] theorem State.putBase_dma (s : State) (a : Nat) (bs : List Byte) : (s.putBase a bs).dma = s.dma := rfl
@[simp] theorem State.putBase_ring (s : State) (a : Nat) (bs : List Byte) : (s.putBase a bs).ring = s.ring := rfl
@[simp] theorem State.putBase_intg (s : State) (a : Nat) (bs : List Byte) : (s.putBase a bs).intg = s.intg := rfl
@[simp] theorem State.putBase_rcv (s : State) (a : Nat) (bs : List Byte) : (s.putBase a bs).rcv = s.rcv := rfl
@[simp] theorem State.putBase_pwr (s : State) (a : Nat) (bs : List Byte) : (s.putBase a bs).pwr = s.pwr := rfl
@[simp] theorem State.putBase_sec (s : State) (a : Nat) (bs : List Byte) : (s.putBase a bs).sec = s.sec := rfl
@[simp] theorem State.putBase_flash (s : State) (a : Nat) (bs : List Byte) : (s.putBase a bs).flash = s.flash := rfl
@[simp] theorem State.putBase_boot (s : State) (a : Nat) (bs : List Byte) : (s.putBase a bs).boot = s.boot := rfl
@[simp] theorem State.putBase_tel (s : State) (a : Nat) (bs : List Byte) : (s.putBase a bs).tel = s.tel := rfl
@[simp] theorem State.putBase_out (s : State) (a : Nat) (bs : List Byte) : (s.putBase a bs).out = s.out := rfl

@[simp] theorem State.journal_pending (s : State) (b : JBody) : (s.journal b).pending = s.pending := rfl
@[simp] theorem State.journal_clk (s : State) (b : JBody) : (s.journal b).clk = s.clk := rfl
@[simp] theorem State.journal_own (s : State) (b : JBody) : (s.journal b).own = s.own := rfl
@[simp] theorem State.journal_cfg (s : State) (b : JBody) : (s.journal b).cfg = s.cfg := rfl
@[simp] theorem State.journal_lat (s : State) (b : JBody) : (s.journal b).lat = s.lat := rfl
@[simp] theorem State.journal_slu (s : State) (b : JBody) : (s.journal b).slu = s.slu := rfl
@[simp] theorem State.journal_ctxs (s : State) (b : JBody) : (s.journal b).ctxs = s.ctxs := rfl
@[simp] theorem State.journal_weir (s : State) (b : JBody) : (s.journal b).weir = s.weir := rfl
@[simp] theorem State.journal_recv (s : State) (b : JBody) : (s.journal b).recv = s.recv := rfl
@[simp] theorem State.journal_mem (s : State) (b : JBody) : (s.journal b).mem = s.mem := rfl
@[simp] theorem State.journal_hbm (s : State) (b : JBody) : (s.journal b).hbm = s.hbm := rfl
@[simp] theorem State.journal_sram (s : State) (b : JBody) : (s.journal b).sram = s.sram := rfl
@[simp] theorem State.journal_fuse (s : State) (b : JBody) : (s.journal b).fuse = s.fuse := rfl
@[simp] theorem State.journal_hw (s : State) (b : JBody) : (s.journal b).hw = s.hw := rfl
@[simp] theorem State.journal_fab (s : State) (b : JBody) : (s.journal b).fab = s.fab := rfl
@[simp] theorem State.journal_dma (s : State) (b : JBody) : (s.journal b).dma = s.dma := rfl
@[simp] theorem State.journal_ring (s : State) (b : JBody) : (s.journal b).ring = s.ring := rfl
@[simp] theorem State.journal_intg (s : State) (b : JBody) : (s.journal b).intg = s.intg := rfl
@[simp] theorem State.journal_rcv (s : State) (b : JBody) : (s.journal b).rcv = s.rcv := rfl
@[simp] theorem State.journal_pwr (s : State) (b : JBody) : (s.journal b).pwr = s.pwr := rfl
@[simp] theorem State.journal_sec (s : State) (b : JBody) : (s.journal b).sec = s.sec := rfl
@[simp] theorem State.journal_flash (s : State) (b : JBody) : (s.journal b).flash = s.flash := rfl
@[simp] theorem State.journal_tel (s : State) (b : JBody) : (s.journal b).tel = s.tel := rfl
@[simp] theorem State.journal_out (s : State) (b : JBody) : (s.journal b).out = s.out := rfl

@[simp] theorem State.modCfg_pending (s : State) (f : Cfg → Cfg) : (s.modCfg f).pending = s.pending := rfl
@[simp] theorem State.modCfg_clk (s : State) (f : Cfg → Cfg) : (s.modCfg f).clk = s.clk := rfl
@[simp] theorem State.modCfg_own (s : State) (f : Cfg → Cfg) : (s.modCfg f).own = s.own := rfl
@[simp] theorem State.modCfg_cfg (s : State) (f : Cfg → Cfg) : (s.modCfg f).cfg = f s.cfg := rfl
@[simp] theorem State.modCfg_lat (s : State) (f : Cfg → Cfg) : (s.modCfg f).lat = s.lat := rfl
@[simp] theorem State.modCfg_slu (s : State) (f : Cfg → Cfg) : (s.modCfg f).slu = s.slu := rfl
@[simp] theorem State.modCfg_ctxs (s : State) (f : Cfg → Cfg) : (s.modCfg f).ctxs = s.ctxs := rfl
@[simp] theorem State.modCfg_weir (s : State) (f : Cfg → Cfg) : (s.modCfg f).weir = s.weir := rfl
@[simp] theorem State.modCfg_recv (s : State) (f : Cfg → Cfg) : (s.modCfg f).recv = s.recv := rfl
@[simp] theorem State.modCfg_mem (s : State) (f : Cfg → Cfg) : (s.modCfg f).mem = s.mem := rfl
@[simp] theorem State.modCfg_hbm (s : State) (f : Cfg → Cfg) : (s.modCfg f).hbm = s.hbm := rfl
@[simp] theorem State.modCfg_sram (s : State) (f : Cfg → Cfg) : (s.modCfg f).sram = s.sram := rfl
@[simp] theorem State.modCfg_fuse (s : State) (f : Cfg → Cfg) : (s.modCfg f).fuse = s.fuse := rfl
@[simp] theorem State.modCfg_hw (s : State) (f : Cfg → Cfg) : (s.modCfg f).hw = s.hw := rfl
@[simp] theorem State.modCfg_fab (s : State) (f : Cfg → Cfg) : (s.modCfg f).fab = s.fab := rfl
@[simp] theorem State.modCfg_dma (s : State) (f : Cfg → Cfg) : (s.modCfg f).dma = s.dma := rfl
@[simp] theorem State.modCfg_ring (s : State) (f : Cfg → Cfg) : (s.modCfg f).ring = s.ring := rfl
@[simp] theorem State.modCfg_intg (s : State) (f : Cfg → Cfg) : (s.modCfg f).intg = s.intg := rfl
@[simp] theorem State.modCfg_rcv (s : State) (f : Cfg → Cfg) : (s.modCfg f).rcv = s.rcv := rfl
@[simp] theorem State.modCfg_pwr (s : State) (f : Cfg → Cfg) : (s.modCfg f).pwr = s.pwr := rfl
@[simp] theorem State.modCfg_sec (s : State) (f : Cfg → Cfg) : (s.modCfg f).sec = s.sec := rfl
@[simp] theorem State.modCfg_flash (s : State) (f : Cfg → Cfg) : (s.modCfg f).flash = s.flash := rfl
@[simp] theorem State.modCfg_boot (s : State) (f : Cfg → Cfg) : (s.modCfg f).boot = s.boot := rfl
@[simp] theorem State.modCfg_tel (s : State) (f : Cfg → Cfg) : (s.modCfg f).tel = s.tel := rfl
@[simp] theorem State.modCfg_out (s : State) (f : Cfg → Cfg) : (s.modCfg f).out = s.out := rfl

@[simp] theorem State.setCtx_ctx (s : State) (c d : CtxId) (x : Ctx) : (s.setCtx c x).ctx d = if c = d then x else s.ctx d := by
  by_cases h : c = d
  · subst h; simp [State.ctx, State.setCtx]
  · have h' : c.val ≠ d.val := fun e => h (Fin.ext e)
    simp [State.ctx, State.setCtx, h, h']

@[simp] theorem State.modCtx_ctx (s : State) (c d : CtxId) (f : Ctx → Ctx) :
    (s.modCtx c f).ctx d = if c = d then f (s.ctx c) else s.ctx d := State.setCtx_ctx ..

/-- What the guard of a host command or a device event answers. -/
theorem State.whenUp_of_up {s : State} (h : s.up = true) (f : State → State) : s.whenUp f = f s := by simp [State.whenUp, h]
theorem State.whenUp_of_down {s : State} (h : s.up = false) (f : State → State) : s.whenUp f = s := by simp [State.whenUp, h]
theorem State.whenPowered_of_on {s : State} (h : s.powered = true) (f : State → State) : s.whenPowered f = f s := by
  simp [State.whenPowered, h]
theorem State.whenPowered_of_off {s : State} (h : s.powered = false) (f : State → State) : s.whenPowered f = s := by
  simp [State.whenPowered, h]

end Sys2Proof.Machine
end

