-- ==== Sys2Proof/Laws/Dispatch.lean ====
section
/-! SUPPORT. What sending on the fabric and starting commands can change: the flows, the trace, the outputs, and the progress of the
commands of a step. Everything else of the state stays. -/

namespace Sys2Proof.Machine

/-- The state without commands' progress, flows, trace and outputs. -/
def State.still (s : State) : State :=
  { s with ctxs := s.ctxs.map Ctx.still, fab := { s.fab with flows := [] }, tel := State.reset.tel, out := [] }

theorem State.still_foldl {α : Type} (f : State → α → State) (h : ∀ u a, (f u a).still = u.still) (l : List α) (s : State) :
    (l.foldl f s).still = s.still := by
  induction l generalizing s with
  | nil => rfl
  | cons a l ih => rw [List.foldl_cons, ih, h]

theorem State.emit_still (s : State) (o : Output) : (s.emit o).still = s.still := rfl

theorem State.setFlow_still (s : State) (f : Flow) : (s.setFlow f).still = s.still := rfl

theorem State.trace_still (s : State) (a b c d : Nat) : (s.trace a b c d).still = s.still := by
  unfold State.trace; split <;> rfl

theorem State.modCmd_still (s : State) (r : CmdRef) (f : Cmd → Cmd) : (s.modCmd r f).still = s.still := by
  have h : (s.modCmd r f).ctxs.map Ctx.still = s.ctxs.map Ctx.still := by
    apply Vector.ext
    intro i hi
    simp only [State.modCmd, State.modStep, State.modCtx, State.setCtx, Vector.getElem_map, Vector.getElem_set]
    split
    · rename_i e
      subst e
      simp only [Ctx.modStep, Ctx.still, List.map_map]
      congr 1
      apply List.map_congr_left
      intro t _
      simp only [Function.comp]
      split <;> rfl
    · rfl
  unfold State.still
  rw [h]
  rfl

theorem State.sendOnFlow_still (s : State) (c : CtxId) (p : OxtPkt) : (s.sendOnFlow c p).still = s.still := by
  unfold State.sendOnFlow; dsimp only; (repeat' split) <;> rfl

theorem State.sendAck_still (s : State) (k : FlowKey) : (s.sendAck k).still = s.still := rfl

theorem State.grantFlows_still (s : State) (r : CmdRef) : (s.grantFlows r).still = s.still :=
  State.still_foldl _ (fun _ _ => State.sendAck_still ..) _ _

theorem State.sendData_still (s : State) (c : CtxId) (peer : Nat) (f : Fin 8) (cls : Nat) (tweak : OxtPkt → OxtPkt) :
    (s.sendData c peer f cls tweak).still = s.still := by
  unfold State.sendData; split
  · exact State.sendOnFlow_still ..
  · rfl

theorem State.sendParts_still (s : State) (c : CtxId) (t : Step) (idx peer pos cls n : Nat) (parts : List Part) :
    (s.sendParts c t idx peer pos cls n parts).still = s.still :=
  State.still_foldl _ (fun _ _ => State.sendData_still ..) _ _

theorem State.sendBuffer_still (s : State) (r : CmdRef) (t : Step) (j : CollJob) : (s.sendBuffer r t j).still = s.still := by
  unfold State.sendBuffer; dsimp only; split
  · rw [State.modCmd_still, State.sendParts_still]
  · rw [State.modCmd_still]

theorem State.collAdvance_still (s : State) (r : CmdRef) : (s.collAdvance r).still = s.still := by
  unfold State.collAdvance
  split
  · split
    · rfl
    · split
      · rfl
      · rename_i t k _ _ _ j _ _ p _
        extract_lets v s1 s2
        have h1 : s1.still = s.still := by
          unfold s1; split
          · split
            · rfl
            · rw [State.modCmd_still, State.still_foldl _ (fun u a => ?_)]
              split
              · rfl
              · rw [State.sendParts_still]
          · rfl
        clear_value s1
        have h2 : s2.still = s.still := by
          unfold s2; split
          · split
            · rw [State.modCmd_still, State.still_foldl _ (fun u a => ?_), h1]
              split
              · rfl
              · rw [State.sendParts_still]
            · exact h1
          · exact h1
        clear_value s2
        split
        · exact h2
        · rw [State.modCmd_still, h2]
  · rfl

theorem State.collStart_still (s0 : State) (r : CmdRef) : (s0.collStart r).still = s0.still := by
  unfold State.collStart
  extract_lets s
  have h : s.still = s0.still := State.grantFlows_still ..
  clear_value s
  split
  · split
    · exact h
    · split
      · exact h
      · split
        · exact h
        · split
          · rw [State.sendBuffer_still, h]
          · dsimp only
            rw [State.collAdvance_still, State.still_foldl _ (fun u a => ?_), h]
            split
            · rfl
            · rw [State.sendParts_still]
  · exact h

theorem State.collResume_still (s : State) (r : CmdRef) : (s.collResume r).still = s.still := by
  unfold State.collResume
  split
  · split
    · rfl
    · split
      · split
        · split
          · rfl
          · exact State.sendBuffer_still ..
        · exact State.collAdvance_still ..
      · rfl
  · rfl

theorem State.startCmd_still (s : State) (r : CmdRef) : (s.startCmd r).still = s.still := by
  unfold State.startCmd
  split
  · dsimp only; split
    · rw [State.collResume_still, State.trace_still, State.modCmd_still]
    · rw [State.collStart_still, State.trace_still, State.modCmd_still]
  · rfl

/-- Everything that the start of ready commands leaves as it was. -/
theorem State.dispatch_still (s : State) : s.dispatch.still = s.still := by
  refine State.still_foldl _ (fun u a => ?_) _ _
  split
  · split
    · exact State.startCmd_still ..
    · rfl
  · rfl

/-! ### Nothing that was sent is taken back -/

/-- Outputs are only added. -/
def State.Sent (s t : State) : Prop := s.out <+: t.out

theorem State.Sent.refl (s : State) : s.Sent s := List.prefix_refl _
theorem State.Sent.trans {s t u : State} (a : s.Sent t) (b : t.Sent u) : s.Sent u := List.IsPrefix.trans a b
theorem State.Sent.emit (s : State) (o : Output) : s.Sent (s.emit o) := List.prefix_append ..

theorem State.Sent.foldl {α : Type} (f : State → α → State) (h : ∀ u a, State.Sent u (f u a)) (l : List α) (s : State) :
    s.Sent (l.foldl f s) := by
  induction l generalizing s with
  | nil => exact .refl _
  | cons a l ih => exact (h s a).trans (ih _)

theorem State.Sent.trace (s : State) (a b c d : Nat) : s.Sent (s.trace a b c d) := by
  unfold State.trace; split <;> exact List.prefix_refl _

theorem State.Sent.sendOnFlow (s : State) (c : CtxId) (p : OxtPkt) : s.Sent (s.sendOnFlow c p) := by
  unfold State.sendOnFlow; dsimp only; (repeat' split) <;> first
    | exact List.prefix_refl _
    | exact List.prefix_append ..

theorem State.Sent.sendData (s : State) (c : CtxId) (peer : Nat) (f : Fin 8) (cls : Nat) (tweak : OxtPkt → OxtPkt) :
    s.Sent (s.sendData c peer f cls tweak) := by
  unfold State.sendData; split
  · exact .sendOnFlow ..
  · exact .refl _

theorem State.Sent.sendParts (s : State) (c : CtxId) (t : Step) (idx peer pos cls n : Nat) (parts : List Part) :
    s.Sent (s.sendParts c t idx peer pos cls n parts) := .foldl _ (fun _ _ => .sendData ..) _ _

theorem State.Sent.sendBuffer (s : State) (r : CmdRef) (t : Step) (j : CollJob) : s.Sent (s.sendBuffer r t j) := by
  unfold State.sendBuffer; dsimp only; split
  · exact State.Sent.trans (.sendParts ..) (List.prefix_refl _)
  · exact List.prefix_refl _

theorem State.Sent.collAdvance (s : State) (r : CmdRef) : s.Sent (s.collAdvance r) := by
  unfold State.collAdvance
  split
  · split
    · exact .refl _
    · split
      · exact .refl _
      · rename_i t k _ _ _ j _ _ p _
        extract_lets v s1 s2
        have h1 : s.Sent s1 := by
          unfold s1; split
          · split
            · exact .refl _
            · refine State.Sent.trans (.foldl _ (fun u a => ?_) _ _) (List.prefix_refl _)
              split
              · exact .refl _
              · exact .sendParts ..
          · exact .refl _
        clear_value s1
        have h2 : s.Sent s2 := by
          unfold s2; split
          · split
            · refine h1.trans (State.Sent.trans (.foldl _ (fun u a => ?_) _ _) (List.prefix_refl _))
              split
              · exact .refl _
              · exact .sendParts ..
            · exact h1
          · exact h1
        clear_value s2
        split
        · exact h2
        · exact h2
  · exact .refl _

theorem State.Sent.sendAck (s : State) (k : FlowKey) : s.Sent (s.sendAck k) := by
  unfold State.sendAck
  exact State.Sent.emit (s.setFlow _) _

theorem State.Sent.grantFlows (s : State) (r : CmdRef) : s.Sent (s.grantFlows r) := by
  unfold State.grantFlows
  exact State.Sent.foldl (fun (t : State) (f : Flow) => t.sendAck f.key) (fun u a => State.Sent.sendAck u a.key) _ s

theorem State.Sent.collStart (s0 : State) (r : CmdRef) : s0.Sent (s0.collStart r) := by
  unfold State.collStart
  extract_lets s
  have h : s0.Sent s := .grantFlows ..
  clear_value s
  split
  · split
    · exact h
    · split
      · exact h
      · split
        · exact h
        · split
          · exact h.trans (.sendBuffer ..)
          · dsimp only
            refine h.trans (State.Sent.trans (.foldl _ (fun u a => ?_) _ _) (.collAdvance ..))
            split
            · exact .refl _
            · exact .sendParts ..
  · exact h

theorem State.Sent.collResume (s : State) (r : CmdRef) : s.Sent (s.collResume r) := by
  unfold State.collResume
  split
  · split
    · exact .refl _
    · split
      · split
        · split
          · exact .refl _
          · exact .sendBuffer ..
        · exact .collAdvance ..
      · exact .refl _
  · exact .refl _

theorem State.Sent.startCmd (s : State) (r : CmdRef) : s.Sent (s.startCmd r) := by
  unfold State.startCmd
  split
  · rename_i t k _ _
    extract_lets ev scale s1
    have h : s.Sent s1 := State.Sent.trans (t := s.modCmd r fun k => { k with state := .running, since := s.clk.now, gscale := scale })
      (List.prefix_refl _) (State.Sent.trace ..)
    split
    · exact h.trans (.collResume ..)
    · exact h.trans (.collStart ..)
  · exact .refl _

/-- The start of ready commands only adds to the outputs. -/
theorem State.Sent.dispatch (s : State) : s.Sent s.dispatch := by
  refine .foldl _ (fun u a => ?_) _ _
  split
  · split
    · exact .startCmd ..
    · exact .refl _
  · exact .refl _

@[simp] theorem State.dispatch_pending (s : State) : s.dispatch.pending = s.pending := congrArg (·.pending) s.dispatch_still
@[simp] theorem State.dispatch_clk (s : State) : s.dispatch.clk = s.clk := congrArg (·.clk) s.dispatch_still
@[simp] theorem State.dispatch_own (s : State) : s.dispatch.own = s.own := congrArg (·.own) s.dispatch_still
@[simp] theorem State.dispatch_cfg (s : State) : s.dispatch.cfg = s.cfg := congrArg (·.cfg) s.dispatch_still
@[simp] theorem State.dispatch_lat (s : State) : s.dispatch.lat = s.lat := congrArg (·.lat) s.dispatch_still
@[simp] theorem State.dispatch_slu (s : State) : s.dispatch.slu = s.slu := congrArg (·.slu) s.dispatch_still
@[simp] theorem State.dispatch_weir (s : State) : s.dispatch.weir = s.weir := congrArg (·.weir) s.dispatch_still
@[simp] theorem State.dispatch_recv (s : State) : s.dispatch.recv = s.recv := congrArg (·.recv) s.dispatch_still
@[simp] theorem State.dispatch_mem (s : State) : s.dispatch.mem = s.mem := congrArg (·.mem) s.dispatch_still
@[simp] theorem State.dispatch_hbm (s : State) : s.dispatch.hbm = s.hbm := congrArg (·.hbm) s.dispatch_still
@[simp] theorem State.dispatch_sram (s : State) : s.dispatch.sram = s.sram := congrArg (·.sram) s.dispatch_still
@[simp] theorem State.dispatch_fuse (s : State) : s.dispatch.fuse = s.fuse := congrArg (·.fuse) s.dispatch_still
@[simp] theorem State.dispatch_hw (s : State) : s.dispatch.hw = s.hw := congrArg (·.hw) s.dispatch_still
@[simp] theorem State.dispatch_dma (s : State) : s.dispatch.dma = s.dma := congrArg (·.dma) s.dispatch_still
@[simp] theorem State.dispatch_ring (s : State) : s.dispatch.ring = s.ring := congrArg (·.ring) s.dispatch_still
@[simp] theorem State.dispatch_intg (s : State) : s.dispatch.intg = s.intg := congrArg (·.intg) s.dispatch_still
@[simp] theorem State.dispatch_rcv (s : State) : s.dispatch.rcv = s.rcv := congrArg (·.rcv) s.dispatch_still
@[simp] theorem State.dispatch_pwr (s : State) : s.dispatch.pwr = s.pwr := congrArg (·.pwr) s.dispatch_still
@[simp] theorem State.dispatch_sec (s : State) : s.dispatch.sec = s.sec := congrArg (·.sec) s.dispatch_still
@[simp] theorem State.dispatch_flash (s : State) : s.dispatch.flash = s.flash := congrArg (·.flash) s.dispatch_still
@[simp] theorem State.dispatch_boot (s : State) : s.dispatch.boot = s.boot := congrArg (·.boot) s.dispatch_still

/-- What the start of commands leaves of a context: all but the commands of its steps. -/
theorem State.dispatch_ctx (s : State) (c : CtxId) : (s.dispatch.ctx c).still = (s.ctx c).still := by
  have h := congrArg (fun u : State => u.ctxs[c]) s.dispatch_still
  simpa [State.still, State.ctx] using h

@[simp] theorem State.dispatch_ctx_state (s : State) (c : CtxId) : (s.dispatch.ctx c).state = (s.ctx c).state :=
  congrArg (·.state) (s.dispatch_ctx c)
@[simp] theorem State.dispatch_ctx_role (s : State) (c : CtxId) : (s.dispatch.ctx c).role = (s.ctx c).role :=
  congrArg (·.role) (s.dispatch_ctx c)
@[simp] theorem State.dispatch_ctx_fenced (s : State) (c : CtxId) : (s.dispatch.ctx c).fenced = (s.ctx c).fenced :=
  congrArg (·.fenced) (s.dispatch_ctx c)
@[simp] theorem State.dispatch_ctx_unbound (s : State) (c : CtxId) : (s.dispatch.ctx c).unbound = (s.ctx c).unbound :=
  congrArg (·.unbound) (s.dispatch_ctx c)
@[simp] theorem State.dispatch_ctx_client (s : State) (c : CtxId) : (s.dispatch.ctx c).client = (s.ctx c).client :=
  congrArg (·.client) (s.dispatch_ctx c)
@[simp] theorem State.dispatch_ctx_genAdv (s : State) (c : CtxId) : (s.dispatch.ctx c).genAdv = (s.ctx c).genAdv :=
  congrArg (·.genAdv) (s.dispatch_ctx c)
@[simp] theorem State.dispatch_ctx_regs (s : State) (c : CtxId) : (s.dispatch.ctx c).regs = (s.ctx c).regs :=
  congrArg (·.regs) (s.dispatch_ctx c)
@[simp] theorem State.dispatch_ctx_rings (s : State) (c : CtxId) : (s.dispatch.ctx c).rings = (s.ctx c).rings :=
  congrArg (·.rings) (s.dispatch_ctx c)
@[simp] theorem State.dispatch_ctx_job (s : State) (c : CtxId) : (s.dispatch.ctx c).job = (s.ctx c).job :=
  congrArg (·.job) (s.dispatch_ctx c)
@[simp] theorem State.dispatch_ctx_asm (s : State) (c : CtxId) : (s.dispatch.ctx c).asm = (s.ctx c).asm :=
  congrArg (·.asm) (s.dispatch_ctx c)
@[simp] theorem State.dispatch_ctx_pred (s : State) (c : CtxId) : (s.dispatch.ctx c).pred = (s.ctx c).pred :=
  congrArg (·.pred) (s.dispatch_ctx c)
@[simp] theorem State.dispatch_ctx_folds (s : State) (c : CtxId) : (s.dispatch.ctx c).folds = (s.ctx c).folds :=
  congrArg (·.folds) (s.dispatch_ctx c)
@[simp] theorem State.dispatch_ctx_alloc (s : State) (c : CtxId) : (s.dispatch.ctx c).alloc = (s.ctx c).alloc :=
  congrArg (·.alloc) (s.dispatch_ctx c)
@[simp] theorem State.dispatch_ctx_walking (s : State) (c : CtxId) : (s.dispatch.ctx c).walking = (s.ctx c).walking :=
  congrArg (·.walking) (s.dispatch_ctx c)
@[simp] theorem State.dispatch_ctx_wcFlag (s : State) (c : CtxId) : (s.dispatch.ctx c).wcFlag = (s.ctx c).wcFlag :=
  congrArg (·.wcFlag) (s.dispatch_ctx c)
@[simp] theorem State.dispatch_ctx_carryOk (s : State) (c : CtxId) : (s.dispatch.ctx c).carryOk = (s.ctx c).carryOk :=
  congrArg (·.carryOk) (s.dispatch_ctx c)
@[simp] theorem State.dispatch_ctx_final (s : State) (c : CtxId) : (s.dispatch.ctx c).final = (s.ctx c).final :=
  congrArg (·.final) (s.dispatch_ctx c)
@[simp] theorem State.dispatch_ctx_mirror (s : State) (c : CtxId) : (s.dispatch.ctx c).mirror = (s.ctx c).mirror :=
  congrArg (·.mirror) (s.dispatch_ctx c)
@[simp] theorem State.dispatch_ctx_stream (s : State) (c : CtxId) : (s.dispatch.ctx c).stream = (s.ctx c).stream :=
  congrArg (·.stream) (s.dispatch_ctx c)
@[simp] theorem State.dispatch_ctx_ckpts (s : State) (c : CtxId) : (s.dispatch.ctx c).ckpts = (s.ctx c).ckpts :=
  congrArg (·.ckpts) (s.dispatch_ctx c)
@[simp] theorem State.dispatch_ctx_restore (s : State) (c : CtxId) : (s.dispatch.ctx c).restore = (s.ctx c).restore :=
  congrArg (·.restore) (s.dispatch_ctx c)
@[simp] theorem State.dispatch_ctx_pattern (s : State) (c : CtxId) : (s.dispatch.ctx c).pattern = (s.ctx c).pattern :=
  congrArg (·.pattern) (s.dispatch_ctx c)
@[simp] theorem State.dispatch_ctx_models (s : State) (c : CtxId) : (s.dispatch.ctx c).models = (s.ctx c).models :=
  congrArg (·.models) (s.dispatch_ctx c)
@[simp] theorem State.dispatch_ctx_manifests (s : State) (c : CtxId) : (s.dispatch.ctx c).manifests = (s.ctx c).manifests :=
  congrArg (·.manifests) (s.dispatch_ctx c)
@[simp] theorem State.dispatch_ctx_load (s : State) (c : CtxId) : (s.dispatch.ctx c).load = (s.ctx c).load :=
  congrArg (·.load) (s.dispatch_ctx c)
@[simp] theorem State.dispatch_ctx_history (s : State) (c : CtxId) : (s.dispatch.ctx c).history = (s.ctx c).history :=
  congrArg (·.history) (s.dispatch_ctx c)
@[simp] theorem State.dispatch_ctx_digest (s : State) (c : CtxId) : (s.dispatch.ctx c).digest = (s.ctx c).digest :=
  congrArg (·.digest) (s.dispatch_ctx c)
@[simp] theorem State.dispatch_ctx_tail (s : State) (c : CtxId) : (s.dispatch.ctx c).tail = (s.ctx c).tail :=
  congrArg (·.tail) (s.dispatch_ctx c)
@[simp] theorem State.dispatch_ctx_tearing (s : State) (c : CtxId) : (s.dispatch.ctx c).tearing = (s.ctx c).tearing :=
  congrArg (·.tearing) (s.dispatch_ctx c)
@[simp] theorem State.dispatch_ctx_progFirst (s : State) (c : CtxId) : (s.dispatch.ctx c).progFirst = (s.ctx c).progFirst :=
  congrArg (·.progFirst) (s.dispatch_ctx c)
@[simp] theorem State.dispatch_ctx_progLast (s : State) (c : CtxId) : (s.dispatch.ctx c).progLast = (s.ctx c).progLast :=
  congrArg (·.progLast) (s.dispatch_ctx c)
@[simp] theorem State.dispatch_ctx_swept (s : State) (c : CtxId) : (s.dispatch.ctx c).swept = (s.ctx c).swept :=
  congrArg (·.swept) (s.dispatch_ctx c)

end Sys2Proof.Machine
end

