-- ==== Sys2Proof/Laws/Records.lean ====
section
/-! SUPPORT. A sound record that arrives whole is judged by its TYPE, once, after CTX_CONSUMEDn and CTX_SEQn have advanced. -/

namespace Sys2Proof.Machine

/-! ### Bytes -/

@[simp] theorem length_leBytes (n v : Nat) : (leBytes n v).length = n := by
  induction n generalizing v with
  | zero => rfl
  | succ n ih => simp [leBytes, ih]

theorem leNat_leBytes (n v : Nat) : leNat (leBytes n v) = v % 256 ^ n := by
  induction n generalizing v with
  | zero => simp [leBytes, leNat, Nat.mod_one]
  | succ n ih =>
    simp only [leBytes, leNat, ih, BitVec.toNat_ofNat]
    have h : v % (256 * 256 ^ n) = v % 256 + 256 * (v / 256 % 256 ^ n) := Nat.mod_mul
    rw [show v % 256 ^ (n + 1) = v % (256 * 256 ^ n) by rw [Nat.pow_succ, Nat.mul_comm], h]

theorem field_append (a b : List Byte) (off len : Nat) (h : a.length ≤ off) : field (a ++ b) off len = field b (off - a.length) len := by
  unfold field slice
  rw [List.drop_append, List.drop_of_length_le h, List.nil_append]

theorem field_leBytes (n v : Nat) (b : List Byte) : field (leBytes n v ++ b) 0 n = v % 256 ^ n := by
  unfold field slice
  rw [List.drop_zero, List.take_append_of_le_length (by simp), List.take_of_length_le (by simp), leNat_leBytes]

theorem field_toNat {w : Nat} (n : Nat) (v : BitVec w) (b : List Byte) (h : 2 ^ w = 256 ^ n) :
    field (leBytes n v.toNat ++ b) 0 n = v.toNat := by
  rw [field_leBytes, Nat.mod_eq_of_lt (h ▸ v.isLt)]

/-! ### The window -/

theorem find_placed (pos k : Nat) (bs : List Byte) (i : Nat) (hi : i < bs.length) (hk : bs.length ≤ 65536) :
    ((bs.zipIdx k).map fun p => ((pos + p.2) % windowBytes, p.1)).find? (fun c => c.1 == (pos + (k + i)) % windowBytes)
      = some ((pos + (k + i)) % windowBytes, bs[i]) := by
  induction bs generalizing k i with
  | nil => cases hi
  | cons b bs ih =>
    simp only [List.zipIdx_cons, List.map_cons, List.find?_cons]
    simp only [List.length_cons] at hi hk
    cases i with
    | zero => simp
    | succ i =>
      have hne : ¬ ((pos + k) % windowBytes = (pos + (k + (i + 1))) % windowBytes) := by unfold windowBytes; omega
      rw [show ((pos + k) % windowBytes == (pos + (k + (i + 1))) % windowBytes) = false by simpa using hne]
      have := ih (k + 1) i (by omega) (by omega)
      rw [show k + 1 + i = k + (i + 1) by omega] at this
      simpa using this

theorem mapM_some {α β : Type} (f : α → Option β) (g : α → β) (l : List α) (h : ∀ a ∈ l, f a = some (g a)) :
    l.mapM f = some (l.map g) := by
  induction l with
  | nil => rfl
  | cons a l ih =>
    rw [List.mapM_cons, h a (List.mem_cons_self ..), ih fun b hb => h b (List.mem_cons_of_mem _ hb)]
    rfl

theorem windowRead_placed (pos : Nat) (bs : List Byte) (len : Nat) (hl : len ≤ bs.length) (hb : bs.length ≤ 65536) :
    windowRead (placeWindow [] pos bs) pos len = some (bs.take len) := by
  unfold windowRead placeWindow wipeWindow
  rw [mapM_some _ (fun i => bs[i]?.getD 0#8)]
  · congr 1
    apply List.ext_getElem
    · simp [hl]
    · intro i h1 h2
      simp only [List.length_map, List.length_range] at h1
      simp [List.getElem?_eq_getElem (show i < bs.length by omega)]
  · intro i hi
    have hi' : i < bs.length := by have := List.mem_range.1 hi; omega
    have := find_placed pos 0 bs i hi' hb
    simp only [Nat.zero_add] at this
    simp only [List.filter_nil, List.nil_append, this, Option.map_some, List.getElem?_eq_getElem hi', Option.getD_some]

theorem wipe_placed (pos : Nat) (bs : List Byte) (hb : bs.length ≤ 65536) :
    wipeWindow (placeWindow [] pos bs) pos bs.length = [] := by
  unfold wipeWindow placeWindow
  rw [List.filter_eq_nil_iff]
  intro c hc
  simp only [wipeWindow, List.filter_nil, List.nil_append, List.mem_map] at hc
  obtain ⟨p, hp, rfl⟩ := hc
  have hlt : p.2 < bs.length := by
    have := List.mem_zipIdx hp
    omega
  have : ((pos + p.2) % 65536 + 65536 - pos % 65536) % 65536 < bs.length := by omega
  simp [inWindow, windowBytes, this]

/-! ### The frame of a record -/

/-- The header, and the trailer up to its CRC. -/
def recordHead (typ : Nat) (r : RecordIn) : List Byte :=
  leBytes 1 typ ++ (leBytes 1 r.flags.toNat ++ (leBytes 2 r.length.toNat ++ (leBytes 1 r.client.toNat ++ (leBytes 3 r.hdrZero.toNat
    ++ leBytes 8 r.tag.toNat))))
def recordTail (r : RecordIn) : List Byte :=
  leBytes 4 r.seq.toNat ++ (leBytes 4 r.sealWd.toNat ++ (leBytes 4 r.trlZero.toNat ++ leBytes 4 r.crc.toNat))

theorem recordBytes_eq (typ : Nat) (r : RecordIn) : recordBytes typ r = recordHead typ r ++ (r.payload ++ recordTail r) := by
  simp only [recordBytes, recordHead, recordTail, List.append_assoc]

theorem recordBytes_length (typ : Nat) (r : RecordIn) : (recordBytes typ r).length = 32 + r.payload.length := by
  rw [recordBytes_eq]; simp [recordHead, recordTail]; omega

theorem field_head (typ : Nat) (r : RecordIn) (off len : Nat) (h : off + len ≤ 16) :
    field (recordBytes typ r) off len = field (recordHead typ r) off len := by
  have hl : (recordHead typ r).length = 16 := by simp [recordHead]
  rw [recordBytes_eq]
  unfold field slice
  rw [List.drop_append, List.take_append_of_le_length (by rw [List.length_drop, hl]; omega)]

theorem field_tail (typ : Nat) (r : RecordIn) (off len : Nat) :
    field (recordBytes typ r) (16 + r.payload.length + off) len = field (recordTail r) off len := by
  have hl : (recordHead typ r).length = 16 := by simp [recordHead]
  rw [recordBytes_eq, field_append _ _ _ _ (by omega), field_append _ _ _ _ (by omega)]
  congr 1
  omega

theorem slice_payload (typ : Nat) (r : RecordIn) : slice (recordBytes typ r) 16 r.payload.length = r.payload := by
  have hl : (recordHead typ r).length = 16 := by simp [recordHead]
  rw [recordBytes_eq]
  unfold slice
  rw [List.drop_append, List.drop_of_length_le (by omega), List.nil_append, hl, Nat.sub_self, List.drop_zero,
    List.take_append_of_le_length (Nat.le_refl _), List.take_length]

section
variable (typ : Nat) (r : RecordIn)

theorem rec_type (h : typ < 256) : field (recordBytes typ r) 0 1 = typ := by
  rw [field_head _ _ _ _ (by omega), recordHead, field_leBytes, Nat.mod_eq_of_lt (by omega)]
theorem rec_flags : field (recordBytes typ r) 1 1 = r.flags.toNat := by
  rw [field_head _ _ _ _ (by omega), recordHead, field_append _ _ _ _ (by simp)]
  exact field_toNat 1 r.flags _ (by decide)
theorem rec_length : field (recordBytes typ r) 2 2 = r.length.toNat := by
  rw [field_head _ _ _ _ (by omega), recordHead, field_append _ _ _ _ (by simp), field_append _ _ _ _ (by simp)]
  exact field_toNat 2 r.length _ (by decide)
theorem rec_client : field (recordBytes typ r) 4 1 = r.client.toNat := by
  rw [field_head _ _ _ _ (by omega), recordHead, field_append _ _ _ _ (by simp), field_append _ _ _ _ (by simp),
    field_append _ _ _ _ (by simp)]
  exact field_toNat 1 r.client _ (by decide)
theorem rec_zero : field (recordBytes typ r) 5 3 = r.hdrZero.toNat := by
  rw [field_head _ _ _ _ (by omega), recordHead, field_append _ _ _ _ (by simp), field_append _ _ _ _ (by simp),
    field_append _ _ _ _ (by simp), field_append _ _ _ _ (by simp)]
  exact field_toNat 3 r.hdrZero _ (by decide)
theorem rec_tag : field (recordBytes typ r) 8 8 = r.tag.toNat := by
  rw [field_head _ _ _ _ (by omega), recordHead, field_append _ _ _ _ (by simp), field_append _ _ _ _ (by simp),
    field_append _ _ _ _ (by simp), field_append _ _ _ _ (by simp), field_append _ _ _ _ (by simp)]
  simpa using field_toNat 8 r.tag [] (by decide)
theorem rec_seq : field (recordBytes typ r) (16 + r.payload.length) 4 = r.seq.toNat := by
  have := field_tail typ r 0 4
  rw [Nat.add_zero] at this
  rw [this, recordTail]
  exact field_toNat 4 r.seq _ (by decide)
theorem rec_seal : field (recordBytes typ r) (16 + r.payload.length + 4) 4 = r.sealWd.toNat := by
  rw [field_tail, recordTail, field_append _ _ _ _ (by simp)]
  exact field_toNat 4 r.sealWd _ (by decide)
theorem rec_trail : field (recordBytes typ r) (16 + r.payload.length + 8) 4 = r.trlZero.toNat := by
  rw [field_tail, recordTail, field_append _ _ _ _ (by simp), field_append _ _ _ _ (by simp)]
  exact field_toNat 4 r.trlZero _ (by decide)
theorem rec_crc : field (recordBytes typ r) (16 + r.payload.length + 12) 4 = r.crc.toNat := by
  rw [field_tail, recordTail, field_append _ _ _ _ (by simp), field_append _ _ _ _ (by simp), field_append _ _ _ _ (by simp)]
  simpa using field_toNat 4 r.crc [] (by decide)

end

/-! ### The record is taken -/

theorem State.Takes.frame {s : State} {typ : Nat} {r : RecordIn} (h : s.Takes typ r) (ht : typ < 256) (x : Ctx)
    (hx : x.regs.seq = (s.ctx r.ctx).regs.seq) (hu : x.unbound = (s.ctx r.ctx).unbound) : frameDrop x (recordBytes typ r) = none := by
  have hn := recordBytes_length typ r
  unfold frameDrop
  dsimp only
  rw [hn, show 32 + r.payload.length - 12 = 16 + r.payload.length + 4 by omega,
    show 32 + r.payload.length - 4 = 16 + r.payload.length + 12 by omega,
    show 32 + r.payload.length - 16 = 16 + r.payload.length by omega, rec_seal, rec_crc, rec_seq, rec_type typ r ht]
  have hc := h.crc
  rw [show 28 + r.payload.length = 16 + r.payload.length + 12 by omega] at hc
  rw [if_neg (by rw [h.sealed]; simp), if_neg (by rw [← hc]; simp), if_neg (by rw [hx, h.seq]; simp), if_neg]
  rw [hu]
  rcases h.bound with e | e
  · simp [e]
  · simp [e]

/-- A record that a context takes is judged, and ready commands start. -/
theorem State.recordIn_taken {s : State} {typ : Nat} {r : RecordIn} (h : s.Takes typ r) (ht : typ < 256) :
    s.recordIn typ r = ((s.taken r).judgeRecord r.ctx (recordBytes typ r)).dispatch := by
  have hn := recordBytes_length typ r
  have hs := h.size
  have hb : (recordBytes typ r).length ≤ 65536 := by omega
  unfold State.recordIn State.windowWrite
  rw [if_neg (by simp [h.powered, h.running, h.link]), if_neg (by simp [h.owner])]
  generalize hu : (s.modCtx r.ctx fun x => { x with regs := { x.regs with
    window := placeWindow [] (s.ctx r.ctx).regs.consumed.toNat (recordBytes typ r) } }) = u
  have hreg : u.ctx r.ctx = { s.ctx r.ctx with regs := { (s.ctx r.ctx).regs with
      window := placeWindow [] (s.ctx r.ctx).regs.consumed.toNat (recordBytes typ r) } } := by
    rw [← hu]; simp
  have hj : u.judging r.ctx = true := by rw [← hu]; exact h.judging
  have hone : u.evalOne r.ctx = some (((s.taken r).judgeRecord r.ctx (recordBytes typ r)).dispatch, false) := by
    unfold State.evalOne
    dsimp only
    rw [if_pos hj, hreg]
    dsimp only
    rw [windowRead_placed _ _ _ (by omega) hb]
    dsimp only
    have hf : field (List.take 16 (recordBytes typ r)) 2 2 = r.length.toNat := by
      rw [← rec_length typ r]
      unfold field slice
      rw [List.drop_take, List.take_take]
      congr 1
    rw [hf, if_neg (by omega), windowRead_placed _ _ _ (by omega) hb, List.take_of_length_le (by omega)]
    dsimp only
    rw [State.Takes.frame h ht _ (by rfl) (by rfl)]
    dsimp only
    rw [← hs.1, ← hn, wipe_placed _ _ hb, hn]
    congr 3
    rw [← hu]
    unfold State.taken State.advance
    simp [State.modCtx, State.setCtx, State.ctx]
  show State.evalWindow r.ctx 2048 _ = _
  have hu' : (s.modCtx r.ctx fun x => { x with regs := { x.regs with
      window := placeWindow x.regs.window (s.ctx r.ctx).regs.consumed.toNat (recordBytes typ r) } }) = u := by
    rw [← hu]
    unfold State.modCtx
    dsimp only
    rw [h.window]
  rw [hu', State.evalWindow, hone]
  rfl

/-- Such a record is judged by its TYPE when its context exists, or it creates one, and no step is being assembled that it would
end. -/
theorem State.recordIn_judged {s : State} {typ : Nat} {r : RecordIn} (h : s.Takes typ r) (ht : typ < 256)
    (hc : (s.ctx r.ctx).state = .active ∨ (s.ctx r.ctx).state = .free ∧ typ = 1)
    (ha : (s.ctx r.ctx).asm = none ∨ typ = 0x10 ∨ typ = 0x11) :
    s.recordIn typ r = ((s.taken r).judgeType r.ctx typ r.payload (r.flags.toNat % 2 == 1) (whoOf r)).dispatch := by
  rw [State.recordIn_taken h ht]
  congr 1
  have hn := recordBytes_length typ r
  unfold State.judgeRecord
  dsimp only
  rw [hn, show 32 + r.payload.length - 8 = 16 + r.payload.length + 8 by omega,
    show 32 + r.payload.length - 16 = 16 + r.payload.length by omega,
    show 32 + r.payload.length - 32 = r.payload.length by omega,
    rec_type typ r ht, rec_flags, rec_zero, rec_trail, rec_seq, rec_tag, rec_client, slice_payload]
  have hz := h.zeros
  have hx : (s.taken r).ctx r.ctx = { s.ctx r.ctx with regs := ((s.taken r).ctx r.ctx).regs } := by
    simp [State.taken, State.advance]
  rw [hx]
  dsimp only
  rw [if_neg (by simp [hz]), if_neg, if_neg]
  · unfold whoOf
    simp
  · rintro ⟨h1, h2, h3⟩
    rcases ha with e | e | e
    · simp [e] at h1
    · exact h2 e
    · exact h3 e
  · rcases hc with e | ⟨e, e'⟩
    · simp [e]
    · simp [e, e']

end Sys2Proof.Machine
end

