-- ==== Sys2Proof/Laws/Answers.lean ====
section
/-! SUPPORT. What the ACCEPTED entry of a record changes, and what its context looks like once the record has been judged. -/

namespace Sys2Proof.Machine

/-- The context after a result entry. -/
def Ctx.entered (x : Ctx) (e : Entry64) : Ctx :=
  { x with
    regs := { x.regs with results := x.regs.results + 1, lastCode := e.code.value, lastSeq := BitVec.ofNat 32 e.seq }
    rings := { x.rings with kept := (x.rings.kept ++ [(x.regs.results, e.bytes)]).drop (x.rings.kept.length + 1 - 256) } }

theorem State.putEntry_ctx (s : State) (c d : CtxId) (e : Entry64) :
    (s.putEntry c e).ctx d = if c = d then (s.ctx c).entered e else s.ctx d := by
  have h : (s.putEntry c e).ctxs = (s.setCtx c ((s.ctx c).entered e)).ctxs := by
    unfold State.putEntry State.msixOwner
    dsimp only
    (repeat' split) <;> rfl
  rw [← State.setCtx_ctx]
  exact congrArg (fun v : Vector Ctx 16 => v[d]) h

/-- A result entry changes contexts and outputs only. -/
theorem State.putEntry_rest (s : State) (c : CtxId) (e : Entry64) :
    s.putEntry c e = { s with ctxs := (s.putEntry c e).ctxs, out := (s.putEntry c e).out } := by
  unfold State.putEntry State.msixOwner
  dsimp only
  (repeat' split) <;> rfl

/-- The ACCEPTED entry of a record. -/
def State.acceptedEntry (s : State) (c : CtxId) (w : Who) : Entry64 :=
  { seq := w.seq.toNat, code := .accepted, kind := 0, tag := w.tag.toNat, version := (s.version (rowOf c)).toNat }

theorem State.accept_ctx (s : State) (c d : CtxId) (w : Who) (e : Entry64 → Entry64) :
    (s.accept c w e).ctx d = if c = d then (s.ctx c).entered (e (s.acceptedEntry c w)) else s.ctx d :=
  State.putEntry_ctx ..

theorem State.accept_rest (s : State) (c : CtxId) (w : Who) (e : Entry64 → Entry64) :
    s.accept c w e = { s with slu := { s.slu with admits := satInc s.slu.admits }, ctxs := (s.accept c w e).ctxs
                              out := (s.accept c w e).out } :=
  State.putEntry_rest ..

theorem State.Aside.of_still {s t : State} (h : t.still = s.still) : s.Aside t := by
  have e : t = { t.still with ctxs := t.ctxs, fab := { t.still.fab with flows := t.fab.flows }, tel := t.tel, out := t.out } := rfl
  unfold State.Aside
  rw [e, h]
  rfl

theorem State.Aside.trans {s t u : State} (a : s.Aside t) (b : t.Aside u) : s.Aside u := by
  unfold State.Aside at *
  rw [b, a]

theorem State.taken_ctx (s : State) (r : RecordIn) (d : CtxId) :
    (s.taken r).ctx d = if r.ctx = d then { s.ctx r.ctx with regs := { (s.ctx r.ctx).regs with
      consumed := (s.ctx r.ctx).regs.consumed + BitVec.ofNat 32 (32 + r.payload.length)
      seq := (s.ctx r.ctx).regs.seq + 1#32, window := [] } } else s.ctx d := by
  unfold State.taken State.advance
  simp

/-- A record that is accepted and changes its own context. -/
theorem State.Answers.of_modCtx (s : State) (r : RecordIn) (e : Entry64 → Entry64) (f : Ctx → Ctx)
    (he : ∀ x, (e x).code = x.code ∧ (e x).seq = x.seq)
    (hf : ∀ x, (f x).regs = x.regs ∧ (f x).rings = { x.rings with kept := (f x).rings.kept }) :
    s.Answers (((s.taken r).accept r.ctx (whoOf r) e).modCtx r.ctx f).dispatch r := by
  have ha : ((s.taken r).accept r.ctx (whoOf r) e).ctx r.ctx = ((s.taken r).ctx r.ctx).entered (e ((s.taken r).acceptedEntry r.ctx (whoOf r))) := by
    rw [State.accept_ctx, if_pos rfl]
  refine ⟨?_, ?_, fun d h => ?_, ?_, ?_⟩
  · refine State.Aside.trans ?_ (.of_still (State.dispatch_still _))
    show _ = _
    rw [State.accept_rest]
    rfl
  · rw [State.dispatch_slu, State.modCtx_slu, State.accept_rest]
    rfl
  · rw [State.dispatch_ctx, State.modCtx_ctx, if_neg (Ne.symm h), State.accept_ctx, if_neg (Ne.symm h), State.taken_ctx,
      if_neg (Ne.symm h)]
  · rw [State.dispatch_ctx_regs, State.modCtx_ctx, if_pos rfl, (hf _).1, ha]
    simp [Ctx.entered, State.taken_ctx, he, Code.value, State.acceptedEntry, whoOf]
  · rw [State.dispatch_ctx_rings, State.modCtx_ctx, if_pos rfl, (hf _).2, ha]
    simp [Ctx.entered, State.taken_ctx]

end Sys2Proof.Machine
end

