-- ==== Sys2Proof/Laws/KeptA.lean ====
section
/-! SUPPORT. What keeps the queue, the settings, the fuses, the counter and the pins, the owner and the key table: the shared operations and the engines. -/

namespace Sys2Proof.Machine

/-- The parts of the state that only the host's settings, ownership, the key table, the fuse logic, the pins and resets may change. -/
def State.kept (s : State) : List Instr × Cfg × Fuse × Clk × Option Port × Option (Port × Ns) × Reg × Vector (Option Key) 16 :=
  (s.pending, s.cfg, s.fuse, s.clk, s.own.owner, s.own.offer, s.own.term, s.sec.keys)

@[simp] theorem State.kept_eta (s : State) :
    (s.pending, s.cfg, s.fuse, s.clk, s.own.owner, s.own.offer, s.own.term, s.sec.keys) = s.kept := rfl

@[simp ↓] theorem State.kept_mk (pending clk own cfg lat slu ctxs weir recv mem hbm sram fuse hw fab dma ring intg rcv pwr sec flash boot tel out) :
    (State.mk pending clk own cfg lat slu ctxs weir recv mem hbm sram fuse hw fab dma ring intg rcv pwr sec flash boot tel out).kept = (pending, cfg, fuse, clk, own.owner, own.offer, own.term, sec.keys) := rfl

@[simp ↓] theorem State.kept_ite (c : Prop) [Decidable c] (a b : State) : (if c then a else b).kept = if c then a.kept else b.kept :=
  apply_ite State.kept c a b

@[simp ↓] theorem State.kept_foldl {α : Type} (f : State → α → State) (h : ∀ u a, (f u a).kept = u.kept) (l : List α) (s : State) :
    (l.foldl f s).kept = s.kept := by
  induction l generalizing s with
  | nil => rfl
  | cons a l ih => rw [List.foldl_cons, ih, h]

@[simp ↓] theorem State.emit_kept (s : State) (o : Output) : (State.emit s o).kept = s.kept := rfl

@[simp ↓] theorem State.emits_kept (s : State) (os : List Output) : (State.emits s os).kept = s.kept := rfl

@[simp ↓] theorem State.msixBoth_kept (s : State) (v : Nat) : (State.msixBoth s v).kept = s.kept := rfl

@[simp ↓] theorem State.msixOwner_kept (s : State) (v : Nat) : (State.msixOwner s v).kept = s.kept := by
  unfold State.msixOwner
  (repeat' split) <;> simp

@[simp ↓] theorem State.discardForeign_kept (s : State) (p : Port) : (State.discardForeign s p).kept = s.kept := rfl

@[simp ↓] theorem State.discardAperture_kept (s : State) (p : Port) (sev : Severity) : (State.discardAperture s p sev).kept = s.kept := rfl

@[simp ↓] theorem State.whenUp_kept (s : State) (f : State → State) (h : ∀ u, (f u).kept = u.kept) : (s.whenUp f).kept = s.kept := by
  unfold State.whenUp; split
  · exact h s
  · rfl

@[simp ↓] theorem State.whenPowered_kept (s : State) (f : State → State) (h : ∀ u, (f u).kept = u.kept) :
    (s.whenPowered f).kept = s.kept := by
  unfold State.whenPowered; split
  · exact h s
  · rfl

@[simp ↓] theorem State.measure_kept (s : State) (i : Fin 6) (e : BitVec 256) : (State.measure s i e).kept = s.kept := rfl

@[simp ↓] theorem State.setCtx_kept (s : State) (c : CtxId) (x : Ctx) : (State.setCtx s c x).kept = s.kept := rfl

@[simp ↓] theorem State.modCtx_kept (s : State) (c : CtxId) (f : Ctx → Ctx) : (State.modCtx s c f).kept = s.kept := rfl

@[simp ↓] theorem State.forCtx_kept (s : State) (f : State → CtxId → State) (h : ∀ u c, (f u c).kept = u.kept) :
    (s.forCtx f).kept = s.kept := State.kept_foldl f h _ s

@[simp ↓] theorem State.modStep_kept (s : State) (c : CtxId) (uid : Nat) (f : Step → Step) : (State.modStep s c uid f).kept = s.kept := rfl

@[simp ↓] theorem State.modCmd_kept (s : State) (r : CmdRef) (f : Cmd → Cmd) : (State.modCmd s r f).kept = s.kept := rfl

@[simp ↓] theorem State.trace_kept (s : State) (cls event ctx arg : Nat) : (State.trace s cls event ctx arg).kept = s.kept := by
  unfold State.trace
  simp

@[simp ↓] theorem State.freezeTrace_kept (s : State) : (State.freezeTrace s).kept = s.kept := by
  unfold State.freezeTrace
  simp

@[simp ↓] theorem State.putBase_kept (s : State) (start : Nat) (bs : List Byte) : (State.putBase s start bs).kept = s.kept := rfl

@[simp ↓] theorem State.putEntry_kept (s : State) (c : CtxId) (e : Entry64) : (State.putEntry s c e).kept = s.kept := by
  unfold State.putEntry
  simp

@[simp ↓] theorem State.modClient_kept (s : State) (id : Byte) (f : Client → Client) : (State.modClient s id f).kept = s.kept := rfl

@[simp ↓] theorem State.journal_kept (s : State) (b : JBody) : (State.journal s b).kept = s.kept := rfl

@[simp ↓] theorem State.record_kept (s : State) (g : Sig) : (State.record s g).kept = s.kept := rfl

@[simp ↓] theorem State.writeRow_kept (s : State) (r : Fin 17) (f : RowData → RowData) : (State.writeRow s r f).kept = s.kept := rfl

@[simp ↓] theorem State.modGroup_kept (s : State) (r : Fin 17) (k : Fin 8) (f : Group → Group) : (State.modGroup s r k f).kept = s.kept := rfl

@[simp ↓] theorem State.foldPages_kept (s : State) (ps : List PageCopy) : (State.foldPages s ps).kept = s.kept := rfl

@[simp ↓] theorem State.inlineFold_kept (s : State) (r : Fin 17) (page : Nat) : (State.inlineFold s r page).kept = s.kept := by
  unfold State.inlineFold
  (repeat' split) <;> simp

@[simp ↓] theorem State.shadowFor_kept (s : State) (c : CtxId) (k : Fin 8) (exts : List (Nat × Nat)) (page : Nat) : (State.shadowFor s c k exts page).1.kept = s.kept := by
  unfold State.shadowFor
  dsimp only
  (repeat' split) <;> simp

@[simp ↓] theorem State.putCopy_kept (s : State) (c : CtxId) (k : Fin 8) (start : Nat) (bs : List Byte) : (State.putCopy s c k start bs).kept = s.kept := rfl

@[simp ↓] theorem State.writePart_kept (s : State) (c : CtxId) (k : Fin 8) (exts : List (Nat × Nat)) (part : Nat × List Byte) : (State.writePart s c k exts part).1.kept = s.kept := by
  unfold State.writePart
  dsimp only
  (repeat' split) <;> simp

@[simp ↓] theorem State.writeParts_kept (c : CtxId) (k : Fin 8) (exts : List (Nat × Nat)) (ws : List (Nat × List Byte)) (s : State) :
    (State.writeParts c k exts ws s).1.kept = s.kept := by
  induction ws generalizing s with
  | nil => rfl
  | cons w ws ih => rw [State.writeParts]; split <;> simp [ih]

@[simp ↓] theorem State.writeAll_kept (s : State) (c : CtxId) (k : Fin 8) (ws : List (Nat × List Byte)) :
    (s.writeAll c k ws).1.kept = s.kept := State.writeParts_kept ..

@[simp ↓] theorem State.openGroup_kept (s : State) (g : Group) : (State.openGroup s g).kept = s.kept := rfl

@[simp ↓] theorem State.prepareGroup_kept (s : State) (r : Fin 17) (k : Fin 8) : (State.prepareGroup s r k).kept = s.kept := rfl

@[simp ↓] theorem State.commitGroup_kept (s : State) (r : Fin 17) (k : Fin 8) (version : BitVec 64) (prior : Bool) : (State.commitGroup s r k version prior).kept = s.kept := by
  unfold State.commitGroup
  dsimp only
  (repeat' split) <;> simp

@[simp ↓] theorem State.abortGroup_kept (s : State) (r : Fin 17) (k : Fin 8) : (State.abortGroup s r k).kept = s.kept := rfl

@[simp ↓] theorem State.revertGroup_kept (s : State) (r : Fin 17) (version : BitVec 64) : (State.revertGroup s r version).kept = s.kept := by
  unfold State.revertGroup
  (repeat' split) <;> simp

@[simp ↓] theorem State.dropRow_kept (s : State) (r : Fin 17) : (State.dropRow s r).kept = s.kept := rfl

@[simp ↓] theorem State.endWalk_kept (s : State) (r : Fin 17) (k : Fin 8) : (State.endWalk s r k).kept = s.kept := by
  unfold State.endWalk
  (repeat' split) <;> simp

@[simp ↓] theorem State.injectWrite_kept (s : State) (exts : List (Nat × Nat)) : (State.injectWrite s exts).kept = s.kept := by
  unfold State.injectWrite
  (repeat' split) <;> simp

@[simp ↓] theorem State.setFlow_kept (s : State) (f : Flow) : (State.setFlow s f).kept = s.kept := rfl

@[simp ↓] theorem State.sendOnFlow_kept (s : State) (c : CtxId) (p : OxtPkt) : (State.sendOnFlow s c p).kept = s.kept := by
  unfold State.sendOnFlow
  simp

@[simp ↓] theorem State.releaseHeld_kept (s : State) (k : FlowKey) : (State.releaseHeld s k).kept = s.kept := by
  unfold State.releaseHeld
  simp

@[simp ↓] theorem State.sendAck_kept (s : State) (k : FlowKey) : (State.sendAck s k).kept = s.kept := rfl

@[simp ↓] theorem State.grantFlows_kept (s : State) (r : CmdRef) : (State.grantFlows s r).kept = s.kept := by
  unfold State.grantFlows
  try dsimp only
  (repeat' first | split | refine State.whenPowered_kept _ _ (fun _ => ?_) | refine State.whenUp_kept _ _ (fun _ => ?_) | refine State.forCtx_kept _ _ (fun _ _ => ?_) | refine State.kept_foldl _ (fun _ _ => ?_) _ _) <;> simp

@[simp ↓] theorem State.sendData_kept (s : State) (c : CtxId) (peer : Nat) (f : Fin 8) (cls : Nat) (tweak : OxtPkt → OxtPkt) : (State.sendData s c peer f cls tweak).kept = s.kept := by
  unfold State.sendData
  simp

@[simp ↓] theorem State.sendTransfer_kept (s : State) (c : CtxId) (peer cls : Nat) (tweak : OxtPkt → OxtPkt) (bs : List Byte) : (State.sendTransfer s c peer cls tweak bs).kept = s.kept := by
  unfold State.sendTransfer
  simp

@[simp ↓] theorem State.sendAborts_kept (s : State) (c : CtxId) (step : BitVec 64) : (State.sendAborts s c step).kept = s.kept := by
  unfold State.sendAborts
  simp

@[simp ↓] theorem State.suspect_kept (s : State) (k : Suspicion) (c : Option CtxId) (rank portOrFlow epoch : Nat) :
    (s.suspect k c rank portOrFlow epoch).kept = s.kept := by
  unfold State.suspect; extract_lets ctx w s1 s2
  rw [State.trace_kept, State.msixBoth_kept, State.record_kept, State.kept_mk, State.kept_eta]

@[simp ↓] theorem State.sendParts_kept (s : State) (c : CtxId) (t : Step) (idx peer pos cls : Nat) (n : Nat) (parts : List Part) : (State.sendParts s c t idx peer pos cls n parts).kept = s.kept := by
  unfold State.sendParts
  simp

@[simp ↓] theorem State.collAdvance_kept (s : State) (r : CmdRef) : (State.collAdvance s r).kept = s.kept := by
  unfold State.collAdvance
  dsimp only
  (repeat' split) <;> simp

@[simp ↓] theorem State.sendBuffer_kept (s : State) (r : CmdRef) (t : Step) (j : CollJob) : (State.sendBuffer s r t j).kept = s.kept := by
  unfold State.sendBuffer
  dsimp only
  (repeat' split) <;> simp

@[simp ↓] theorem State.collStart_kept (s0 : State) (r : CmdRef) : (State.collStart s0 r).kept = s0.kept := by
  unfold State.collStart
  dsimp only
  (repeat' split) <;> simp

@[simp ↓] theorem State.collResume_kept (s : State) (r : CmdRef) : (State.collResume s r).kept = s.kept := by
  unfold State.collResume
  (repeat' split) <;> simp

@[simp ↓] theorem State.startCmd_kept (s : State) (r : CmdRef) : (State.startCmd s r).kept = s.kept := by
  unfold State.startCmd
  (repeat' split) <;> simp

@[simp ↓] theorem State.dispatch_kept (s : State) : (State.dispatch s).kept = s.kept := by
  unfold State.dispatch
  try dsimp only
  (repeat' first | split | refine State.whenPowered_kept _ _ (fun _ => ?_) | refine State.whenUp_kept _ _ (fun _ => ?_) | refine State.forCtx_kept _ _ (fun _ _ => ?_) | refine State.kept_foldl _ (fun _ _ => ?_) _ _) <;> simp

@[simp ↓] theorem State.forgetVolatile_kept (s : State) (c : CtxId) : (State.forgetVolatile s c).kept = s.kept := rfl

@[simp ↓] theorem State.noteKills_kept (s : State) (ks : List Kill) : (s.noteKills ks).kept = s.kept := rfl

@[simp ↓] theorem State.abortOne_kept (s : State) (c : CtxId) (t : Step) (code : Code) (reason : Reason) (index : Nat) (tell : Bool) : (State.abortOne s c t code reason index tell).kept = s.kept := by
  unfold State.abortOne
  (repeat' split) <;> simp

@[simp ↓] theorem State.abortFollowers_kept (c : CtxId) (code : Code) (tell : Bool) (ts : List Step) (prev : Bool) (s : State) :
    (State.abortFollowers c code tell ts prev s).kept = s.kept := by
  induction ts generalizing s prev with
  | nil => rfl
  | cons t ts ih => rw [State.abortFollowers]; (repeat' split) <;> simp [ih]

@[simp ↓] theorem State.abortStep_kept (s : State) (c : CtxId) (uid : Nat) (code : Code) (reason : Reason) (index : Nat) (tell : Bool := true) : (State.abortStep s c uid code reason index tell).kept = s.kept := by
  unfold State.abortStep
  (repeat' split) <;> simp

@[simp ↓] theorem State.dropTail_kept (s : State) (c : CtxId) (uid : Nat) : (State.dropTail s c uid).kept = s.kept := rfl

@[simp ↓] theorem State.abortAll_kept (s : State) (c : CtxId) (code : Code) (reason : Reason) (index : Nat) (tell : Bool) : (State.abortAll s c code reason index tell).kept = s.kept := by
  unfold State.abortAll
  try dsimp only
  (repeat' first | split | refine State.whenPowered_kept _ _ (fun _ => ?_) | refine State.whenUp_kept _ _ (fun _ => ?_) | refine State.forCtx_kept _ _ (fun _ _ => ?_) | refine State.kept_foldl _ (fun _ _ => ?_) _ _) <;> simp

@[simp ↓] theorem State.faultCmd_kept (s : State) (r : CmdRef) (reason : Reason) : (State.faultCmd s r reason).kept = s.kept := by
  unfold State.faultCmd
  simp

@[simp ↓] theorem State.zeroRanges_kept (s : State) (rs : List (Nat × Nat)) : (State.zeroRanges s rs).kept = s.kept := rfl

@[simp ↓] theorem State.commitStep_kept (s : State) (c : CtxId) (t : Step) (version : BitVec 64) (prior : Bool) : (State.commitStep s c t version prior).kept = s.kept := by
  unfold State.commitStep
  (repeat' split) <;> simp

@[simp ↓] theorem State.applyRaised_kept (s : State) (is : List Item) : (State.applyRaised s is).kept = s.kept := by
  unfold State.applyRaised
  try dsimp only
  (repeat' first | split | refine State.whenPowered_kept _ _ (fun _ => ?_) | refine State.whenUp_kept _ _ (fun _ => ?_) | refine State.forCtx_kept _ _ (fun _ _ => ?_) | refine State.kept_foldl _ (fun _ _ => ?_) _ _) <;> simp

@[simp ↓] theorem State.prepareStep_kept (s : State) (c : CtxId) (t : Step) : (State.prepareStep s c t).kept = s.kept := by
  unfold State.prepareStep
  (repeat' split) <;> simp

@[simp ↓] theorem State.afterCmd_kept (s : State) (c : CtxId) (uid : Nat) : (State.afterCmd s c uid).kept = s.kept := by
  unfold State.afterCmd
  (repeat' split) <;> simp

@[simp ↓] theorem State.finishCmd_kept (s : State) (r : CmdRef) : (State.finishCmd s r).kept = s.kept := by
  unfold State.finishCmd
  dsimp only
  (repeat' split) <;> simp

@[simp ↓] theorem State.completeCmd_kept (s : State) (r : CmdRef) (kind : Nat) (minTime : State → Step → Cmd → Ns) (eff : Effect)
    (h : ∀ u t k, (eff u t k).1.kept = u.kept) : (s.completeCmd r kind minTime eff).kept = s.kept := by
  unfold State.completeCmd
  split
  · split
    · extract_lets e
      have he : e.1.kept = s.kept := h _ _ _
      clear_value e
      split
      · rw [State.faultCmd_kept, he]
      · rw [State.finishCmd_kept, he]
    · rfl
  · rfl

@[simp ↓] theorem State.replayPart_kept (s : State) (c : CtxId) (w : Nat × List Byte) : (State.replayPart s c w).1.kept = s.kept := by
  unfold State.replayPart
  dsimp only
  (repeat' split) <;> simp

@[simp ↓] theorem State.replayParts_kept (c : CtxId) (ws : List (Nat × List Byte)) (s : State) :
    (State.replayParts c ws s).1.kept = s.kept := by
  induction ws generalizing s with
  | nil => rfl
  | cons w ws ih => rw [State.replayParts]; split <;> simp [ih]

@[simp ↓] theorem State.cmdPut_kept (s : State) (c : CtxId) (t : Step) (ws : List (Nat × List Byte)) : (State.cmdPut s c t ws).1.kept = s.kept := by
  unfold State.cmdPut
  (repeat' split) <;> simp

@[simp ↓] theorem State.cmdWrite_kept (s : State) (c : CtxId) (t : Step) (ws : List (Nat × List Byte)) : (State.cmdWrite s c t ws).1.kept = s.kept := by
  unfold State.cmdWrite
  simp

@[simp ↓] theorem State.countBursts_kept (s : State) (j : DmaJob) (ns : List Nat) (pos : Nat) :
    (s.countBursts j ns pos).kept = s.kept := by
  induction ns generalizing s pos with
  | nil => rfl
  | cons n ns ih => rw [State.countBursts, ih]; rfl

@[simp ↓] theorem State.dmaMove_kept (s : State) (c : CtxId) (t : Step) (j : DmaJob) (host : List Byte) (pos n : Nat) : (State.dmaMove s c t j host pos n).1.kept = s.kept := by
  unfold State.dmaMove
  dsimp only
  (repeat' split) <;> simp

@[simp ↓] theorem State.dmaHash_kept (s : State) (c : CtxId) (t : Step) (j : DmaJob) (host : List Byte) : (State.dmaHash s c t j host).1.kept = s.kept := by
  unfold State.dmaHash
  (repeat' split) <;> simp

@[simp ↓] theorem State.ackLine_kept (s : State) (r : CmdRef) (j : DmaJob) (l : Fin 5 × Fin 64) (pos : Nat) : (State.ackLine s r j l pos).kept = s.kept := rfl

theorem execDmaBurstComplete_kept (r : CmdRef) (host : List Byte) (s : State) : ∃ t, execDmaBurstComplete r host s = .next t ∧ t.kept = s.kept := by
  refine ⟨_, rfl, ?_⟩
  dsimp only
  (repeat' split) <;> simp

@[simp ↓] theorem dmaEffect_kept (host : List Byte) (r : CmdRef) (u : State) (t : Step) (k : Cmd) : (dmaEffect host r u t k).1.kept = u.kept := by
  unfold dmaEffect
  dsimp only
  (repeat' split) <;> simp

theorem execDmaCommandComplete_kept (r : CmdRef) (host : List Byte) (s : State) : ∃ t, execDmaCommandComplete r host s = .next t ∧ t.kept = s.kept := by
  refine ⟨_, rfl, ?_⟩
  simp

theorem execReqRise_kept (complex : Fin 5) (line : Fin 64) (s : State) : ∃ t, execReqRise complex line s = .next t ∧ t.kept = s.kept := by
  refine ⟨_, rfl, ?_⟩
  try dsimp only
  (repeat' first | split | refine State.whenPowered_kept _ _ (fun _ => ?_) | refine State.whenUp_kept _ _ (fun _ => ?_) | refine State.forCtx_kept _ _ (fun _ _ => ?_) | refine State.kept_foldl _ (fun _ _ => ?_) _ _) <;> simp

theorem execRequestLineParityFault_kept (complex : Fin 5) (line : Fin 64) (s : State) : ∃ t, execRequestLineParityFault complex line s = .next t ∧ t.kept = s.kept := by
  refine ⟨_, rfl, ?_⟩
  try dsimp only
  (repeat' first | split | refine State.whenPowered_kept _ _ (fun _ => ?_) | refine State.whenUp_kept _ _ (fun _ => ?_) | refine State.forCtx_kept _ _ (fun _ _ => ?_) | refine State.kept_foldl _ (fun _ _ => ?_) _ _) <;> simp

@[simp ↓] theorem matrixEffect_kept (c : CtxId) (u : State) (t : Step) (k : Cmd) : (matrixEffect c u t k).1.kept = u.kept := by
  unfold matrixEffect
  (repeat' split) <;> simp

@[simp ↓] theorem State.matrixComplete_kept (s : State) (r : CmdRef) : (State.matrixComplete s r).kept = s.kept := by
  unfold State.matrixComplete
  simp

@[simp ↓] theorem vectorEffect_kept (r : CmdRef) (u : State) (t : Step) (k : Cmd) : (vectorEffect r u t k).1.kept = u.kept := by
  unfold vectorEffect
  (repeat' split) <;> simp

@[simp ↓] theorem State.vectorComplete_kept (s : State) (r : CmdRef) : (State.vectorComplete s r).kept = s.kept := by
  unfold State.vectorComplete
  simp

@[simp ↓] theorem updateEffect_kept (c : CtxId) (u : State) (t : Step) (k : Cmd) : (updateEffect c u t k).1.kept = u.kept := by
  unfold updateEffect
  dsimp only
  (repeat' split) <;> simp

theorem execUpdateCommandComplete_kept (r : CmdRef) (s : State) : ∃ t, execUpdateCommandComplete r s = .next t ∧ t.kept = s.kept := by
  refine ⟨_, rfl, ?_⟩
  simp

end Sys2Proof.Machine
end

