-- ==== Sys2Proof/Laws/KeptB.lean ====
section
/-! SUPPORT. What keeps the queue, the settings, the fuses, the counter and the pins, the owner and the key table: the fabric, admission, mirroring and serving. -/

namespace Sys2Proof.Machine

@[simp ↓] theorem State.sendGap_kept (s : State) (k : FlowKey) : (State.sendGap s k).kept = s.kept := by
  unfold State.sendGap
  simp

@[simp ↓] theorem State.sendResetNack_kept (s : State) (k : FlowKey) : (State.sendResetNack s k).kept = s.kept := rfl

@[simp ↓] theorem State.applyAck_kept (s : State) (k : FlowKey) (p : OxtPkt) : (State.applyAck s k p).kept = s.kept := by
  unfold State.applyAck
  simp

@[simp ↓] theorem State.dropBad_kept (s : State) : (State.dropBad s).kept = s.kept := rfl

@[simp ↓] theorem State.dropEpoch_kept (s : State) : (State.dropEpoch s).kept = s.kept := rfl

@[simp ↓] theorem State.dropGen_kept (s : State) : (State.dropGen s).kept = s.kept := rfl

@[simp ↓] theorem State.recordGen_kept (s : State) (k : FlowKey) (g : BitVec 16) (restart : Bool) : (State.recordGen s k g restart).kept = s.kept := by
  unfold State.recordGen
  simp

@[simp ↓] theorem State.aheadEpoch_kept (s : State) (c : CtxId) (p : OxtPkt) : (State.aheadEpoch s c p).kept = s.kept := by
  unfold State.aheadEpoch
  simp

@[simp ↓] theorem State.judge_kept (s : State) (p : OxtPkt) : (State.judge s p).1.kept = s.kept := by
  unfold State.judge
  dsimp only
  (repeat' split) <;> simp

@[simp ↓] theorem State.takeInOrder_kept (s : State) (k : FlowKey) (p : OxtPkt) : (State.takeInOrder s k p).kept = s.kept := by
  unfold State.takeInOrder
  simp

@[simp ↓] theorem State.receive_kept (s : State) (p : OxtPkt) (typ cls : Nat) (known : State → CtxId → Bool)
    (act : State → CtxId → State) (h : ∀ u c, (act u c).kept = u.kept) : (s.receive p typ cls known act).kept = s.kept := by
  unfold State.receive; dsimp only; (repeat' split) <;> first | rfl | simp [h]

@[simp ↓] theorem State.retransmit_kept (s : State) (k : FlowKey) : (State.retransmit s k).kept = s.kept := rfl

@[simp ↓] theorem State.failFlow_kept (s : State) (k : FlowKey) : (State.failFlow s k).kept = s.kept := by
  unfold State.failFlow
  simp

theorem execOxtAck_kept (p : OxtPkt) (s : State) : ∃ t, execOxtAck p s = .next t ∧ t.kept = s.kept := by
  refine ⟨_, rfl, ?_⟩
  dsimp only
  (repeat' split) <;> simp

theorem execOxtNack_kept (p : OxtPkt) (s : State) : ∃ t, execOxtNack p s = .next t ∧ t.kept = s.kept := by
  refine ⟨_, rfl, ?_⟩
  dsimp only
  (repeat' split) <;> simp

theorem execOxtResetNack_kept (p : OxtPkt) (s : State) : ∃ t, execOxtResetNack p s = .next t ∧ t.kept = s.kept := by
  refine ⟨_, rfl, ?_⟩
  dsimp only
  (repeat' split) <;> simp

@[simp ↓] theorem State.abortMessage_kept (s : State) (c : CtxId) (p : OxtPkt) : (State.abortMessage s c p).kept = s.kept := by
  unfold State.abortMessage
  (repeat' split) <;> simp

theorem execOxtAbort_kept (p : OxtPkt) (s : State) : ∃ t, execOxtAbort p s = .next t ∧ t.kept = s.kept := by
  refine ⟨_, rfl, ?_⟩
  simp

theorem execNotReadyWaitExpiry_kept (k : FlowKey) (s : State) : ∃ t, execNotReadyWaitExpiry k s = .next t ∧ t.kept = s.kept := by
  refine ⟨_, rfl, ?_⟩
  (repeat' split) <;> simp

theorem execRetransmitTimeout_kept (k : FlowKey) (s : State) : ∃ t, execRetransmitTimeout k s = .next t ∧ t.kept = s.kept := by
  refine ⟨_, rfl, ?_⟩
  simp

theorem execAckTimer_kept (k : FlowKey) (s : State) : ∃ t, execAckTimer k s = .next t ∧ t.kept = s.kept := by
  refine ⟨_, rfl, ?_⟩
  simp

@[simp ↓] theorem State.returnCredit_kept (s : State) (r : CmdRef) (t : Step) (j : CollJob) : (State.returnCredit s r t j).kept = s.kept := by
  unfold State.returnCredit
  simp

@[simp ↓] theorem collEffect_kept (r : CmdRef) (u : State) (t : Step) (k : Cmd) : (collEffect r u t k).1.kept = u.kept := by
  unfold collEffect
  dsimp only
  (repeat' split) <;> simp

theorem execCollectiveCommandComplete_kept (r : CmdRef) (s : State) : ∃ t, execCollectiveCommandComplete r s = .next t ∧ t.kept = s.kept := by
  refine ⟨_, rfl, ?_⟩
  simp

@[simp ↓] theorem State.dropMessage_kept (s : State) : (State.dropMessage s).kept = s.kept := rfl

@[simp ↓] theorem State.stageMessage_kept (s : State) (c : CtxId) (p : OxtPkt) : (State.stageMessage s c p).kept = s.kept := by
  unfold State.stageMessage
  (repeat' split) <;> simp

theorem execCollectiveMessage_kept (p : OxtPkt) (s : State) : ∃ t, execCollectiveMessage p s = .next t ∧ t.kept = s.kept := by
  refine ⟨_, rfl, ?_⟩
  simp

@[simp ↓] theorem State.creditBack_kept (s : State) (c : CtxId) (r : CmdRef) : (State.creditBack s c r).kept = s.kept := by
  unfold State.creditBack
  simp

@[simp ↓] theorem State.queueData_kept (s : State) (c : CtxId) (p : OxtPkt) : (State.queueData s c p).kept = s.kept := by
  unfold State.queueData
  (repeat' split) <;> simp

theorem execStageQueueData_kept (p : OxtPkt) (s : State) : ∃ t, execStageQueueData p s = .next t ∧ t.kept = s.kept := by
  refine ⟨_, rfl, ?_⟩
  simp

@[simp ↓] theorem State.missingRanks_kept (s : State) (c : CtxId) (missing : List Nat) : (State.missingRanks s c missing).kept = s.kept := by
  unfold State.missingRanks
  simp

theorem execCollectiveDeadline_kept (w : WaitRef) (missing : List Nat) (s : State) : ∃ t, execCollectiveDeadline w missing s = .next t ∧ t.kept = s.kept := by
  refine ⟨_, rfl, ?_⟩
  simp

@[simp ↓] theorem State.takeUp_kept (s : State) (c : CtxId) (t : Step) (sweep : Bool) : (State.takeUp s c t sweep).kept = s.kept := rfl

@[simp ↓] theorem State.programChange_kept (s : State) (c : CtxId) : (State.programChange s c).kept = s.kept := by
  unfold State.programChange
  dsimp only
  (repeat' split) <;> simp

@[simp ↓] theorem State.admitProgram_kept (s : State) (c : CtxId) (digest : BitVec 256) (step : BitVec 64) (replay : Bool) : (State.admitProgram s c digest step replay).kept = s.kept := by
  unfold State.admitProgram
  simp

@[simp ↓] theorem State.setLevel_kept (s : State) (z : Fin 7) (l : Nat) : (State.setLevel s z l).kept = s.kept := by
  unfold State.setLevel
  simp

@[simp ↓] theorem State.thermalAbort_kept (s : State) (c : CtxId) (t : Step) : (State.thermalAbort s c t).kept = s.kept := by
  unfold State.thermalAbort
  simp

@[simp ↓] theorem State.thermalAborts_kept (s : State) (ts : List (CtxId × Step)) : (State.thermalAborts s ts).kept = s.kept := by
  unfold State.thermalAborts
  simp

@[simp ↓] theorem State.driveAlert_kept (s : State) : (State.driveAlert s).kept = s.kept := by
  unfold State.driveAlert
  simp

@[simp ↓] theorem State.recomputeLevels_kept (s : State) : s.recomputeLevels.kept = s.kept := by
  unfold State.recomputeLevels
  rw [State.driveAlert_kept]
  rfl

@[simp ↓] theorem State.tripNow_kept (s : State) : (State.tripNow s).kept = s.kept := by
  unfold State.tripNow
  simp

@[simp ↓] theorem State.applyLevels_kept (s : State) : (State.applyLevels s).kept = s.kept := by
  unfold State.applyLevels
  simp

@[simp ↓] theorem State.accept_kept (s : State) (c : CtxId) (w : Who) (e : Entry64 → Entry64) : (State.accept s c w e).kept = s.kept := by
  unfold State.accept
  simp

@[simp ↓] theorem State.deny_kept (s : State) (c : CtxId) (w : Who) (d : Deny) (step : Nat := 0) : (State.deny s c w d step).kept = s.kept := by
  unfold State.deny
  simp

@[simp ↓] theorem State.addStep_kept (s : State) (c : CtxId) (t : Step) (folds : List Fold) (raised : List Item) : (State.addStep s c t folds raised).kept = s.kept := by
  unfold State.addStep
  simp

@[simp ↓] theorem State.acceptStep_kept (s : State) (c : CtxId) (t : Step) : (State.acceptStep s c t).kept = s.kept := by
  unfold State.acceptStep
  simp

@[simp ↓] theorem State.followEnded_kept (s : State) (c : CtxId) (ended : Option Code) (t : Step) : (State.followEnded s c ended t).kept = s.kept := by
  unfold State.followEnded
  (repeat' split) <;> simp

@[simp ↓] theorem State.denyStep_kept (s : State) (c : CtxId) (w : Who) (d : Deny) (step : Nat) : (State.denyStep s c w d step).kept = s.kept := by
  unfold State.denyStep
  simp

@[simp ↓] theorem State.judgeStep_kept (s : State) (c : CtxId) (header entries : List Byte) (w : Who) : (State.judgeStep s c header entries w).kept = s.kept := by
  unfold State.judgeStep
  dsimp only
  (repeat' split) <;> simp

@[simp ↓] theorem State.retestFrom_kept (reason : Reason) (ts : List (CtxId × Step)) (items : List Item) (s : State) :
    (State.retestFrom reason ts items s).kept = s.kept := by
  induction ts generalizing s items with
  | nil => rfl
  | cons t ts ih => rw [State.retestFrom]; (repeat' split) <;> simp [ih]

@[simp ↓] theorem State.retest_kept (s : State) (reason : Reason) : (State.retest s reason).kept = s.kept := by
  unfold State.retest
  simp

@[simp ↓] theorem State.countMiss_kept (s : State) : (State.countMiss s).kept = s.kept := rfl

@[simp ↓] theorem State.sendMirror_kept (s : State) (c : CtxId) (peer kind slot : Nat) (step : BitVec 64) (off : Nat) (bs : List Byte) : (State.sendMirror s c peer kind slot step off bs).kept = s.kept := by
  unfold State.sendMirror
  simp

@[simp ↓] theorem State.sendChunk_kept (s : State) (c : CtxId) (peer i : Nat) (step : BitVec 64) (bs : List Byte) (digest : BitVec 256) : (State.sendChunk s c peer i step bs digest).kept = s.kept := by
  unfold State.sendChunk
  simp

@[simp ↓] theorem State.sendSeal_kept (s : State) (c : CtxId) (peer : Nat) (step : BitVec 64) (count : Nat) : (State.sendSeal s c peer step count).kept = s.kept := by
  unfold State.sendSeal
  simp

@[simp ↓] theorem State.sendVerdict_kept (s : State) (c : CtxId) (kind : Nat) (step : BitVec 64) : (State.sendVerdict s c kind step).kept = s.kept := by
  unfold State.sendVerdict
  (repeat' split) <;> simp

@[simp ↓] theorem State.checkpoint_kept (s : State) (c : CtxId) (step : BitVec 64) (version : BitVec 64) (final : Bool) : (State.checkpoint s c step version final).kept = s.kept := by
  unfold State.checkpoint
  (repeat' split) <;> simp

@[simp ↓] theorem State.sealIfDue_kept (s : State) (c : CtxId) : (State.sealIfDue s c).kept = s.kept := by
  unfold State.sealIfDue
  (repeat' split) <;> simp

@[simp ↓] theorem State.laterCommit_kept (s : State) (c : CtxId) (pages : List Nat) : (State.laterCommit s c pages).kept = s.kept := by
  unfold State.laterCommit
  (repeat' split) <;> simp

@[simp ↓] theorem State.dropStream_kept (s : State) (c : CtxId) (tell : Bool) : (State.dropStream s c tell).kept = s.kept := by
  unfold State.dropStream
  (repeat' split) <;> simp

@[simp ↓] theorem State.modSlot_kept (s : State) (i : Nat) (f : RecvSlot → RecvSlot) : (State.modSlot s i f).kept = s.kept := rfl

@[simp ↓] theorem State.freeOlder_kept (s : State) : (State.freeOlder s).kept = s.kept := rfl

@[simp ↓] theorem State.abortReceive_kept (s : State) (i : Nat) : (State.abortReceive s i).kept = s.kept := by
  unfold State.abortReceive
  (repeat' split) <;> simp

@[simp ↓] theorem State.openReceive_kept (s0 : State) (c : CtxId) (p : OxtPkt) : (State.openReceive s0 c p).1.kept = s0.kept := by
  unfold State.openReceive
  dsimp only
  (repeat' split) <;> simp

@[simp ↓] theorem State.commitReceive_kept (s : State) (i : Nat) : (State.commitReceive s i).kept = s.kept := by
  unfold State.commitReceive
  (repeat' split) <;> simp

@[simp ↓] theorem State.mirrorLost_kept (s : State) (c : CtxId) (reason : Reason) : (State.mirrorLost s c reason).kept = s.kept := by
  unfold State.mirrorLost
  (repeat' split) <;> simp

@[simp ↓] theorem State.modRestore_kept (s : State) (c : CtxId) (f : Restore → Restore) : (State.modRestore s c f).kept = s.kept := rfl

@[simp ↓] theorem State.writeRestored_kept (s : State) (c : CtxId) (r : Restore) (i : Nat) (bs : List Byte) : (State.writeRestored s c r i bs).kept = s.kept := by
  unfold State.writeRestored
  dsimp only
  (repeat' split) <;> simp

@[simp ↓] theorem State.mirrorMsg_kept (s : State) (p : OxtPkt) (kind : Nat) (known : State → CtxId → Bool)
    (act : State → CtxId → State) (h : ∀ u c, (act u c).kept = u.kept) : (s.mirrorMsg p kind known act).kept = s.kept := by
  unfold State.mirrorMsg; split <;> simp [h]

@[simp ↓] theorem State.takeChunk_kept (s : State) (c : CtxId) (p : OxtPkt) : (State.takeChunk s c p).kept = s.kept := by
  unfold State.takeChunk
  dsimp only
  (repeat' split) <;> simp

@[simp ↓] theorem State.takeDigest_kept (s : State) (c : CtxId) (p : OxtPkt) : (State.takeDigest s c p).kept = s.kept := by
  unfold State.takeDigest
  dsimp only
  (repeat' split) <;> simp

@[simp ↓] theorem State.takeSeal_kept (s : State) (c : CtxId) (p : OxtPkt) : (State.takeSeal s c p).kept = s.kept := by
  unfold State.takeSeal
  (repeat' split) <;> simp

theorem execMirrorChunk_kept (p : OxtPkt) (s : State) : ∃ t, execMirrorChunk p s = .next t ∧ t.kept = s.kept := by
  refine ⟨_, rfl, ?_⟩
  simp

theorem execMirrorDigest_kept (p : OxtPkt) (s : State) : ∃ t, execMirrorDigest p s = .next t ∧ t.kept = s.kept := by
  refine ⟨_, rfl, ?_⟩
  simp

@[simp ↓] theorem State.repeatChunk_kept (s : State) (c : CtxId) (p : OxtPkt) : (State.repeatChunk s c p).kept = s.kept := by
  unfold State.repeatChunk
  dsimp only
  (repeat' split) <;> simp

theorem execMirrorRepeat_kept (p : OxtPkt) (s : State) : ∃ t, execMirrorRepeat p s = .next t ∧ t.kept = s.kept := by
  refine ⟨_, rfl, ?_⟩
  simp

theorem execMirrorSeal_kept (p : OxtPkt) (s : State) : ∃ t, execMirrorSeal p s = .next t ∧ t.kept = s.kept := by
  refine ⟨_, rfl, ?_⟩
  simp

theorem execMirrorClean_kept (p : OxtPkt) (s : State) : ∃ t, execMirrorClean p s = .next t ∧ t.kept = s.kept :=
  ⟨_, rfl, State.mirrorMsg_kept _ _ _ _ _ fun _ _ => by dsimp only; rw [State.freeOlder_kept]; rfl⟩

theorem execMirrorDiscard_kept (p : OxtPkt) (s : State) : ∃ t, execMirrorDiscard p s = .next t ∧ t.kept = s.kept :=
  ⟨_, rfl, State.mirrorMsg_kept _ _ _ _ _ fun _ _ => by dsimp only; split <;> simp⟩

theorem execMirrorRefuse_kept (p : OxtPkt) (s : State) : ∃ t, execMirrorRefuse p s = .next t ∧ t.kept = s.kept := by
  refine ⟨_, rfl, ?_⟩
  simp

theorem execTake_kept (p : OxtPkt) (s : State) : ∃ t, execTake p s = .next t ∧ t.kept = s.kept := by
  refine ⟨_, rfl, State.mirrorMsg_kept _ _ _ _ _ fun u c => ?_⟩
  dsimp only
  split
  · rw [State.sendMirror_kept]
  · rw [State.sendSeal_kept, State.kept_foldl _ fun _ _ => State.sendChunk_kept .., State.modSlot_kept]

theorem execNone_kept (p : OxtPkt) (s : State) : ∃ t, execNone p s = .next t ∧ t.kept = s.kept := by
  refine ⟨_, rfl, ?_⟩
  simp

theorem execRestoreWaitExpiry_kept (c : CtxId) (chunk : Nat) (s : State) : ∃ t, execRestoreWaitExpiry c chunk s = .next t ∧ t.kept = s.kept := by
  refine ⟨_, rfl, ?_⟩
  try dsimp only
  (repeat' first | split | refine State.whenPowered_kept _ _ (fun _ => ?_) | refine State.whenUp_kept _ _ (fun _ => ?_) | refine State.forCtx_kept _ _ (fun _ _ => ?_) | refine State.kept_foldl _ (fun _ _ => ?_) _ _ | refine State.receive_kept _ _ _ _ _ _ (fun _ _ => ?_) | refine State.mirrorMsg_kept _ _ _ _ _ (fun _ _ => ?_)) <;> simp

theorem execMirrorStreamEnd_kept (c : CtxId) (s : State) : ∃ t, execMirrorStreamEnd c s = .next t ∧ t.kept = s.kept := by
  refine ⟨_, rfl, ?_⟩
  try dsimp only
  (repeat' first | split | refine State.whenPowered_kept _ _ (fun _ => ?_) | refine State.whenUp_kept _ _ (fun _ => ?_) | refine State.forCtx_kept _ _ (fun _ _ => ?_) | refine State.kept_foldl _ (fun _ _ => ?_) _ _ | refine State.receive_kept _ _ _ _ _ _ (fun _ _ => ?_) | refine State.mirrorMsg_kept _ _ _ _ _ (fun _ _ => ?_)) <;> simp

theorem execMirrorStreamDeadline_kept (c : CtxId) (s : State) : ∃ t, execMirrorStreamDeadline c s = .next t ∧ t.kept = s.kept := by
  refine ⟨_, rfl, ?_⟩
  try dsimp only
  (repeat' first | split | refine State.whenPowered_kept _ _ (fun _ => ?_) | refine State.whenUp_kept _ _ (fun _ => ?_) | refine State.forCtx_kept _ _ (fun _ _ => ?_) | refine State.kept_foldl _ (fun _ _ => ?_) _ _ | refine State.receive_kept _ _ _ _ _ _ (fun _ _ => ?_) | refine State.mirrorMsg_kept _ _ _ _ _ (fun _ _ => ?_)) <;> simp

@[simp ↓] theorem State.layAside_kept (s : State) (fresh : List Range) : (State.layAside s fresh).kept = s.kept := by
  unfold State.layAside
  try dsimp only
  (repeat' first | split | refine State.whenPowered_kept _ _ (fun _ => ?_) | refine State.whenUp_kept _ _ (fun _ => ?_) | refine State.forCtx_kept _ _ (fun _ _ => ?_) | refine State.kept_foldl _ (fun _ _ => ?_) _ _ | refine State.receive_kept _ _ _ _ _ _ (fun _ _ => ?_) | refine State.mirrorMsg_kept _ _ _ _ _ (fun _ _ => ?_)) <;> simp

@[simp ↓] theorem State.allocate_kept (s : State) (c : CtxId) (new : List Range) : (State.allocate s c new).kept = s.kept := by
  unfold State.allocate
  simp

@[simp ↓] theorem State.openStep_kept (s : State) (c : CtxId) (t : Step) : (State.openStep s c t).kept = s.kept := by
  unfold State.openStep
  (repeat' split) <;> simp

@[simp ↓] theorem State.markHalfRate_kept (s : State) (c : CtxId) : (State.markHalfRate s c).kept = s.kept := by
  unfold State.markHalfRate
  simp

@[simp ↓] theorem State.setCond_kept (s : State) (c : CtxId) (uid : Nat) : (State.setCond s c uid).kept = s.kept := rfl

@[simp ↓] theorem State.startHost_kept (s : State) (c : CtxId) (t : Step) : (State.startHost s c t).kept = s.kept := by
  unfold State.startHost
  simp

theorem execCommandRelease_kept (r : CmdRef) (s : State) : ∃ t, execCommandRelease r s = .next t ∧ t.kept = s.kept := by
  refine ⟨_, rfl, ?_⟩
  try dsimp only
  (repeat' first | split | refine State.whenPowered_kept _ _ (fun _ => ?_) | refine State.whenUp_kept _ _ (fun _ => ?_) | refine State.forCtx_kept _ _ (fun _ _ => ?_) | refine State.kept_foldl _ (fun _ _ => ?_) _ _ | refine State.receive_kept _ _ _ _ _ _ (fun _ _ => ?_) | refine State.mirrorMsg_kept _ _ _ _ _ (fun _ _ => ?_)) <;> simp

@[simp ↓] theorem State.suspendCmd_kept (s : State) (r : CmdRef) (k : Cmd) : (State.suspendCmd s r k).kept = s.kept := by
  unfold State.suspendCmd
  simp

theorem execTimeSliceBoundary_kept (e : Engine) (s : State) : ∃ t, execTimeSliceBoundary e s = .next t ∧ t.kept = s.kept := by
  refine ⟨_, rfl, ?_⟩
  try dsimp only
  (repeat' first | split | refine State.whenPowered_kept _ _ (fun _ => ?_) | refine State.whenUp_kept _ _ (fun _ => ?_) | refine State.forCtx_kept _ _ (fun _ _ => ?_) | refine State.kept_foldl _ (fun _ _ => ?_) _ _ | refine State.receive_kept _ _ _ _ _ _ (fun _ _ => ?_) | refine State.mirrorMsg_kept _ _ _ _ _ (fun _ _ => ?_)) <;> simp

theorem execOverrun_kept (r : CmdRef) (s : State) : ∃ t, execOverrun r s = .next t ∧ t.kept = s.kept := by
  refine ⟨_, rfl, ?_⟩
  try dsimp only
  (repeat' first | split | refine State.whenPowered_kept _ _ (fun _ => ?_) | refine State.whenUp_kept _ _ (fun _ => ?_) | refine State.forCtx_kept _ _ (fun _ _ => ?_) | refine State.kept_foldl _ (fun _ _ => ?_) _ _ | refine State.receive_kept _ _ _ _ _ _ (fun _ _ => ?_) | refine State.mirrorMsg_kept _ _ _ _ _ (fun _ _ => ?_)) <;> simp

theorem execWeirPageWrite_kept (r : CmdRef) (page : Nat) (s : State) : ∃ t, execWeirPageWrite r page s = .next t ∧ t.kept = s.kept := by
  refine ⟨_, rfl, ?_⟩
  try dsimp only
  (repeat' first | split | refine State.whenPowered_kept _ _ (fun _ => ?_) | refine State.whenUp_kept _ _ (fun _ => ?_) | refine State.forCtx_kept _ _ (fun _ _ => ?_) | refine State.kept_foldl _ (fun _ _ => ?_) _ _ | refine State.receive_kept _ _ _ _ _ _ (fun _ _ => ?_) | refine State.mirrorMsg_kept _ _ _ _ _ (fun _ _ => ?_)) <;> simp

@[simp ↓] theorem State.hostCommit_kept (s : State) (c : CtxId) (t : Step) : (State.hostCommit s c t).kept = s.kept := by
  unfold State.hostCommit
  simp

@[simp ↓] theorem State.restoreCommit_kept (s : State) (c : CtxId) (t : Step) (v : BitVec 64) : (State.restoreCommit s c t v).kept = s.kept := by
  unfold State.restoreCommit
  simp

@[simp ↓] theorem State.endReplay_kept (s : State) (c : CtxId) (t : Step) : (State.endReplay s c t).kept = s.kept := by
  unfold State.endReplay
  simp

@[simp ↓] theorem State.missedCommit_kept (s : State) (c : CtxId) (t : Step) : (State.missedCommit s c t).kept = s.kept := by
  unfold State.missedCommit
  simp

@[simp ↓] theorem State.commitHost_kept (s : State) (c : CtxId) (t : Step) : (State.commitHost s c t).kept = s.kept := by
  unfold State.commitHost
  simp

theorem execReducedRecord_kept (c : CtxId) (uid : Nat) (d : Reduced) (s : State) : ∃ t, execReducedRecord c uid d s = .next t ∧ t.kept = s.kept := by
  refine ⟨_, rfl, ?_⟩
  try dsimp only
  (repeat' first | split | refine State.whenPowered_kept _ _ (fun _ => ?_) | refine State.whenUp_kept _ _ (fun _ => ?_) | refine State.forCtx_kept _ _ (fun _ _ => ?_) | refine State.kept_foldl _ (fun _ _ => ?_) _ _ | refine State.receive_kept _ _ _ _ _ _ (fun _ _ => ?_) | refine State.mirrorMsg_kept _ _ _ _ _ (fun _ _ => ?_)) <;> simp

theorem execWalkComplete_kept (row : Fin 17) (slot : Fin 8) (s : State) : ∃ t, execWalkComplete row slot s = .next t ∧ t.kept = s.kept := by
  refine ⟨_, rfl, ?_⟩
  (repeat' split) <;> simp

@[simp ↓] theorem State.deliver_kept (s : State) (c : CtxId) (ds : List Delivery) : (State.deliver s c ds).kept = s.kept := by
  unfold State.deliver
  simp

@[simp ↓] theorem State.askChunk_kept (s : State) (c : CtxId) (name : BitVec 256) (wait : Ns) (rank i : Nat) : (State.askChunk s c name wait rank i).kept = s.kept := by
  unfold State.askChunk
  simp

@[simp ↓] theorem State.modFetch_kept (s : State) (c : CtxId) (i : Nat) (f : Fetch → Fetch) : (State.modFetch s c i f).kept = s.kept := rfl

@[simp ↓] theorem State.askMore_kept (s : State) (c : CtxId) : (State.askMore s c).kept = s.kept := by
  unfold State.askMore
  try dsimp only
  (repeat' first | split | refine State.whenPowered_kept _ _ (fun _ => ?_) | refine State.whenUp_kept _ _ (fun _ => ?_) | refine State.forCtx_kept _ _ (fun _ _ => ?_) | refine State.kept_foldl _ (fun _ _ => ?_) _ _ | refine State.receive_kept _ _ _ _ _ _ (fun _ _ => ?_) | refine State.mirrorMsg_kept _ _ _ _ _ (fun _ _ => ?_)) <;> simp

@[simp ↓] theorem State.retryChunk_kept (s : State) (c : CtxId) (i : Nat) (bad : Bool) : (State.retryChunk s c i bad).kept = s.kept := by
  unfold State.retryChunk
  (repeat' split) <;> simp

theorem State.afterPlace_kept (s : State) (c : CtxId) (l : LoadPart) (q : Fetch) (w : State × Option Reason) (h : w.1.kept = s.kept) :
    (s.afterPlace c l q w).kept = s.kept := by
  unfold State.afterPlace
  split
  · rw [State.dispatch_kept, State.abortStep_kept]
  · rw [State.askMore_kept, State.modFetch_kept, h]

@[simp ↓] theorem State.placeChunk_kept (s : State) (c : CtxId) (l : LoadPart) (q : Fetch) (bs : List Byte) :
    (s.placeChunk c l q bs).kept = s.kept := by
  unfold State.placeChunk
  split
  · rfl
  · split
    · rfl
    · exact State.afterPlace_kept _ _ _ _ _ (State.writeAll_kept ..)

@[simp ↓] theorem State.takeWeights_kept (s : State) (c : CtxId) (p : OxtPkt) : (State.takeWeights s c p).kept = s.kept := by
  unfold State.takeWeights
  dsimp only
  (repeat' split) <;> simp

theorem execFetchRequest_kept (p : OxtPkt) (s : State) : ∃ t, execFetchRequest p s = .next t ∧ t.kept = s.kept := by
  refine ⟨_, rfl, ?_⟩
  split
  · rfl
  · refine State.receive_kept _ _ _ _ _ _ fun u c => ?_
    dsimp only
    split
    · exact State.kept_foldl _ (fun _ _ => State.sendData_kept ..) _ _
    · rw [State.sendData_kept]

theorem execFetchChunk_kept (p : OxtPkt) (s : State) : ∃ t, execFetchChunk p s = .next t ∧ t.kept = s.kept := by
  refine ⟨_, rfl, ?_⟩
  simp

theorem execFetchAbsent_kept (p : OxtPkt) (s : State) : ∃ t, execFetchAbsent p s = .next t ∧ t.kept = s.kept := by
  refine ⟨_, rfl, ?_⟩
  simp

theorem execFetchWaitExpiry_kept (c : CtxId) (chunk : Nat) (s : State) : ∃ t, execFetchWaitExpiry c chunk s = .next t ∧ t.kept = s.kept := by
  refine ⟨_, rfl, ?_⟩
  try dsimp only
  (repeat' first | split | refine State.whenPowered_kept _ _ (fun _ => ?_) | refine State.whenUp_kept _ _ (fun _ => ?_) | refine State.forCtx_kept _ _ (fun _ _ => ?_) | refine State.kept_foldl _ (fun _ _ => ?_) _ _ | refine State.receive_kept _ _ _ _ _ _ (fun _ _ => ?_) | refine State.mirrorMsg_kept _ _ _ _ _ (fun _ _ => ?_)) <;> simp

@[simp ↓] theorem State.startLoad_kept (s : State) (c : CtxId) (t : Step) : (State.startLoad s c t).kept = s.kept := by
  unfold State.startLoad
  (repeat' split) <;> simp

@[simp ↓] theorem State.startRestore_kept (s : State) (c : CtxId) (t : Step) : (State.startRestore s c t).kept = s.kept := by
  unfold State.startRestore
  (repeat' split) <;> simp

theorem execStepStart_kept (c : CtxId) (s : State) : ∃ t, execStepStart c s = .next t ∧ t.kept = s.kept := by
  refine ⟨_, rfl, ?_⟩
  try dsimp only
  (repeat' first | split | refine State.whenPowered_kept _ _ (fun _ => ?_) | refine State.whenUp_kept _ _ (fun _ => ?_) | refine State.forCtx_kept _ _ (fun _ _ => ?_) | refine State.kept_foldl _ (fun _ _ => ?_) _ _ | refine State.receive_kept _ _ _ _ _ _ (fun _ _ => ?_) | refine State.mirrorMsg_kept _ _ _ _ _ (fun _ _ => ?_)) <;> simp

@[simp ↓] theorem State.nextPeriod_kept (s : State) (c : CtxId) : (State.nextPeriod s c).kept = s.kept := rfl

@[simp ↓] theorem State.releaseModel_kept (s : State) (c : CtxId) (m : Model) : (State.releaseModel s c m).kept = s.kept := rfl

@[simp ↓] theorem State.dropOldModels_kept (s : State) (c : CtxId) : (State.dropOldModels s c).kept = s.kept := by
  unfold State.dropOldModels
  try dsimp only
  (repeat' first | split | refine State.whenPowered_kept _ _ (fun _ => ?_) | refine State.whenUp_kept _ _ (fun _ => ?_) | refine State.forCtx_kept _ _ (fun _ _ => ?_) | refine State.kept_foldl _ (fun _ _ => ?_) _ _ | refine State.receive_kept _ _ _ _ _ _ (fun _ _ => ?_) | refine State.mirrorMsg_kept _ _ _ _ _ (fun _ _ => ?_)) <;> simp

theorem execServingPeriodStart_kept (c : CtxId) (s : State) : ∃ t, execServingPeriodStart c s = .next t ∧ t.kept = s.kept := by
  refine ⟨_, rfl, ?_⟩
  try dsimp only
  (repeat' first | split | refine State.whenPowered_kept _ _ (fun _ => ?_) | refine State.whenUp_kept _ _ (fun _ => ?_) | refine State.forCtx_kept _ _ (fun _ _ => ?_) | refine State.kept_foldl _ (fun _ _ => ?_) _ _ | refine State.receive_kept _ _ _ _ _ _ (fun _ _ => ?_) | refine State.mirrorMsg_kept _ _ _ _ _ (fun _ _ => ?_)) <;> simp

@[simp ↓] theorem State.endPattern_kept (s : State) (c : CtxId) : (State.endPattern s c).kept = s.kept := by
  unfold State.endPattern
  (repeat' split) <;> simp

@[simp ↓] theorem State.commitPeriod_kept (s : State) (c : CtxId) (t : Step) : (State.commitPeriod s c t).kept = s.kept := by
  unfold State.commitPeriod
  (repeat' split) <;> simp

@[simp ↓] theorem State.commitLoad_kept (s : State) (c : CtxId) (t : Step) (l : LoadPart) : (State.commitLoad s c t l).kept = s.kept := by
  unfold State.commitLoad
  simp

theorem execCommit_kept (c : CtxId) (uid : Nat) (s : State) : ∃ t, execCommit c uid s = .next t ∧ t.kept = s.kept := by
  refine ⟨_, rfl, ?_⟩
  try dsimp only
  (repeat' first | split | refine State.whenPowered_kept _ _ (fun _ => ?_) | refine State.whenUp_kept _ _ (fun _ => ?_) | refine State.forCtx_kept _ _ (fun _ _ => ?_) | refine State.kept_foldl _ (fun _ _ => ?_) _ _ | refine State.receive_kept _ _ _ _ _ _ (fun _ _ => ?_) | refine State.mirrorMsg_kept _ _ _ _ _ (fun _ _ => ?_)) <;> simp

@[simp ↓] theorem State.retestPattern_kept (s : State) (c : CtxId) (reason : Reason) : (State.retestPattern s c reason).kept = s.kept := by
  unfold State.retestPattern
  (repeat' split) <;> simp

@[simp ↓] theorem State.retestAll_kept (s : State) (reason : Reason) : (State.retestAll s reason).kept = s.kept := by
  unfold State.retestAll
  simp

end Sys2Proof.Machine
end

