-- ==== Sys2Proof/Laws/KeptC.lean ====
section
/-! SUPPORT. What keeps the queue, the settings, the fuses, the counter and the pins, the owner and the key table: the intake, the registers, recovery, memories and integrity. -/

namespace Sys2Proof.Machine

@[simp ↓] theorem State.create_kept (s : State) (c : CtxId) (r : CreateRec) (client : Byte) : (State.create s c r client).kept = s.kept := rfl

@[simp ↓] theorem State.judgeCreate_kept (s : State) (c : CtxId) (bs : List Byte) (w : Who) : (State.judgeCreate s c bs w).kept = s.kept := by
  unfold State.judgeCreate
  (repeat' split) <;> simp

@[simp ↓] theorem State.tearRow_kept (s : State) (c : CtxId) : (State.tearRow s c).kept = s.kept := rfl

@[simp ↓] theorem State.dropReceiver_kept (s : State) (c : CtxId) : (State.dropReceiver s c).kept = s.kept := by
  unfold State.dropReceiver
  simp

@[simp ↓] theorem State.startTeardown_kept (s : State) (c : CtxId) (code : Code) (reason : Reason) (w : Who) :
    (s.startTeardown c code reason w).kept = s.kept := by
  unfold State.startTeardown
  extract_lets x hold s1
  have h1 : s1.kept = s.kept := by
    refine State.kept_foldl _ (fun u t => ?_) _ _
    (repeat' split) <;> simp
  clear_value s1
  split
  · rfl
  · rw [State.dispatch_kept]
    split <;> simp +zetaDelta [h1]

@[simp ↓] theorem State.fence_kept (s : State) (c : CtxId) (w : Who) : (State.fence s c w).kept = s.kept := by
  unfold State.fence
  simp

theorem execTeardownComplete_kept (c : CtxId) (s : State) : ∃ t, execTeardownComplete c s = .next t ∧ t.kept = s.kept := by
  refine ⟨_, rfl, ?_⟩
  try dsimp only
  (repeat' first | split | refine State.whenPowered_kept _ _ (fun _ => ?_) | refine State.whenUp_kept _ _ (fun _ => ?_) | refine State.forCtx_kept _ _ (fun _ _ => ?_) | refine State.kept_foldl _ (fun _ _ => ?_) _ _ | refine State.receive_kept _ _ _ _ _ _ (fun _ _ => ?_) | refine State.mirrorMsg_kept _ _ _ _ _ (fun _ _ => ?_)) <;> simp

@[simp ↓] theorem State.advanceGen_kept (s : State) (c : CtxId) : (State.advanceGen s c).kept = s.kept := by
  unfold State.advanceGen
  simp

@[simp ↓] theorem State.preempt_kept (s : State) (c : CtxId) (step : Nat) : (State.preempt s c step).kept = s.kept := by
  unfold State.preempt
  simp
  (repeat' first | split | refine State.whenPowered_kept _ _ (fun _ => ?_) | refine State.whenUp_kept _ _ (fun _ => ?_) | refine State.forCtx_kept _ _ (fun _ _ => ?_) | refine State.kept_foldl _ (fun _ _ => ?_) _ _ | refine State.receive_kept _ _ _ _ _ _ (fun _ _ => ?_) | refine State.mirrorMsg_kept _ _ _ _ _ (fun _ _ => ?_)) <;> simp

@[simp ↓] theorem State.judgePreempt_kept (s : State) (c : CtxId) (bs : List Byte) (w : Who) : (State.judgePreempt s c bs w).kept = s.kept := by
  unfold State.judgePreempt
  simp

@[simp ↓] theorem State.judgeTeardown_kept (s : State) (c : CtxId) (bs : List Byte) (w : Who) : (State.judgeTeardown s c bs w).kept = s.kept := by
  unfold State.judgeTeardown
  simp

@[simp ↓] theorem State.judgeRebind_kept (s : State) (c : CtxId) (bs : List Byte) (w : Who) : (State.judgeRebind s c bs w).kept = s.kept := by
  unfold State.judgeRebind
  simp

@[simp ↓] theorem State.adoptEpoch_kept (s : State) (c : CtxId) (epoch : BitVec 32) (rank count : Nat) : (State.adoptEpoch s c epoch rank count).kept = s.kept := by
  unfold State.adoptEpoch
  simp
  (repeat' first | split | refine State.whenPowered_kept _ _ (fun _ => ?_) | refine State.whenUp_kept _ _ (fun _ => ?_) | refine State.forCtx_kept _ _ (fun _ _ => ?_) | refine State.kept_foldl _ (fun _ _ => ?_) _ _ | refine State.receive_kept _ _ _ _ _ _ (fun _ _ => ?_) | refine State.mirrorMsg_kept _ _ _ _ _ (fun _ _ => ?_)) <;> simp

@[simp ↓] theorem State.judgeEpoch_kept (s : State) (c : CtxId) (bs : List Byte) (w : Who) : (State.judgeEpoch s c bs w).kept = s.kept := by
  unfold State.judgeEpoch
  simp

@[simp ↓] theorem State.judgeGroups_kept (s : State) (c : CtxId) (bs : List Byte) (w : Who) : (State.judgeGroups s c bs w).kept = s.kept := by
  unfold State.judgeGroups
  simp

@[simp ↓] theorem State.judgePeers_kept (s : State) (c : CtxId) (bs : List Byte) (w : Who) : (State.judgePeers s c bs w).kept = s.kept := by
  unfold State.judgePeers
  simp

@[simp ↓] theorem State.judgeTargets_kept (s : State) (c : CtxId) (bs : List Byte) (w : Who) : (State.judgeTargets s c bs w).kept = s.kept := by
  unfold State.judgeTargets
  simp

@[simp ↓] theorem State.judgeMirror_kept (s : State) (c : CtxId) (bs : List Byte) (w : Who) : (State.judgeMirror s c bs w).kept = s.kept := by
  unfold State.judgeMirror
  dsimp only
  (repeat' split) <;> simp

@[simp ↓] theorem State.judgeRestore_kept (s : State) (c : CtxId) (bs : List Byte) (w : Who) : (State.judgeRestore s c bs w).kept = s.kept := by
  unfold State.judgeRestore
  dsimp only
  (repeat' split) <;> simp

@[simp ↓] theorem State.judgeFinal_kept (s : State) (c : CtxId) (bs : List Byte) (w : Who) : (State.judgeFinal s c bs w).kept = s.kept := by
  unfold State.judgeFinal
  dsimp only
  (repeat' split) <;> simp

@[simp ↓] theorem State.adopt_kept (s : State) (c : CtxId) (exts : List (Nat × Nat)) : (State.adopt s c exts).kept = s.kept := by
  unfold State.adopt
  simp

@[simp ↓] theorem State.judgePattern_kept (s : State) (c : CtxId) (bs : List Byte) (w : Who) : (State.judgePattern s c bs w).kept = s.kept := by
  unfold State.judgePattern
  (repeat' first | extract_lets | split) <;> simp +zetaDelta

@[simp ↓] theorem State.judgeJoin_kept (s : State) (c : CtxId) (bs : List Byte) (w : Who) : (State.judgeJoin s c bs w).kept = s.kept := by
  unfold State.judgeJoin
  dsimp only
  (repeat' split) <;> simp

@[simp ↓] theorem State.judgeLeave_kept (s : State) (c : CtxId) (bs : List Byte) (w : Who) : (State.judgeLeave s c bs w).kept = s.kept := by
  unfold State.judgeLeave
  dsimp only
  (repeat' split) <;> simp

@[simp ↓] theorem State.judgeStop_kept (s : State) (c : CtxId) (bs : List Byte) (w : Who) : (State.judgeStop s c bs w).kept = s.kept := by
  unfold State.judgeStop
  dsimp only
  (repeat' split) <;> simp

@[simp ↓] theorem State.failVerify_kept (s : State) : (State.failVerify s).kept = s.kept := rfl

@[simp ↓] theorem State.judgeManifest_kept (s : State) (c : CtxId) (bs : List Byte) (w : Who) : (State.judgeManifest s c bs w).kept = s.kept := by
  unfold State.judgeManifest
  dsimp only
  (repeat' split) <;> simp

@[simp ↓] theorem State.judgeLoad_kept (s : State) (c : CtxId) (bs : List Byte) (w : Who) : (State.judgeLoad s c bs w).kept = s.kept := by
  unfold State.judgeLoad
  dsimp only
  (repeat' split) <;> simp

@[simp ↓] theorem State.dropRecord_kept (s : State) (c : CtxId) (d : Drop) (len : Nat) : (State.dropRecord s c d len).kept = s.kept := rfl

@[simp ↓] theorem State.assemble_kept (s : State) (c : CtxId) (a : Assembly) (end_ : Bool) (w : Who) : (State.assemble s c a end_ w).kept = s.kept := by
  unfold State.assemble
  simp

@[simp ↓] theorem State.judgeStepRecord_kept (s : State) (c : CtxId) (typ : Nat) (bs : List Byte) (end_ : Bool) (w : Who) : (State.judgeStepRecord s c typ bs end_ w).kept = s.kept := by
  unfold State.judgeStepRecord
  (repeat' split) <;> simp

@[simp ↓] theorem State.judgeType_kept (s : State) (c : CtxId) (typ : Nat) (bs : List Byte) (end_ : Bool) (w : Who) : (State.judgeType s c typ bs end_ w).kept = s.kept := by
  unfold State.judgeType
  (repeat' split) <;> simp

@[simp ↓] theorem State.judgeRecord_kept (s : State) (c : CtxId) (bs : List Byte) : (State.judgeRecord s c bs).kept = s.kept := by
  unfold State.judgeRecord
  simp

@[simp ↓] theorem State.advance_kept (s : State) (c : CtxId) (len : Nat) (rest : List Host.Cell) : (State.advance s c len rest).kept = s.kept := rfl

theorem State.evalOne_kept {s : State} {t : State × Bool} {c : CtxId} (h : s.evalOne c = some t) : t.1.kept = s.kept := by
  unfold State.evalOne at h; dsimp only at h
  split at h
  · cases h
  · split at h
    · cases h; simp
    · split at h
      · cases h
      · split at h <;> cases h <;> simp

@[simp ↓] theorem State.evalWindow_kept (c : CtxId) (n : Nat) (s : State) : (State.evalWindow c n s).kept = s.kept := by
  induction n generalizing s with
  | zero => rfl
  | succ n ih =>
    rw [State.evalWindow]; split
    · rename_i t h
      split
      · rw [ih, State.evalOne_kept h]
      · exact State.evalOne_kept h
    · rfl

@[simp ↓] theorem State.evalAll_kept (s : State) : (State.evalAll s).kept = s.kept := by
  unfold State.evalAll
  simp

@[simp ↓] theorem State.windowWrite_kept (s : State) (p : Port) (c : CtxId) (off : Nat) (bs : List Byte) : (State.windowWrite s p c off bs).kept = s.kept := by
  unfold State.windowWrite
  simp

@[simp ↓] theorem State.recordIn_kept (s : State) (typ : Nat) (r : RecordIn) : (State.recordIn s typ r).kept = s.kept := by
  unfold State.recordIn
  simp

theorem execCreate_kept (r : RecordIn) (s : State) : ∃ t, execCreate r s = .next t ∧ t.kept = s.kept := by
  refine ⟨_, rfl, ?_⟩
  simp

theorem execTeardown_kept (r : RecordIn) (s : State) : ∃ t, execTeardown r s = .next t ∧ t.kept = s.kept := by
  refine ⟨_, rfl, ?_⟩
  simp

theorem execPreempt_kept (r : RecordIn) (s : State) : ∃ t, execPreempt r s = .next t ∧ t.kept = s.kept := by
  refine ⟨_, rfl, ?_⟩
  simp

theorem execRebind_kept (r : RecordIn) (s : State) : ∃ t, execRebind r s = .next t ∧ t.kept = s.kept := by
  refine ⟨_, rfl, ?_⟩
  simp

theorem execStepHead_kept (r : RecordIn) (s : State) : ∃ t, execStepHead r s = .next t ∧ t.kept = s.kept := by
  refine ⟨_, rfl, ?_⟩
  simp

theorem execCommands_kept (r : RecordIn) (s : State) : ∃ t, execCommands r s = .next t ∧ t.kept = s.kept := by
  refine ⟨_, rfl, ?_⟩
  simp

theorem execEpoch_kept (r : RecordIn) (s : State) : ∃ t, execEpoch r s = .next t ∧ t.kept = s.kept := by
  refine ⟨_, rfl, ?_⟩
  simp

theorem execGroupTable_kept (r : RecordIn) (s : State) : ∃ t, execGroupTable r s = .next t ∧ t.kept = s.kept := by
  refine ⟨_, rfl, ?_⟩
  simp

theorem execPeerAddress_kept (r : RecordIn) (s : State) : ∃ t, execPeerAddress r s = .next t ∧ t.kept = s.kept := by
  refine ⟨_, rfl, ?_⟩
  simp

theorem execRiffleTargets_kept (r : RecordIn) (s : State) : ∃ t, execRiffleTargets r s = .next t ∧ t.kept = s.kept := by
  refine ⟨_, rfl, ?_⟩
  simp

theorem execMirrorConfiguration_kept (r : RecordIn) (s : State) : ∃ t, execMirrorConfiguration r s = .next t ∧ t.kept = s.kept := by
  refine ⟨_, rfl, ?_⟩
  simp

theorem execRestore_kept (r : RecordIn) (s : State) : ∃ t, execRestore r s = .next t ∧ t.kept = s.kept := by
  refine ⟨_, rfl, ?_⟩
  simp

theorem execPattern_kept (r : RecordIn) (s : State) : ∃ t, execPattern r s = .next t ∧ t.kept = s.kept := by
  refine ⟨_, rfl, ?_⟩
  simp

theorem execJoin_kept (r : RecordIn) (s : State) : ∃ t, execJoin r s = .next t ∧ t.kept = s.kept := by
  refine ⟨_, rfl, ?_⟩
  simp

theorem execLeave_kept (r : RecordIn) (s : State) : ∃ t, execLeave r s = .next t ∧ t.kept = s.kept := by
  refine ⟨_, rfl, ?_⟩
  simp

theorem execStop_kept (r : RecordIn) (s : State) : ∃ t, execStop r s = .next t ∧ t.kept = s.kept := by
  refine ⟨_, rfl, ?_⟩
  simp

theorem execManifest_kept (r : RecordIn) (s : State) : ∃ t, execManifest r s = .next t ∧ t.kept = s.kept := by
  refine ⟨_, rfl, ?_⟩
  simp

theorem execLoad_kept (r : RecordIn) (s : State) : ∃ t, execLoad r s = .next t ∧ t.kept = s.kept := by
  refine ⟨_, rfl, ?_⟩
  simp

theorem execFinal_kept (r : RecordIn) (s : State) : ∃ t, execFinal r s = .next t ∧ t.kept = s.kept := by
  refine ⟨_, rfl, ?_⟩
  simp

theorem execIntakeWindowWrite_kept (p : Port) (c : CtxId) (offset : BitVec 16) (bytes : List Byte) (s : State) : ∃ t, execIntakeWindowWrite p c offset bytes s = .next t ∧ t.kept = s.kept := by
  refine ⟨_, rfl, ?_⟩
  simp

theorem execManifestVerified_kept (s : State) : ∃ t, execManifestVerified s = .next t ∧ t.kept = s.kept := by
  refine ⟨_, rfl, State.whenUp_kept _ _ fun u => ?_⟩
  split
  · rfl
  · extract_lets
    split
    · simp +zetaDelta
    · split <;> simp +zetaDelta

@[simp ↓] theorem State.latchRead_kept (s : State) (path : Path) (block off : Nat) : (State.latchRead s path block off).kept = s.kept := by
  unfold State.latchRead
  dsimp only
  (repeat' split) <;> simp

@[simp ↓] theorem State.readReg_kept (s : State) (path : Path) (off : Nat) : (State.readReg s path off).1.kept = s.kept := by
  unfold State.readReg
  dsimp only
  (repeat' split) <;> simp

@[simp ↓] theorem State.readRegs_kept (s : State) (path : Path) (off n : Nat) : (s.readRegs path off n).1.kept = s.kept := by
  induction n generalizing s off with
  | zero => rfl
  | succ n ih => simp [State.readRegs, ih]

@[simp ↓] theorem State.dropMgmt_kept (s : State) : (State.dropMgmt s).kept = s.kept := rfl

@[simp ↓] theorem State.answerMgmt_kept (s : State) (p : OxtPkt) (bs : List Byte) : (State.answerMgmt s p bs).kept = s.kept := rfl

theorem execRiffleProbe_kept (port : Fin 8) (f : RiffleFrame) (s : State) : ∃ t, execRiffleProbe port f s = .next t ∧ t.kept = s.kept := by
  refine ⟨_, rfl, ?_⟩
  simp

theorem execRiffleEcho_kept (port : Fin 8) (f : RiffleFrame) (s : State) : ∃ t, execRiffleEcho port f s = .next t ∧ t.kept = s.kept := by
  refine ⟨_, rfl, ?_⟩
  (repeat' split) <;> simp

@[simp ↓] theorem State.probeTargets_kept (s : State) (c : CtxId) : (State.probeTargets s c).kept = s.kept := by
  unfold State.probeTargets
  simp

theorem execRiffleInterval_kept (s : State) : ∃ t, execRiffleInterval s = .next t ∧ t.kept = s.kept := by
  refine ⟨_, rfl, ?_⟩
  simp

theorem execRiffleTimerExpiry_kept (c : CtxId) (i : Nat) (s : State) : ∃ t, execRiffleTimerExpiry c i s = .next t ∧ t.kept = s.kept := by
  refine ⟨_, rfl, ?_⟩
  try dsimp only
  (repeat' first | split | refine State.whenPowered_kept _ _ (fun _ => ?_) | refine State.whenUp_kept _ _ (fun _ => ?_) | refine State.forCtx_kept _ _ (fun _ _ => ?_) | refine State.kept_foldl _ (fun _ _ => ?_) _ _ | refine State.receive_kept _ _ _ _ _ _ (fun _ _ => ?_) | refine State.mirrorMsg_kept _ _ _ _ _ (fun _ _ => ?_)) <;> simp

@[simp ↓] theorem State.modPort_kept (s : State) (p : Fin 8) (f : EthPort → EthPort) : (State.modPort s p f).kept = s.kept := rfl

theorem execPfcFrame_kept (port : Fin 8) (priority : Fin 8) (xoff : Bool) (s : State) : ∃ t, execPfcFrame port priority xoff s = .next t ∧ t.kept = s.kept := by
  refine ⟨_, rfl, ?_⟩
  simp

theorem execPauseStorm_kept (port : Fin 8) (priority : Fin 8) (s : State) : ∃ t, execPauseStorm port priority s = .next t ∧ t.kept = s.kept := by
  refine ⟨_, rfl, ?_⟩
  simp

@[simp ↓] theorem State.setPort_kept (s : State) (p : Fin 8) (st : Nat) (lanes : BitVec 8) : (State.setPort s p st lanes).kept = s.kept := by
  unfold State.setPort
  simp

theorem execPortUp_kept (port : Fin 8) (lanes : BitVec 8) (s : State) : ∃ t, execPortUp port lanes s = .next t ∧ t.kept = s.kept := by
  refine ⟨_, rfl, ?_⟩
  simp

theorem execPortDown_kept (port : Fin 8) (s : State) : ∃ t, execPortDown port s = .next t ∧ t.kept = s.kept := by
  refine ⟨_, rfl, ?_⟩
  simp

@[simp ↓] theorem State.adoptUse_kept (s : State) (new : Vector ClusterUse 28) : (s.adoptUse new).kept = s.kept := by
  unfold State.adoptUse
  extract_lets
  refine State.forCtx_kept _ _ fun _ _ => ?_
  rw [State.modCtx_kept]

@[simp ↓] theorem State.gradeChanged_kept (s : State) : (State.gradeChanged s).kept = s.kept := by
  unfold State.gradeChanged
  simp

@[simp ↓] theorem State.journalRetire_kept (s : State) (u : HwUnit) : (State.journalRetire s u).kept = s.kept := by
  unfold State.journalRetire
  simp

@[simp ↓] theorem State.failCluster_kept (s : State) (c : Fin 28) : (State.failCluster s c).kept = s.kept := by
  unfold State.failCluster
  (repeat' split) <;> simp

@[simp ↓] theorem State.failArray_kept (s : State) (c : Fin 28) (k : Fin 2) (i : Fin 4) : (State.failArray s c k i).kept = s.kept := by
  unfold State.failArray
  dsimp only
  (repeat' split) <;> simp

@[simp ↓] theorem State.haltAdmission_kept (s : State) : (State.haltAdmission s).kept = s.kept := by
  unfold State.haltAdmission
  simp

@[simp ↓] theorem State.loseChannel_kept (s : State) (c : Fin 256) : (State.loseChannel s c).kept = s.kept := by
  unfold State.loseChannel
  dsimp only
  (repeat' split) <;> simp

@[simp ↓] theorem State.setModule_kept (s : State) (m : Module) (st : ModState) : (State.setModule s m st).kept = s.kept := by
  unfold State.setModule
  (repeat' split) <;> simp

@[simp ↓] theorem State.loseModule_kept (s : State) (m : Module) : (State.loseModule s m).kept = s.kept := by
  unfold State.loseModule
  simp

@[simp ↓] theorem State.failRegion_kept (s : State) (r : Fin 4) : (State.failRegion s r).kept = s.kept := by
  unfold State.failRegion
  simp

@[simp ↓] theorem State.takeOut_kept (s : State) (u : HwUnit) : (State.takeOut s u).kept = s.kept := by
  unfold State.takeOut
  (repeat' split) <;> simp

@[simp ↓] theorem State.retireSoon_kept (s : State) (u : HwUnit) : (State.retireSoon s u).kept = s.kept := by
  unfold State.retireSoon
  simp

@[simp ↓] theorem State.retireUnit_kept (s : State) (u : HwUnit) : (State.retireUnit s u).kept = s.kept := by
  unfold State.retireUnit
  simp

theorem execStepBoundaryRetirement_kept (s : State) : ∃ t, execStepBoundaryRetirement s = .next t ∧ t.kept = s.kept := by
  refine ⟨_, rfl, ?_⟩
  simp

@[simp ↓] theorem State.missUnit_kept (s : State) (name : List Nat) (u : HwUnit) (rung : Nat) : (State.missUnit s name u rung).kept = s.kept := by
  unfold State.missUnit
  simp

@[simp ↓] theorem State.rungAborts_kept (s : State) (scope : RungScope) (c : CtxId) : (State.rungAborts s scope c).kept = s.kept := by
  unfold State.rungAborts
  try dsimp only
  (repeat' first | split | refine State.whenPowered_kept _ _ (fun _ => ?_) | refine State.whenUp_kept _ _ (fun _ => ?_) | refine State.forCtx_kept _ _ (fun _ _ => ?_) | refine State.kept_foldl _ (fun _ _ => ?_) _ _ | refine State.receive_kept _ _ _ _ _ _ (fun _ _ => ?_) | refine State.mirrorMsg_kept _ _ _ _ _ (fun _ _ => ?_)) <;> simp

@[simp ↓] theorem State.rungCtx_kept (scope : RungScope) (s : State) (c : CtxId) : (State.rungCtx scope s c).kept = s.kept := by
  unfold State.rungCtx
  simp

@[simp ↓] theorem State.loseEvidence_kept (s : State) (lost : Nat → Bool) : (State.loseEvidence s lost).kept = s.kept := rfl

@[simp ↓] theorem State.clearCounters_kept (s : State) : (State.clearCounters s).kept = s.kept := rfl

@[simp ↓] theorem State.warmCtx_kept (s : State) (c : CtxId) : (State.warmCtx s c).kept = s.kept := by
  unfold State.warmCtx
  simp

@[simp ↓] theorem State.dropReceives_kept (s : State) : (State.dropReceives s).kept = s.kept := by
  unfold State.dropReceives
  simp

@[simp ↓] theorem State.dropDeviceGroups_kept (s : State) : (State.dropDeviceGroups s).kept = s.kept := by
  unfold State.dropDeviceGroups
  simp

@[simp ↓] theorem State.abandonUpdate_kept (s : State) : (State.abandonUpdate s).kept = s.kept := by
  unfold State.abandonUpdate
  simp

@[simp ↓] theorem State.warmStart_kept (s : State) : s.warmStart.kept = s.kept := by
  unfold State.warmStart
  extract_lets s1
  have h : s1.kept = s.kept := by
    rw [State.clearCounters_kept, State.dropDeviceGroups_kept, State.dropReceives_kept,
      State.forCtx_kept _ _ fun u c => State.warmCtx_kept u c, State.loseEvidence_kept, State.abandonUpdate_kept]
  rw [State.recomputeLevels_kept, State.kept_mk, State.kept_eta, h]

@[simp ↓] theorem State.forgetKills_kept (s : State) (scope : RungScope) : (s.forgetKills scope).kept = s.kept := rfl

@[simp ↓] theorem State.noteRung_kept (s : State) (g : Rung) : (State.noteRung s g).kept = s.kept := by
  unfold State.noteRung
  simp

@[simp ↓] theorem State.linesBack_kept (s : State) (scope : RungScope) : (State.linesBack s scope).kept = s.kept := rfl

@[simp ↓] theorem State.quarantine_kept (s : State) (g : Rung) : (State.quarantine s g).kept = s.kept := by
  unfold State.quarantine
  (repeat' split) <;> simp

@[simp ↓] theorem State.swapIn_kept (s : State) (r : Fin 4) : (State.swapIn s r).kept = s.kept := by
  unfold State.swapIn
  simp

@[simp ↓] theorem State.endRung_kept (s : State) (g : Rung) : (State.endRung s g).kept = s.kept := by
  unfold State.endRung
  (repeat' split) <;> simp

@[simp ↓] theorem State.endDevice_kept (s : State) (g : Rung) : (s.endDevice g).kept = s.kept := by
  have h : ∀ u : State, ((u.forCtx fun t c => t.modCtx c fun x => x.skipPeriods t.clk.now).trace 2 0x21 0 (g.word false)).kept
      = u.kept := fun u => by rw [State.trace_kept, State.forCtx_kept _ _ fun _ _ => State.modCtx_kept ..]
  unfold State.endDevice
  extract_lets
  rw [State.evalAll_kept]
  split
  · rw [State.msixBoth_kept]; exact (h _).trans rfl
  · exact (h _).trans rfl

theorem execRungComplete_kept (scope : RungScope) (s : State) : ∃ t, execRungComplete scope s = .next t ∧ t.kept = s.kept := by
  refine ⟨_, rfl, State.whenPowered_kept _ _ fun u => ?_⟩
  split
  · rfl
  · split
    · split
      · rw [State.endDevice_kept]
      · rfl
    · split
      · rw [State.endDevice_kept]
      · rfl
    · rw [State.dispatch_kept, State.endRung_kept]

@[simp ↓] theorem State.endQuarantine_kept (s : State) (q : Quarantine) (outcome : Nat) : (s.endQuarantine q outcome).kept = s.kept := by
  unfold State.endQuarantine
  dsimp only
  rw [State.dispatch_kept, State.kept_mk, State.kept_eta, State.kept_foldl _ fun _ _ => State.record_kept ..]

@[simp ↓] theorem State.unresolved_kept (s : State) (q : Quarantine) : (State.unresolved s q).kept = s.kept := by
  unfold State.unresolved
  dsimp only
  (repeat' split) <;> simp

theorem execSuspectReplayComplete_kept (e : Engine) (c : CtxId) (hung hungElsewhere : Bool) (s : State) : ∃ t, execSuspectReplayComplete e c hung hungElsewhere s = .next t ∧ t.kept = s.kept := by
  refine ⟨_, rfl, ?_⟩
  try dsimp only
  (repeat' first | split | refine State.whenPowered_kept _ _ (fun _ => ?_) | refine State.whenUp_kept _ _ (fun _ => ?_) | refine State.forCtx_kept _ _ (fun _ _ => ?_) | refine State.kept_foldl _ (fun _ _ => ?_) _ _ | refine State.receive_kept _ _ _ _ _ _ (fun _ _ => ?_) | refine State.mirrorMsg_kept _ _ _ _ _ (fun _ _ => ?_)) <;> simp

theorem execQuarantineLimit_kept (e : Engine) (s : State) : ∃ t, execQuarantineLimit e s = .next t ∧ t.kept = s.kept := by
  refine ⟨_, rfl, ?_⟩
  try dsimp only
  (repeat' first | split | refine State.whenPowered_kept _ _ (fun _ => ?_) | refine State.whenUp_kept _ _ (fun _ => ?_) | refine State.forCtx_kept _ _ (fun _ _ => ?_) | refine State.kept_foldl _ (fun _ _ => ?_) _ _ | refine State.receive_kept _ _ _ _ _ _ (fun _ _ => ?_) | refine State.mirrorMsg_kept _ _ _ _ _ (fun _ _ => ?_)) <;> simp

@[simp ↓] theorem State.meshNack_kept (s : State) (p : MeshPkt) : (State.meshNack s p).kept = s.kept := rfl

@[simp ↓] theorem State.meshStale_kept (s : State) : (State.meshStale s).kept = s.kept := rfl

@[simp ↓] theorem State.meshRead_kept (s : State) (p : MeshPkt) : (State.meshRead s p).kept = s.kept := by
  unfold State.meshRead
  (repeat' split) <;> simp

@[simp ↓] theorem State.meshWrite_kept (s : State) (p : MeshPkt) : (s.meshWrite p).kept = s.kept := by
  unfold State.meshWrite
  split
  · rename_i r _
    split
    · rename_i t _
      have hk := State.cmdWrite_kept s r.ctx t (meshStores p)
      split
      · rename_i s1 h; rw [h] at hk; simpa using hk
      · rename_i s1 _ h; rw [h] at hk; rw [State.faultCmd_kept]; simpa using hk
    · rfl
  · rw [State.emit_kept, State.kept_foldl _ fun _ _ => State.putBase_kept ..]

@[simp ↓] theorem State.meshRun_kept (s : State) (p : MeshPkt) : (State.meshRun s p).kept = s.kept := by
  unfold State.meshRun
  (repeat' split) <;> simp

theorem execMeshPacketArrival_kept (p : MeshPkt) (s : State) : ∃ t, execMeshPacketArrival p s = .next t ∧ t.kept = s.kept := by
  refine ⟨_, rfl, ?_⟩
  simp

theorem execUcieReplayLimit_kept (m : Module) (s : State) : ∃ t, execUcieReplayLimit m s = .next t ∧ t.kept = s.kept := by
  refine ⟨_, rfl, ?_⟩
  simp

theorem execUcieModuleRepair_kept (m : Module) (ok : Bool) (s : State) : ∃ t, execUcieModuleRepair m ok s = .next t ∧ t.kept = s.kept := by
  refine ⟨_, rfl, ?_⟩
  simp

theorem execRetrainSlot_kept (s : State) : ∃ t, execRetrainSlot s = .next t ∧ t.kept = s.kept := by
  refine ⟨_, rfl, ?_⟩
  simp

@[simp ↓] theorem State.retrained_kept (s : State) (c : Fin 256) (bad : Bool) : (State.retrained s c bad).kept = s.kept := by
  unfold State.retrained
  simp

theorem execRetrainResult_kept (failed : BitVec 8) (s : State) : ∃ t, execRetrainResult failed s = .next t ∧ t.kept = s.kept := by
  refine ⟨_, rfl, State.whenUp_kept _ _ fun u => ?_⟩
  split
  · rfl
  · split
    · rfl
    · rw [State.dispatch_kept, State.kept_foldl _ fun _ _ => State.retrained_kept .., State.kept_mk, State.kept_eta]

@[simp ↓] theorem State.memoryRecord_kept (s : State) (unit : HwUnit) (cls corrected poisoned : Nat) : (State.memoryRecord s unit cls corrected poisoned).kept = s.kept := rfl

@[simp ↓] theorem State.faultReader_kept (s : State) (r : Option CmdRef) : (State.faultReader s r).kept = s.kept := by
  unfold State.faultReader
  (repeat' split) <;> simp

theorem execHbmParityError_kept (chan : Fin 256) (failedAttempts : Nat) (reader : Option CmdRef) (s : State) : ∃ t, execHbmParityError chan failedAttempts reader s = .next t ∧ t.kept = s.kept := by
  refine ⟨_, rfl, ?_⟩
  simp

@[simp ↓] theorem State.fixLine_kept (s : State) (line : Nat) : (State.fixLine s line).kept = s.kept := by
  unfold State.fixLine
  simp

@[simp ↓] theorem State.poisonLines_kept (s : State) (g : Nat) (lines : List Nat) : (State.poisonLines s g lines).kept = s.kept := rfl

@[simp ↓] theorem State.correctLines_kept (s : State) (g : Nat) (measured : List Nat) : (State.correctLines s g measured).kept = s.kept := by
  unfold State.correctLines
  simp

@[simp ↓] theorem State.checkGroup_kept (s : State) (g : Nat) (f : GroupFinding) : (State.checkGroup s g f).1.kept = s.kept := by
  unfold State.checkGroup
  dsimp only
  (repeat' split) <;> simp

theorem execHbmGroupRead_kept (group : Nat) (reader : Option CmdRef) (finding : GroupFinding) (s : State) : ∃ t, execHbmGroupRead group reader finding s = .next t ∧ t.kept = s.kept := by
  refine ⟨_, rfl, ?_⟩
  simp

theorem execHbmScrubGroup_kept (finding : GroupFinding) (s : State) : ∃ t, execHbmScrubGroup finding s = .next t ∧ t.kept = s.kept := by
  refine ⟨_, rfl, ?_⟩
  simp

theorem execMigrationStart_kept (s : State) : ∃ t, execMigrationStart s = .next t ∧ t.kept = s.kept := by
  refine ⟨_, rfl, ?_⟩
  try dsimp only
  (repeat' first | split | refine State.whenPowered_kept _ _ (fun _ => ?_) | refine State.whenUp_kept _ _ (fun _ => ?_) | refine State.forCtx_kept _ _ (fun _ _ => ?_) | refine State.kept_foldl _ (fun _ _ => ?_) _ _ | refine State.receive_kept _ _ _ _ _ _ (fun _ _ => ?_) | refine State.mirrorMsg_kept _ _ _ _ _ (fun _ _ => ?_)) <;> simp

@[simp ↓] theorem State.shrink_kept (cs : List CtxId) (n : Nat) (s : State) : (State.shrink cs n s).kept = s.kept := by
  induction cs generalizing s n with
  | nil => rfl
  | cons c cs ih => rw [State.shrink]; (repeat' split) <;> simp [ih]

@[simp ↓] theorem State.resumeAdmission_kept (s : State) : (State.resumeAdmission s).kept = s.kept := by
  unfold State.resumeAdmission
  simp

theorem execMigrationCommit_kept (unreadable : List Nat) (s : State) :
    ∃ t, execMigrationCommit unreadable s = .next t ∧ t.kept = s.kept := by
  refine ⟨_, rfl, State.whenUp_kept _ _ fun u => ?_⟩
  split
  · rename_i set _
    extract_lets mine s1
    clear_value mine
    have h1 : s1.kept = u.kept := by
      unfold s1
      split
      · rw [State.commitGroup_kept]
      · rfl
    clear_value s1
    rw [State.resumeAdmission_kept, State.retestAll_kept, State.shrink_kept]
    have h3 : ∀ (v : State) (b : List Nat), (b.foldl (fun u g => u.poisonLines g (List.range 15)) v).kept = v.kept :=
      fun _ _ => State.kept_foldl _ (fun _ _ => State.poisonLines_kept ..) _ _
    simp +zetaDelta [h1, h3]
  · rfl

@[simp ↓] theorem State.scrubWord_kept (bank : SramBank) (s : State) (w : ScrubWord) : (State.scrubWord bank s w).kept = s.kept := by
  unfold State.scrubWord
  simp

theorem execSramScrub_kept (bank : SramBank) (words : List ScrubWord) (s : State) : ∃ t, execSramScrub bank words s = .next t ∧ t.kept = s.kept := by
  refine ⟨_, rfl, ?_⟩
  simp

@[simp ↓] theorem State.countChecker_kept (s : State) (chk : Checker) : (State.countChecker s chk).kept = s.kept := rfl

@[simp ↓] theorem State.keepEvidence_kept (s : State) (r : Fin 4) (bs : List Byte) (g : Sig) : (State.keepEvidence s r bs g).1.kept = s.kept := by
  unfold State.keepEvidence
  (repeat' split) <;> simp

@[simp ↓] theorem State.checkerFault_kept (s : State) (r : CmdRef) (chk : Checker) (ordinal : Nat) (operands : List Byte) : (State.checkerFault s r chk ordinal operands).kept = s.kept := by
  unfold State.checkerFault
  (repeat' split) <;> simp

theorem execCheckerMismatch_kept (r : CmdRef) (chk : Checker) (ordinal : Nat) (operands : List Byte) (s : State) : ∃ t, execCheckerMismatch r chk ordinal operands s = .next t ∧ t.kept = s.kept := by
  refine ⟨_, rfl, ?_⟩
  try dsimp only
  (repeat' first | split | refine State.whenPowered_kept _ _ (fun _ => ?_) | refine State.whenUp_kept _ _ (fun _ => ?_) | refine State.forCtx_kept _ _ (fun _ _ => ?_) | refine State.kept_foldl _ (fun _ _ => ?_) _ _ | refine State.receive_kept _ _ _ _ _ _ (fun _ _ => ?_) | refine State.mirrorMsg_kept _ _ _ _ _ (fun _ _ => ?_)) <;> simp

@[simp ↓] theorem State.endCore_kept (s : State) (r : CmdRef) (f : State → CmdRef → State) (h : ∀ u c, (f u c).kept = u.kept) :
    (s.endCore r f).kept = s.kept := by
  unfold State.endCore; (repeat' split) <;> simp [h]

theorem execMatrixCommandComplete_kept (r : CmdRef) (s : State) : ∃ t, execMatrixCommandComplete r s = .next t ∧ t.kept = s.kept := by
  refine ⟨_, rfl, ?_⟩
  simp

theorem execVectorCommandComplete_kept (r : CmdRef) (s : State) : ∃ t, execVectorCommandComplete r s = .next t ∧ t.kept = s.kept := by
  refine ⟨_, rfl, ?_⟩
  simp

theorem execCheckerRepeat_kept (mismatchAgain : Bool) (s : State) : ∃ t, execCheckerRepeat mismatchAgain s = .next t ∧ t.kept = s.kept := by
  refine ⟨_, rfl, ?_⟩
  try dsimp only
  (repeat' first | split | refine State.whenPowered_kept _ _ (fun _ => ?_) | refine State.whenUp_kept _ _ (fun _ => ?_) | refine State.forCtx_kept _ _ (fun _ _ => ?_) | refine State.kept_foldl _ (fun _ _ => ?_) _ _ | refine State.receive_kept _ _ _ _ _ _ (fun _ _ => ?_) | refine State.mirrorMsg_kept _ _ _ _ _ (fun _ _ => ?_)) <;> simp

theorem execRepeatPending_kept (s : State) : ∃ t, execRepeatPending s = .next t ∧ t.kept = s.kept := by
  refine ⟨_, rfl, ?_⟩
  try dsimp only
  (repeat' first | split | refine State.whenPowered_kept _ _ (fun _ => ?_) | refine State.whenUp_kept _ _ (fun _ => ?_) | refine State.forCtx_kept _ _ (fun _ _ => ?_) | refine State.kept_foldl _ (fun _ _ => ?_) _ _ | refine State.receive_kept _ _ _ _ _ _ (fun _ _ => ?_) | refine State.mirrorMsg_kept _ _ _ _ _ (fun _ _ => ?_)) <;> simp

@[simp ↓] theorem State.cleanUpTo_kept (s : State) (c : CtxId) (step : Nat) : (State.cleanUpTo s c step).kept = s.kept := by
  unfold State.cleanUpTo
  simp

@[simp ↓] theorem State.discardFrom_kept (s : State) (c : CtxId) (d : Nat) : (State.discardFrom s c d).kept = s.kept := by
  unfold State.discardFrom
  simp

@[simp ↓] theorem State.coverTail_kept (s : State) (c : CtxId) (digest : BitVec 256) : (State.coverTail s c digest).kept = s.kept := by
  unfold State.coverTail
  simp

@[simp ↓] theorem State.confirm_kept (s : State) (c : CtxId) (d : Nat) (u : SampleRef) (engine named : Option Engine) : (State.confirm s c d u engine named).kept = s.kept := by
  unfold State.confirm
  dsimp only
  (repeat' split) <;> simp

@[simp ↓] theorem State.failOxbow_kept (s : State) (o : Fin 28) : (State.failOxbow s o).kept = s.kept := by
  unfold State.failOxbow
  simp

theorem execEddyRecomputeComplete_kept (c : CtxId) (step : Nat) (katFails : List Bool) (mismatch : Option SampleRef) (address : Bool) (s : State) : ∃ t, execEddyRecomputeComplete c step katFails mismatch address s = .next t ∧ t.kept = s.kept := by
  refine ⟨_, rfl, ?_⟩
  try dsimp only
  (repeat' first | split | refine State.whenPowered_kept _ _ (fun _ => ?_) | refine State.whenUp_kept _ _ (fun _ => ?_) | refine State.forCtx_kept _ _ (fun _ _ => ?_) | refine State.kept_foldl _ (fun _ _ => ?_) _ _ | refine State.receive_kept _ _ _ _ _ _ (fun _ _ => ?_) | refine State.mirrorMsg_kept _ _ _ _ _ (fun _ _ => ?_)) <;> simp

theorem execEddyVote_kept (agreesWithEngine : Bool) (s : State) : ∃ t, execEddyVote agreesWithEngine s = .next t ∧ t.kept = s.kept := by
  refine ⟨_, rfl, ?_⟩
  try dsimp only
  (repeat' first | split | refine State.whenPowered_kept _ _ (fun _ => ?_) | refine State.whenUp_kept _ _ (fun _ => ?_) | refine State.forCtx_kept _ _ (fun _ _ => ?_) | refine State.kept_foldl _ (fun _ _ => ?_) _ _ | refine State.receive_kept _ _ _ _ _ _ (fun _ _ => ?_) | refine State.mirrorMsg_kept _ _ _ _ _ (fun _ _ => ?_)) <;> simp

@[simp ↓] theorem State.journalSig_kept (s : State) (g : Sig) (bs : List Byte) : (State.journalSig s g bs).kept = s.kept := by
  unfold State.journalSig
  simp

theorem execSignatureRecordExport_kept (s : State) : ∃ t, execSignatureRecordExport s = .next t ∧ t.kept = s.kept := by
  refine ⟨_, rfl, ?_⟩
  try dsimp only
  (repeat' first | split | refine State.whenPowered_kept _ _ (fun _ => ?_) | refine State.whenUp_kept _ _ (fun _ => ?_) | refine State.forCtx_kept _ _ (fun _ _ => ?_) | refine State.kept_foldl _ (fun _ _ => ?_) _ _ | refine State.receive_kept _ _ _ _ _ _ (fun _ _ => ?_) | refine State.mirrorMsg_kept _ _ _ _ _ (fun _ _ => ?_)) <;> simp

end Sys2Proof.Machine
end

