-- ==== Sys2Proof/Laws/KeptD.lean ====
section
/-! SUPPORT. What keeps the queue, the settings, the fuses, the counter and the pins, the owner and the key table: ownership, boot, power and the register writes. -/

namespace Sys2Proof.Machine

@[simp ↓] theorem State.abortHostSteps_kept (s : State) (c : CtxId) : (State.abortHostSteps s c).kept = s.kept := by
  unfold State.abortHostSteps
  simp

@[simp ↓] theorem State.dropHostTails_kept (s : State) (c : CtxId) : (State.dropHostTails s c).kept = s.kept := rfl

@[simp ↓] theorem State.unbindCtx_kept (s : State) (c : CtxId) : (State.unbindCtx s c).kept = s.kept := by
  unfold State.unbindCtx
  simp

@[simp ↓] theorem State.writeRenew_kept (s : State) (v : Reg) : (s.writeRenew v).kept = s.kept := by
  unfold State.writeRenew
  split
  · rw [State.kept_mk, State.kept_eta]
  · rfl

@[simp ↓] theorem State.setLink_kept (s : State) (p : Port) (st : LinkState) : (State.setLink s p st).kept = s.kept := rfl

theorem execPcieLinkTrained_kept (p : Port) (gts width mps : Nat) (s : State) : ∃ t, execPcieLinkTrained p gts width mps s = .next t ∧ t.kept = s.kept := by
  refine ⟨_, rfl, ?_⟩
  simp

theorem execPcieLinkDown_kept (p : Port) (s : State) : ∃ t, execPcieLinkDown p s = .next t ∧ t.kept = s.kept := by
  refine ⟨_, rfl, ?_⟩
  try dsimp only
  (repeat' first | split | refine State.whenPowered_kept _ _ (fun _ => ?_) | refine State.whenUp_kept _ _ (fun _ => ?_) | refine State.forCtx_kept _ _ (fun _ _ => ?_) | refine State.kept_foldl _ (fun _ _ => ?_) _ _ | refine State.receive_kept _ _ _ _ _ _ (fun _ _ => ?_) | refine State.mirrorMsg_kept _ _ _ _ _ (fun _ _ => ?_)) <;> simp

@[simp ↓] theorem State.unsupportedRead_kept (s : State) (p : Port) : (State.unsupportedRead s p).kept = s.kept := rfl

theorem execBar4Read_kept (p : Port) (offset len : Nat) (s : State) : ∃ t, execBar4Read p offset len s = .next t ∧ t.kept = s.kept := by
  refine ⟨_, rfl, ?_⟩
  simp

@[simp ↓] theorem State.aperturePart_kept (s : State) (a : Nat) (bs : List Byte) : (State.aperturePart s a bs).1.kept = s.kept := by
  unfold State.aperturePart
  (repeat' split) <;> simp

@[simp ↓] theorem State.apertureParts_kept (s : State) (parts : List (Nat × List Byte)) : (s.apertureParts parts).1.kept = s.kept := by
  suffices h : ∀ (r : State × Bool), (parts.foldl (fun r w => ((State.aperturePart r.1 w.1 w.2).1,
      r.2 || (State.aperturePart r.1 w.1 w.2).2)) r).1.kept = r.1.kept from h (s, false)
  induction parts with
  | nil => intro r; rfl
  | cons w ws ih => intro r; rw [List.foldl_cons, ih]; simp

theorem execBar4Write_kept (p : Port) (offset : Nat) (bytes : List Byte) (s : State) : ∃ t, execBar4Write p offset bytes s = .next t ∧ t.kept = s.kept := by
  refine ⟨_, rfl, ?_⟩
  simp

@[simp ↓] theorem State.setValid_kept (s : State) (b ok : Bool) : (State.setValid s b ok).kept = s.kept := by
  unfold State.setValid
  simp

@[simp ↓] theorem State.measureBoot_kept (s : State) : s.measureBoot.kept = s.kept := by
  unfold State.measureBoot
  extract_lets bs s1 s2 s3
  have h3 : s3.kept = s.kept := by
    refine (State.kept_foldl _ (fun u n => ?_) _ _).trans ?_
    · split
      · rw [State.measure_kept]
      · rfl
    · rw [State.measure_kept, State.measure_kept]
  rw [State.kept_foldl _ fun _ _ => State.kept_foldl _ (fun _ _ => State.measure_kept ..) _ _, h3]

@[simp ↓] theorem State.afterImage_kept (s : State) : (State.afterImage s).kept = s.kept := rfl

@[simp ↓] theorem State.writeUpdCtl_kept (s : State) (v : Reg) : (State.writeUpdCtl s v).kept = s.kept := by
  unfold State.writeUpdCtl
  simp

theorem execImageUpdateDone_kept (programOk : Bool) (s : State) : ∃ t, execImageUpdateDone programOk s = .next t ∧ t.kept = s.kept := by
  refine ⟨_, rfl, ?_⟩
  simp

@[simp ↓] theorem State.keepEntry_kept (s : State) (e : JEntry) : (State.keepEntry s e).kept = s.kept := rfl

@[simp ↓] theorem State.journalFault_kept (s : State) : (State.journalFault s).kept = s.kept := rfl

@[simp ↓] theorem State.setArea_kept (s : State) (i : Fin 2) (a : Area) : (State.setArea s i a).kept = s.kept := rfl

theorem execJournalAppend_kept (programOk : Bool) (s : State) : ∃ t, execJournalAppend programOk s = .next t ∧ t.kept = s.kept := by
  refine ⟨_, rfl, ?_⟩
  try dsimp only
  (repeat' first | split | refine State.whenPowered_kept _ _ (fun _ => ?_) | refine State.whenUp_kept _ _ (fun _ => ?_) | refine State.forCtx_kept _ _ (fun _ _ => ?_) | refine State.kept_foldl _ (fun _ _ => ?_) _ _ | refine State.receive_kept _ _ _ _ _ _ (fun _ _ => ?_) | refine State.mirrorMsg_kept _ _ _ _ _ (fun _ _ => ?_)) <;> simp

@[simp ↓] theorem State.mark_kept (s : State) : (State.mark s).kept = s.kept := rfl

theorem execCompactionDone_kept (programOk : Bool) (s : State) : ∃ t, execCompactionDone programOk s = .next t ∧ t.kept = s.kept := by
  refine ⟨_, rfl, ?_⟩
  simp

theorem execAreaEraseDone_kept (eraseOk : Bool) (s : State) : ∃ t, execAreaEraseDone eraseOk s = .next t ∧ t.kept = s.kept := by
  refine ⟨_, rfl, ?_⟩
  simp

theorem execTimeMark_kept (s : State) : ∃ t, execTimeMark s = .next t ∧ t.kept = s.kept := by
  refine ⟨_, rfl, ?_⟩
  simp

@[simp ↓] theorem State.holdEvent_kept (s : State) : (State.holdEvent s).kept = s.kept := by
  unfold State.holdEvent
  simp

@[simp ↓] theorem State.writeHeldMiss_kept (s : State) : (State.writeHeldMiss s).kept = s.kept := by
  unfold State.writeHeldMiss
  dsimp only
  (repeat' split) <;> simp

@[simp ↓] theorem State.loadJournal_kept (s : State) (es : List JEntry) : (State.loadJournal s es).kept = s.kept := by
  unfold State.loadJournal
  simp

theorem execJournalReplayDone_kept (readable : Bool) (s : State) : ∃ t, execJournalReplayDone readable s = .next t ∧ t.kept = s.kept := by
  refine ⟨_, rfl, ?_⟩
  simp

@[simp ↓] theorem State.nextPhase_kept (s : State) : (State.nextPhase s).kept = s.kept := rfl

theorem execHbmTrainingDone_kept (failed : List (Fin 256)) (s : State) : ∃ t, execHbmTrainingDone failed s = .next t ∧ t.kept = s.kept := by
  refine ⟨_, rfl, ?_⟩
  simp

theorem execHbmInitialised_kept (s : State) : ∃ t, execHbmInitialised s = .next t ∧ t.kept = s.kept := by
  refine ⟨_, rfl, ?_⟩
  simp

@[simp ↓] theorem State.fetchEnd_kept (s : State) (f : Fetcher) (ok : Bool) : (State.fetchEnd s f ok).kept = s.kept := by
  unfold State.fetchEnd
  simp

theorem execFirmwareFetchDone_kept (f : Fetcher) (crcOk : Bool) (s : State) : ∃ t, execFirmwareFetchDone f crcOk s = .next t ∧ t.kept = s.kept := by
  refine ⟨_, rfl, ?_⟩
  simp

theorem execFirmwareFetchTimeout_kept (f : Fetcher) (s : State) : ∃ t, execFirmwareFetchTimeout f s = .next t ∧ t.kept = s.kept := by
  refine ⟨_, rfl, ?_⟩
  simp

theorem execIdentityKeyDerived_kept (s : State) : ∃ t, execIdentityKeyDerived s = .next t ∧ t.kept = s.kept := by
  refine ⟨_, rfl, ?_⟩
  simp

@[simp ↓] theorem State.testFail_kept (s : State) (u : HwUnit) : (State.testFail s u).kept = s.kept := by
  unfold State.testFail
  simp

@[simp ↓] theorem State.modulesUp_kept (s : State) : (State.modulesUp s).kept = s.kept := rfl

@[simp ↓] theorem State.clearSram_kept (s : State) : (State.clearSram s).kept = s.kept := rfl

@[simp ↓] theorem State.setGrade_kept (s : State) : (State.setGrade s).kept = s.kept := by
  unfold State.setGrade
  simp

theorem execStartUpTestDone_kept (failed : List HwUnit) (s : State) : ∃ t, execStartUpTestDone failed s = .next t ∧ t.kept = s.kept := by
  refine ⟨_, rfl, ?_⟩
  simp

@[simp ↓] theorem State.endWalks_kept (s : State) (r : Fin 17) : (State.endWalks s r).kept = s.kept := by
  unfold State.endWalks
  simp

theorem execWeirRebuildDone_kept (s : State) : ∃ t, execWeirRebuildDone s = .next t ∧ t.kept = s.kept := by
  refine ⟨_, rfl, State.whenPowered_kept _ _ fun u => ?_⟩
  split
  · rfl
  · extract_lets s1 s2
    have h2 : s2.kept = u.kept := by
      rw [State.forCtx_kept _ _ fun _ _ => State.modCtx_kept .., State.kept_foldl _ fun _ _ => State.endWalks_kept ..]
    clear_value s2
    split
    · simp +zetaDelta [h2]
    · rw [State.evalAll_kept]; simp +zetaDelta [h2]

theorem execPowerWindow_kept (watts : Nat) (s : State) : ∃ t, execPowerWindow watts s = .next t ∧ t.kept = s.kept := by
  refine ⟨_, rfl, ?_⟩
  simp

theorem execPowerLevelFall_kept (s : State) : ∃ t, execPowerLevelFall s = .next t ∧ t.kept = s.kept := by
  refine ⟨_, rfl, ?_⟩
  simp

@[simp ↓] theorem State.countClock_kept (s : State) : (State.countClock s).kept = s.kept := rfl

@[simp ↓] theorem State.loseClock_kept (s : State) (d : Domain) : (State.loseClock s d).kept = s.kept := by
  unfold State.loseClock
  (repeat' split) <;> simp

theorem execTestPortBypassExit_kept (s : State) : ∃ t, execTestPortBypassExit s = .next t ∧ t.kept = s.kept := by
  refine ⟨_, rfl, ?_⟩
  try dsimp only
  (repeat' first | split | refine State.whenPowered_kept _ _ (fun _ => ?_) | refine State.whenUp_kept _ _ (fun _ => ?_) | refine State.forCtx_kept _ _ (fun _ _ => ?_) | refine State.kept_foldl _ (fun _ _ => ?_) _ _ | refine State.receive_kept _ _ _ _ _ _ (fun _ _ => ?_) | refine State.mirrorMsg_kept _ _ _ _ _ (fun _ _ => ?_)) <;> simp

@[simp ↓] theorem State.armed_kept (s : State) (off : Nat) : (State.armed s off).kept = s.kept := rfl

@[simp ↓] theorem State.writeFence_kept (s : State) (v : Reg) : (State.writeFence s v).kept = s.kept := by
  unfold State.writeFence
  simp

@[simp ↓] theorem State.writeClientClear_kept (s : State) (v : Reg) : (State.writeClientClear s v).kept = s.kept := by
  unfold State.writeClientClear
  simp

@[simp ↓] theorem State.writeHbmInject_kept (s : State) (v : Reg) : (State.writeHbmInject s v).kept = s.kept := by
  unfold State.writeHbmInject
  simp

@[simp ↓] theorem State.writeIntgInject_kept (s : State) (v : Reg) : (State.writeIntgInject s v).kept = s.kept := by
  unfold State.writeIntgInject
  simp

@[simp ↓] theorem State.writeCover_kept (s : State) (v : Reg) : (State.writeCover s v).kept = s.kept := rfl

@[simp ↓] theorem State.writeAttest_kept (s : State) (p : Port) (v : Reg) : (State.writeAttest s p v).kept = s.kept := by
  unfold State.writeAttest
  simp

theorem execAttestationSigned_kept (s : State) : ∃ t, execAttestationSigned s = .next t ∧ t.kept = s.kept := by
  refine ⟨_, rfl, ?_⟩
  try dsimp only
  (repeat' first | split | refine State.whenPowered_kept _ _ (fun _ => ?_) | refine State.whenUp_kept _ _ (fun _ => ?_) | refine State.forCtx_kept _ _ (fun _ _ => ?_) | refine State.kept_foldl _ (fun _ _ => ?_) _ _ | refine State.receive_kept _ _ _ _ _ _ (fun _ _ => ?_) | refine State.mirrorMsg_kept _ _ _ _ _ (fun _ _ => ?_)) <;> simp

@[simp ↓] theorem State.hostRead_kept (s : State) (p : Port) (off : Nat) : (State.hostRead s p off).kept = s.kept := by
  unfold State.hostRead
  simp

theorem execFenceRead_kept (p : Port) (row : Fin 17) (s : State) : ∃ t, execFenceRead p row s = .next t ∧ t.kept = s.kept := by
  refine ⟨_, rfl, ?_⟩
  simp

theorem execPwrNowLoRead_kept (p : Port) (s : State) : ∃ t, execPwrNowLoRead p s = .next t ∧ t.kept = s.kept := by
  refine ⟨_, rfl, ?_⟩
  simp

theorem execWeirMirCleanLoRead_kept (p : Port) (s : State) : ∃ t, execWeirMirCleanLoRead p s = .next t ∧ t.kept = s.kept := by
  refine ⟨_, rfl, ?_⟩
  simp

theorem execBootJrnSeqLoRead_kept (p : Port) (s : State) : ∃ t, execBootJrnSeqLoRead p s = .next t ∧ t.kept = s.kept := by
  refine ⟨_, rfl, ?_⟩
  simp

end Sys2Proof.Machine
end

