-- ==== Sys2Proof/Laws/Memory.lean ====
section
/-! SUPPORT. Sparse memory: a read after a write, and the canonical form that every operation keeps. -/

namespace Sys2Proof.Machine

theorem readCell_writeCell (cs : List Host.Cell) (h : Cells.wf cs) (x y : Nat) (v : Byte) :
    readCell (writeCell cs x v) y = if x = y then v else readCell cs y := by
  induction cs with
  | nil => by_cases hv : v = 0#8 <;> by_cases hx : x = y <;> simp [writeCell, readCell, hv, hx]
  | cons c cs ih =>
    obtain ⟨a, w⟩ := c
    have hp := List.pairwise_cons.1 h.1
    have ih' := ih ⟨hp.2, fun c hc => h.2 c (List.mem_cons_of_mem _ hc)⟩
    have low : ∀ z, z ≤ a → readCell cs z = 0#8 := by
      intro z hz
      have hall : ∀ b ∈ cs, z < b.1 := fun b hb => Nat.lt_of_le_of_lt hz (hp.1 b hb)
      clear ih ih' hp h
      induction cs with
      | nil => rfl
      | cons d ds ihd =>
        have hd := hall d (List.mem_cons_self ..)
        simp only [readCell]
        rw [if_neg (by omega)]
        exact ihd fun b hb => hall b (List.mem_cons_of_mem _ hb)
    simp only [writeCell]
    split
    · rename_i hlt
      split
      · rename_i hv
        by_cases hx : x = y
        · subst hx; simp [readCell, hv, show a ≠ x by omega, low x (by omega)]
        · simp [hx]
      · by_cases hx : x = y <;> simp [readCell, hx]
    · split
      · rename_i _ he
        subst he
        split
        · rename_i hv
          by_cases hx : x = y
          · subst hx; simp [hv, low x (Nat.le_refl _)]
          · simp [readCell, hx]
        · by_cases hx : x = y <;> simp [readCell, hx]
      · by_cases hx : a = y
        · simp [readCell, hx, show x ≠ y by omega]
        · simp [readCell, hx, ih']

theorem mem_writeCell {cs : List Host.Cell} {x : Nat} {v : Byte} {c : Host.Cell} (hc : c ∈ writeCell cs x v) :
    c ∈ cs ∨ c = (x, v) ∧ v ≠ 0#8 := by
  induction cs with
  | nil =>
    simp only [writeCell] at hc
    split at hc
    · cases hc
    · exact .inr ⟨List.mem_singleton.1 hc, ‹_›⟩
  | cons d cs ih =>
    obtain ⟨a, w⟩ := d
    simp only [writeCell] at hc
    split at hc
    · split at hc
      · exact .inl hc
      · rcases List.mem_cons.1 hc with h | h
        · exact .inr ⟨h, ‹_›⟩
        · exact .inl h
    · split at hc
      · split at hc
        · exact .inl (List.mem_cons_of_mem _ hc)
        · rcases List.mem_cons.1 hc with h | h
          · exact .inr ⟨h, ‹_›⟩
          · exact .inl (List.mem_cons_of_mem _ h)
      · rcases List.mem_cons.1 hc with h | h
        · exact .inl (h ▸ List.mem_cons_self ..)
        · rcases ih h with h | h
          · exact .inl (List.mem_cons_of_mem _ h)
          · exact .inr h

theorem Cells.wf_writeCell {cs : List Host.Cell} (h : Cells.wf cs) (x : Nat) (v : Byte) : Cells.wf (writeCell cs x v) := by
  refine ⟨?_, fun c hc => (mem_writeCell hc).elim (h.2 c) fun e => by rw [e.1]; exact e.2⟩
  induction cs with
  | nil => simp only [writeCell]; split <;> simp
  | cons d cs ih =>
    obtain ⟨a, w⟩ := d
    have hp := List.pairwise_cons.1 h.1
    have ih' := ih ⟨hp.2, fun c hc => h.2 c (List.mem_cons_of_mem _ hc)⟩
    simp only [writeCell]
    split
    · split
      · exact h.1
      · refine List.pairwise_cons.2 ⟨fun b hb => ?_, h.1⟩
        rcases List.mem_cons.1 hb with e | e
        · rw [e]; assumption
        · have := hp.1 b e; simp only at this ⊢; omega
    · split
      · rename_i _ he
        subst he
        split
        · exact hp.2
        · exact List.pairwise_cons.2 ⟨hp.1, hp.2⟩
      · refine List.pairwise_cons.2 ⟨fun b hb => ?_, ih'⟩
        rcases mem_writeCell hb with e | e
        · exact hp.1 b e
        · rw [e.1]; simp only; omega

theorem Cells.wf_writeCells {cs : List Host.Cell} (h : Cells.wf cs) (x : Nat) (vs : List Byte) : Cells.wf (writeCells cs x vs) := by
  induction vs generalizing cs x with
  | nil => exact h
  | cons v vs ih => exact ih (Cells.wf_writeCell h x v) _

theorem Cells.wf_clearCells {cs : List Host.Cell} (h : Cells.wf cs) (start len : Nat) : Cells.wf (clearCells cs start len) :=
  ⟨h.1.filter _, fun c hc => h.2 c (List.mem_filter.1 hc).1⟩

theorem Cells.wf_overlay {cs : List Host.Cell} (h : Cells.wf cs) (top : List Host.Cell) : Cells.wf (overlay cs top) := by
  unfold overlay
  induction top generalizing cs with
  | nil => exact h
  | cons c top ih => exact ih (Cells.wf_writeCell h _ _)

theorem Mem.wf_put {m : Mem} (h : Memory.wf m) (start : Nat) (bs : List Byte) : Memory.wf (m.put start bs) :=
  Cells.wf_writeCells h _ _

theorem Mem.wf_clear {m : Mem} (h : Memory.wf m) (start len : Nat) : Memory.wf (m.clear start len) := Cells.wf_clearCells h _ _

theorem Mem.wf_forget {m : Mem} (h : Memory.wf m) (start len : Nat) : Memory.wf (m.forget start len) := Cells.wf_clearCells h _ _

theorem Mem.wf_foldPage {m : Mem} (h : Memory.wf m) (p : PageCopy) : Memory.wf (m.foldPage p) :=
  Cells.wf_overlay (Mem.wf_clear h _ _) _

theorem Mem.wf_move (m : Mem) (f : Nat → Option Nat) : Memory.wf (m.move f) := by
  suffices h : ∀ (cs acc : List Host.Cell), Cells.wf acc → Cells.wf (cs.foldl (fun acc c => match moveAddr f c.1 with
      | some a => writeCell acc a c.2
      | none => acc) acc) from h _ _ ⟨List.Pairwise.nil, fun _ h => absurd h List.not_mem_nil⟩
  intro cs
  induction cs with
  | nil => exact fun _ h => h
  | cons c cs ih =>
    intro acc h
    refine ih _ ?_
    show Cells.wf (match moveAddr f c.1 with | some a => writeCell acc a c.2 | none => acc)
    split
    · exact Cells.wf_writeCell h _ _
    · exact h

theorem Memory.reset_wf : Memory.wf State.reset.mem := ⟨List.Pairwise.nil, fun _ h => absurd h List.not_mem_nil⟩

/-- Bytes written are read back, and every other address reads as before. -/
theorem readCell_writeCells (cs : List Host.Cell) (h : Cells.wf cs) (x : Nat) (vs : List Byte) (y : Nat) :
    readCell (writeCells cs x vs) y = if x ≤ y ∧ y < x + vs.length then vs[y - x]?.getD 0#8 else readCell cs y := by
  induction vs generalizing cs x with
  | nil => rw [if_neg (by simp only [List.length_nil]; omega)]; rfl
  | cons v vs ih =>
    rw [writeCells, ih _ (Cells.wf_writeCell h x v), readCell_writeCell cs h]
    by_cases hx : x = y
    · subst hx; simp
    · by_cases hr : x + 1 ≤ y ∧ y < x + 1 + vs.length
      · rw [if_pos hr, if_pos (by simp; omega)]
        obtain ⟨k, hk⟩ : ∃ k, y - x = k + 1 := ⟨y - x - 1, by omega⟩
        rw [hk, show y - (x + 1) = k by omega]; simp
      · rw [if_neg hr, if_neg hx, if_neg (by simp; omega)]

end Sys2Proof.Machine
end

