-- ==== Sys2Proof/Laws/Steady.lean ====
section
/-! SUPPORT. What a change of the state owes the queue, the fuses and the settings, for the operations that may change settings or start
a cold reset. -/

namespace Sys2Proof.Machine

/-- The queue stays, the fuses are held, and legal settings stay legal. -/
structure Steady (s t : State) : Prop where
  queue : t.pending = s.pending
  fuses : s.fuse.Held t.fuse
  legal : s.cfg.Legal → t.cfg.Legal

theorem Fuse.Held.refl (f : Fuse) : f.Held f := ⟨rfl, Nat.le_refl _⟩

theorem Fuse.Held.trans {f g h : Fuse} (a : f.Held g) (b : g.Held h) : f.Held h :=
  ⟨by have := b.same; rw [a.same] at this; exact this, Nat.le_trans a.fsv b.fsv⟩

theorem Steady.refl (s : State) : Steady s s := ⟨rfl, .refl _, id⟩

theorem Steady.trans {s t u : State} (a : Steady s t) (b : Steady t u) : Steady s u :=
  ⟨b.queue.trans a.queue, a.fuses.trans b.fuses, fun h => b.legal (a.legal h)⟩

theorem kept_pending {s t : State} (h : t.kept = s.kept) : t.pending = s.pending := congrArg (·.1) h
theorem kept_cfg {s t : State} (h : t.kept = s.kept) : t.cfg = s.cfg := congrArg (·.2.1) h
theorem kept_fuse {s t : State} (h : t.kept = s.kept) : t.fuse = s.fuse := congrArg (·.2.2.1) h

theorem Steady.of_kept {s t : State} (h : t.kept = s.kept) : Steady s t :=
  ⟨kept_pending h, by rw [kept_fuse h]; exact .refl _, fun l => by rw [kept_cfg h]; exact l⟩

/-- A chain may begin or end with what keeps everything. -/
theorem Steady.then_kept {s t u : State} (a : Steady s t) (h : u.kept = t.kept) : Steady s u := a.trans (.of_kept h)
theorem Steady.after_kept {s t u : State} (h : t.kept = s.kept) (a : Steady t u) : Steady s u := (Steady.of_kept h).trans a

theorem Steady.foldl {α : Type} (f : State → α → State) (h : ∀ u a, Steady u (f u a)) (l : List α) (s : State) :
    Steady s (l.foldl f s) := by
  induction l generalizing s with
  | nil => exact .refl _
  | cons a l ih => exact (h s a).trans (ih _)

theorem Cfg.Legal.reset : Cfg.reset.Legal where
  lease := by decide
  aperture := by decide
  pool := by decide
  fabCfg := by decide
  fabVlan := by decide
  mac := by decide
  gateway := by decide
  riffle := by decide
  power := by decide
  ring := by decide
  update := by decide
  trace := by decide
  view := by decide

theorem State.modCfg_steady (s : State) (f : Cfg → Cfg) (h : s.cfg.Legal → (f s.cfg).Legal) : Steady s (s.modCfg f) := ⟨rfl, .refl _, h⟩

/-! ### Resets -/

theorem State.coldStart_steady (s : State) (clk : Clk) (strap : BitVec 2) (held : Option (List Nat × Nat)) :
    Steady s (s.coldStart clk strap held) := ⟨rfl, .refl _, fun _ => Cfg.Legal.reset⟩

theorem State.startRung_steady (s : State) (scope : RungScope) (missed : Bool) (engine : Option Engine) (todo : List CtxId) :
    Steady s (s.startRung scope missed engine todo) := by
  unfold State.startRung
  split
  · exact .refl _
  · extract_lets g c0 r0 s1 s2 d0 s3
    have h2 : s2.kept = s.kept := by
      rw [State.forgetKills_kept, State.forCtx_kept _ _ fun _ _ => State.rungCtx_kept .., State.noteRung_kept, State.kept_mk, State.kept_eta]
    clear_value s2
    have h3 : s3.kept = s.kept := by
      unfold s3
      split
      · rw [State.loseEvidence_kept, State.kept_mk, State.kept_eta, h2]
      · exact h2
    clear_value s3
    split
    · exact (State.coldStart_steady ..).then_kept (State.noteRung_kept ..)
    · exact .of_kept (by rw [State.noteRung_kept, State.warmStart_kept])
    · split
      · exact .of_kept (by rw [State.dispatch_kept, h3])
      · exact .of_kept (by rw [State.retestAll_kept, h3])

theorem State.endTrip_steady (s : State) : Steady s s.endTrip := by
  unfold State.endTrip
  split
  · exact State.startRung_steady ..
  · exact .refl _

theorem State.replaceRow_steady (s : State) (r : SramBank × Nat × Nat) : Steady s (s.replaceRow r) := by
  unfold State.replaceRow
  split
  · exact .of_kept rfl
  · split
    · exact .after_kept (State.retireUnit_kept ..) (State.startRung_steady ..)
    · exact .of_kept (State.retireUnit_kept ..)

theorem State.pinReset_steady (s : State) : Steady s s.pinReset :=
  (State.coldStart_steady ..).then_kept (State.noteRung_kept ..)

/-! ### Ownership -/

theorem State.changeOwner_steady (s : State) (new : Option Port) : Steady s (s.changeOwner new) := by
  have h : ∀ u : State, ((u.msixBoth 3).forCtx State.unbindCtx).kept = u.kept := fun u => by
    rw [State.forCtx_kept _ _ fun _ _ => State.unbindCtx_kept .., State.msixBoth_kept]
  unfold State.changeOwner
  extract_lets o1 s1 s2
  have hk : s2.kept = s1.kept := h s1
  have hp : s2.pending = s.pending := (kept_pending hk).trans rfl
  have hf : s2.fuse = s.fuse := (kept_fuse hk).trans rfl
  have hc : s2.cfg = s.cfg := (kept_cfg hk).trans rfl
  clear_value s2
  refine Steady.then_kept ?_ (State.dispatch_kept _)
  refine Steady.then_kept ?_ (State.abandonUpdate_kept _)
  refine ⟨hp, by rw [hf]; exact .refl _, fun l => ?_⟩
  rw [← hc] at l
  exact ⟨l.lease, l.aperture, l.pool, l.fabCfg, l.fabVlan, l.mac, l.gateway, l.riffle, l.power, ⟨l.ring.1, .inl rfl⟩, l.update,
    l.trace, l.view⟩

theorem State.expire_steady (s : State) : Steady s s.expire := by
  unfold State.expire; split
  · exact State.changeOwner_steady ..
  · exact .refl _

theorem State.writeClaim_steady (s : State) (p : Port) (v : Reg) : Steady s (s.writeClaim p v) := by
  unfold State.writeClaim
  split
  · exact .refl _
  · dsimp only
    (repeat' split) <;> first
      | exact s.expire_steady
      | exact s.expire_steady.trans (State.changeOwner_steady ..)

theorem State.writeRelease_steady (s : State) (p : Port) (v : Reg) : Steady s (s.writeRelease p v) := by
  unfold State.writeRelease
  split
  · exact State.changeOwner_steady ..
  · split
    · exact ⟨rfl, .refl _, id⟩
    · exact .refl _

theorem State.releasePort_steady (s : State) (p : Port) : Steady s (s.releasePort p) := by
  unfold State.releasePort; split
  · exact State.changeOwner_steady ..
  · exact .refl _

/-! ### The image -/

theorem readImageCfg_range {bs : List Byte} {c : ImageCfg} (h : readImageCfg bs = some c) :
    (c.pool = 0 ∨ 2 ≤ c.pool ∧ c.pool ≤ 256) ∧ c.lease ≤ 60 := by
  unfold readImageCfg at h
  dsimp only at h
  split at h
  · cases h; rename_i hc; exact ⟨hc.2.2.1, hc.2.2.2.1⟩
  · cases h

theorem imageCfg_range (bs : List Byte) :
    let c := (imageCfg bs).getD { large := false, pool := 0, lease := 0 }
    (c.pool = 0 ∨ 2 ≤ c.pool ∧ c.pool ≤ 256) ∧ c.lease ≤ 60 := by
  cases h : imageCfg bs with
  | none => simp
  | some c =>
    unfold imageCfg at h
    cases h' : sectionOf bs 1 with
    | none => rw [h'] at h; cases h
    | some x => rw [h'] at h; exact readImageCfg_range h

theorem State.takeImage_steady (s : State) (b : Bool) (bs : List Byte) : Steady s (s.takeImage b bs) := by
  unfold State.takeImage
  extract_lets img c
  refine Steady.then_kept ?_ (State.afterImage_kept _)
  refine Steady.then_kept ?_ (State.measureBoot_kept _)
  refine Steady.then_kept ?_ (State.setValid_kept ..)
  refine ⟨rfl, .refl _, fun l => ?_⟩
  show Cfg.Legal (if _ then _ else _)
  split
  · exact l
  · have hr := imageCfg_range img
    refine { l with lease := ?_, pool := ?_ }
    · show 1 ≤ (if c.lease = 0 then 10 else c.lease) ∧ (if c.lease = 0 then 10 else c.lease) ≤ 60
      have : c.lease ≤ 60 := hr.2
      split <;> omega
    · show 2 ≤ (if c.pool = 0 then 8 else c.pool) ∧ (if c.pool = 0 then 8 else c.pool) ≤ 256
      have : c.pool = 0 ∨ 2 ≤ c.pool ∧ c.pool ≤ 256 := hr.1
      split <;> omega

theorem State.trySlot_steady (s : State) : Steady s s.trySlot := by
  unfold State.trySlot
  split
  · exact .refl _
  · rename_i b _
    extract_lets bs b0 s1 s2 left
    have h1 : s1.kept = s.kept := by rw [State.kept_mk, State.kept_eta]
    have h2 : s2.kept = s.kept := by rw [State.setValid_kept, h1]
    clear_value s1 s2
    split
    · exact .after_kept h1 (State.takeImage_steady ..)
    · split
      · exact .of_kept (by rw [State.kept_mk, State.kept_eta, h2])
      · exact .of_kept (by rw [State.kept_mk, State.kept_eta, h2])

/-! ### Register writes -/

theorem State.writeTel_steady (s : State) (path : Path) (off : Nat) (v : Reg) : Steady s (s.writeTel path off v) := by
  unfold State.writeTel
  split
  · unfold State.writeTraceCtl
    split <;> exact ⟨rfl, .refl _, fun l => ⟨l.lease, l.aperture, l.pool, l.fabCfg, l.fabVlan, l.mac, l.gateway, l.riffle, l.power,
      l.ring, l.update, l.trace, l.view⟩⟩
  · refine ⟨rfl, .refl _, fun l => { l with trace := fun i => ?_ }⟩
    simp only [State.writeTracePage, Fin.getElem_fin, Vector.getElem_set]
    split
    · exact Nat.mod_lt _ (by decide)
    · exact l.trace i
  · unfold State.writeViewSel
    split
    · rename_i hv
      refine ⟨rfl, .refl _, fun l => { l with view := fun i => ?_ }⟩
      simp only [Fin.getElem_fin, Vector.getElem_set]
      split
      · exact ⟨hv, Nat.mod_lt _ (by decide)⟩
      · exact l.view i
    · exact .refl _
  · exact .refl _

theorem State.serveMgmt_steady (s : State) (p : OxtPkt) : Steady s (s.serveMgmt p) := by
  unfold State.serveMgmt
  extract_lets q r
  split
  · exact .of_kept (State.answerMgmt_kept ..)
  · split
    · exact .of_kept (State.answerMgmt_kept ..)
    · split
      · exact .of_kept (by rw [State.answerMgmt_kept, State.readRegs_kept])
      · split
        · exact (State.writeTel_steady ..).then_kept (State.answerMgmt_kept ..)
        · exact .of_kept (by rw [State.answerMgmt_kept, State.dropMgmt_kept])

theorem State.writeFab_steady (s : State) (f : Cfg → Cfg) (h : s.cfg.Legal → (f s.cfg).Legal) : Steady s (s.writeFab f) := by
  unfold State.writeFab; split
  · exact .refl _
  · exact s.modCfg_steady f h

theorem State.writeRiffle_steady (s : State) (v : Reg) : Steady s (s.writeRiffle v) := by
  unfold State.writeRiffle
  extract_lets us on s1 again
  split
  · exact .refl _
  · rename_i hu
    have h1 : Steady s s1 := s.modCfg_steady _ fun l => { l with riffle := by dsimp only; omega }
    clear_value s1
    split
    · refine h1.then_kept ?_
      rw [State.forCtx_kept _ _ fun _ _ => State.modCtx_kept .., State.kept_mk, State.kept_eta]
    · exact h1

theorem State.writeRing_steady (s : State) (v : Reg) : Steady s (s.writeRing v) := by
  unfold State.writeRing
  extract_lets n s1
  split
  · rename_i hn
    have h1 : Steady s s1 := s.modCfg_steady _ fun l => { l with ring := ⟨l.ring.1, hn⟩ }
    clear_value s1
    exact h1.then_kept (by rw [State.kept_mk, State.kept_eta])
  · exact .refl _

theorem State.writeReset_steady (s : State) (v : Reg) : Steady s (s.writeReset v) := by
  unfold State.writeReset
  (repeat' split) <;> first
    | exact .refl _
    | exact State.startRung_steady ..

theorem State.writeSvn_steady (s : State) (v : Reg) : Steady s (s.writeSvn v) := by
  unfold State.writeSvn
  split
  · rename_i h
    simp only [Bool.and_eq_true, decide_eq_true_eq] at h
    exact ⟨rfl, ⟨rfl, Nat.le_of_lt h.2⟩, id⟩
  · exact .refl _

theorem State.writeKeyCtl_steady (s : State) (v : Reg) : Steady s (s.writeKeyCtl v) := by
  unfold State.writeKeyCtl
  extract_lets slot
  split
  · unfold State.loadKey
    extract_lets k known
    split
    · exact .refl _
    · refine Steady.then_kept (t := _) ?_ (State.measure_kept ..); exact ⟨rfl, .refl _, id⟩
  · unfold State.eraseKey
    split
    · refine Steady.then_kept (t := _) ?_ (State.measure_kept ..); exact ⟨rfl, .refl _, id⟩
    · exact .refl _
  · exact .refl _

theorem toNat_and_lt (v : Reg) (m : Reg) : (v &&& m).toNat ≤ m.toNat := by
  rw [BitVec.toNat_and]; exact Nat.and_le_right

/-- A permitted write of any offset. -/
theorem State.applyReg_steady (s : State) (p : Port) (off : Nat) (v : Reg) : Steady s (s.applyReg p off v) := by
  unfold State.applyReg
  split
  · exact State.writeClaim_steady ..
  · exact .of_kept (State.writeRenew_kept ..)
  · exact State.writeRelease_steady ..
  · split
    · rename_i h; exact s.modCfg_steady _ fun l => { l with lease := h }
    · exact .refl _
  · split
    · rename_i h
      refine s.modCfg_steady _ fun l => { l with aperture := fun i => ?_ }
      simp only [Fin.getElem_fin, Vector.getElem_set]
      split
      · exact h
      · exact l.aperture i
    · exact .refl _
  · exact .of_kept (State.writeClientClear_kept ..)
  · split
    · rename_i h; exact s.modCfg_steady _ fun l => { l with pool := ⟨h.1, h.2.1⟩ }
    · exact .refl _
  · exact .of_kept (State.writeCover_kept ..)
  · split
    · rename_i h; exact s.modCfg_steady _ fun l => { l with ring := ⟨h, l.ring.2⟩ }
    · exact .refl _
  · exact s.modCfg_steady _ fun l => { l with }
  · exact State.writeRing_steady ..
  · exact s.modCfg_steady _ fun l => { l with }
  · exact s.modCfg_steady _ fun l => { l with }
  · exact .of_kept (State.writeIntgInject_kept ..)
  · exact State.writeReset_steady ..
  · exact .of_kept (State.writeHbmInject_kept ..)
  · refine s.writeFab_steady _ fun l => { l with fabCfg := ?_ }
    show (v &&& 0xFFFFFFF0#32).toNat % 16 = 0
    rw [BitVec.toNat_and, show (16 : Nat) = 2 ^ 4 from rfl, ← Nat.and_two_pow_sub_one_eq_mod, Nat.and_assoc]
    exact Nat.and_zero _
  · exact s.writeFab_steady _ fun l => { l with fabVlan := Nat.lt_succ_of_le (toNat_and_lt v 0xFFF#32) }
  · split
    · rename_i h; exact s.writeFab_steady _ fun l => { l with mac := ⟨h, l.mac.2⟩ }
    · exact .refl _
  · exact s.writeFab_steady _ fun l => { l with mac := ⟨l.mac.1, Nat.lt_succ_of_le (toNat_and_lt v 0xFFFF#32)⟩ }
  · exact s.writeFab_steady _ fun l => { l with }
  · exact s.writeFab_steady _ fun l => { l with gateway := Nat.lt_succ_of_le (toNat_and_lt v 0xFFFF#32) }
  · exact State.writeRiffle_steady ..
  · exact .of_kept (State.writeFence_kept ..)
  · split
    · rename_i h; exact s.modCfg_steady _ fun l => { l with power := h }
    · exact .refl _
  · exact State.writeSvn_steady ..
  · exact State.writeKeyCtl_steady ..
  · exact .of_kept (State.writeAttest_kept ..)
  · split
    · rename_i h; exact s.modCfg_steady _ fun l => { l with update := ⟨h, l.update.2⟩ }
    · exact .refl _
  · exact s.modCfg_steady _ fun l =>
      { l with update := ⟨l.update.1, Nat.lt_succ_of_le (toNat_and_lt v 0xFFFF#32), l.update.2.2⟩ }
  · split
    · rename_i h; exact s.modCfg_steady _ fun l => { l with update := ⟨l.update.1, l.update.2.1, h⟩ }
    · exact .refl _
  · exact .of_kept (State.writeUpdCtl_kept ..)
  · exact State.writeTel_steady s (.port p) 0x4 v
  · exact State.writeTel_steady s (.port p) 0xC v
  · exact State.writeTel_steady s (.port p) 0x10 v
  · split
    · exact s.writeFab_steady _ fun l => { l with }
    · exact s.modCfg_steady _ fun l => { l with }
    · exact s.modCfg_steady _ fun l => { l with }
    · exact .refl _

/-- A write of any register by any host. -/
theorem State.writeReg_steady (s : State) (off : Nat) (w : RegWrite) : Steady s (s.writeReg off w) := by
  unfold State.writeReg
  split
  · exact .refl _
  · split
    · exact .of_kept (State.emit_kept ..)
    · split
      · exact .refl _
      · split
        · exact .refl _
        · split
          · exact State.applyReg_steady ..
          · exact .of_kept (State.discardForeign_kept ..)
        · exact State.applyReg_steady ..

end Sys2Proof.Machine
end

