-- ==== Sys2Proof/Laws/Steps.lean ====
section
/-! SUPPORT. What the end of a step can change: the steps of its own context and what they leave there, the groups, the flows, the counts
of its client, the trace and the outputs; everything else of the state stays. -/

namespace Sys2Proof.Machine

/-- The state without contexts, Weir, base memory, Sluice, flows, trace, kills and outputs. -/
def State.outer (s : State) : State :=
  { s with ctxs := State.reset.ctxs, weir := Weir.reset, mem := State.reset.mem, slu := Slu.reset, fab := { s.fab with flows := [] }
           tel := State.reset.tel, out := [], rcv := { s.rcv with kills := [] } }

/-- A context without its steps and what the end of a step writes into it. -/
def Ctx.face (x : Ctx) : Ctx :=
  { x with steps := [], wcFlag := false, carryOk := false, folds := [], restore := none, load := none, models := [], pred := none
           regs := { x.regs with results := 0, lastCode := 0#8, lastSeq := 0#32 }, rings := { x.rings with kept := [] } }

/-- Steps of context `c` may have ended between two states, and nothing else that the rest of the device sees. -/
structure State.Ended (c : CtxId) (s t : State) : Prop where
  outer  : t.outer = s.outer
  others : ∀ d : CtxId, d ≠ c → t.ctx d = s.ctx d
  face   : (t.ctx c).face = (s.ctx c).face
  steps  : ∀ u ∈ (t.ctx c).steps, u ∈ (s.ctx c).steps
  slu    : { t.slu with clients := [] } = { s.slu with clients := [] }

theorem State.Ended.refl (c : CtxId) (s : State) : State.Ended c s s := ⟨rfl, fun _ _ => rfl, rfl, fun _ h => h, rfl⟩

theorem State.Ended.trans {c : CtxId} {s t u : State} (a : State.Ended c s t) (b : State.Ended c t u) : State.Ended c s u :=
  ⟨b.outer.trans a.outer, fun d h => (b.others d h).trans (a.others d h), b.face.trans a.face, fun x h => a.steps x (b.steps x h),
    b.slu.trans a.slu⟩

theorem State.Ended.foldl {α : Type} {c : CtxId} (f : State → α → State) (h : ∀ u a, State.Ended c u (f u a)) (l : List α) (s : State) :
    State.Ended c s (l.foldl f s) := by
  induction l generalizing s with
  | nil => exact .refl ..
  | cons a l ih => exact (h s a).trans (ih _)

/-- An operation that leaves every context and Sluice alone. -/
theorem State.Ended.of_ctxs {c : CtxId} {s t : State} (h : t.outer = s.outer) (hc : t.ctxs = s.ctxs) (hs : t.slu = s.slu) :
    State.Ended c s t := by
  have e : ∀ d, t.ctx d = s.ctx d := fun d => by unfold State.ctx; rw [hc]
  exact ⟨h, fun d _ => e d, by rw [e], fun x m => by rwa [e] at m, by rw [hs]⟩

/-- An operation on the context itself. -/
theorem State.Ended.of_modCtx {c : CtxId} (s : State) (f : Ctx → Ctx) (hf : ∀ x, (f x).face = x.face)
    (hs : ∀ x, ∀ u ∈ (f x).steps, u ∈ x.steps) : State.Ended c s (s.modCtx c f) :=
  ⟨rfl, fun d h => by simp [Ne.symm h], by simp [hf], fun u m => by
    simp only [State.modCtx_ctx, if_pos] at m; exact hs _ u m, rfl⟩

theorem State.trace_outer (s : State) (a b c d : Nat) :
    (s.trace a b c d).outer = s.outer ∧ (s.trace a b c d).ctxs = s.ctxs ∧ (s.trace a b c d).slu = s.slu := by
  unfold State.trace; split <;> exact ⟨rfl, rfl, rfl⟩

theorem State.Ended.trace (c : CtxId) (s : State) (a b d e : Nat) : State.Ended c s (s.trace a b d e) :=
  .of_ctxs (s.trace_outer a b d e).1 (s.trace_outer a b d e).2.1 (s.trace_outer a b d e).2.2

theorem State.Ended.emits (c : CtxId) (s : State) (os : List Output) : State.Ended c s (s.emits os) := .of_ctxs rfl rfl rfl

theorem State.Ended.sendOnFlow (c d : CtxId) (s : State) (p : OxtPkt) : State.Ended c s (s.sendOnFlow d p) := by
  unfold State.sendOnFlow; dsimp only; (repeat' split) <;> exact .of_ctxs rfl rfl rfl

theorem State.Ended.sendAborts (c d : CtxId) (s : State) (n : BitVec 64) : State.Ended c s (s.sendAborts d n) := by
  refine .foldl _ (fun u a => ?_) _ _
  split
  · exact .sendOnFlow ..
  · exact .refl ..

theorem State.Ended.putEntry (c : CtxId) (s : State) (e : Entry64) : State.Ended c s (s.putEntry c e) := by
  unfold State.putEntry
  extract_lets x n t r s'
  have h : State.Ended c s s' := by
    unfold s'; refine ⟨rfl, fun d h => ?_, ?_, fun u m => ?_, rfl⟩
    · simp [Ne.symm h]
    · simp [Ctx.face, x, t, r]
    · simpa [x] using m
  split
  · exact h
  · refine h.trans ?_
    unfold State.msixOwner
    split <;> exact .of_ctxs rfl rfl rfl

/-- One step ends. -/
theorem State.Ended.abortOne (s : State) (c : CtxId) (t : Step) (code : Code) (reason : Reason) (index : Nat) (tell : Bool) :
    State.Ended c s (s.abortOne c t code reason index tell) := by
  unfold State.abortOne
  extract_lets r s1 s2 killed s3 s3' s3'' s4 s5 s6 s7 s8
  have h1 : State.Ended c s s1 := by
    unfold s1; split
    · exact .of_ctxs rfl rfl rfl
    · exact .refl ..
  have h2 : State.Ended c s s2 := h1.trans (by
    unfold s2; split
    · exact .of_ctxs rfl rfl rfl
    · exact .refl ..)
  have h3 : State.Ended c s s3' := h2.trans ((State.Ended.foldl _ (fun _ _ => .trace ..) _ _).trans (.emits ..))
  have h3' : State.Ended c s s3'' := h3.trans (.of_ctxs rfl rfl rfl)
  have h4 : State.Ended c s s4 := h3'.trans (by
    unfold s4; split
    · exact .sendAborts ..
    · exact .refl ..)
  have h5 : State.Ended c s s5 := h4.trans (.of_modCtx _ _ (fun _ => rfl) fun _ _ m => (List.mem_filter.mp m).1)
  have h6 : State.Ended c s s6 := h5.trans ⟨rfl, fun _ _ => rfl, rfl, fun _ m => m, rfl⟩
  have h8 : State.Ended c s s8 := (h6.trans (.trace ..)).trans (by
    unfold s8 State.freezeTrace; (repeat' split) <;> exact .of_ctxs rfl rfl rfl)
  exact h8.trans (.putEntry ..)

theorem State.Ended.abortFollowers (c : CtxId) (code : Code) (tell : Bool) (ts : List Step) (prev : Bool) (s : State) :
    State.Ended c s (State.abortFollowers c code tell ts prev s) := by
  induction ts generalizing prev s with
  | nil => exact .refl ..
  | cons t ts ih =>
    unfold State.abortFollowers
    split
    · exact ih ..
    · split
      · exact (State.Ended.abortOne ..).trans (ih ..)
      · exact ih ..

/-- A step and what follows it end. -/
theorem State.Ended.abortStep (s : State) (c : CtxId) (uid : Nat) (code : Code) (reason : Reason) (index : Nat) (tell : Bool) :
    State.Ended c s (s.abortStep c uid code reason index tell) := by
  unfold State.abortStep
  split
  · exact .refl ..
  · split
    · exact .refl ..
    · exact (State.Ended.abortOne ..).trans (.abortFollowers ..)

/-- The step that ends leaves its context. -/
theorem State.abortOne_gone (s : State) (c : CtxId) (t : Step) (code : Code) (reason : Reason) (index : Nat) (tell : Bool) :
    ∀ u ∈ ((s.abortOne c t code reason index tell).ctx c).steps, u.uid ≠ t.uid := by
  unfold State.abortOne
  extract_lets r s1 s2 killed s3 s3' s3'' s4 s5 s6 s7 s8
  have h5 : ∀ u ∈ (s5.ctx c).steps, u.uid ≠ t.uid := by
    intro u m
    unfold s5 at m
    simp only [State.modCtx_ctx, if_pos, List.mem_filter] at m
    simpa using m.2
  have h6 : ∀ u ∈ (s6.ctx c).steps, u.uid ≠ t.uid := h5
  have h8 : State.Ended c s6 s8 := (State.Ended.trace ..).trans (by
    unfold s8 State.freezeTrace; (repeat' split) <;> exact .of_ctxs rfl rfl rfl)
  exact fun u m => h6 u ((h8.trans (.putEntry ..)).steps u m)

theorem State.abortStep_gone (s : State) (c : CtxId) (uid : Nat) (code : Code) (reason : Reason) (index : Nat) (tell : Bool) {t : Step}
    (h : (s.ctx c).step? uid = some t) (hc : t.state ≠ .committed) :
    ∀ u ∈ ((s.abortStep c uid code reason index tell).ctx c).steps, u.uid ≠ uid := by
  have hu : t.uid = uid := by simpa using List.find?_some h
  unfold State.abortStep
  rw [h]
  dsimp only
  rw [if_neg hc]
  exact fun u m => hu ▸ State.abortOne_gone _ _ _ _ _ _ _ u ((State.Ended.abortFollowers ..).steps u m)

end Sys2Proof.Machine
end

