-- ==== Sys2Proof/WellFormed.lean ====
section
/-! DEFINITION. Which commands can arrive: the ranges that the spec gives their operands. `exec` is total, so nothing
rests on a command being well formed; an ill-formed one names a unit or carries a size that the device does not have. -/

namespace Sys2Proof

/-- The engines of R44: 48 cores, five complexes of 32 channels, 24 clusters, four agents. -/
def Engine.wf : Engine → Bool
  | .matrix c => decide (c < 48)
  | .vector c => decide (c < 48)
  | .dma x ch => decide (x < 5) && decide (ch < 32)
  | .update c => decide (c < 24)
  | .coll a => decide (a < 4)

/-- A step carries at most 4,096 commands (R324). -/
def CmdRef.wf (r : CmdRef) : Bool := decide (r.idx < 4096)

/-- A record's payload leaves room for its header and trailer in 32,768 bytes (R318). -/
def RecordIn.wf (r : RecordIn) : Bool := decide (r.payload.length ≤ 32736)

/-- A PCIe write of at least one DWORD (R460). -/
def RegWrite.wf (w : RegWrite) : Bool := decide (0 < w.dwords)

/-- A message carries at most a chunk of 64 MiB (R231). -/
def OxtPkt.wf (p : OxtPkt) : Bool := decide (p.payload.length ≤ 2 ^ 26)

/-- A mesh packet carries one enable for each of its data bytes, or none (R181). -/
def MeshPkt.wf (p : MeshPkt) : Bool := p.enables.isEmpty || p.enables.length == p.data.length

/-- A finding gives one weight for each of the 15 data lines, at the read and at its repeat (R144, R147). -/
def GroupFinding.wf (f : GroupFinding) : Bool := f.first.length == 15 && f.again.length == 15

/-- The commands whose operands are in range. -/
def Instr.wf : Instr → Bool
  | .create r | .teardown r | .preempt r | .rebind r | .stepHead r | .commands r | .epoch r | .groupTable r
  | .peerAddress r | .riffleTargets r | .mirrorConfiguration r | .restore r | .pattern r | .join r | .leave r
  | .stop r | .manifest r | .load r | .final r => r.wf
  | .intakeWindowWrite _ _ off bs => decide (off.toNat + bs.length ≤ 65536)
  | .commandRelease c | .matrixCommandComplete c | .vectorCommandComplete c | .dmaCommandComplete c _
  | .updateCommandComplete c | .collectiveCommandComplete c | .overrun c | .checkerMismatch c _ _ _
  | .weirPageWrite c _ | .dmaBurstComplete c _ => c.wf
  | .timeSliceBoundary e | .watchdogExpiry e | .suspectReplayComplete e _ _ _ | .quarantineLimit e => e.wf
  | .fetchRequest p | .fetchChunk p | .fetchAbsent p | .mirrorChunk p | .mirrorDigest p | .mirrorRepeat p
  | .mirrorSeal p | .mirrorClean p | .mirrorDiscard p | .mirrorRefuse p | .take p | .none p | .collectiveMessage p
  | .stageQueueData p | .oxtAck p | .oxtNack p | .oxtResetNack p | .oxtAbort p | .managementRequest p => p.wf
  | .meshPacketArrival p => p.wf
  | .hbmGroupRead g _ f => f.wf && decide (g < 256 * Config.channelGroups)
  | .hbmScrubGroup f => f.wf
  | .bar4Read _ off len => decide (off + len ≤ 2 ^ 36)
  | .bar4Write _ off bs => decide (off + bs.length ≤ 2 ^ 36)
  | .registerWrite off w => w.wf && decide (off < 2 ^ 20)
  | .ownClaim w | .ownRenew w | .ownRelease w | .ownOffer w | .fabFence w | .rcvReset w | .sluClientClear w
  | .hbmInject w | .intgInject w | .intgCover w | .bootUpdGo w | .secSvnCommit w | .keyLoad w | .keyErase w
  | .attestationGo w | .traceClear w => w.wf
  | .manifestVerified | .stepStart _ | .commit _ _ | .reducedRecord _ _ _ | .collectiveDeadline _ _
  | .walkComplete _ _ | .servingPeriodStart _ | .fetchWaitExpiry _ _ | .mirrorStreamEnd _ | .mirrorStreamDeadline _
  | .restoreWaitExpiry _ _ | .notReadyWaitExpiry _ | .retransmitTimeout _ | .ackTimer _ | .riffleProbe _ _
  | .riffleEcho _ _ | .riffleInterval | .riffleTimerExpiry _ _ | .pfcFrame _ _ _ | .pauseStorm _ _ | .portUp _ _
  | .portDown _ | .reqRise _ _ | .requestLineParityFault _ _ | .ucieReplayLimit _ | .ucieModuleRepair _ _
  | .ringBreak _ _ | .retrainSlot | .retrainResult _ | .hbmParityError _ _ _ | .hbmTemperatureRead _ _
  | .migrationStart | .migrationCommit _ | .sramScrub _ _ | .spareRowReplace | .stepBoundaryRetirement
  | .eddyRecomputeComplete _ _ _ _ _ | .eddyVote _ | .checkerRepeat _ | .repeatPending | .signatureRecordExport
  | .rungComplete _ | .rungBoundMiss _ | .heartbeatMiss _ | .unitBoundMiss _ | .teardownComplete _ | .offerLapse
  | .leaseExpiry | .perst _ | .functionLevelReset _ | .hotReset _ | .pcieLinkTrained _ _ _ _ | .pcieLinkDown _
  | .fenceRead _ _ | .pwrNowLoRead _ | .weirMirCleanLoRead _ | .bootJrnSeqLoRead _ | .imageUpdateDone _
  | .attestationSigned | .pwrgdInRise _ | .pwrgdInFall | .resetInNAssert _ | .resetInNRelease _
  | .journalReplayDone _ | .bootImageVerified | .firmwareFetchDone _ _ | .firmwareFetchTimeout _
  | .hbmTrainingDone _ | .hbmInitialised | .identityKeyDerived | .startUpTestDone _ | .weirRebuildDone
  | .journalAppend _ | .compactionDone _ | .areaEraseDone _ | .timeMark | .zoneTemperatureRead _ _ | .powerWindow _
  | .powerLevelFall | .clockCheck _ | .testPortBypassExit => true

end Sys2Proof
end

