-- ==== Sys2Proof/Tests/Slice0.lean ====
section
/-! SUPPORT. Small tests of the model: each operand check refuses an ill-formed command, values that the spec or its standards give, and for
each statement of Certificates/Slice0/Obligations.lean a concrete state and operands that meet its hypotheses, clause by clause. -/

namespace Sys2Proof.Tests

set_option Elab.async false

open Sys2Proof.Machine

/-! ### Ill-formed commands are refused -/

theorem test_wf_engine_matrix : Instr.wf (.watchdogExpiry (.matrix 48)) = false := by decide
theorem test_wf_engine_vector : Instr.wf (.watchdogExpiry (.vector 48)) = false := by decide
theorem test_wf_engine_dma : Instr.wf (.timeSliceBoundary (.dma 5 0)) = false ∧ Instr.wf (.timeSliceBoundary (.dma 0 32)) = false := by decide
theorem test_wf_engine_update : Instr.wf (.quarantineLimit (.update 24)) = false := by decide
theorem test_wf_engine_coll : Instr.wf (.watchdogExpiry (.coll 4)) = false := by decide
theorem test_wf_command : Instr.wf (.overrun { ctx := 0, step := 0, idx := 4096 }) = false := by decide
theorem test_wf_window : Instr.wf (.intakeWindowWrite .p0 0 0xFFFF#16 [0#8, 0#8]) = false := by decide
theorem test_wf_register : Instr.wf (.registerWrite 0x100000 { port := .p0, value := 0#32 }) = false := by decide
theorem test_wf_write : Instr.wf (.ownClaim { port := .p0, value := 0#32, dwords := 0 }) = false := by decide
theorem test_wf_aperture : Instr.wf (.bar4Read .p0 (2 ^ 36) 1) = false ∧ Instr.wf (.bar4Write .p0 (2 ^ 36) [0#8]) = false := by decide
theorem test_wf_finding :
    Instr.wf (.hbmScrubGroup { first := [], crcFirst := false, again := List.replicate 15 0, crcAgain := false }) = false := by decide
theorem test_wf_group : Instr.wf (.hbmGroupRead (2 ^ 30) none
    { first := List.replicate 15 0, crcFirst := false, again := List.replicate 15 0, crcAgain := false }) = false := by decide
theorem test_wf_mesh : Instr.wf (.meshPacketArrival
    { gen := 0, ctx := 0, typ := 1, lines := 0, src := 0, dst := 0, addr := 0, region := none, enables := [true], data := [], cmd := none })
      = false := by decide

/-- An OXT packet of no meaning, whose fields the tests change. -/
def pkt : OxtPkt :=
  { good := true, port := 0, srcAddr := 0, srcPort := 0, ver := 1, typ := 0, cls := 0, flow := 0, retx := false, srcRank := 1, dstRank := 0
    job := 7, epoch := 1, srcGen := 1, dstGen := 0, psn := 0, ackPsn := 0, credit := 0, step := 0, cmd := 0, reason := 0, slot := 0
    offset := 0, payload := [] }

theorem test_wf_message (p : OxtPkt) (h : p.payload.length = 67108865) : Instr.wf (.oxtAck p) = false := by
  simp [Instr.wf, OxtPkt.wf, h]
theorem test_wf_record (r : RecordIn) (h : r.payload.length = 32737) : Instr.wf (.create r) = false := by
  simp [Instr.wf, RecordIn.wf, h]

/-! ### Values that the standards and the spec give -/

/-- CRC-32C of the nine ASCII digits (RFC 3720's check value; R318 names the CRC). -/
theorem test_crc32c : crc32c [0x31#8, 0x32#8, 0x33#8, 0x34#8, 0x35#8, 0x36#8, 0x37#8, 0x38#8, 0x39#8] = 0xE3069283#32 := by decide +kernel

/-- SHA-256 of "abc" (FIPS 180-4's example). -/
theorem test_sha256 : sha256 [0x61#8, 0x62#8, 0x63#8]
    = 0xBA7816BF8F01CFEA414140DE5DAE2223B00361A396177A9CB410FF61F20015AD#256 := by decide +kernel

/-- No row of the table has bits, so no word spells a command. -/
theorem test_no_words : decodeTableWord 32 0 = none ∧ decodeTableWord 16 0xFFFF = none := by decide

/-! ### States -/

/-- A device in service: port 0 owns it, both links are up, and nothing is resident. -/
def up0 : State := { State.reset with
  clk := { State.reset.clk with now := 1000000000 }
  own := { State.reset.own with
    owner := some .p0, leaseEnd := 11000000000, links := Vector.replicate 2 { state := .up, speed := 2, width := 16, mps := 2 } }
  slu := { Slu.reset with admitting := true }
  weir := { Weir.reset with ready := true }
  hbm := { Hbm.reset with ready := true, initialised := true }
  mem := { State.reset.mem with undef := [] }
  dma := { Dma.reset with ready := Vector.replicate 5 true }
  boot := { Boot.reset with phase := .ready, trained := true, reconciled := true, mgmt := true } }

/-- The same with a context in place. -/
def withCtx (s : State) (c : CtxId) (x : Ctx) : State := { s with ctxs := s.ctxs.set c x }

/-- An active training context of a job of four ranks, this device being rank 0 in epoch 1. -/
def busy : Ctx := { Ctx.reset with
  state := .active, role := .training
  regs := { Ctx.reset.regs with gen := 1 }
  job := { Ctx.reset.job with tag := 7, count := 4, rank := some 0, epoch := 1 } }

/-- Context 3 is the training context. -/
def up1 : State := withCtx up0 3 busy

/-- Context 3 is a serving context of the job. -/
def up2 : State := withCtx up0 3 { busy with role := .serving }

/-- A record for context `c` with SEQ 1, and the same summed as R318 says for TYPE `typ`. -/
def bare (c : CtxId) (flags : BitVec 8) (payload : List Byte) : RecordIn :=
  { port := .p0, ctx := c, flags := flags, length := BitVec.ofNat 16 (2 + payload.length / 16), client := 9, hdrZero := 0, tag := 5
    payload := payload, seq := 1, sealWd := Config.sealWord, trlZero := 0, crc := 0 }
def record (typ : Nat) (c : CtxId) (flags : BitVec 8) (payload : List Byte) : RecordIn :=
  { bare c flags payload with crc := crc32c ((recordBytes typ (bare c flags payload)).take (28 + payload.length)) }

theorem record_bytes (typ : Nat) (r : RecordIn) (c : BitVec 32) :
    (recordBytes typ { r with crc := c }).take (28 + r.payload.length) = (recordBytes typ r).take (28 + r.payload.length) := by
  have h : ∀ (x y z : List Byte), x.length = 28 + r.payload.length →
      (x ++ y).take (28 + r.payload.length) = (x ++ z).take (28 + r.payload.length) := by
    intro x y z hx; rw [← hx, List.take_left, List.take_left]
  have hl : ∀ n v, (leBytes n v).length = n := by intro n; induction n <;> simp [leBytes, *]
  simp only [recordBytes]
  apply h
  simp [hl]; omega

/-- A record that arrives whole in an empty window of a context that takes records is taken. -/
theorem record_taken (s : State) (typ : Nat) (c : CtxId) (flags : BitVec 8) (p : List Byte)
    (h : (s.powered = true ∧ s.warming = false ∧ s.cooling = false) ∧ s.linkUp .p0 = true ∧ s.own.owner = some .p0 ∧ s.judging c = true
      ∧ (s.ctx c).regs.window = [] ∧ (s.ctx c).regs.seq = 1 ∧ (s.ctx c).unbound = false)
    (hp : p.length % 16 = 0 ∧ p.length ≤ 4096 ∧ flags.toNat / 2 = 0) : s.Takes typ (record typ c flags p) where
  powered := h.1.1
  running := h.1.2
  link := h.2.1
  owner := h.2.2.1
  judging := h.2.2.2.1
  window := h.2.2.2.2.1
  size := by simp [record, bare]; omega
  zeros := ⟨hp.2.2, rfl, rfl⟩
  sealed := rfl
  seq := h.2.2.2.2.2.1.symm
  crc := congrArg crc32c (record_bytes typ (bare c flags p) _).symm
  bound := .inl h.2.2.2.2.2.2

/-- Bytes of a payload: fields of (offset, width, value), and zeros elsewhere. -/
def build (len : Nat) (fs : List (Nat × Nat × Nat)) : List Byte :=
  (List.range len).map fun i =>
    match fs.find? fun f => decide (f.1 ≤ i ∧ i < f.1 + f.2.1) with
    | some f => BitVec.ofNat 8 (f.2.2 / 256 ^ (i - f.1))
    | none => 0#8

/-! ### What the statements assume can be met: the machine and records -/

/-- StepTakesFront: a queue with a command in front, and an empty one with and without power. -/
theorem wit_stepTakesFront : ({ up0 with pending := [.timeMark] } : State).pending = .timeMark :: [] ∧ up0.pending = [] ∧ up0.powered = true
    ∧ ({ up0 with clk := { up0.clk with pwrgd := false } } : State).powered = false := by decide +kernel

/-- SettingsStayLegal and FusesHeld: the state after reset meets the premises, and a step from it answers. -/
theorem wit_settingsStayLegal : 1 ≤ State.reset.cfg.leaseCfg ∧ State.reset.cfg.leaseCfg ≤ 60 ∧ step State.reset
    = .next { State.reset with clk := { State.reset.clk with now := 2 } } := by
  refine ⟨by decide, by decide, rfl⟩

/-- OnlyTheseConfigure: a command of the others. -/
theorem wit_onlyTheseConfigure : mayConfigure .timeMark = false ∧ mayConfigure (.create (record 1 0 0 [])) = false := by decide

def groupsPayload : List Byte := build 32 [(0, 4, 6), (4, 4, 1), (8, 4, 4), (12, 2, 0), (14, 2, 1), (16, 2, 2), (18, 2, 3)]

theorem wit_groupTable :
    (let r := record 0x21 3 0 groupsPayload
     let g := readGroups r.payload (min (field r.payload 4 4) 64) 8
     ((up1.ctx r.ctx).state = .active ∧ (up1.ctx r.ctx).asm = none ∧ (up1.ctx r.ctx).job.tag ≠ 0#32)
      ∧ (1 ≤ field r.payload 4 4 ∧ field r.payload 4 4 ≤ 64) ∧ packed r.payload g.2 = true
      ∧ (∀ l ∈ g.1, l ≠ [] ∧ ascending (up1.ctx r.ctx).job.count l = true) ∧ g.1.head? = some (List.range (up1.ctx r.ctx).job.count))
    ∧ up1.Takes 0x21 (record 0x21 3 0 groupsPayload) := by
  refine ⟨by decide +kernel, record_taken _ _ _ _ _ (by decide +kernel) (by decide +kernel)⟩

def peersPayload : List Byte := build 144 [(0, 4, 8), (4, 4, 4), (16, 16, 77), (32, 6, 5)]

theorem wit_peerAddress :
    (let r := record 0x22 3 0 peersPayload
     let n := (up1.ctx r.ctx).job.count
     field r.payload 4 4 = n ∧ packed r.payload (16 + 32 * n) = true ∧ gap r.payload 8 16 = true
      ∧ (∀ i < n, zeroAt (slice r.payload (16 + 32 * i) 32) 22 10 = true)
      ∧ (allCtx.map fun d => if d ≠ r.ctx ∧ (up1.ctx d).job.peers.isSome then 8 * (up1.ctx d).job.count else 0).sum + 8 * n ≤ 262144)
    ∧ up1.Takes 0x22 (record 0x22 3 0 peersPayload) := by
  refine ⟨by decide +kernel, record_taken _ _ _ _ _ (by decide +kernel) (by decide +kernel)⟩

def targetsPayload : List Byte := build 16 [(0, 4, 2), (4, 2, 1), (6, 1, 7), (7, 1, 7), (8, 2, 3)]

theorem wit_riffleTargets :
    (let r := record 0x23 3 0 targetsPayload
     let n := field r.payload 0 4
     n ≤ 128 ∧ packed r.payload (4 + 4 * n) = true
      ∧ (∀ i < n, field r.payload (4 + 4 * i) 2 < (up1.ctx r.ctx).job.count ∧ field r.payload (6 + 4 * i) 1 < 8
          ∧ field r.payload (7 + 4 * i) 1 < 8))
    ∧ up1.Takes 0x23 (record 0x23 3 0 targetsPayload) := by
  refine ⟨by decide +kernel, record_taken _ _ _ _ _ (by decide +kernel) (by decide +kernel)⟩

def createPayload : List Byte := build 48 [(0, 1, 0), (4, 4, 7), (8, 2, 16384), (16, 8, 41), (24, 8, 4096), (32, 1, 16), (40, 8, 64)]

theorem wit_create :
    ((up0.ctx 2).state = .free ∧ (up0.ctx 2).asm = none ∧ (parseCreate (record 1 2 0 createPayload).payload).isSome = true
      ∧ up0.hw.retired = false)
    ∧ up0.Takes 0x01 (record 1 2 0 createPayload) := by
  refine ⟨by decide +kernel, record_taken _ _ _ _ _ (by decide +kernel) (by decide +kernel)⟩

/-- An admitted step of no commands. -/
def step0 : Step :=
  { uid := 0, kind := .host
    hdr := { step := 100, base := 0, commitDl := 1000000, startDelay := 0, p := 4, count := 0, follows := false, allowance := 0, mode := 0
             carryIn := false, job := false, seqLen := 0, c := 4, alloc := 0, allocCount := 0 }
    tag := 5, seq := 1, client := 9, tL := 999990000, t0 := 1000000000, state := .admitted, slot := none, cmds := [], alloc := []
    reverted := false, condFlag := false, prepared := 0, sweep := false, digest := 0, late := false }

/-- Context 3 with steps, numbered below the next. -/
def withSteps (s : State) (ts : List Step) : State :=
  { withCtx s 3 { s.ctx 3 with steps := ts } with slu := { s.slu with nextUid := ts.length } }

theorem numbered_of (s : State) (h : ∀ c ∈ allCtx, ((s.ctx c).steps.map (·.uid)).Nodup ∧ ∀ u ∈ (s.ctx c).steps, u.uid < s.slu.nextUid) :
    s.Numbered := fun c => h c (by revert c; decide)

theorem wit_preempt :
    (packed (record 3 3 0 (build 16 [(0, 8, 2 ^ 64 - 1)])).payload 8 = true ∧ (withSteps up1 [step0]).Numbered)
    ∧ (withSteps up1 [step0]).Takes 0x03 (record 3 3 0 (build 16 [(0, 8, 2 ^ 64 - 1)])) := by
  refine ⟨⟨by decide +kernel, numbered_of _ (by decide +kernel)⟩, record_taken _ _ _ _ _ (by decide +kernel) (by decide +kernel)⟩

theorem wit_teardown :
    (packed (record 2 3 0 []).payload 0 = true ∧ (up1.ctx 3).steps = [] ∧ (up1.ctx 3).stream = none ∧ up1.recv.ctx ≠ some 3)
    ∧ up1.Takes 0x02 (record 2 3 0 []) := by
  refine ⟨by decide +kernel, record_taken _ _ _ _ _ (by decide +kernel) (by decide +kernel)⟩

def rebindT : List Byte := build 64 [(0, 8, 4096), (8, 1, 8), (16, 8, 128), (24, 8, 1)]
def rebindS : List Byte := build 64 [(0, 8, 4096), (8, 1, 16), (16, 8, 128), (24, 8, 1), (32, 8, 8192), (40, 1, 20), (48, 8, 64)]

theorem wit_rebind :
    ((let p := (record 4 3 0 rebindT).payload
      packed p 64 = true ∧ gap p 9 16 = true ∧ gap p 41 48 = true ∧ (8 ≤ field p 8 1 ∧ field p 8 1 ≤ 16)
        ∧ (up1.ctx 3).role = .training ∧ zeroAt p 32 32 = true)
      ∧ (let p := (record 4 3 0 rebindS).payload
         packed p 64 = true ∧ gap p 9 16 = true ∧ gap p 41 48 = true ∧ (8 ≤ field p 8 1 ∧ field p 8 1 ≤ 16)
           ∧ (up2.ctx 3).role = .serving ∧ 9 ≤ field p 40 1 ∧ field p 40 1 ≤ 20))
    ∧ up1.Takes 0x04 (record 4 3 0 rebindT) ∧ up2.Takes 0x04 (record 4 3 0 rebindS) := by
  refine ⟨by decide +kernel, record_taken _ _ _ _ _ (by decide +kernel) (by decide +kernel),
    record_taken _ _ _ _ _ (by decide +kernel) (by decide +kernel)⟩

theorem wit_gathered :
    ((record 0x10 3 0 (build 64 [])).flags.toNat % 2 = 0 ∧ (record 0x10 3 0 (build 64 [])).payload.length % 64 = 0
      ∧ 64 ≤ (record 0x10 3 0 (build 64 [])).payload.length ∧ (up1.ctx 3).asm = none)
    ∧ up1.Takes 0x10 (record 0x10 3 0 (build 64 []))
    ∧ ((withCtx up1 3 { busy with asm := some { header := [], entries := [] } }).ctx 3).asm = some { header := [], entries := [] }
    ∧ (withCtx up1 3 { busy with asm := some { header := [], entries := [] } }).Takes 0x11 (record 0x11 3 0 (build 64 [])) := by
  refine ⟨by decide +kernel, record_taken _ _ _ _ _ (by decide +kernel) (by decide +kernel), rfl,
    record_taken _ _ _ _ _ (by decide +kernel) (by decide +kernel)⟩

/-- EpochsAdvance: an epoch that is not greater, a greater one as a member and one that shuts the rank out. -/
theorem wit_epoch :
    (let p (e m r n : Nat) := (record 0x20 3 0 (build 16 [(0, 4, e), (4, 1, m), (6, 2, r), (8, 2, n)])).payload
     (packed (p 1 0 0 0) 10 = true ∧ gap (p 1 0 0 0) 5 6 = true ∧ field (p 1 0 0 0) 0 4 ≤ (up1.ctx 3).job.epoch.toNat ∧ field (p 1 0 0 0) 4 1 = 0)
      ∧ (packed (p 2 1 3 4) 10 = true ∧ (up1.ctx 3).job.epoch.toNat < field (p 2 1 3 4) 0 4 ∧ field (p 2 1 3 4) 4 1 = 1
          ∧ field (p 2 1 3 4) 6 2 < field (p 2 1 3 4) 8 2 ∧ field (p 2 1 3 4) 8 2 ≤ 16384 ∧ up1.recv.ctx ≠ some 3)
      ∧ (packed (p 2 0 0 0) 10 = true ∧ (up1.ctx 3).job.epoch.toNat < field (p 2 0 0 0) 0 4 ∧ field (p 2 0 0 0) 4 1 = 0
          ∧ (up1.ctx 3).steps = [] ∧ (up1.ctx 3).stream = none))
    ∧ up1.Numbered ∧ ∀ e m r n, up1.Takes 0x20 (record 0x20 3 0 (build 16 [(0, 4, e), (4, 1, m), (6, 2, r), (8, 2, n)])) := by
  refine ⟨by decide +kernel, numbered_of _ (by decide +kernel), fun e m r n =>
    record_taken _ _ _ _ _ (by decide +kernel) (by simp [build])⟩
/-! ### A device with memory and one step of every kind of engine -/

/-- Cells of blocks of bytes in rising order; zero bytes are not listed. -/
def cellsOf (bs : List (Nat × List Byte)) : List Host.Cell :=
  bs.flatMap fun b => (b.2.zipIdx.map fun p => (b.1 + p.2, p.1)).filter fun c => c.2 != 0#8

/-- A tensor descriptor of 1 × 1: its base and format code (R129). -/
def tensor (base fmt : Nat) : List Byte := build 32 [(0, 6, base), (6, 1, fmt), (8, 4, 1), (12, 4, 1)]

/-- A command entry of R325: DESC, RELEASE, DEADLINE, W, HBM bytes, KIND, ENGINE and ARRAYS. -/
def entryBytes (desc release deadline w hbm kind engine arrays : Nat) : List Byte :=
  leBytes 64 (desc * 2 ^ 464 + release * 2 ^ 428 + deadline * 2 ^ 392 + w * 2 ^ 356 + hbm * 2 ^ 316 + engine * 2 ^ 8 + arrays * 2 ^ 4 + kind)

/-- The owner's staging area at 2 MiB: the allocation table, a descriptor for each engine, and tensors in the committed megabyte below. -/
def staging : List (Nat × List Byte) :=
  [(0x200000, build 48 [(0, 8, 0x100000), (8, 5, 0x100000), (16, 8, 0x200000), (24, 5, 0x100000), (29, 1, 1), (32, 8, 211106236203008),
     (40, 5, 16384), (45, 1, 6)]),
   (0x200100, build 64 [(0, 6, 0x200140), (6, 6, 0x200180), (12, 2, 1), (14, 2, 1), (16, 5, 16), (25, 1, 1)]),
   (0x200140, build 16 [(0, 8, 0x100000), (8, 4, 16)]),
   (0x200180, build 16 [(0, 8, 0x160000), (8, 4, 16)]),
   (0x200200, build 64 [(0, 6, 0x200140), (6, 6, 0x200180), (12, 2, 1), (14, 2, 1), (16, 5, 16), (23, 1, 2), (25, 1, 1)]),
   (0x200400, build 512 [(0, 1, 2), (2, 1, 1), (4, 4, 1), (8, 4, 1), (40, 8, 0x200600), (48, 8, 0x200640), (56, 8, 0x200680),
     (128, 1, 1), (136, 1, 1), (137, 1, 0), (138, 1, 1), (140, 1, 2)]),
   (0x200600, tensor 0x100000 0), (0x200640, tensor 0x110000 0), (0x200680, tensor 0x220000 8),
   (0x2006C0, tensor 0x130000 8), (0x200700, tensor 0x134000 8), (0x200740, tensor 0x170000 1), (0x200780, tensor 0x240000 1),
   (0x2007C0, tensor 0x210000 0),
   (0x200800, build 256 [(0, 1, 1), (3, 1, 1), (4, 4, 1), (8, 4, 1), (12, 4, 1), (22, 2, 1), (32, 8, 0x2006C0), (40, 8, 0x200700)]),
   (0x200900, build 128 [(0, 1, 4), (4, 4, 1), (16, 8, 0x200600), (56, 8, 0x200780)]),
   (0x200980, build 128 [(0, 1, 5), (2, 1, 1), (32, 8, 0x200740), (40, 8, 0x200740), (56, 8, 0x2007C0)])]

/-- 1.5 and 2.25, 7 and 200. -/
def operands : List (Nat × List Byte) :=
  [(0x100000, leBytes 4 0x3FC00000), (0x110000, leBytes 4 0x40100000), (0x130000, [7#8]), (0x134000, [200#8])]

/-- Reconciled hardware: logical clusters 0 to 23, with a checker in each region. -/
def hw1 : Hw := { Hw.reset with
  live := Vector.replicate 56 0xF#4
  use := Vector.ofFn fun i : Fin 28 => if i.val % 7 = 6 then .checker else .logical (i.val - i.val / 7) }

/-- The job's tables, and the step's memory set aside by the owner. -/
def up3 : State := withCtx { up0 with
    hw := hw1
    hbm := { up0.hbm with aside := cellsOf staging }
    dma := { up0.dma with d2d := Vector.replicate 48 .live, ford := Vector.replicate 2 (Vector.replicate 16 .live) } } 3
  { busy with job := { busy.job with
    groups := some (1, [[0, 1, 2, 3], [0]]), peers := some (1, List.replicate 4 { addr := 9, mac := 9 }) } }

def stepHeader (count : Nat) : List Byte :=
  build 64 [(0, 8, 100), (16, 5, 5000000), (32, 4, 64), (36, 2, count), (41, 3, 1), (44, 4, 64), (48, 6, 0x200000), (56, 4, 3)]

def stepEntries : List Byte := entryBytes 0x200100 10000 2000000 100000 65536 3 0 0

/-- The state that a command leaves. -/
def next (o : Host.Outcome State Fault Refusal) : State :=
  match o with
  | .next t => t
  | _ => State.reset

def at_ (now : Ns) (s : State) : State := { s with clk := { s.clk with now := now } }

def stepRecord : RecordIn := record 0x10 3 1 (stepHeader 1 ++ stepEntries)

/-- JudgedStepIsAdmitted: a step of one DMA command that passes every test. -/
theorem wit_judgedStep :
    (let u := (up3.taken stepRecord).modCtx 3 fun x => { x with asm := none }
     (match u.shapeStep 3 (stepHeader 1) stepEntries with
      | .ok p =>
        let t0 := u.originOf 3 p.hdr p.entries.length
        let n := u.stepOf p t0 (whoOf stepRecord)
        decide (u.gradeStep p.hdr.allowance p.entries = none) && decide (u.memoryStep 3 p t0 = none)
          && (match u.deadlineStep 3 n (if p.hdr.mode = 4 then [] else u.newFold 3 n.uid t0 (t0 + p.hdr.commitDl)) with
            | .ok _ => true
            | .error _ => false)
      | .error _ => false) = true)
    ∧ ((up3.ctx 3).state = .active ∧ (up3.ctx 3).role = .training ∧ (up3.ctx 3).final = false ∧ (up3.ctx 3).asm = none
      ∧ stepRecord.flags.toNat % 2 = 1 ∧ stepRecord.payload.length % 64 = 0 ∧ 64 ≤ stepRecord.payload.length
      ∧ (up3.ctx 3).pred.bind (·.ended) = none)
    ∧ up3.Takes 0x10 stepRecord := by
  refine ⟨by decide +kernel, by decide +kernel, record_taken _ _ _ _ _ (by decide +kernel) (by decide +kernel)⟩

/-- A running command of the step, released 10 µs ago. -/
def command (desc : Nat) (e : Engine) (arrays : Nat) : Cmd :=
  { entry := { desc := desc, release := 10000, deadline := 2000000, w := 100000, hbm := 65536, fabOut := 0, fabIn := 0, hostOut := 0, hostIn := 0
               coll := 2000000, engine := e, cond := false, arrays := arrays }
    wPrime := 106000, afterCommit := false, hostEnd := false, state := .running, ran := 0, since := 1000020160, waitSince := none, position := 0
    lineAcked := false, staged := [], saturated := false, dropped := (0, 0), gscale := none, copyBack := 0, line := none }

def ranges : List Range :=
  [{ start := 0x100000, len := 0x100000, kind := .committed }, { start := 0x200000, len := 0x100000, kind := .scratch },
   { start := 211106236203008, len := 16384, kind := .accumulator }]

/-- A running step with a group open in slot 0 and a command on each kind of engine. -/
def runStep (cmds : List Cmd) : Step :=
  { step0 with
    hdr := { step0.hdr with commitDl := 5000000, p := 64, c := 64, count := 5, seqLen := 1, alloc := 0x200000, allocCount := 3 }
    t0 := 1000010160, state := .running, slot := some 0, cmds := cmds, alloc := ranges }

def allFive : List Cmd :=
  [command 0x200100 (.dma 0 0) 0, command 0x200400 (.vector 0) 0, command 0x200800 (.matrix 0) 1, command 0x200900 (.update 0) 0,
   command 0x200980 (.coll 0) 0]

def group0 : Group :=
  { row := 3, slot := 0, uid := 0, step := 100, tag := 5, seq := 1, p := 64, c := 64, copies := [], displaced := 0, walkFrom := 0 }

/-- The device with that step running and only the blocks at some addresses in memory. -/
def running (blocks : List Nat) (t : Step) : State :=
  { (withCtx up3 3 { up3.ctx 3 with steps := [t], alloc := ranges }) with
    clk := { up3.clk with now := 1000030160 }
    slu := { up3.slu with nextUid := 1 }
    mem := { up3.mem with cells := cellsOf ((operands ++ staging).filter fun b => blocks.contains b.1) }
    weir := { up3.weir with
      groups := [group0]
      rows := up3.weir.rows.set 3 (Row.of { RowData.reset with slots := (Vector.replicate 8 .free).set 0 .open }) } }

def runDma : State := running [0x100000, 0x200100, 0x200140, 0x200180] (runStep allFive)
def runVec : State := running [0x100000, 0x110000, 0x200400, 0x200600, 0x200640, 0x200680] (runStep allFive)
def runMat : State := running [0x130000, 0x134000, 0x200800, 0x2006C0, 0x200700] (runStep allFive)
def runUpd : State := running [0x100000, 0x200900, 0x200600, 0x200780] (runStep allFive)
def runColl : State := running [0x200980, 0x200740, 0x2007C0] (runStep allFive)

def ref (i : Nat) : CmdRef := { ctx := 3, step := 0, idx := i }

/-- The command that a reference names, as statements take it. -/
def cmdOf (s : State) (i : Nat) : Cmd := (s.cmd? (ref i)).getD (command 0 (.dma 0 0) 0)

/-! ### Commands and their engines -/

/-- CommandsComplete: each kind of command runs, has had its time, and writes where it may. -/
theorem wit_complete_matrix :
    (let t := runStep allFive
     let k := cmdOf runMat 2
     (match runMat.matJob 3 t k with
      | some j => (match j.mode with
        | some m => (runMat.cmdWrite 3 t (j.writes (runMat.cmdView 3 t) m (coreOf k.entry.engine) k.entry.arrays)).2.isNone
        | none => false)
      | none => false)
     && k.mayEnd runMat.clk.now (matrixMinTime runMat 3 t k)) = true
    ∧ runMat.up = true ∧ runMat.step? (ref 2) = some (runStep allFive) ∧ runMat.cmd? (ref 2) = some (cmdOf runMat 2)
    ∧ (cmdOf runMat 2).entry.engine = .matrix 0 ∧ runMat.injected (ref 2) = none := by decide +kernel

theorem wit_complete_vector :
    (let t := runStep allFive
     let k := cmdOf runVec 1
     (match runVec.vecJob 3 t k with
      | some j => (runVec.cmdWrite 3 t (j.writes (runVec.cmdView 3 t)).1).2.isNone
      | none => false)
     && k.mayEnd runVec.clk.now (vectorMinTime runVec 3 t k)) = true
    ∧ runVec.step? (ref 1) = some (runStep allFive) ∧ runVec.cmd? (ref 1) = some (cmdOf runVec 1)
    ∧ (cmdOf runVec 1).entry.engine = .vector 0 ∧ runVec.injected (ref 1) = none := by decide +kernel

theorem wit_complete_update :
    (let t := runStep allFive
     let k := cmdOf runUpd 3
     (match runUpd.updJob 3 t k with
      | some j => !(j.nonFinite (runUpd.cmdView 3 t) (k.gscale.getD fp32One))
        && (runUpd.cmdWrite 3 t (j.writes (runUpd.cmdView 3 t) (k.gscale.getD fp32One))).2.isNone
      | none => false)
     && k.mayEnd runUpd.clk.now (updateMinTime runUpd 3 t k)) = true
    ∧ runUpd.step? (ref 3) = some (runStep allFive) ∧ runUpd.cmd? (ref 3) = some (cmdOf runUpd 3)
    ∧ (cmdOf runUpd 3).entry.engine = .update 0 := by decide +kernel

theorem wit_complete_dma :
    (let t := runStep allFive
     let k := cmdOf runDma 0
     engineKind k.entry.engine = 3 ∧ runDma.dmaPacedDone (ref 0) = true ∧ k.mayEnd runDma.clk.now (dmaMinTime runDma 3 t k) = true
      ∧ (dmaEffect [] (ref 0) runDma t k).2 = none)
    ∧ runDma.step? (ref 0) = some (runStep allFive) ∧ runDma.cmd? (ref 0) = some (cmdOf runDma 0) := by decide +kernel

theorem wit_complete_collective :
    (let t := runStep allFive
     let k := cmdOf runColl 4
     engineKind k.entry.engine = 5 ∧ runColl.collDone (ref 4) = true ∧ k.mayEnd runColl.clk.now 2000 = true
      ∧ (collEffect (ref 4) runColl t k).2 = none)
    ∧ runColl.step? (ref 4) = some (runStep allFive) ∧ runColl.cmd? (ref 4) = some (cmdOf runColl 4) := by decide +kernel

/-! ### Mirroring, serving and models -/

/-- A configuration with one range to rank 1 and two receive slots of 1 GiB from rank 2; and a RESTORE of one page. -/
def mirrorPayload : List Byte :=
  build 64 [(0, 2, 1), (2, 2, 1024), (8, 8, 1000), (16, 4, 1), (24, 8, 0x100000), (32, 8, 4096), (40, 2, 2), (42, 1, 3), (48, 8, 1)]
def restorePayload : List Byte :=
  build 64 [(0, 2, 1), (2, 2, 1), (8, 8, 50), (16, 4, 1), (24, 8, 0x100000), (32, 8, 4096), (40, 8, 51), (48, 8, 100000)]

theorem wit_mirror :
    (let r := record 0x24 3 0 mirrorPayload
     (match parseMirror r.payload (up1.ctx 3).job.count with
      | some m => decide ((up1.taken r).stateRanges 3 m.ranges = true ∧ rangesLen m.ranges ≤ 16 * m.interval * m.minPeriod
        ∧ m.recv = some 2
        ∧ State.capacityShort { up1.taken r with recv :=
            { ctx := some 3, rank := 2, gib := m.slotGib, slots := List.replicate m.slots RecvSlot.empty, refused := none } } 3 [] = 0)
      | none => false) = true)
    ∧ up1.Takes 0x24 (record 0x24 3 0 mirrorPayload) := by
  refine ⟨by decide +kernel, record_taken _ _ _ _ _ (by decide +kernel) (by decide +kernel)⟩

theorem wit_restore :
    (let r := record 0x25 3 0 restorePayload
     (match parseRestore r.payload with
      | some q =>
       let ps := writeSet (pageRanges q.ranges .committed) q.ranges
       let n := (up1.taken r).innerStep .restore q.step ps.1 ps.2 (whoOf r)
       decide ((up1.ctx 3).role = .training ∧ (up1.taken r).stateRanges 3 q.ranges = true
        ∧ (up1.taken r).capacityShort 3 (pageRanges q.ranges .committed) = 0 ∧ (∀ u ∈ (up1.ctx 3).steps, u.state = .committed)
        ∧ (up1.taken r).groupShort 3 n.wholeSpan = none)
      | none => false) = true)
    ∧ up1.Takes 0x25 (record 0x25 3 0 restorePayload) := by
  refine ⟨by decide +kernel, record_taken _ _ _ _ _ (by decide +kernel) (by decide +kernel)⟩

/-- A serving context whose owner has set aside a template of one DMA command. -/
def srv : State := withCtx { up3 with
    hbm := { up3.hbm with aside := cellsOf [(0x200100, build 64 [(0, 6, 0x200140), (6, 6, 0x200180), (12, 2, 1), (14, 2, 1), (16, 5, 16), (25, 1, 1)]),
      (0x200140, build 16 [(0, 8, 0x100000), (8, 4, 16)]), (0x200180, build 16 [(0, 8, 0x160000), (8, 4, 16)]),
      (0x200300, entryBytes 0x200100 3000 300000 10000 65536 3 0 0)] } } 3
  { up3.ctx 3 with role := .serving }

def patternPayload : List Byte :=
  build 128 [(0, 8, 400000), (8, 1, 2), (32, 4, 1), (48, 2, 256), (56, 8, 65536), (64, 2, 1), (68, 4, 16), (72, 4, 16), (80, 8, 0x200300), (88, 2, 1),
    (104, 1, 20)]

theorem wit_pattern :
    (let r := record 0x30 3 0 patternPayload
     (match parsePattern r.payload with
      | some (p0, _, _, _) =>
       let p := { p0 with t0 := srv.clk.now + 10000 + 40 * p0.tlen }
       (match (srv.taken r).templateOf 3 p with
        | some cs => decide ((srv.taken r).refusePattern 3 p cs = none)
        | none => false)
      | none => false) = true)
    ∧ srv.Takes 0x30 (record 0x30 3 0 patternPayload) := by
  refine ⟨by decide +kernel, record_taken _ _ _ _ _ (by decide +kernel) (by decide +kernel)⟩

/-- The pattern standing, with sequence 11, and a current model. -/
def pat0 : Pattern :=
  { period := 400000, allow := 2, cores := 0, chans := 1, slots := 256, hbmMax := 65536, kvGib := 1, p := 16, c := 16, template := 0x200300, tlen := 1
    t0 := 1000010040, next := 0, stopping := none, seqs := [] }

def seq0 : Seqn :=
  { id := 11, prompt := [], promptLen := 1, maxNew := 1, sampling := 0, joinAt := 0, joined := true, version := 1, slot := 0, prefilled := 0
    produced := 0, leaving := none, lostAt := none }

def model0 : Model :=
  { version := 1, base := 0x300000, total := 64, count := 1, chunks := [0], resident := true, current := true, since := 0, quiesce := false, drain := 0
    switchBy := 0, drainStep := none, name := 0
    profile := { grade := 1, wchg := 1, fb := 0, kvr := 0, kvt := 0, kvw := 0, kvp := 0, kvblk := 0, pfq := 0, pfqc := 262144, tfix := 0, tseq := 0
                 tctx := 0, ttok := 0, eos := 2 } }

def srv1 (seqs : List Seqn) : State := withCtx srv 3 { srv.ctx 3 with pattern := some { pat0 with seqs := seqs }, models := [model0] }

def joinPayload : List Byte := build 64 [(0, 4, 12), (8, 6, 0x170000), (14, 1, 10), (16, 4, 1), (20, 4, 1), (40, 4, 1), (44, 4, 262143)]

theorem wit_join :
    (let s := srv1 []
     let r := record 0x31 3 0 joinPayload
     let p := pat0
     let n := p.indexAt (s.clk.now + 20000)
     (match parseTensor (slice r.payload 8 32), pinAt p (s.ctx 3).models n with
      | some x, some m =>
       let q : Seqn :=
         { id := BitVec.ofNat 32 (field r.payload 0 4), prompt := slice r.payload 8 32, promptLen := field r.payload 40 4
           maxNew := field r.payload 44 4, sampling := BitVec.ofNat 64 (field r.payload 48 8), joinAt := n, joined := false
           version := m.version, slot := p.freeSlot, prefilled := 0, produced := 0, leaving := none, lostAt := none }
       decide ((s.taken r).joinShape 3 r.payload p x = true ∧ (s.ctx 3).role = .serving ∧ p.stopping = none
        ∧ ((s.ctx 3).models.any fun m => m.resident && !m.current && m.drainStep.isNone && m.quiesce) = false
        ∧ (match joinTest p (s.ctx 3).models (p.seqs ++ [q]) with
          | .ok _ => true
          | .error _ => false) = true)
      | _, _ => false) = true)
    ∧ (srv1 []).Takes 0x31 (record 0x31 3 0 joinPayload) := by
  refine ⟨by decide +kernel, record_taken _ _ _ _ _ (by decide +kernel) (by decide +kernel)⟩

theorem wit_leave :
    (let r := record 0x32 3 0 (build 16 [(0, 4, 11)])
     packed r.payload 4 = true ∧ ([seq0].any fun q => q.id == BitVec.ofNat 32 (field r.payload 0 4)) = true)
    ∧ (srv1 [seq0]).Takes 0x32 (record 0x32 3 0 (build 16 [(0, 4, 11)])) := by
  refine ⟨by decide +kernel, record_taken _ _ _ _ _ (by decide +kernel) (by decide +kernel)⟩

theorem wit_stop :
    (let r := record 0x33 3 0 (build 16 [(0, 4, 1048575)])
     packed r.payload 4 = true ∧ field r.payload 0 4 ≤ 1048575)
    ∧ (srv1 []).Takes 0x33 (record 0x33 3 0 (build 16 [(0, 4, 1048575)])) := by
  refine ⟨by decide +kernel, record_taken _ _ _ _ _ (by decide +kernel) (by decide +kernel)⟩

/-- A manifest of one chunk stands at 4 MiB; its key is in slot 0. -/
def manifestBytes : List Byte := build 160 [(0, 4, 1), (4, 4, 2), (8, 8, 64), (16, 4, 1), (20, 1, 1)]

def srv2 : State :=
  let s := srv1 []
  { s with
    hbm := { s.hbm with aside := cellsOf [(0x400000, manifestBytes)] }
    sec := { s.sec with keys := s.sec.keys.set 0 (some { param := 1, bytes := [] }) } }

theorem wit_manifest :
    (let r := record 0x34 3 0 (build 16 [(0, 8, 0x400000)])
     let a := field r.payload 0 8
     let v := (srv2.taken r).judgeView
     packed r.payload 8 = true ∧ a % 64 = 0 ∧ (srv2.ctx 3).role = .serving ∧ (srv2.taken r).reachable 3 [(a, 128)] = true
      ∧ (match manifestLen (leNat (View.bytes v (a + 16) 4)) (v (a + 20)).toNat with
        | some n => (srv2.taken r).reachable 3 [(a, n.2)]
        | none => false) = true)
    ∧ srv2.Takes 0x34 (record 0x34 3 0 (build 16 [(0, 8, 0x400000)])) := by
  refine ⟨by decide +kernel, record_taken _ _ _ _ _ (by decide +kernel) (by decide +kernel)⟩

/-- The manifest as the verifier would leave it. -/
def manifest0 : Manifest :=
  { version := 2, addr := 0x400000, total := 64, chunks := 1, keySlot := 0, keyId := sha256 [], body := sha256 manifestBytes, name := 0
    layout := sha256 [] }

def srv3 : State := withCtx srv2 3 { srv2.ctx 3 with manifests := [manifest0], pattern := none, models := [] }

def loadPayload : List Byte :=
  build 176 [(0, 4, 2), (8, 1, 1), (76, 4, 262144), (120, 8, 0x300000), (130, 2, 1), (132, 1, 1), (136, 4, 1), (140, 2, 1), (152, 8, 100000)]

theorem wit_load :
    (let r := record 0x35 3 0 loadPayload
     (match parseLoad r.payload with
      | some q =>
       decide ((srv3.ctx 3).manifests.find? (fun m => m.version == q.version) = some manifest0
        ∧ (srv3.taken r).refuseLoad 3 q manifest0 ((srv3.taken r).loadStep q manifest0 (whoOf r)) = none)
      | none => false) = true)
    ∧ srv3.Takes 0x35 (record 0x35 3 0 loadPayload) := by
  refine ⟨by decide +kernel, record_taken _ _ _ _ _ (by decide +kernel) (by decide +kernel)⟩

theorem wit_final : packed (record 0x36 3 0 []).payload 0 = true ∧ (up1.ctx 3).role = .training ∧ up1.Takes 0x36 (record 0x36 3 0 []) :=
  ⟨by decide, rfl, record_taken _ _ _ _ _ (by decide +kernel) (by decide +kernel)⟩

/-- VerifierFinishes: one request stands, and nothing else waits. Whether it verifies is the standard's (log entry 4). -/
def verify0 : Verify := { ctx := 3, addr := 0x400000, bytes := manifestBytes, tag := 5, seq := 1, client := 9, keys := none }

theorem wit_verifier :
    let s : State := { srv2 with sec := { srv2.sec with queue := [verify0] } }
    s.up = true ∧ s.sec.queue = verify0 :: [] ∧ (s.ctx verify0.ctx).state = .active ∧ (s.ctx verify0.ctx).regs.window = []
      ∧ verified verify0 = none := by decide +kernel

/-! ### Hosts and registers -/

/-- WindowTakesBytes: a first byte of a record, at the window's last byte; and the other host's write. -/
theorem wit_window :
    up1.powered = true ∧ up1.warming = false ∧ up1.cooling = false ∧ up1.linkUp .p0 = true ∧ up1.linkUp .p1 = true ∧ 65535 + 1 ≤ 65536
    ∧ up1.own.owner = some .p0 ∧ up1.own.owner ≠ some .p1
    ∧ windowRead (placeWindow (up1.ctx 3).regs.window 65535 [1#8]) (up1.ctx 3).regs.consumed.toNat 16 = none := by decide +kernel

theorem writable_up0 (p : Port) : up0.Writable p := by cases p <;> exact ⟨by decide +kernel, by decide +kernel, by decide +kernel⟩
theorem writable_up1 (p : Port) : up1.Writable p := by cases p <;> exact ⟨by decide +kernel, by decide +kernel, by decide +kernel⟩

/-- OwnerSettingsTakeValues and HostBanksTakeValues: values at the ends of each register's range, with and without contexts. -/
theorem wit_settings :
    (1 ≤ (1#32).toNat % 64 ∧ (60#32).toNat % 64 ≤ 60) ∧ (0#32).toNat % 64 = 0 ∧ 60 < (61#32).toNat % 64
    ∧ (2 ≤ (2#32).toNat % 512 ∧ (256#32).toNat % 512 ≤ 256) ∧ (1#32).toNat % 512 < 2 ∧ 256 < (257#32).toNat % 512
    ∧ (0#32).toNat % 32 = 0 ∧ (20 ≤ (20#32).toNat % 32 ∧ (30#32).toNat % 32 ≤ 30)
    ∧ (1000 ≤ (1000#32).toNat % 4096 ∧ (1900#32).toNat % 4096 ≤ 1900) ∧ (999#32).toNat % 4096 < 1000 ∧ 1900 < (1901#32).toNat % 4096
    ∧ (∀ c : CtxId, (up0.ctx c).state = .free) ∧ (up1.ctx 3).state ≠ .free ∧ (up1.ctx 3).job.tag ≠ 0#32 ∧ up0.own.owner = some .p0 := by
  decide +kernel

/-- WritesAreRefused: a partial write, a write of OWN_LEASE_CFG by the other host, and a write of the read-only OWN_TERM. -/
theorem wit_refused :
    up0.powered = true ∧ up0.linked .p1 = true
    ∧ writeFormed 0x810 { port := .p1, value := 5#32, enables := 0x3#4 } = false
    ∧ writeFormed 0x810 (whole .p1 5#32) = true ∧ up0.linkUp .p1 = true ∧ up0.serving = true ∧ accessOf 0x810 = .owner
    ∧ up0.own.owner ≠ some .p1 ∧ writeFormed 0x814 (whole .p1 5#32) = true ∧ accessOf 0x814 = .none := by decide +kernel

def unowned : State := { up1 with own := { up1.own with owner := none } }
def offered : State := { up1 with own := { up1.own with offer := some (.p1, 2000000000) } }
def expired : State := { up1 with own := { up1.own with leaseEnd := 1000000000 } }

/-- OwnershipPasses: a free device, an offer to port 1, an owner, and a lease that ends now. -/
theorem wit_ownership :
    ((0x4F570000#32).toNat / 65536 = 0x4F57 ∧ unowned.own.owner = none ∧ offered.clk.now < offered.own.leaseEnd
      ∧ offered.own.offer = some (.p1, 2000000000) ∧ offered.clk.now ≤ 2000000000 ∧ up1.own.owner = some .p0 ∧ (1#32).getLsbD 0 = true
      ∧ expired.powered = true ∧ expired.warming = false ∧ expired.own.owner.isSome = true ∧ expired.own.leaseEnd ≤ expired.clk.now)
    ∧ unowned.Writable .p1 ∧ offered.Writable .p1 ∧ up1.Writable .p0 := by
  refine ⟨by decide +kernel, ⟨by decide +kernel, by decide +kernel, by decide +kernel⟩, ⟨by decide +kernel, by decide +kernel, by decide +kernel⟩,
    writable_up1 _⟩

/-- LeaseAndOffer: a renewal in the last cycle of the lease, an offer, and an offer that lapses now. -/
theorem wit_lease :
    (expired.own.owner = some .p0 ∧ expired.clk.now ≤ expired.own.leaseEnd ∧ (1#32).getLsbD 0 = true ∧ (2#32).getLsbD 0 = false
      ∧ (2#32).getLsbD 1 = true ∧ offered.powered = true ∧ offered.own.offer = some (.p1, 2000000000))
    ∧ expired.Writable .p0 := by
  refine ⟨by decide +kernel, ⟨by decide +kernel, by decide +kernel, by decide +kernel⟩⟩

/-- LinksTrainAndFall and LowHalvesLatchHighHalves: a powered device, and a port that does not own it. -/
theorem wit_links : up0.powered = true ∧ up0.own.owner ≠ some .p1 ∧ up0.linked .p1 = true ∧ up0.serving = true := by decide +kernel

/-- ApertureAccess: the last byte of the usable memory and the first beyond it; a write of one byte into a scratch page; the other host. -/
def held : State := withCtx up0 3 { busy with alloc := [{ start := 0x200000, len := 4096, kind := .scratch }] }

theorem wit_aperture :
    held.up = true ∧ held.linkUp .p0 = true ∧ held.cfg.aperture[Port.p0.index] = 0
    ∧ (held.usable - 1) + 1 ≤ held.usable ∧ held.usable < held.usable + 1 ∧ held.usable ≠ 0
    ∧ held.own.owner = some .p0 ∧ 0x200FFF % 4096 + [1#8].length ≤ 4096 ∧ held.heldKind 0x200FFF = some .scratch ∧ Memory.wf held.mem
    ∧ held.own.owner ≠ some .p1 := by decide +kernel

/-- TriggersTakeEffect: each trigger's value, on a context with and without a job. -/
theorem wit_triggers :
    (0x80000003#32).getLsbD 31 = true ∧ (0x80000003#32).toNat % 16 = (3 : CtxId).val ∧ (up0.ctx 3).job.tag = 0#32
    ∧ (up1.ctx 3).job.tag ≠ 0#32 ∧ (up1.ctx 3).state = .active ∧ (up1.ctx 3).steps = [] ∧ (up1.ctx 3).stream = none ∧ up1.recv.ctx ≠ some 3
    ∧ (0x8000002F#32).toNat % 64 < 48 := by decide +kernel

/-- HostStartsRungs: region 3, and the device. -/
theorem wit_host_rungs :
    (0x80000304#32).getLsbD 31 = true ∧ (0x80000304#32).toNat % 8 = 4 ∧ (0x80000304#32).toNat / 256 % 4 = (3 : Fin 4).val
    ∧ (up0.rcv.rungs.any fun g => up0.holdsScope g.scope (.region 3)) = false
    ∧ (0x80000005#32).getLsbD 31 = true ∧ (0x80000005#32).toNat % 8 = 5
    ∧ (up0.rcv.rungs.any fun g => up0.holdsScope g.scope .warm) = false := by decide +kernel

/-- ImagesAndKeys: no update runs; one runs (its image does not verify: it is empty); an empty key slot and an occupied one. -/
theorem wit_images :
    (up0.boot.updState = 0 ∨ 5 ≤ up0.boot.updState)
    ∧ (let s : State := { up0 with boot := { up0.boot with updState := 1 } }
       s.up = true ∧ 1 ≤ s.boot.updState ∧ s.boot.updState ≤ 4
        ∧ imageVerifies s.fuse.imageKey s.fuse.fsv (s.committedBytes s.boot.updAddr s.boot.updLen) = false)
    ∧ (0x8000001F#32).toNat % 16 = (15 : Fin 16).val ∧ (0x8000001F#32).getLsbD 31 = true ∧ (0x8000001F#32).getLsbD 30 = false
    ∧ (0x8000001F#32).toNat / 16 % 4 ≠ 0 ∧ up0.sec.keys[(15 : Fin 16)] = none
    ∧ (∀ i : Fin 16, up0.sec.keys[i] = none)
    ∧ (0x40000000#32).getLsbD 31 = false ∧ (0x40000000#32).getLsbD 30 = true
    ∧ srv2.sec.keys[(0 : Fin 16)] = some { param := 1, bytes := [] } ∧ (0#32).getLsbD 31 = (0#32).getLsbD 30 := by decide +kernel

/-- AttestationAndTrace: an idle port, and a port that waits alone. -/
theorem wit_attestation :
    up0.sec.attest[Port.p0.index].state ≠ 1
    ∧ (let s : State := { up0 with sec := { up0.sec with attest := up0.sec.attest.set 0 { state := 1, since := 5, fields := [], record := [] } } }
       s.up = true ∧ s.sec.attest[(0 : Fin 2)].state = 1 ∧ s.sec.attest[(1 : Fin 2)].state ≠ 1) := by decide +kernel

/-! ### Generations, pins and boot -/

/-- GenerationsAdvance: a teardown with and without a step, and one that completes. -/
theorem wit_generations :
    (let s := withCtx up1 3 { busy with
       state := .tearing
       tearing := some { code := .abortedPreempt, reason := .none, since := 0, tag := 0, seq := 0, rowDone := false } }
     s.up = true ∧ (s.ctx 3).tearing.isSome = true ∧ (s.ctx 3).steps = [])
    ∧ (withSteps up1 [step0]).Takes 0x02 (record 2 3 0 []) := by
  refine ⟨by decide +kernel, record_taken _ _ _ _ _ (by decide +kernel) (by decide +kernel)⟩

/-- ColdMissHoldsDevice: a cold reset in its twelfth second, and a device that is held. -/
theorem wit_cold_miss :
    (let g : Rung := { scope := .cold, start := 0, missed := false, engine := none, todo := [] }
     let s : State := at_ 12000000000 { State.reset with rcv := { State.reset.rcv with rungs := [g] } }
     s.powered = true ∧ s.rcv.rungs.find? (fun g => g.scope == .cold) = some g ∧ g.start + 12000000000 ≤ s.clk.now)
    ∧ (let s : State := { State.reset with rcv := { State.reset.rcv with dead := true } }
       s.rcv.dead = true ∧ s.clk.pwrgd = true ∧ s.powered = false) := by decide +kernel

def off : State := { up1 with clk := { up1.clk with pwrgd := false } }

/-- UnpoweredDeviceStands and PinsRestartDevice: no power, with and without reset; in reset with power; powered. -/
theorem wit_pins :
    off.powered = false ∧ off.clk.pwrgd = false ∧ off.clk.resetN = true
    ∧ (let s : State := { off with clk := { off.clk with resetN := false } }
       s.clk.pwrgd = false ∧ s.clk.resetN = false)
    ∧ (let s : State := { up1 with clk := { up1.clk with resetN := false } }
       s.clk.pwrgd = true ∧ s.clk.resetN = false ∧ s.rcv.dead = false)
    ∧ up1.powered = true := by decide +kernel

/-- A booting device in a phase. -/
def booting (p : Phase) : State := { State.reset with boot := { Boot.reset with phase := p } }

/-- BootTakesImage: the journal is to be replayed; a slot is untried and the other tried; a stored image whose sections do not match. Whether an
image verifies is for the standard to say (Config.slhVerify is a free value): an empty slot does not. -/
theorem wit_boot_image :
    (booting .powerOn).powered = true ∧ (booting .powerOn).boot.jrnFault = false ∧ (booting .powerOn).rcv.heldMiss = none
    ∧ (let s : State := { booting .image with boot := { Boot.reset with phase := .image, tried := [false] } }
       s.boot.store = [] ∧ (bootOrder s.boot.strap s.flash).find? (fun b => !s.boot.tried.contains b) = some true
        ∧ imageVerifies s.fuse.imageKey s.fuse.fsv (s.flash.slot true) = false
        ∧ ∀ x ∈ bootOrder s.boot.strap s.flash, x = true ∨ s.boot.tried.contains x = true)
    ∧ sectionsMatch [0#8] = false := by decide +kernel

/-- BootStages: each stage of a cold boot is open. -/
theorem wit_boot_stages :
    (booting .training).bootable = true ∧ (booting .training).boot.trained = false
    ∧ (let s : State := { booting .firmware with boot := { Boot.reset with phase := .firmware, trained := true } }
       s.bootable = true ∧ s.boot.trained = true ∧ s.boot.warm = false ∧ s.hbm.initialised = false
        ∧ .core 0 ∈ s.fetchers ∧ .core 0 ∉ s.boot.fetched ∧ s.sec.idReady = false)
    ∧ (let s : State := { booting .test with
         boot := { Boot.reset with phase := .test, trained := true }, hbm := { Hbm.reset with initialised := true, ready := true } }
       s.bootable = true ∧ s.boot.phase = .test ∧ s.boot.trained = true ∧ s.hbm.initialised = true)
    ∧ (let s : State := { booting .reconcile with hbm := { Hbm.reset with ready := true } }
       s.powered = true ∧ s.boot.phase = .reconcile ∧ s.hbm.ready = true ∧ ∀ c ∈ allCtx, (s.ctx c).regs.window = []) := by decide +kernel

/-- JournalKeeps: an entry waits; a fault stands; a compaction and an erase run; a mark is due. -/
theorem wit_journal :
    (let s : State := { up0 with boot := { up0.boot with queue := [.snapshot] } }
     s.powered = true ∧ s.boot.queue = .snapshot :: [] ∧ s.boot.jrnFault = false
      ∧ s.flash.areas[s.boot.active].fill + entryPagesOf .snapshot ≤ 32768)
    ∧ (let s : State := { up0 with boot := { up0.boot with compacting := true, erasing := true, jrnFault := true } }
       s.boot.compacting = true ∧ s.boot.erasing = true ∧ s.boot.jrnFault = true)
    ∧ (let s : State := at_ 900000000000 up0
       s.boot.lastMark + 900 ≤ s.jnow) := by decide +kernel

/-! ### Power, HBM and SRAM -/

/-- PowerAndClocksFollow: a zone reads 94 °C or 95; a trip that has cooled; a power level that may fall; lost clocks. -/
theorem wit_power :
    up0.powered = true ∧ (0 : Fin 7) ∉ zonesH ∧ isCompute 0 = true ∧ (List.replicate 12 94).length = 12
    ∧ (let hot := (List.replicate 12 94).foldl max 0
       up0.pwr.trip = false ∧ up0.pwr.power < 4
        ∧ ∀ y : Fin 7, (if y = 0 then zoneLevel 0 up0.pwr.zones[(0 : Fin 7)].thermal hot else up0.pwr.zones[y].thermal) < 4)
    ∧ (let hot := (List.replicate 12 130).foldl max 0
       95 ≤ hot ∧ ∃ y : Fin 7, 4 ≤ (if y = 0 then zoneLevel 0 up0.pwr.zones[(0 : Fin 7)].thermal hot else up0.pwr.zones[y].thermal))
    ∧ (let s : State := { up0 with pwr := { up0.pwr with trip := true } }
       s.pwr.trip = true ∧ (∀ y : Fin 7, y ≠ 0 → s.pwr.zones[y].temp < 95) ∧ (∀ k : Fin 8, s.hbm.temps[k] < 95)
        ∧ s.warming = false ∧ s.cooling = false)
    ∧ (let s : State := at_ 10000000 { up0 with pwr := { up0.pwr with power := 1 } }
       s.pwr.power ≠ 0 ∧ s.pwr.over95 + 10000000 ≤ s.clk.now ∧ s.pwr.raised + 10000000 ≤ s.clk.now)
    ∧ up0.pwr.lostClk = [] ∧ isWarmDomain (.mesh 0) = true := by decide +kernel

/-- RetrainingSuspectsChannels: a slot begins; a slot's retrain is over. -/
theorem wit_retrain :
    (let s : State := at_ 32000 up0
     s.up = true ∧ s.clk.now % 32000 = 0 ∧ s.hbm.ready = true ∧ s.hbm.slotGroup = none)
    ∧ (let s : State := at_ 33300 { up0 with hbm := { up0.hbm with slotGroup := some 31 } }
       s.up = true ∧ s.hbm.slotGroup = some 31 ∧ 31 < 32 ∧ 1300 ≤ s.clk.now % 32000) := by decide +kernel

def clean : GroupFinding := { first := List.replicate 15 0, crcFirst := false, again := List.replicate 15 0, crcAgain := false }

/-- HbmChecksAct: a right group, one with a corrected line, one with a line beyond correction, the scrub's group. -/
theorem wit_hbm :
    up0.up = true ∧ up0.hbm.ready = true ∧ up0.groupValid 0 = true ∧ up0.hbm.scrubPos = 0
    ∧ (∀ n < 15, up0.lineWeight 0 n clean.first = 0) ∧ up0.groupCrcBad 0 clean.crcFirst = false
    ∧ (∀ n < 15, up0.lineWeight 0 n (clean.first.set 14 2) ≤ 2)
    ∧ (∃ n < 15, 3 ≤ up0.lineWeight 0 n (clean.first.set 14 3)) := by decide +kernel

/-- StackTemperaturesAct: 107 °C keeps the device, 108 trips it. -/
theorem wit_stack :
    up0.powered = true ∧ up0.pwr.trip = false ∧ up0.pwr.power < 4 ∧ (∀ y : Fin 7, y ≠ 2 → up0.pwr.zones[y].thermal < 4) ∧ 108 ≤ 108
    ∧ (let levels := up0.hbm.levels.set 0 (levelAfter [85, 95, 102, 108] up0.hbm.levels[(0 : Fin 8)] 107)
       zoneOfStacks ((((List.finRange 8).filter fun j => j.val / 4 == 0).map fun j => levels[j]).foldl max 0) < 4) := by decide +kernel

/-- MigrationRemaps: declared with no step running, and moving. -/
theorem wit_migration :
    (let s : State := { up0 with hbm := { up0.hbm with migration := .declared 0 } }
     s.up = true ∧ s.hbm.migration = .declared 0 ∧ s.freeSlot 16 = some 0 ∧ s.noneRunning = true ∧ s.lostCount < 17)
    ∧ (let s : State := { up0 with hbm := { up0.hbm with migration := .moving 0 [5] } }
       s.up = true ∧ s.hbm.migration = .moving 0 [5]) := by decide +kernel

/-- RepairsAtBoundaries: a row waits with and without spares left, and a unit waits to leave service. -/
theorem wit_repairs :
    (let s : State := { up3 with sram := { up3.sram with replace := [(.clusterBank 0, 0, 5)] } }
     s.up = true ∧ (s.sram.replace.filter fun r => !s.unitBusy (bankUnit r.1)) = [(.clusterBank 0, 0, 5)]
      ∧ s.sparesUsed (.clusterBank 0) 0 < spareLimit (.clusterBank 0))
    ∧ (let s : State := { up3 with sram := { up3.sram with
          replace := [(.coreBank 0, 0, 200)], spares := (List.range 64).map fun i => (.coreBank 0, 0, i) } }
       (s.sram.replace.filter fun r => !s.unitBusy (bankUnit r.1)) = [(.coreBank 0, 0, 200)]
        ∧ spareLimit (.coreBank 0) ≤ s.sparesUsed (.coreBank 0) 0)
    ∧ (let s : State := { up3 with hw := { up3.hw with pendingOut := [.cluster 0] } }
       s.up = true ∧ (s.hw.pendingOut.filter fun u => !s.unitBusy u) ≠ []) := by decide +kernel

/-! ### Steps that run -/

/-- Context 3 with one step and a row of its own. -/
def due (t : Step) (d : RowData) (x : Ctx) : State :=
  { withCtx up0 3 { x with steps := [t] } with
    slu := { up0.slu with nextUid := 1 }, weir := { up0.weir with rows := up0.weir.rows.set 3 (Row.of d) } }

def load0 : LoadPart :=
  { uid := 0, version := 2, base := 0x300000, lastPart := true, quiesce := false, drain := 0, wait := 100000, holders := [1, 2]
    fetches := [{ chunk := 0, len := 64, digest := 0, holder := 0, tries := 1, asked := 999000000, pieces := [], done := false }] }

def restore0 : Restore :=
  { uid := 0, holder := 1, source := 1, step := 50, ranges := [(0x100000, 4096)], version := 51, wait := 100000, since := 999000000
    sealed := none, chunks := [] }

def last5 : RowData := { RowData.reset with version := 1, priorValid := true, lastSlot := 5, slots := (Vector.replicate 8 .free).set 5 .last }

/-- StepsStartAtOrigin: the base committed, the base reverted to, a replay, a wrong base, a load part and a restore. -/
theorem wit_starts :
    (let s := due step0 RowData.reset busy
     s.up = true ∧ s.dueSteps 3 = [step0] ∧ s.hbm.migration = .none ∧ (s.ctx 3).step? 0 = some step0 ∧ step0.kind = .host
      ∧ step0.hdr.mode ≠ 4 ∧ (s.row 3).version = step0.hdr.base ∧ s.freeSlot 3 = some 0)
    ∧ (let s := due step0 last5 busy
       s.dueSteps 3 = [step0] ∧ (s.row 3).version = step0.hdr.base + 1#64 ∧ (s.row 3).priorValid = true ∧ s.openIn 3 = 0
        ∧ s.freeSlot 3 = some 0 ∧ s.slotIn 3 .last = some 5)
    ∧ (let t : Step := { step0 with hdr := { step0.hdr with mode := 4 } }
       let s := due t RowData.reset busy
       s.dueSteps 3 = [t] ∧ t.hdr.mode = 4 ∧ (s.row 3).version = t.hdr.base)
    ∧ (let s := due step0 { last5 with version := 9 } busy
       s.dueSteps 3 = [step0] ∧ (s.row 3).version ≠ step0.hdr.base ∧ (s.row 3).version ≠ step0.hdr.base + 1#64)
    ∧ (let t : Step := { step0 with kind := .load }
       let s := due t RowData.reset { busy with load := some load0 }
       s.dueSteps 3 = [t] ∧ (s.ctx 3).step? 0 = some t ∧ (s.ctx 3).load.isSome = true ∧ s.freeSlot 3 = some 0)
    ∧ (let t : Step := { step0 with kind := .restore }
       let s := due t RowData.reset { busy with restore := some restore0 }
       s.dueSteps 3 = [t] ∧ (s.ctx 3).restore.isSome = true ∧ s.freeSlot 3 = some 0) := by decide +kernel

/-- Another context's step with a command on DMA channel 0, due earlier. -/
def rival : State :=
  let k := { command 0x200100 (.dma 0 0) 0 with state := .ready }
  let k := { k with entry := { k.entry with deadline := 50000 } }
  let s := runDma
  { withCtx s 4 { busy with steps := [{ runStep [k] with uid := 0 }] } with clk := { s.clk with now := (cmdOf s 0).since + Config.slice } }

/-- EnginesTakeCommands: a COND command with the flag set, a command whose engine is taken and one whose engine is idle; a slice that ends
with an earlier deadline waiting; a command that has run its W′. -/
theorem wit_engines :
    (let k := { command 0x200100 (.dma 0 0) 0 with state := .waiting }
     let k := { k with entry := { k.entry with cond := true } }
     let t := { runStep [k] with condFlag := true }
     let s := running [] t
     s.up = true ∧ s.step? (ref 0) = some t ∧ s.cmd? (ref 0) = some k ∧ t.state = .running ∧ k.afterCommit = false ∧ k.waitSince = none
      ∧ t.release k ≤ s.clk.now)
    ∧ (let k := { command 0x200100 (.dma 0 1) 0 with state := .waiting }
       let t := runStep (k :: allFive)
       let s := running [] t
       s.cmd? (ref 0) = some k ∧ (k.entry.cond && t.condFlag) = false ∧ t.release k ≤ s.clk.now
        ∧ (s.running? k.entry.engine).isNone = true ∧ engineKind k.entry.engine ≠ 5 ∧ s.engineBlocked k.entry.engine = false
        ∧ s.ready.all (fun ch => (s.cmd? ch.ref).all fun q => decide (q.entry.engine ≠ k.entry.engine)) = true)
    ∧ (let k := { command 0x200100 (.dma 0 0) 0 with state := .waiting }
       let s := running [] (runStep (k :: allFive))
       s.cmd? (ref 0) = some k ∧ (s.running? k.entry.engine).isSome = true)
    ∧ (let k := cmdOf rival 0
       rival.running? (.dma 0 0) = some (ref 0, k) ∧ k.since + Config.slice ≤ rival.clk.now
        ∧ (rival.clk.now - k.since) % Config.slice = 0
        ∧ rival.earlierReady (ref 0) (.dma 0 0) ((runStep allFive).deadline k) = true)
    ∧ (let k := cmdOf runDma 0
       k.wPrime ≤ k.runTime (runDma.clk.now + 200000) ∧ k.state = .running ∧ (runStep allFive).state ≠ .committed) := by decide +kernel

theorem wit_engines_numbered : rival.Numbered ∧ runDma.Numbered := ⟨numbered_of _ (by decide +kernel), numbered_of _ (by decide +kernel)⟩

/-- CheckerMismatchEndsStep: a matrix command's checksum with a unit named, and a cluster outside the map. -/
theorem wit_checker :
    (let t := runStep allFive
     let k := cmdOf runMat 2
     runMat.up = true ∧ runMat.step? (ref 2) = some t ∧ runMat.cmd? (ref 2) = some k ∧ t.state ≠ .committed ∧ k.state = .running
      ∧ checkerFits k.entry.engine .checksum = true ∧ (runMat.faultyUnit 3 t k .checksum 0).isSome = true)
    ∧ (let s : State := { runMat with hw := Hw.reset }
       s.up = true ∧ s.cmd? (ref 2) = some (cmdOf runMat 2) ∧ s.faultyUnit 3 (runStep allFive) (cmdOf runMat 2) .checksum 0 = none) := by
  decide +kernel

/-- A group that holds page 0x160 with one byte changed. -/
def copying : Group := { group0 with copies := [{ page := 0x160, frame := false, data := [(0x160001, 7#8)] }] }
def holding (g : Group) (st : GroupState) : State :=
  { runDma with weir := { runDma.weir with
      groups := [g], rows := runDma.weir.rows.set 3 (Row.of { RowData.reset with slots := (Vector.replicate 8 .free).set 0 st }) } }

/-- PagesShadowAndFold: a first write, a page that is held, a page that another group holds; walks that end. -/
theorem wit_pages :
    (let t := runStep allFive
     let k := cmdOf runDma 0
     (match runDma.readFacts 3 (runDma.stepView 3 t) t.hdr.commitDl k.entry with
      | some f => decide (runDma.up = true ∧ t.slot = some 0 ∧ k.state = .running
          ∧ (f.writes.any fun e => decide (e.1 < (0x160 + 1) * 4096 ∧ 0x160 * 4096 < e.1 + e.2)) = true
          ∧ kindAt (runDma.ctx 3).alloc (0x160 * 4096) = some .committed ∧ (runDma.shadowFor 3 0 f.writes 0x160).2 = none
          ∧ ((holding { copying with slot := 1 } .open).shadowFor 3 0 f.writes 0x160).2.isSome = true)
      | none => false) = true)
    ∧ (let s := holding copying .open
       (s.group? 3 0).any (·.holds 0x160) = true ∧ s.slot 3 0 = .open)
    ∧ (holding group0 .aborting).slot 3 0 = .aborting
    ∧ (let s := holding copying .folding
       s.powered = true ∧ s.slot 3 0 = .folding ∧ s.group? 3 0 = some copying ∧ Cells.wf s.mem.cells
        ∧ (∀ p ∈ copying.copies, Cells.wf p.data ∧ ∀ x ∈ p.data, x.1 / Config.pageBytes = p.page) ∧ (copying.copies.map (·.page)).Nodup) := by
  decide +kernel

/-- GroupsCommit: a host step on time and late, a replay, a period, the last load part and a restore, each with its gate done. -/
theorem wit_commits :
    (let t := runStep []
     let s := running [] t
     s.up = true ∧ (s.ctx 3).step? 0 = some t ∧ t.state = .running ∧ t.kind = .host ∧ t.hdr.mode ≠ 4 ∧ t.hdr.job = false
      ∧ t.slot.isSome = true ∧ ¬ t.t0 + t.hdr.commitDl < s.clk.now ∧ t.gateDone = true
      ∧ t.t0 + t.hdr.commitDl < (at_ 2000000000 s).clk.now)
    ∧ (let t := { runStep [] with hdr := { (runStep []).hdr with mode := 4 } }
       (({ running [] t with weir := up0.weir } : State).ctx 3).step? 0 = some t ∧ t.gateDone = true ∧ t.tailDone = true)
    ∧ (let t := { runStep [] with kind := .period }
       let s := withCtx (running [] t) 3 { (running [] t).ctx 3 with pattern := some { pat0 with seqs := [seq0] } }
       (s.ctx 3).step? 0 = some t ∧ t.slot.isSome = true ∧ ¬ t.t0 + t.hdr.commitDl < s.clk.now ∧ t.gateDone = true
        ∧ (s.ctx 3).pattern.isSome = true)
    ∧ (let t := { runStep [] with kind := .load }
       let l := { load0 with fetches := load0.fetches.map fun f => { f with done := true } }
       let s := withCtx (running [] t) 3 { (running [] t).ctx 3 with load := some l }
       (s.ctx 3).step? 0 = some t ∧ (s.ctx 3).load = some l ∧ l.uid = t.uid ∧ l.fetches.all (·.done) = true)
    ∧ (let t := { runStep [] with kind := .restore }
       let r := { restore0 with
                  sealed := some 1, chunks := [{ index := 0, pieces := [], digest := none, verified := true, repeats := 0 }] }
       let s := withCtx (running [] t) 3 { (running [] t).ctx 3 with restore := some r }
       (s.ctx 3).step? 0 = some t ∧ (s.ctx 3).restore = some r ∧ r.uid = t.uid ∧ r.done = true) := by decide +kernel

/-- JobStepsDecide: a prepared job step with a reduced record that agrees, one that does not and one of another epoch; a wait that is over. -/
theorem wit_job :
    (let t := { runStep [] with state := .prepared, prepared := 1000030000, hdr := { (runStep []).hdr with job := true } }
     let s := running [] t
     let d : Reduced := { ready := true, stepMin := 100, stepMax := 100, baseMin := 0, baseMax := 0, lowBad := 0, epoch := 1 }
     s.up = true ∧ (s.ctx 3).step? 0 = some t ∧ s.clk.now ≤ min (t.prepared + 2000000) (t.t0 + t.hdr.commitDl)
      ∧ d.epoch = (s.ctx 3).job.epoch ∧ reducedAgrees d t = true ∧ t.slot = some 0
      ∧ reducedAgrees { d with ready := false } t = false ∧ ({ d with epoch := 2 } : Reduced).epoch ≠ (s.ctx 3).job.epoch
      ∧ (at_ 1002030000 s).up = true ∧ (at_ 1002030000 s).waitOver (.commitReady 3 0) = true)
    ∧ (let s := at_ 1002030000 (running [] (runStep [{ command 0x200980 (.coll 0) 0 with waitSince := some 1000030000 }]))
       s.up = true ∧ s.waitOver (.command (ref 0)) = true) := by decide +kernel

/-- A DMA command paced by line 0 of die 0, a request of that line, and a later burst's wait. -/
def pacedCmd : Cmd := { command 0x200200 (.dma 0 0) 0 with line := some (0, 0) }
def paced (k : Cmd) : State := running [0x100000, 0x200140, 0x200180, 0x200200] (runStep [k])

/-- BurstsFollowRequests: an unpaced command's burst, a paced one with its request, a request that a command waits for and one that none
does, and a parity fault with and without a command on the line. -/
theorem wit_bursts :
    (let t := runStep allFive
     let k := cmdOf runDma 0
     (match runDma.dmaJob 3 t k with
      | some j => decide (runDma.up = true ∧ runDma.step? (ref 0) = some t ∧ engineKind k.entry.engine = 3
          ∧ k.mayEnd runDma.clk.now 0 = true ∧ k.position < j.d.total ∧ j.d.paced = false
          ∧ (runDma.dmaMove 3 t j [] k.position (j.burst k.position)).2 = none)
      | none => false) = true)
    ∧ (let s0 := paced pacedCmd
       let s : State := { s0 with dma := { s0.dma with reqs := [(0, 0)] } }
       let t := runStep [pacedCmd]
       (match s.dmaJob 3 t pacedCmd with
        | some j => decide (j.d.paced = true ∧ lineOf 0 j.d.reqLine = (0, 0) ∧ s.requested pacedCmd (0, 0) = true
            ∧ ((s.ackLine (ref 0) j (0, 0) 0).dmaMove 3 t j [] 0 (j.burst 0)).2 = none
            ∧ (s0.allCmds.find? fun p => p.2.line == some (0, 0) && p.2.state == .running && !p.2.lineAcked) = some (ref 0, pacedCmd)
            ∧ s0.step? (ref 0) = some t ∧ s0.cmd? (ref 0) = some pacedCmd ∧ pacedCmd.position < j.d.total ∧ t.state ≠ .committed)
        | none => false) = true)
    ∧ (up3.powered = true ∧ up3.hw.lineDown.contains (4, 63) = false ∧ up3.allCmds = [] ∧ up3.dma.reqs.contains (4, 63) = false) := by
  decide +kernel

/-! ### Serving, mirroring and messages -/

/-- A message of rank 1 that rank 0 hears, next of its flow. -/
def said (typ cls cmd : Nat) (payload : List Byte) : OxtPkt :=
  { pkt with typ := BitVec.ofNat 4 typ, cls := BitVec.ofNat 4 cls, cmd := BitVec.ofNat 12 cmd, payload := payload }

/-- Does a state hear the packet on context 3, and is it next of its flow? -/
def hearable (s : State) (p : OxtPkt) : Bool :=
  s.up && pktSound p && decide (s.jobCtx p = some 3) && p.epoch == (s.ctx 3).job.epoch && (s.recordedGen 3 p.srcRank.toNat).isNone
    && p.dstGen == 0#16 && p.psn == (s.flow (pktKey 3 p)).expect

theorem hears (s : State) (p : OxtPkt) (h : hearable s p = true) : s.Hears p 3 ∧ p.psn = (s.flow (pktKey 3 p)).expect := by
  simp only [hearable, Bool.and_eq_true, beq_iff_eq, decide_eq_true_eq, Option.isNone_iff_eq_none] at h
  obtain ⟨⟨⟨⟨⟨⟨a, b⟩, c⟩, d⟩, e⟩, f⟩, g⟩ := h
  exact ⟨⟨a, b, c, d, .inr e, .inl f⟩, g⟩

theorem delivers (s : State) (p : OxtPkt) (typ cls : Nat) (h : hearable s p = true) (ht : p.typ = BitVec.ofNat 4 typ)
    (hc : p.cls = BitVec.ofNat 4 cls) : s.Delivers p typ cls 3 :=
  ⟨(hears s _ h).1, ht, hc, (hears s _ h).2⟩

def srvLoad (tries : Nat) : State :=
  let s := withSteps srv [{ step0 with kind := .load }]
  withCtx s 3 { s.ctx 3 with models := [model0], load := some { load0 with fetches := load0.fetches.map fun f => { f with tries := tries } } }

/-- PeriodsAndFetches: a period with a sequence, with none, and without its rings; chunk messages; a fetch that waits, first and second. -/
theorem wit_periods :
    (let s := at_ 1000010040 (srv1 [{ seq0 with joinAt := 0 }])
     s.up = true ∧ ((s.ctx 3).steps.any fun t => t.kind == .period) = false ∧ s.slu.admitting = true
      ∧ (match (s.ctx 3).pattern with
        | some p => decide (p.origin p.next ≤ s.clk.now ∧ s.zoneRefuses p.allow (s.patternZones p) = false
            ∧ (s.templateOf 3 p).isSome = true ∧ s.freeSlot (rowOf 3) = some 0 ∧ p.seqs = [{ seq0 with joinAt := 0 }]
            ∧ (s.ctx 3).unbound = false)
        | none => false) = true)
    ∧ ((srv1 []).ctx 3).pattern = some { pat0 with seqs := [] }
    ∧ ((withCtx (srv1 []) 3 { (srv1 []).ctx 3 with unbound := true }).ctx 3).unbound = true
    ∧ (model0.resident = true ∧ model0.name = digestOf (slice (List.replicate 32 0#8) 0 32) ∧ 0 < model0.count)
    ∧ (let s := srvLoad 1
       (s.ctx 3).load.isSome = true ∧ s.awaitsChunk 3 (said 0 3 1 [1#8]) = true ∧ s.awaitsChunk 3 (said 0 3 2 []) = true
        ∧ 999000000 + load0.wait ≤ s.clk.now)
    ∧ (let s := srvLoad 2
       ((s.ctx 3).load.bind fun l => l.fetches.find? fun q => q.chunk == 0 && decide (0 < q.tries) && !q.done).map (·.tries) = some 2
        ∧ (s.ctx 3).step? load0.uid = some { step0 with kind := .load }) := by decide +kernel

theorem wit_fetch_messages :
    (srvLoad 1).Delivers (said 0 3 0 (List.replicate 32 0#8)) 0 3 3 ∧ (srvLoad 1).Delivers (said 0 3 1 [1#8]) 0 3 3
      ∧ (srvLoad 1).Delivers (said 0 3 2 []) 0 3 3 :=
  ⟨delivers _ _ _ _ (by decide +kernel) rfl rfl, delivers _ _ _ _ (by decide +kernel) rfl rfl, delivers _ _ _ _ (by decide +kernel) rfl rfl⟩

/-- Step 0's checkpoint is received in slot 0, and an older one waits in slot 1. -/
def chunk0 (bs : List Byte) (repeats : Nat) : RecvChunk :=
  { index := 0, pieces := [(0, bs)], digest := none, verified := false, repeats := repeats }
def partner (chunks : List RecvChunk) (other : SlotState) : State := { up1 with
  recv := { ctx := some 3, rank := 1, gib := 1, refused := none
            slots := [{ RecvSlot.empty with state := .receiving, chunks := chunks }, { RecvSlot.empty with state := other, step := 8 }] } }
def restoring : State := { withSteps up1 [{ step0 with kind := .restore }] with
  ctxs := (withSteps up1 [{ step0 with kind := .restore }]).ctxs.set 3
    { busy with steps := [{ step0 with kind := .restore }], restore := some { restore0 with step := 0 } } }
def stream0 : Stream :=
  { step := 0, version := 1, started := 0, deadline := 1000000000, image := [], held := [], sentAll := false, nextDone := false }
def mirror0 : MirrorCfg :=
  { send := some 1, interval := 1, minPeriod := 1000000, ranges := [(0x100000, 4096)], recv := none, slots := 0, slotGib := 0 }
def sending : State := withCtx up1 3 { busy with stream := some stream0, mirror := some mirror0, ckpts := [{ step := 0, sealed := false, ws := 1 }] }

/-- MirrorMessagesAct, beside the messages: a chunk for a restore, for a checkpoint and for neither; a digest that agrees, one that does not
for the first and for the second time; the other messages' slots; a restore and a stream that run out of time. -/
theorem wit_mirror_states :
    ((restoring.ctx 3).restoreOf (said 0 2 0 [1#8])).isSome = true
    ∧ (let s := partner [chunk0 [1#8] 0] .pending
       (s.ctx 3).restoreOf (said 0 2 0 [1#8]) = none ∧ s.mirrorsFrom 3 (said 0 2 0 [1#8]) = true ∧ s.receiving 0 = some 0 ∧ 0 < s.recv.gib * 16
        ∧ (judgeChunk [chunk0 [1#8] 0] 0 (sha256 [1#8])).2 = .good ∧ (judgeChunk [chunk0 [1#8] 0] 0 0).2 = .again
        ∧ (judgeChunk [chunk0 [1#8] 1] 0 0).2 = .bad
        ∧ (s.recv.slots.findIdx? fun k => (k.state == .pending && k.step == 8) || (k.state == .receiving && k.step.setWidth 32 == 8#32)) = some 1
        ∧ ∀ q ∈ s.recv.slots, q.state ≠ .clean)
    ∧ up1.mirrorsFrom 3 (said 0 2 0 [1#8]) = false
    ∧ ((sending.ctx 3).stream = some stream0 ∧ (sending.ctx 3).mirror = some mirror0 ∧ stream0.step.setWidth 32 = (0#32 : BitVec 32)
      ∧ mirror0.send = some (said 0 2 2 []).srcRank.toNat ∧ sending.clk.now ≤ stream0.deadline ∧ stream0.deadline ≤ sending.clk.now)
    ∧ (let s := partner [] .clean
       (s.recv.slots.findIdx? fun k => k.state == .clean && k.step == 8 && s.recv.rank == 1) = some 1)
    ∧ (let r := { restore0 with step := 0 }
       (restoring.ctx 3).restore = some r ∧ (restoring.ctx 3).step? r.uid = some { step0 with kind := .restore } ∧ r.done = false
        ∧ r.since + r.wait ≤ restoring.clk.now ∧ 0 < chunkCount (rangesLen r.ranges)) := by decide +kernel

theorem wit_mirror_messages :
    restoring.Delivers (said 0 2 0 [1#8]) 0 2 3 ∧ restoring.Delivers (said 0 2 3 []) 0 2 3 ∧ restoring.Delivers (said 0 2 8 []) 0 2 3
    ∧ (partner [chunk0 [1#8] 0] .pending).Delivers (said 0 2 1 (leBytes 32 0)) 0 2 3
    ∧ (partner [] .pending).Delivers (said 0 2 4 (leBytes 8 8)) 0 2 3 ∧ (partner [] .pending).Delivers (said 0 2 5 (leBytes 8 8)) 0 2 3
    ∧ sending.Delivers (said 0 2 2 []) 0 2 3 ∧ sending.Delivers (said 0 2 6 []) 0 2 3
    ∧ (partner [] .clean).Delivers (said 0 2 7 (leBytes 8 8 ++ leBytes 2 1)) 0 2 3 := by
  refine ⟨?_, ?_, ?_, ?_, ?_, ?_, ?_, ?_, ?_⟩ <;> exact delivers _ _ _ _ (by decide +kernel) rfl rfl

/-- A collective over the group of ranks 0 and 1, and a RECV of two buffers of 6080000 bytes from rank 1. -/
def joint (blocks : List (Nat × List Byte)) : State :=
  let s := running [] (runStep [command 0x200980 (.coll 0) 0])
  { withCtx s 3 { s.ctx 3 with job := { busy.job with groups := some (1, [[0, 1, 2, 3], [0, 1]]), peers := (up3.ctx 3).job.peers } } with
    mem := { s.mem with cells := cellsOf blocks } }
def reducing : State := joint (staging.filter fun b => [0x200980, 0x200740, 0x2007C0].contains b.1)
def receiver : State := joint
  [(0x200740, build 32 [(0, 6, 0x170000), (6, 1, 0), (8, 4, 1), (12, 4, 1)]),
   (0x2007C0, build 32 [(0, 6, 0x1000000), (6, 1, 0), (8, 4, 4096), (12, 4, 1024)]),
   (0x200980, build 128 [(0, 1, 5), (1, 1, 8), (2, 1, 1), (4, 2, 1), (16, 4, 6080000), (20, 1, 2), (40, 8, 0x200740), (56, 8, 0x2007C0)])]

def piece : OxtPkt := { said 0 0 0 [1#8, 2#8] with step := 100, slot := 1 }
def buffer (slot : BitVec 16) : OxtPkt := { said 0 1 0 [1#8, 2#8] with step := 100, slot := slot }

/-- MessagesReachCommands, beside the messages: a piece that is new or not, for a command and for none; a buffer within the queue and one
beyond it; an abort of a step that runs and of one that has committed; a packet of another version. -/
theorem wit_message_states :
    (match reducing.collOf 3 piece with
      | some x => (match reducing.collJob 3 x.2.1 x.2.2 with
        | some j => decide (x.1 = ref 0 ∧ j.d.op ≠ 7 ∧ j.d.op ≠ 8 ∧ piece.slot.toNat < j.g
            ∧ ((x.2.2.arrived 1).any fun y => y.1 == 0) = false ∧ (((x.2.2.stagePiece 1 0 [1#8]).arrived 1).any fun y => y.1 == 0) = true)
        | none => false)
      | none => false) = true
    ∧ reducing.collOf 3 { piece with step := 9 } = none ∧ receiver.commandOf 3 { buffer 0 with step := 9 } = none
    ∧ receiver.commandOf 3 (buffer 0) = some (ref 0) ∧ (receiver.step? (ref 0)).map (·.state) = some .running
    ∧ (let k := cmdOf receiver 0
       (match receiver.collJob 3 (runStep [command 0x200980 (.coll 0) 0]) k with
        | some j => decide (j.d.op = 8 ∧ k.alive = true ∧ j.d.depth ≤ (buffer 2).slot.toNat ∧ (buffer 1).slot.toNat < j.d.depth
            ∧ 0 + 2 ≤ j.d.buf ∧ ((k.arrived 0).any fun x => x.1 == 0) = false ∧ j.stage.isSome = true)
        | none => false) = true)
    ∧ (((runDma.ctx 3).steps.find? fun t => t.hdr.step.setWidth 32 == (100#32) && t.state != .committed).map (·.uid)) = some 0
    ∧ (let s := withCtx (holding group0 .last) 3 { (holding group0 .last).ctx 3 with steps := [] }
       group0 ∈ s.weir.groups ∧ (s.ctx 3).steps = [] ∧ group0.row = rowOf 3 ∧ group0.step.setWidth 32 = 100#32 ∧ s.slot 3 0 = .last)
    ∧ (up1.up = true ∧ pktSound { pkt with ver := 2 } = false) := by decide +kernel

theorem wit_messages :
    reducing.Delivers piece 0 0 3 ∧ receiver.Delivers (buffer 0) 0 1 3 ∧ receiver.Delivers (buffer 2) 0 1 3
      ∧ runDma.Delivers { said 4 4 0 [] with step := 100 } 4 4 3 := by
  refine ⟨?_, ?_, ?_, ?_⟩ <;> exact delivers _ _ _ _ (by decide +kernel) rfl rfl

def key1 : FlowKey := pktKey 3 pkt

/-- One message is out on the flow to rank 1. -/
def flowing (retx : Nat) (wait : Option Ns) (rx : Nat) : State := { runDma with
  fab := { runDma.fab with flows := [{ Flow.fresh key1 with
    unacked := [{ pkt with step := 100 }], nextPsn := 1, retx := retx, wait := wait, rxUnacked := rx }] } }

def ackOf (reason : BitVec 4) : OxtPkt := { said 2 0 0 [] with reason := reason, ackPsn := 0xFFFFFFFF#32, credit := 128 }

/-- FlowsAcknowledge: an acknowledgement of nothing, refusals of each reason, a sender that was reset, and the three timers. -/
theorem wit_flows :
    (let w := (((flowing 6 none 0).heard 3 (ackOf 0)).applyAck (pktKey 3 (ackOf 0)) (ackOf 0)).flow (pktKey 3 (ackOf 0))
     w.unacked ≠ [] ∧ w.retx < 7)
    ∧ (let w := (((flowing 7 none 0).heard 3 (ackOf 0)).applyAck (pktKey 3 (ackOf 0)) (ackOf 0)).flow (pktKey 3 (ackOf 0))
       w.unacked ≠ [] ∧ 7 ≤ w.retx)
    ∧ (let w := ((up1.heard 3 (ackOf 0)).applyAck (pktKey 3 (ackOf 0)) (ackOf 0)).flow (pktKey 3 (ackOf 0))
       w.unacked = [])
    ∧ (ackOf 1).reason = 1#4 ∧ (ackOf 0).reason ≠ 1#4
    ∧ ({ pkt with step := 100 } ∈ (((flowing 0 none 0).heard 3 (ackOf 0)).flow (pktKey 3 (ackOf 0))).unacked)
    ∧ (flowing 0 none 0).commandOf 3 { pkt with step := 100 } = some (ref 0) ∧ (flowing 0 none 0).step? (ref 0) = some (runStep allFive)
    ∧ ((flowing 6 (some 5) 0).flow key1).wait = some 5 ∧ 5 ≤ (flowing 6 (some 5) 0).clk.now ∧ ((flowing 6 (some 5) 0).flow key1).retx < 7
    ∧ (let w := (flowing 7 none 1).flow key1
       w.unacked ≠ [] ∧ w.wait = none ∧ w.progress + 20000 ≤ runDma.clk.now ∧ 7 ≤ w.retx ∧ 0 < w.rxUnacked
        ∧ w.rxOldest + 2000 ≤ runDma.clk.now) := by decide +kernel

theorem wit_flows_heard : (flowing 6 none 0).Hears (ackOf 0) 3 ∧ (flowing 7 none 0).Hears (ackOf 1) 3 ∧ up1.Hears (ackOf 0) 3 :=
  ⟨(hears _ _ (by decide +kernel)).1, (hears _ _ (by decide +kernel)).1, (hears _ _ (by decide +kernel)).1⟩

/-! ### Ports, mesh, ladder and integrity -/

def target0 : Target := { rank := 1, local_ := 7, peer := 7, seq := 3, restart := 0, suspect := false }
def frame (typ : BitVec 8) (state : BitVec 8) : RiffleFrame :=
  { good := true, mine := true, typ := typ, state := state, seq := 3, prober := 0, target := 1, job := 7, probeTime := 0, echoTime := 0 }
def ports : State := { withCtx up0 3 { busy with job := { busy.job with targets := [target0] } } with
  fab := { up0.fab with ports := up0.fab.ports.set 7 { up0.fab.ports[(7 : Fin 8)] with state := 2, lanes := 0xFF, pause3 := some 0, pause4 := some 0 } }
  cfg := { up0.cfg with riffleOn := true } }

/-- A management request with the control values of the fuses. -/
def asking (payload : List Byte) : OxtPkt :=
  { said 0 5 0 payload with job := (up0.fuse.control >>> 32).setWidth 32, epoch := up0.fuse.control.setWidth 32 }

/-- PortsAndRiffle: a probe and echoes on port 7, an echo of no target, the interval and a timer, a storm on priority 3, and requests. -/
theorem wit_ports :
    (ports.echoes 7 = true ∧ (frame 0x11 0).good = true ∧ (frame 0x11 0).mine = true ∧ (frame 0x12 1).typ = 0x12#8
      ∧ (allCtx.find? fun c => (ports.ctx c).job.targets.any (echoMatches 7 (frame 0x12 1) (ports.ctx c))) = some 3
      ∧ ∀ c ∈ allCtx, ((ports.ctx c).job.targets.any (echoMatches 7 { frame 0x12 0 with seq := 4 } (ports.ctx c))) = false)
    ∧ (ports.up = true ∧ ports.cfg.riffleOn = true ∧ ports.fab.probeAt ≤ ports.clk.now ∧ (ports.ctx 3).job.targets[0]? = some target0
      ∧ (ports.ctx 3).maySend = true ∧ target0.restart + 3 * ports.cfg.riffleUs * 1000 ≤ ports.clk.now)
    ∧ (ports.portUp 7 = true ∧ ports.fab.ports[(7 : Fin 8)].storms 3 ports.clk.now = true ∧ ports.fab.ports[(7 : Fin 8)].storms 4 ports.clk.now = true)
    ∧ (let p := asking []
       pktSound p = true ∧ p.typ = 0#4 ∧ p.cls = 5#4 ∧ up0.boot.mgmt = true ∧ p.job ++ p.epoch = up0.fuse.control
        ∧ (field p.payload 0 1).testBit 7 = false ∧ (parseMgmt p).formed = false ∧ ({ p with epoch := 5 } : OxtPkt).job ++ 5#32 ≠ up0.fuse.control)
    ∧ (let q := parseMgmt (asking (build 20 [(0, 1, 2), (8, 2, 1), (4, 4, 0x18)]))
       q.formed = true ∧ q.offset < 65536 ∧ q.offset % 4 = 0 ∧ q.op ≠ 1 ∧ mgmtWritable q.offset = false)
    ∧ (let q := parseMgmt (asking (build 20 [(0, 1, 2), (8, 2, 1), (4, 4, 0x10), (16, 4, 0xF5)]))
       q.formed = true ∧ q.op = 2 ∧ q.offset = 0x10 ∧ q.data.toNat % 16 ≤ 12) := by decide +kernel

def meshPkt (typ : BitVec 4) (gen : BitVec 16) : MeshPkt :=
  { gen := gen, ctx := 3, typ := typ, lines := 0, src := 0, dst := 1, addr := 0x100000, region := none, enables := [], data := [1#8], cmd := none }

/-- MeshAndRingsAct: packets of the current and of an old generation, a module live and in repair, and ring breaks with and without an
isolated steward. -/
theorem wit_mesh :
    up1.up = true ∧ up1.rcv.rungs = [] ∧ 7 ≤ (meshPkt 7 1).typ.toNat ∧ (up1.ctx 3).regs.gen = 1#16
    ∧ meshAsks (meshPkt 0 2) = true ∧ meshAsks (meshPkt 4 2) = false ∧ (meshPkt 0 1).cmd = none
    ∧ up3.module (.d2d 47) = .live ∧ ({ up3 with dma := { up3.dma with d2d := Vector.replicate 48 .repair } } : State).module (.d2d 47) = .repair
    ∧ ((0 : Fin 2), (1 : Fin 7)) ∉ up1.ring.breaks
    ∧ (let s : State := { up1 with ring := { up1.ring with breaks := [(0, 1)] } }
       let broken : State := { s with ring := { s.ring with breaks := (1, 2) :: s.ring.breaks } }
       s.isolatedRegions = [] ∧ s.up = true ∧ broken.isolatedRegions = [0]) := by decide +kernel

def climbing (g : Rung) : State := { up3 with rcv := { up3.rcv with rungs := [g] } }
def rung (scope : RungScope) : Rung := { scope := scope, start := 0, missed := false, engine := some (.dma 0 0), todo := [3] }
def quarantined (todo : List CtxId) : State := { runDma with
  rcv := { runDma.rcv with quarantines := [{ engine := .dma 0 0, since := 0, suspects := todo, todo := todo }] } }

/-- LadderClimbs: a watchdog at its bound; rungs that miss their bound and that complete; a quarantined engine with one suspect and with two. -/
theorem wit_ladder :
    (let s := at_ (runDma.clk.now + 200000) runDma
     s.up = true ∧ s.running? (.dma 0 0) = some (ref 0, cmdOf s 0) ∧ (cmdOf s 0).waitSince = none
      ∧ 5 * (cmdOf s 0).entry.w + 80000 ≤ 4 * (cmdOf s 0).runTime s.clk.now ∧ s.rcv.rungs = [])
    ∧ (let k : Kill := { engine := .dma 0 0, ctx := 3, due := 0, replay := true }
       let s : State := { up3 with rcv := { up3.rcv with kills := [k] } }
       s.up = true ∧ s.running? (.dma 0 0) = none ∧ s.rcv.kills.find? (fun o => o.engine == .dma 0 0) = some k ∧ k.due ≤ s.clk.now
        ∧ s.rcv.rungs = [])
    ∧ (∀ g ∈ [rung (.engine (.dma 0 0)), rung (.core 0), rung (.region 3), rung .warm],
        let s := at_ 20000000000 (climbing g)
        s.powered = true ∧ s.rcv.rungs = [g] ∧ g.start + rungBound g.scope ≤ s.clk.now ∧ g.scope ≠ .cold)
    ∧ (let s := climbing (rung (.engine (.dma 0 0)))
       s.powered = true ∧ s.rcv.rungs.find? (fun g => g.scope == .engine (.dma 0 0)) = some (rung (.engine (.dma 0 0)))
        ∧ (rung (.engine (.dma 0 0))).todo ≠ [])
    ∧ (let s := climbing (rung .warm)
       s.rcv.rungs.find? (fun g => g.scope == .warm) = some (rung .warm) ∧ s.boot.phase = .ready ∧ s.weir.ready = true
        ∧ (∀ c ∈ allCtx, (s.ctx c).regs.window = []) ∧ s.own.owner.isSome = true)
    ∧ (let s := quarantined [3]
       let q := { engine := .dma 0 0, since := 0, suspects := [3], todo := [3] }
       s.up = true ∧ s.rcv.quarantines.find? (fun r => r.engine == q.engine) = some q ∧ q.todo.head? = some 3 ∧ (s.ctx 3).state = .active
        ∧ (s.engineUnit q.engine).isSome = true ∧ q.since + 200000000 ≤ s.clk.now)
    ∧ ((quarantined [3, 4]).rcv.quarantines.head?.map fun q => q.todo.length) = some 2 := by decide +kernel

def repeat0 (pending : Option Nat) : Repeat :=
  { engine := some (.update 5), unit := .cluster 5, since := 0, sig := Sig.empty 1, pending := pending }
def recompute0 : Recompute := { ctx := 3, step := 100, units := [{ idx := 0, ordinal := 0 }], sweep := false, digest := 0, engines := [(0, .vector 0)] }
def vote0 : Vote := { ctx := 3, step := 100, unit := { idx := 0, ordinal := 0 }, engine := some (.vector 0) }

/-- EddyDecides: a repeat with and without two earlier transients of its unit, an open one, a recompute, a vote, and a record to export with and
without a ring. -/
theorem wit_eddy :
    (let s : State := { up1 with intg := { up1.intg with repeats := [repeat0 none] } }
     s.up = true ∧ s.intg.repeats.find? s.repeatIdle = some (repeat0 none)
      ∧ s.intg.repeats.find? (fun q => q.pending.isNone && decide (q.since + 100000000 ≤ s.clk.now)) = some (repeat0 none))
    ∧ (let s : State := { up1 with intg := { up1.intg with pending := [recompute0], votes := [vote0] } }
       s.intg.pending.find? (fun r => r.ctx == 3 && r.step == 100) = some recompute0 ∧ recompute0.sweep = false ∧ (s.ctx 3).ckpts = []
        ∧ s.intg.votes = [vote0])
    ∧ (let g := { Sig.empty 1 with outcome := some 1 }
       let s : State := { up1 with intg := { up1.intg with records := [g] } }
       s.powered = true ∧ s.intg.records = [g] ∧ s.cfg.ringLog2 = 0
        ∧ ({ s with cfg := { s.cfg with ringLog2 := 20 } } : State).cfg.ringLog2 ≠ 0
        ∧ entryPages (sigBytes s.fuse.control false g).length * 256 ≤ s.allowanceNow) := by decide +kernel

/-- StepNumbersStayDistinct: a state with a step. -/
theorem wit_numbers : (withSteps up1 [step0]).Numbered := numbered_of _ (by decide +kernel)

/-! ### Values that commands leave -/

/-- 7 × 200 of unsigned bytes is 1400, at the accumulator. -/
theorem test_matrix_product :
    (let u := next (exec (.matrixCommandComplete (ref 2)) runMat)
     (u.mem.base 211106236203008, u.mem.base 211106236203009, u.mem.base 211106236203010)) = (0x78#8, 0x05#8, 0x00#8) := by decide +kernel

/-- 1.5 + 2.25 is 3.75, which rounds to the integer 4 (to nearest, ties to even), at the first byte of the destination's tile. -/
theorem test_vector_sum :
    ((runVec.vecJob 3 (runStep allFive) (cmdOf runVec 1)).map fun j =>
      (j.writes (runVec.cmdView 3 (runStep allFive))).1.map fun p => (p.1, p.2.take 2)) = some [(0x220000, [4#8, 0#8])] := by decide +kernel

end Sys2Proof.Tests
end

section
/-! PROOFS. Writes of BAR0 registers that are refused (R16, R390, R460). -/

namespace Sys2Proof.Machine

theorem exec_registerWrite (s : State) (off : Nat) (w : RegWrite) : exec (.registerWrite off w) s = .next (s.writeReg off w) := rfl

/-- A port whose link is up is linked. -/
theorem State.linked_of_linkUp {s : State} {p : Port} (h : s.linkUp p = true) : s.linked p = true := Bool.or_eq_true_iff.2 (.inl h)

theorem State.writeReg_of_malformed {s : State} {off : Nat} {w : RegWrite} (hp : s.powered = true) (hl : s.linked w.port = true)
    (hf : writeFormed off w = false) : s.writeReg off w = s.emit (.aer w.port .nonFatal) := by
  simp [State.writeReg, hp, hl, hf]

theorem State.writeReg_of_foreign {s : State} {off : Nat} {w : RegWrite} (hp : s.powered = true) (hu : s.linkUp w.port = true)
    (hf : writeFormed off w = true) (hs : s.serving = true) (ha : accessOf off = .owner) (ho : s.own.owner ≠ some w.port) :
    s.writeReg off w = s.discardForeign w.port := by
  simp [State.writeReg, hp, State.linked_of_linkUp hu, hf, hs, hu, ha, ho]

/-- Whatever else holds of the device: a register without access takes no well-formed write. -/
theorem State.writeReg_of_noAccess {s : State} {off : Nat} {w : RegWrite} (hf : writeFormed off w = true) (ha : accessOf off = .none) :
    s.writeReg off w = s := by
  simp [State.writeReg, hf, ha]

/-- Settles O21: the three conditions select three branches of `State.writeReg`. -/
theorem writesAreRefused : Obligations.WritesAreRefused := by
  intro s off w hp hl
  simp only [exec_registerWrite]
  refine ⟨fun hf => ?malformed, fun hf hu hs ha ho => ?foreign, fun hf ha => ?noAccess⟩
  case malformed => rw [State.writeReg_of_malformed hp hl hf]; rfl
  case foreign => rw [State.writeReg_of_foreign hp hu hf hs ha ho]; rfl
  case noAccess => rw [State.writeReg_of_noAccess hf ha]

end Sys2Proof.Machine
end

section
/-! PROOFS. Host reads and writes of the aperture (R387 to R390, R398). -/

namespace Sys2Proof.Machine

theorem exec_bar4Read (p : Port) (offset len : Nat) (s : State) : exec (.bar4Read p offset len) s = execBar4Read p offset len s := rfl

theorem exec_bar4Write (p : Port) (offset : Nat) (bs : List Byte) (s : State) :
    exec (.bar4Write p offset bs) s = execBar4Write p offset bs s := rfl

theorem State.powered_of_up {s : State} (h : s.up = true) : s.powered = true := by
  simp only [State.up, Bool.and_eq_true] at h
  exact h.1.1.1

/-- What a host reads from a device address on. -/
def State.hostBytes (s : State) (a len : Nat) : List Byte := (List.range len).map fun i => s.hostByte (a + i)

/-- The answer to a read that the aperture serves (R388, R398). -/
def State.apertureAnswer (s : State) (p : Port) (a len : Nat) : List Output :=
  if s.hostPoison a len then [.apertureData p (s.hostBytes a len) true, .aer p .nonFatal] else [.apertureData p (s.hostBytes a len) false]

theorem execBar4Read_of_inside {s : State} {p : Port} {offset len : Nat} (hu : s.up = true) (hl : s.linkUp p = true)
    (ha : s.apertureAddr p offset + len ≤ s.usable) (ho : offset + len ≤ 2 ^ 36) :
    execBar4Read p offset len s = .next (s.emits (s.apertureAnswer p (s.apertureAddr p offset) len)) := by
  have hin : ¬ s.usable < s.apertureAddr p offset + len := Nat.not_lt.2 ha
  have hbar : ¬ 2 ^ 36 < offset + len := Nat.not_lt.2 ho
  simp only [execBar4Read, State.powered_of_up hu, State.linked_of_linkUp hl, hu, hl, hin, hbar, decide_false, Bool.not_true, Bool.or_false,
    Bool.false_eq_true, if_false, State.apertureAnswer]
  split <;> rfl

theorem execBar4Read_of_beyond {s : State} {p : Port} {offset len : Nat} (hu : s.up = true) (hl : s.linkUp p = true)
    (ha : s.usable < s.apertureAddr p offset + len) : execBar4Read p offset len s = .next (s.unsupportedRead p) := by
  simp [execBar4Read, State.powered_of_up hu, State.linked_of_linkUp hl, ha]

/-- Bytes that stay in their page are one part. -/
theorem pageParts_of_inPage {a : Nat} {bs : List Byte} (hne : bs ≠ []) (hp : a % 4096 + bs.length ≤ 4096) :
    pageParts (bs.length + 1) a bs = [(a, bs)] := by
  have hn : bs.length ≤ Config.pageBytes - a % Config.pageBytes := by unfold Config.pageBytes; omega
  have hdone : ∀ fuel x, pageParts fuel x [] = [] := by
    intro fuel x
    cases fuel <;> rfl
  simp [pageParts, hne, List.take_of_length_le hn, List.drop_eq_nil_of_le hn, hdone]

theorem State.aperturePart_of_scratch {s : State} {a : Nat} (h : s.heldKind a = some .scratch) (bs : List Byte) :
    s.aperturePart a bs = (s.putBase a bs, false) := by
  simp [State.aperturePart, h]

theorem execBar4Write_of_scratch {s : State} {p : Port} {offset : Nat} {bs : List Byte} (hu : s.up = true) (hl : s.linkUp p = true)
    (ho : s.own.owner = some p) (hne : bs ≠ []) (hp : s.apertureAddr p offset % 4096 + bs.length ≤ 4096)
    (hk : s.heldKind (s.apertureAddr p offset) = some .scratch) :
    execBar4Write p offset bs s = .next (s.putBase (s.apertureAddr p offset) bs) := by
  simp [execBar4Write, hu, hl, ho, pageParts_of_inPage hne hp, State.apertureParts, State.aperturePart_of_scratch hk]

theorem execBar4Write_of_foreign {s : State} {p : Port} (hu : s.up = true) (hl : s.linkUp p = true) (ho : s.own.owner ≠ some p)
    (offset : Nat) (bs : List Byte) : execBar4Write p offset bs s = .next (s.discardAperture p .correctable) := by
  simp [execBar4Write, hu, hl, ho]

theorem readCell_put_inside {m : Mem} (h : Memory.wf m) (a : Nat) (bs : List Byte) (i : Nat) (hi : i < bs.length) :
    readCell (m.put a bs).cells (a + i) = bs[i] := by
  simp [Mem.put, readCell_writeCells _ h, hi]

theorem readCell_put_outside {m : Mem} (h : Memory.wf m) {a x : Nat} {bs : List Byte} (hx : x < a ∨ a + bs.length ≤ x) :
    readCell (m.put a bs).cells x = readCell m.cells x := by
  have hout : ¬ (a ≤ x ∧ x < a + bs.length) := by omega
  simp [Mem.put, readCell_writeCells _ h, hout]

/-- Settles O25: a read is answered inside the usable memory and unsupported beyond it; the owner's write in a scratch page is one part, put
to the base copies; the other host's is discarded. -/
theorem apertureAccess : Obligations.ApertureAccess := by
  intro s p offset hu hl
  simp only [exec_bar4Read, exec_bar4Write]
  refine ⟨fun len ha ho => ?inside, fun len ha => ?beyond, fun bs ho hne hp hk hw => ?scratch, fun bs ho => ?foreign⟩
  case inside => exact execBar4Read_of_inside hu hl ha ho
  case beyond => exact execBar4Read_of_beyond hu hl ha
  case scratch =>
    exact ⟨_, execBar4Write_of_scratch hu hl ho hne hp hk, rfl, readCell_put_inside hw _ bs, fun x hx => readCell_put_outside hw hx⟩
  case foreign => exact execBar4Write_of_foreign hu hl ho offset bs

end Sys2Proof.Machine
end

section
/-! PROOFS. The power and reset pins restart the device (R5, R401, R463). -/

namespace Sys2Proof.Machine

theorem exec_pwrgdInRise (b : BitVec 2) (s : State) : exec (.pwrgdInRise b) s = execPwrgdInRise b s := rfl
theorem exec_pwrgdInFall (s : State) : exec .pwrgdInFall s = execPwrgdInFall s := rfl
theorem exec_resetInNAssert (n : Nat) (s : State) : exec (.resetInNAssert n) s = execResetInNAssert n s := rfl
theorem exec_resetInNRelease (b : BitVec 2) (s : State) : exec (.resetInNRelease b) s = execResetInNRelease b s := rfl

/-- `t` is a restart of `s`: at its reset values, with the fuses, the journal areas and the queue of `s` (R5, R401, R463). -/
def State.Restarted (s t : State) : Prop :=
  t.cfg = Cfg.reset ∧ t.own = State.reset.own ∧ t.ctxs = State.reset.ctxs ∧ t.weir = Weir.reset ∧ t.slu = Slu.reset ∧ t.hbm = Hbm.reset
  ∧ t.fab = Fab.reset ∧ t.dma = Dma.reset ∧ t.intg = Intg.reset ∧ t.pwr = Pwr.reset ∧ t.tel = State.reset.tel ∧ t.lat = State.reset.lat
  ∧ t.sec.keys = Sec.reset.keys ∧ t.mem.cells = [] ∧ t.fuse = s.fuse ∧ t.flash.areas = s.flash.areas ∧ t.pending = s.pending

/-- Abandoning an update empties an image slot at most. -/
@[simp] theorem State.abandonUpdate_areas (s : State) : s.abandonUpdate.flash.areas = s.flash.areas := by
  unfold State.abandonUpdate
  (repeat' split) <;> rfl

theorem State.coldStart_restarted (s : State) (clk : Clk) (strap : BitVec 2) (held : Option (List Nat × Nat)) :
    s.Restarted (s.coldStart clk strap held) :=
  ⟨rfl, rfl, rfl, rfl, rfl, rfl, rfl, rfl, rfl, rfl, rfl, rfl, rfl, rfl, rfl, s.abandonUpdate_areas, rfl⟩

theorem State.coldStart_clk (s : State) (clk : Clk) (strap : BitVec 2) (held : Option (List Nat × Nat)) :
    (s.coldStart clk strap held).clk = clk := rfl

/-- A hold event extends a measurement and changes nothing else. -/
theorem State.holdEvent_rest (s : State) : s.holdEvent = { s with sec := { s.sec with meas := s.holdEvent.sec.meas } } := by
  unfold State.holdEvent
  split <;> rfl

/-- What RCV_ holds is not asked of a restart: the rung that caused it stands there. -/
theorem State.Restarted.withRcv {s t : State} (h : s.Restarted t) (r : Rcv) : s.Restarted { t with rcv := r } := h

theorem State.Restarted.holdEvent {s t : State} (h : s.Restarted t) : s.Restarted t.holdEvent := by
  rw [State.holdEvent_rest]
  exact h

/-- While the trace is off a rung is entered in RCV_ and told to both hosts, and changes nothing else. -/
theorem State.noteRung_of_untraced {s : State} (h : s.cfg.traceOn = false) (g : Rung) :
    s.noteRung g = { s with
      rcv := { s.rcv with rungs := s.rcv.rungs ++ [g], counts := (s.noteRung g).rcv.counts, last := BitVec.ofNat 32 (g.word false) }
      out := s.out ++ [.msix .p0 0, .msix .p1 0] } := by
  simp [State.noteRung, State.trace, State.freezeTrace, h, State.msixBoth, State.emits]

theorem State.Restarted.noteRung {s t : State} (h : s.Restarted t) (g : Rung) : s.Restarted (t.noteRung g) := by
  have hoff : t.cfg.traceOn = false := by rw [h.1]; rfl
  rw [State.noteRung_of_untraced hoff]
  exact h

/-- With RESET_IN_N high the rise of PWRGD_IN is the later of the two, and the cold boot starts with it (R401). -/
theorem execPwrgdInRise_of_released {s : State} (hp : s.clk.pwrgd = false) (hr : s.clk.resetN = true) (b : BitVec 2) :
    execPwrgdInRise b s =
      .next (s.coldStart { now := 0, pwrgd := true, resetN := true, straps := b } b none).holdEvent := by
  simp [execPwrgdInRise, hp, hr]

theorem execPwrgdInRise_of_inReset {s : State} (hp : s.clk.pwrgd = false) (hr : s.clk.resetN = false) (b : BitVec 2) :
    execPwrgdInRise b s = .next (s.coldStart { now := 0, pwrgd := true, resetN := false, straps := b } 0#2 none) := by
  simp [execPwrgdInRise, hp, hr]

theorem State.powered_iff (s : State) : s.powered = true ↔ s.clk.pwrgd = true ∧ s.clk.resetN = true ∧ s.rcv.dead = false := by
  simp [State.powered, and_assoc]

theorem execResetInNAssert_of_short {n : Nat} (hn : n < 1000) (s : State) : execResetInNAssert n s = .next s := by
  simp [execResetInNAssert, hn]

theorem execResetInNAssert_of_powered {s : State} {n : Nat} (hn : 1000 ≤ n) (hs : s.powered = true) :
    execResetInNAssert n s = .next s.pinReset := by
  obtain ⟨hpwr, hreset, hdead⟩ := s.powered_iff.1 hs
  simp [execResetInNAssert, Nat.not_lt.2 hn, hpwr, hreset, hdead]

/-- Rung 6 at the pin (R367, R383, R393, R401). A cold start leaves the trace off, so the rung leaves no entry there. -/
theorem State.pinReset_eq (s : State) :
    s.pinReset =
      let cold := s.coldStart { s.clk with now := 0, resetN := false } 0#2 s.waitingMiss
      { cold with
        rcv := { cold.rcv with
          rungs := [{ scope := .cold, start := 0, missed := false, engine := none, todo := [] }], counts := s.pinReset.rcv.counts, last := 6#32 }
        out := s.out ++ [.msix .p0 0, .msix .p1 0] } :=
  State.noteRung_of_untraced rfl _

theorem State.pinReset_restarted (s : State) : s.Restarted s.pinReset := (s.coldStart_restarted ..).noteRung _

/-- The cold boot that follows the rise of RESET_IN_N: the rungs, counts and last rung of RCV_ stand from the pin's fall. -/
def State.releaseBoot (s : State) (b : BitVec 2) : State :=
  let cold := s.coldStart { now := 0, pwrgd := true, resetN := true, straps := b } b s.rcv.heldMiss
  State.holdEvent { cold with rcv := { cold.rcv with rungs := s.rcv.rungs, counts := s.rcv.counts, last := s.rcv.last } }

theorem execResetInNRelease_of_inReset {s : State} (hp : s.clk.pwrgd = true) (hr : s.clk.resetN = false) (hd : s.rcv.dead = false)
    (b : BitVec 2) : execResetInNRelease b s = .next (s.releaseBoot b) := by
  simp [execResetInNRelease, hp, hr, hd, State.releaseBoot]

theorem State.releaseBoot_restarted (s : State) (b : BitVec 2) : s.Restarted (s.releaseBoot b) :=
  ((s.coldStart_restarted ..).withRcv _).holdEvent

/-- Settles O34: each pin's edge is a cold start of its own, which `State.Restarted` describes; rung 6 adds its entry in RCV_ and the two
messages, and a hold boot its measurement. -/
theorem pinsRestartDevice : Obligations.PinsRestartDevice := by
  intro s
  simp only [exec_pwrgdInRise, exec_pwrgdInFall, exec_resetInNAssert, exec_resetInNRelease]
  refine ⟨fun b hp hr => ?riseReleased, fun b hp hr => ?riseInReset, rfl, fun n hn => execResetInNAssert_of_short hn s,
    fun n hn hs => ?fall, fun b hp hr hd => ?release⟩
  case riseReleased =>
    refine ⟨_, execPwrgdInRise_of_released hp hr b, (s.coldStart_restarted ..).holdEvent, ?_⟩
    rw [State.holdEvent_rest]
    exact ⟨rfl, rfl, rfl, rfl⟩
  case riseInReset => exact ⟨_, execPwrgdInRise_of_inReset hp hr b, s.coldStart_restarted .., rfl, rfl, rfl⟩
  case fall =>
    obtain ⟨hpwr, -, -⟩ := s.powered_iff.1 hs
    refine ⟨_, execResetInNAssert_of_powered hn hs, s.pinReset_restarted, ?_⟩
    rw [State.pinReset_eq]
    exact ⟨by simp [State.powered, State.coldStart_clk], hpwr, rfl, rfl, rfl⟩
  case release =>
    refine ⟨_, execResetInNRelease_of_inReset hp hr hd b, s.releaseBoot_restarted b, ?_⟩
    rw [State.releaseBoot, State.holdEvent_rest]
    exact ⟨rfl, rfl, rfl, rfl, rfl, rfl⟩

end Sys2Proof.Machine
end

section
/-! PROOFS. What the end of a step tells its host and leaves of the version table (R37, R43, R203, R329). -/

namespace Sys2Proof.Machine

/-! ### Operations that touch no context and no row -/

theorem State.ctx_of_ctxs {s t : State} (h : t.ctxs = s.ctxs) (c : CtxId) : t.ctx c = s.ctx c := by
  unfold State.ctx
  rw [h]

theorem State.row_of_rows {s t : State} (h : t.weir.rows = s.weir.rows) (r : Fin 17) : t.row r = s.row r := by
  unfold State.row
  rw [h]

/-- A trace entry is all that tracing adds. -/
theorem State.trace_rest (s : State) (cls event ctx arg : Nat) :
    s.trace cls event ctx arg = { s with tel := (s.trace cls event ctx arg).tel } := by
  unfold State.trace
  split <;> rfl

theorem State.freezeTrace_rest (s : State) : s.freezeTrace = { s with tel := s.freezeTrace.tel } := by
  unfold State.freezeTrace
  split <;> rfl

/-- A message changes its flow and the outputs. -/
theorem State.sendOnFlow_rest (s : State) (c : CtxId) (p : OxtPkt) :
    s.sendOnFlow c p = { s with fab := { s.fab with flows := (s.sendOnFlow c p).fab.flows }, out := (s.sendOnFlow c p).out } := by
  unfold State.sendOnFlow
  dsimp only
  (repeat' split) <;> rfl

@[simp] theorem State.trace_ctxs (s : State) (cls event ctx arg : Nat) : (s.trace cls event ctx arg).ctxs = s.ctxs := by
  rw [State.trace_rest]
@[simp] theorem State.trace_weir (s : State) (cls event ctx arg : Nat) : (s.trace cls event ctx arg).weir = s.weir := by
  rw [State.trace_rest]
@[simp] theorem State.freezeTrace_ctxs (s : State) : s.freezeTrace.ctxs = s.ctxs := by rw [State.freezeTrace_rest]
@[simp] theorem State.freezeTrace_weir (s : State) : s.freezeTrace.weir = s.weir := by rw [State.freezeTrace_rest]
@[simp] theorem State.putEntry_weir (s : State) (c : CtxId) (e : Entry64) : (s.putEntry c e).weir = s.weir := by
  rw [State.putEntry_rest]

/-- A part of the state that one operation keeps is kept by a fold of it. -/
theorem State.keeps_foldl {α β : Type} (π : State → β) (f : State → α → State) (h : ∀ u a, π (f u a) = π u) (l : List α) (s : State) :
    π (l.foldl f s) = π s := by
  induction l generalizing s with
  | nil => rfl
  | cons a l ih => rw [List.foldl_cons, ih, h]

theorem State.sendAborts_ctxs_weir (s : State) (c : CtxId) (n : BitVec 64) :
    ((s.sendAborts c n).ctxs, (s.sendAborts c n).weir) = (s.ctxs, s.weir) := by
  refine State.keeps_foldl (fun u => (u.ctxs, u.weir)) _ (fun u a => ?_) _ _
  split
  · rw [State.sendOnFlow_rest]
  · rfl

/-! ### Rows -/

@[simp] theorem State.writeRow_row (s : State) (r q : Fin 17) (f : RowData → RowData) :
    (s.writeRow r f).row q = if r = q then f (s.row r) else s.row q := by
  by_cases h : r = q
  · subst h
    simp [State.row, State.writeRow, Row.of]
  · have hv : r.val ≠ q.val := fun e => h (Fin.ext e)
    simp [State.row, State.writeRow, h, hv]

/-- An abort's row write names no version. -/
theorem State.abortGroup_version (s : State) (r q : Fin 17) (k : Fin 8) : ((s.abortGroup r k).row q).version = (s.row q).version := by
  have h : (s.abortGroup r k).row q = (s.writeRow r fun d => d.setSlot k .aborting).row q := rfl
  rw [h, State.writeRow_row]
  split
  · rename_i e
    rw [e]
    rfl
  · rfl

/-! ### One step ends -/

/-- Of one step's end a result entry with its code is left, and every VERSION stands. -/
structure State.Tells (s t : State) (c : CtxId) (code : Code) : Prop where
  code    : (t.ctx c).regs.lastCode = code.value
  results : (s.ctx c).regs.results < (t.ctx c).regs.results
  version : ∀ q : Fin 17, (t.row q).version = (s.row q).version

theorem State.Tells.trans {s t u : State} {c : CtxId} {code : Code} (a : State.Tells s t c code) (b : State.Tells t u c code) :
    State.Tells s u c code :=
  ⟨b.code, a.results.trans b.results, fun q => (b.version q).trans (a.version q)⟩

theorem State.abortOne_tells (s : State) (c : CtxId) (t : Step) (code : Code) (reason : Reason) (index : Nat) (tell : Bool) :
    State.Tells s (s.abortOne c t code reason index tell) c code := by
  unfold State.abortOne
  extract_lets r s1 s2 killed s3 s3' s3'' s4 s5 s6 s7 s8
  have h2 : s2.ctxs = s.ctxs ∧ ∀ q, (s2.row q).version = (s.row q).version := by
    have h1 : s1.ctxs = s.ctxs ∧ ∀ q, (s1.row q).version = (s.row q).version := by
      unfold s1
      split
      · exact ⟨rfl, fun q => s.abortGroup_version _ q _⟩
      · exact ⟨rfl, fun _ => rfl⟩
    unfold s2
    split
    · exact h1
    · exact h1
  have h3 : (s3''.ctxs, s3''.weir) = (s2.ctxs, s2.weir) :=
    State.keeps_foldl (fun u => (u.ctxs, u.weir)) _ (fun u a => by rw [State.trace_ctxs, State.trace_weir]) _ _
  have h4 : (s4.ctxs, s4.weir) = (s2.ctxs, s2.weir) := by
    unfold s4
    split
    · rw [State.sendAborts_ctxs_weir, h3]
    · exact h3
  clear_value s4
  have hctxs : s4.ctxs = s.ctxs := (congrArg (·.1) h4).trans h2.1
  have hweir : s4.weir = s2.weir := congrArg (·.2) h4
  have h8 : s8.ctxs = s5.ctxs ∧ s8.weir = s4.weir := by
    unfold s8 s7
    split <;> simp [s6, s5, State.modClient]
  have hregs : (s8.ctx c).regs = (s.ctx c).regs := by
    rw [State.ctx_of_ctxs h8.1, State.modCtx_ctx, if_pos rfl, State.ctx_of_ctxs hctxs]
  clear_value s8
  refine ⟨?_, ?_, fun q => ?_⟩
  · rw [State.putEntry_ctx, if_pos rfl]
    rfl
  · rw [State.putEntry_ctx, if_pos rfl]
    simp [Ctx.entered, hregs]
  · rw [← h2.2 q, State.row_of_rows (s := s2)]
    rw [State.putEntry_weir, h8.2, hweir]

/-! ### A step and what follows it -/

/-- Followers end with the same code, so the last entry carries it too. -/
theorem State.Tells.abortFollowers {s : State} {c : CtxId} {code : Code} (tell : Bool) (ts : List Step) (prev : Bool) {u : State}
    (h : State.Tells s u c code) : State.Tells s (State.abortFollowers c code tell ts prev u) c code := by
  induction ts generalizing prev u with
  | nil => exact h
  | cons t ts ih =>
    unfold State.abortFollowers
    split
    · exact ih _ h
    · split
      · exact ih _ (h.trans (State.abortOne_tells ..))
      · exact ih _ h

theorem State.abortStep_tells {s : State} {c : CtxId} {uid : Nat} {t : Step} (h : (s.ctx c).step? uid = some t) (hc : t.state ≠ .committed)
    (code : Code) (reason : Reason) (index : Nat) (tell : Bool) :
    State.Tells s (s.abortStep c uid code reason index tell) c code := by
  unfold State.abortStep
  rw [h]
  dsimp only
  rw [if_neg hc]
  exact (State.abortOne_tells ..).abortFollowers ..

/-- A step that has not committed ends when it is aborted. -/
theorem State.EndsStep.abortStep {s : State} {c : CtxId} {uid : Nat} {t : Step} (h : (s.ctx c).step? uid = some t)
    (hc : t.state ≠ .committed) (code : Code) (reason : Reason) (index : Nat) (tell : Bool) :
    s.EndsStep (s.abortStep c uid code reason index tell) c uid code := by
  obtain ⟨houter, hothers, hface, hsteps, -⟩ := State.Ended.abortStep s c uid code reason index tell
  obtain ⟨hcode, hresults, hversion⟩ := State.abortStep_tells h hc code reason index tell
  have hgone := State.abortStep_gone s c uid code reason index tell h hc
  generalize s.abortStep c uid code reason index tell = u at *
  exact
    { gone := hgone
      kept := fun v hv => ⟨v, hsteps v hv, rfl⟩
      others := fun d hd => by rw [hothers d hd]
      told := ⟨hcode, hresults⟩
      same := ⟨congrArg (·.state) hface, congrArg (·.regs.gen) hface, congrArg (·.job) hface, congrArg (·.alloc) hface⟩
      version := hversion
      rest := ⟨congrArg (·.cfg) houter, congrArg (·.own) houter, congrArg (·.fuse) houter, congrArg (·.clk) houter,
        congrArg (·.sec) houter, congrArg (·.boot) houter, congrArg (·.pwr) houter, congrArg (·.recv) houter, congrArg (·.flash) houter⟩ }

/-- A step that has ended stays so while only fabric counts, records, commands' progress, trace and outputs change. -/
theorem State.EndsStep.then_still {s t u : State} {c : CtxId} {uid : Nat} {code : Code} (h : s.EndsStep t c uid code)
    {fab : Fab} {intg : Intg} (e : u.still = { t.still with fab := fab, intg := intg }) : s.EndsStep u c uid code := by
  have hctx : ∀ d, (u.ctx d).still = (t.ctx d).still := fun d => by
    have hd := congrArg (fun v : State => v.ctxs[d]) e
    simpa [State.still, State.ctx] using hd
  have hrow : ∀ q, u.row q = t.row q := State.row_of_rows (congrArg (·.weir.rows) e)
  have hregs : (u.ctx c).regs = (t.ctx c).regs := congrArg (·.regs) (hctx c)
  have hsteps : (u.ctx c).steps.map Step.still = (t.ctx c).steps.map Step.still := congrArg (·.steps) (hctx c)
  have hback : ∀ v ∈ (u.ctx c).steps, ∃ w ∈ (t.ctx c).steps, v.still = w.still := fun v hv => by
    obtain ⟨w, hw, ew⟩ := List.mem_map.1 (hsteps ▸ List.mem_map_of_mem hv : v.still ∈ (t.ctx c).steps.map Step.still)
    exact ⟨w, hw, ew.symm⟩
  obtain ⟨hcfg, hown, hfuse, hclk, hsec, hboot, hpwr, hrecv, hflash⟩ := h.rest
  obtain ⟨hstate, hgen, hjob, halloc⟩ := h.same
  exact
    { gone := fun v hv => by
        obtain ⟨w, hw, ew⟩ := hback v hv
        have : v.uid = w.uid := congrArg (·.uid) ew
        exact this ▸ h.gone w hw
      kept := fun v hv => by
        obtain ⟨w, hw, ew⟩ := hback v hv
        obtain ⟨x, hx, ex⟩ := h.kept w hw
        exact ⟨x, hx, ew.trans ex⟩
      others := fun d hd => (hctx d).trans (h.others d hd)
      told := by rw [hregs]; exact h.told
      same := ⟨(congrArg (·.state) (hctx c)).trans hstate, by rw [hregs]; exact hgen, (congrArg (·.job) (hctx c)).trans hjob,
        (congrArg (·.alloc) (hctx c)).trans halloc⟩
      version := fun q => by rw [hrow]; exact h.version q
      rest := ⟨(congrArg (·.cfg) e).trans hcfg, (congrArg (·.own) e).trans hown, (congrArg (·.fuse) e).trans hfuse,
        (congrArg (·.clk) e).trans hclk, (congrArg (·.sec) e).trans hsec, (congrArg (·.boot) e).trans hboot,
        (congrArg (·.pwr) e).trans hpwr, (congrArg (·.recv) e).trans hrecv, (congrArg (·.flash) e).trans hflash⟩ }

/-- Starting commands afterwards changes nothing of a step's end. -/
theorem State.EndsStep.dispatch {s t : State} {c : CtxId} {uid : Nat} {code : Code} (h : s.EndsStep t c uid code) :
    s.EndsStep t.dispatch c uid code :=
  h.then_still (State.dispatch_still t)

end Sys2Proof.Machine
end

section
/-! PROOFS. What mirroring and the commit of a step leave as it was (R202, R231 to R236, R350). -/

namespace Sys2Proof.Machine

/-! ### Mirroring -/

/-- Mirroring of context `c` has moved on: its stream and checkpoints, the count of misses, flows and outputs may differ, and nothing
else. -/
structure State.Mirrors (c : CtxId) (s t : State) : Prop where
  rest   : t = { s with ctxs := t.ctxs, weir := { s.weir with mirMiss := t.weir.mirMiss }, fab := { s.fab with flows := t.fab.flows }
                        out := t.out }
  others : ∀ d : CtxId, d ≠ c → t.ctx d = s.ctx d
  self   : t.ctx c = { s.ctx c with stream := (t.ctx c).stream, ckpts := (t.ctx c).ckpts }

theorem State.Mirrors.refl (c : CtxId) (s : State) : State.Mirrors c s s := ⟨rfl, fun _ _ => rfl, rfl⟩

theorem State.Mirrors.trans {c : CtxId} {s t u : State} (a : State.Mirrors c s t) (b : State.Mirrors c t u) : State.Mirrors c s u where
  rest := by
    have ha := a.rest
    have hb := b.rest
    rw [hb, ha]
  others := fun d h => (b.others d h).trans (a.others d h)
  self := by rw [b.self, a.self]

theorem State.Mirrors.foldl {α : Type} {c : CtxId} (f : State → α → State) (h : ∀ u a, State.Mirrors c u (f u a)) (l : List α) (s : State) :
    State.Mirrors c s (l.foldl f s) := by
  induction l generalizing s with
  | nil => exact .refl ..
  | cons a l ih => exact (h s a).trans (ih _)

theorem State.Mirrors.of_modCtx {c : CtxId} (s : State) (f : Ctx → Ctx)
    (hf : ∀ x, f x = { x with stream := (f x).stream, ckpts := (f x).ckpts }) : State.Mirrors c s (s.modCtx c f) :=
  ⟨rfl, fun d h => by simp [Ne.symm h], by rw [State.modCtx_ctx, if_pos rfl]; exact hf _⟩

theorem State.Mirrors.countMiss (c : CtxId) (s : State) : State.Mirrors c s s.countMiss := ⟨rfl, fun _ _ => rfl, rfl⟩

theorem State.Mirrors.sendMirror (c d : CtxId) (s : State) (peer kind slot : Nat) (step : BitVec 64) (off : Nat) (bs : List Byte) :
    State.Mirrors c s (s.sendMirror d peer kind slot step off bs) := by
  unfold State.sendMirror State.sendData
  split
  · rw [State.sendOnFlow_rest]
    exact ⟨rfl, fun _ _ => rfl, rfl⟩
  · exact .refl ..

theorem State.Mirrors.sendChunk (c d : CtxId) (s : State) (peer i : Nat) (step : BitVec 64) (bs : List Byte) (digest : BitVec 256) :
    State.Mirrors c s (s.sendChunk d peer i step bs digest) :=
  (State.Mirrors.foldl _ (fun _ _ => .sendMirror ..) _ _).trans (.sendMirror ..)

theorem State.Mirrors.sendVerdict (c d : CtxId) (s : State) (kind : Nat) (step : BitVec 64) :
    State.Mirrors c s (s.sendVerdict d kind step) := by
  unfold State.sendVerdict
  split
  · exact .sendMirror ..
  · exact .refl ..

theorem State.Mirrors.sealIfDue (c : CtxId) (s : State) : State.Mirrors c s (s.sealIfDue c) := by
  unfold State.sealIfDue
  split
  · split
    · extract_lets s1
      have h1 : State.Mirrors c s s1 := .of_modCtx _ _ fun _ => rfl
      split
      · exact h1.trans (.sendMirror ..)
      · exact h1
    · exact .refl ..
  · exact .refl ..

theorem State.Mirrors.laterCommit (c : CtxId) (s : State) (pages : List Nat) : State.Mirrors c s (s.laterCommit c pages) := by
  unfold State.laterCommit
  split
  · exact (State.Mirrors.of_modCtx _ _ fun _ => rfl).trans (.sealIfDue ..)
  · exact .refl ..

theorem State.Mirrors.dropStream (c : CtxId) (s : State) (tell : Bool) : State.Mirrors c s (s.dropStream c tell) := by
  unfold State.dropStream
  split
  · exact .refl ..
  · extract_lets s1
    have h1 : State.Mirrors c s s1 := (State.Mirrors.of_modCtx _ _ fun _ => rfl).trans (.countMiss ..)
    split
    · exact h1.trans (.sendVerdict ..)
    · exact h1

theorem State.Mirrors.checkpoint (c : CtxId) (s : State) (step version : BitVec 64) (final : Bool) :
    State.Mirrors c s (s.checkpoint c step version final) := by
  unfold State.checkpoint
  split
  · exact .refl ..
  · split
    · exact .refl ..
    · split
      · exact .countMiss ..
      · exact (State.Mirrors.of_modCtx _ _ fun _ => rfl).trans (.foldl _ (fun _ _ => .sendChunk ..) _ _)

theorem State.Mirrors.row {c : CtxId} {s t : State} (h : State.Mirrors c s t) (q : Fin 17) : t.row q = s.row q :=
  State.row_of_rows (congrArg (·.weir.rows) h.rest) q

theorem State.Mirrors.steps {c : CtxId} {s t : State} (h : State.Mirrors c s t) : (t.ctx c).steps = (s.ctx c).steps :=
  congrArg (·.steps) h.self

/-! ### The row write of a commit -/

theorem State.commitGroup_rest (s : State) (r : Fin 17) (k : Fin 8) (version : BitVec 64) (prior : Bool) :
    s.commitGroup r k version prior = { s with weir := (s.commitGroup r k version prior).weir } := by
  unfold State.commitGroup
  cases s.slotIn r .last <;> rfl

/-- One row is written: its slot LAST, the new VERSION and PRIOR_VALID. -/
theorem State.commitGroup_rows (s : State) (r : Fin 17) (k : Fin 8) (version : BitVec 64) (prior : Bool) :
    ∃ d : RowData, (s.commitGroup r k version prior).weir.rows
      = (s.writeRow r fun _ => { RowData.setSlot d k .last with version := version, lastSlot := k, priorValid := prior }).weir.rows := by
  unfold State.commitGroup
  cases s.slotIn r .last with
  | none => exact ⟨s.row r, rfl⟩
  | some o => exact ⟨(s.row r).setSlot o .folding, rfl⟩

theorem State.commitGroup_row (s : State) (r : Fin 17) (k : Fin 8) (version : BitVec 64) (prior : Bool) :
    ((s.commitGroup r k version prior).row r).slots[k] = .last ∧ ((s.commitGroup r k version prior).row r).version = version
      ∧ ((s.commitGroup r k version prior).row r).priorValid = prior := by
  obtain ⟨d, hd⟩ := s.commitGroup_rows r k version prior
  rw [State.row_of_rows hd, State.writeRow_row, if_pos rfl]
  exact ⟨by simp [RowData.setSlot], rfl, rfl⟩

theorem State.commitGroup_row_other (s : State) {r q : Fin 17} (hq : q ≠ r) (k : Fin 8) (version : BitVec 64) (prior : Bool) :
    (s.commitGroup r k version prior).row q = s.row q := by
  obtain ⟨d, hd⟩ := s.commitGroup_rows r k version prior
  rw [State.row_of_rows hd, State.writeRow_row, if_neg hq.symm]

/-! ### A step commits -/

/-- A commit changes contexts, Weir, memory, the counts of a client, the trace and the outputs only. -/
theorem State.commitStep_outer (s : State) (c : CtxId) (t : Step) (version : BitVec 64) (prior : Bool) :
    (s.commitStep c t version prior).outer = s.outer := by
  unfold State.commitStep
  split
  · rfl
  · extract_lets r s1 dropped s2 s3 s4
    have h1 : s1.outer = s.outer := by
      unfold s1
      rw [State.commitGroup_rest]
      rfl
    clear_value s1
    have h3 : s3.outer = s1.outer := rfl
    have h4 : s4.outer = s.outer := (State.trace_outer s3 _ _ _ _).1.trans (h3.trans h1)
    clear_value s4
    split
    · exact h4
    · exact (State.Ended.putEntry ..).outer.trans h4

/-- What a commit does to rows and contexts, once its step's group has a slot. -/
structure State.CommitsStep (s u : State) (c : CtxId) (t : Step) (k : Fin 8) (version : BitVec 64) (prior : Bool) : Prop where
  rows   : ∀ q, u.row q = (s.commitGroup (rowOf c) k version prior).row q
  steps  : (u.ctx c).steps = ((s.ctx c).committedStep t).steps
  others : ∀ d : CtxId, d ≠ c → u.ctx d = s.ctx d

theorem State.commitStep_commits (s : State) (c : CtxId) {t : Step} {k : Fin 8} (hk : t.slot = some k) (version : BitVec 64) (prior : Bool) :
    State.CommitsStep s (s.commitStep c t version prior) c t k version prior := by
  unfold State.commitStep
  split
  · rename_i hnone
    rw [hnone] at hk
    cases hk
  rename_i j hj
  obtain rfl : k = j := Option.some.inj (hk.symm.trans hj)
  extract_lets r s1 dropped s2 s3 s4
  have h1 : s1.ctxs = s.ctxs := by
    unfold s1
    rw [State.commitGroup_rest]
  have h2 : ∀ d, s2.ctx d = if c = d then (s.ctx c).committedStep t else s.ctx d := fun d => by
    have hz : ∀ e, (s1.zeroRanges dropped).ctx e = s.ctx e := State.ctx_of_ctxs h1
    rw [State.modCtx_ctx, hz, hz]
  have h4 : State.CommitsStep s s4 c t k version prior := by
    have hctxs : s4.ctxs = s2.ctxs := State.trace_ctxs ..
    have hrows : s4.weir.rows = s1.weir.rows := by
      unfold s4
      rw [State.trace_weir]
      rfl
    refine ⟨State.row_of_rows hrows, ?_, fun d hd => ?_⟩
    · rw [State.ctx_of_ctxs hctxs, h2, if_pos rfl]
    · rw [State.ctx_of_ctxs hctxs, h2, if_neg hd.symm]
  clear_value s4
  split
  · exact h4
  · refine ⟨fun q => ?_, ?_, fun d hd => ?_⟩
    · rw [State.row_of_rows (s := s4) (by rw [State.putEntry_weir])]
      exact h4.rows q
    · rw [State.putEntry_ctx, if_pos rfl]
      exact h4.steps
    · rw [State.putEntry_ctx, if_neg hd.symm]
      exact h4.others d hd

/-- After its commit a step is either gone or COMMITTED. -/
theorem Ctx.committedStep_committed (x : Ctx) (t : Step) : ∀ v ∈ (x.committedStep t).steps, v.uid = t.uid → v.state = .committed := by
  intro v hv hu
  unfold Ctx.committedStep at hv
  dsimp only at hv
  split at hv
  · simp [hu] at hv
  · simp only [Ctx.modStep, List.mem_map] at hv
    obtain ⟨w, -, rfl⟩ := hv
    by_cases hw : w.uid = t.uid
    · simp [hw]
    · simp [hw] at hu

/-! ### The commit of a host step -/

/-- A host step's commit with what follows it: the step's own commit, mirroring, Eddy's recomputes, and ready commands. -/
theorem State.hostCommit_parts (s : State) (c : CtxId) (t : Step) :
    ∃ u r, State.Mirrors c (s.commitStep c t (s.version (rowOf c) + 1#64) true) u
      ∧ s.hostCommit c t = State.dispatch { u with intg := { u.intg with pending := r } } := by
  unfold State.hostCommit
  extract_lets r v due final pages s1 s2
  have h1 : State.Mirrors c (s.commitStep c t v true) s1 := .laterCommit ..
  refine ⟨s2, _, ?_, rfl⟩
  unfold s2
  split
  · exact h1.trans (.checkpoint ..)
  · exact h1

/-- What a host step's commit does and leaves (R202). -/
theorem State.hostCommit_commits (s : State) (c : CtxId) {t : Step} {k : Fin 8} (hk : t.slot = some k) :
    let u := s.hostCommit c t
    u.slot (rowOf c) k = .last ∧ (u.row (rowOf c)).version = (s.row (rowOf c)).version + 1#64 ∧ (u.row (rowOf c)).priorValid = true
      ∧ (∀ v ∈ (u.ctx c).steps, v.uid = t.uid → v.state = .committed) ∧ s.OthersStand u c := by
  obtain ⟨u, r, hm, he⟩ := s.hostCommit_parts c t
  obtain ⟨hrows, hsteps, hothers⟩ := s.commitStep_commits c hk (s.version (rowOf c) + 1#64) true
  have houter := s.commitStep_outer c t (s.version (rowOf c) + 1#64) true
  have hrow : ∀ q, (s.hostCommit c t).row q = (s.commitGroup (rowOf c) k (s.version (rowOf c) + 1#64) true).row q := fun q => by
    rw [← hrows, ← hm.row, he]
    exact State.row_of_rows (by rw [State.dispatch_weir]) q
  have hstill : ∀ d, ((s.hostCommit c t).ctx d).still = (u.ctx d).still := fun d => by
    rw [he, State.dispatch_ctx]
    rfl
  obtain ⟨hlast, hversion, hprior⟩ := s.commitGroup_row (rowOf c) k (s.version (rowOf c) + 1#64) true
  refine ⟨?slot, ?version, ?prior, ?steps, ?others⟩
  case slot =>
    unfold State.slot
    rw [hrow]
    exact hlast
  case version =>
    rw [hrow, hversion]
    rfl
  case prior => rw [hrow, hprior]
  case steps =>
    intro v hv hu
    have hmem : v.still ∈ ((s.hostCommit c t).ctx c).still.steps := List.mem_map_of_mem hv
    rw [hstill] at hmem
    obtain ⟨w, hw, ew⟩ := List.mem_map.1 hmem
    have huid : w.uid = v.uid := congrArg (·.uid) ew
    have hstate : w.state = v.state := congrArg (·.state) ew
    rw [← hstate]
    rw [hm.steps, hsteps] at hw
    exact (s.ctx c).committedStep_committed t w hw (huid.trans hu)
  case others =>
    refine ⟨fun d hd => ?_, fun q hq => ?_, ?_⟩
    · rw [hstill, hm.others d hd, hothers d hd]
    · rw [hrow, State.commitGroup_row_other s hq]
    · rw [he, State.dispatch_cfg, State.dispatch_own, State.dispatch_fuse, State.dispatch_clk, State.dispatch_sec, State.dispatch_boot,
        State.dispatch_pwr, State.dispatch_flash, State.dispatch_hw, hm.rest]
      exact ⟨congrArg (·.cfg) houter, congrArg (·.own) houter, congrArg (·.fuse) houter, congrArg (·.clk) houter,
        congrArg (·.sec) houter, congrArg (·.boot) houter, congrArg (·.pwr) houter, congrArg (·.flash) houter, congrArg (·.hw) houter⟩

end Sys2Proof.Machine
end

section
/-! PROOFS. The decision of a prepared job step, and the end of a wait for peers (R35, R51, R206, R287). -/

namespace Sys2Proof.Machine

theorem exec_reducedRecord (c : CtxId) (uid : Nat) (d : Reduced) (s : State) :
    exec (.reducedRecord c uid d) s = execReducedRecord c uid d s := rfl

theorem exec_collectiveDeadline (w : WaitRef) (missing : List Nat) (s : State) :
    exec (.collectiveDeadline w missing) s = execCollectiveDeadline w missing s := rfl

/-! ### The reduced record -/

section
variable {s : State} {c : CtxId} {t : Step} {d : Reduced} (hu : s.up = true) (ht : (s.ctx c).step? t.uid = some t) (hp : t.state = .prepared)
  (hn : s.clk.now ≤ min (t.prepared + 2000000) (t.t0 + t.hdr.commitDl))
include hu ht hp hn

theorem execReducedRecord_of_prepared : execReducedRecord c t.uid d s = .next
    (if d.epoch ≠ (s.ctx c).job.epoch then { s with fab := { s.fab with dropEpoch := satInc s.fab.dropEpoch } }
     else if reducedAgrees d t then s.hostCommit c t
     else (s.abortStep c t.uid .abortedFault .commitMismatch (if d.lowBad = 0x7FFF#15 then 0 else d.lowBad.toNat)).dispatch) := by
  have hlive : ¬ (t.state ≠ .prepared ∨ min (t.prepared + 2000000) (t.t0 + t.hdr.commitDl) < s.clk.now) := by
    rw [not_or]
    exact ⟨not_not_intro hp, Nat.not_lt.2 hn⟩
  simp only [execReducedRecord, State.whenUp_of_up hu, ht, if_neg hlive]

theorem execReducedRecord_of_otherEpoch (he : d.epoch ≠ (s.ctx c).job.epoch) : execReducedRecord c t.uid d s =
    .next { s with fab := { s.fab with dropEpoch := satInc s.fab.dropEpoch } } := by
  rw [execReducedRecord_of_prepared hu ht hp hn, if_pos he]

theorem execReducedRecord_of_agreed (he : d.epoch = (s.ctx c).job.epoch) (ha : reducedAgrees d t = true) :
    execReducedRecord c t.uid d s = .next (s.hostCommit c t) := by
  rw [execReducedRecord_of_prepared hu ht hp hn, if_neg (not_not_intro he), if_pos ha]

theorem execReducedRecord_of_mismatch (he : d.epoch = (s.ctx c).job.epoch) (ha : reducedAgrees d t = false) :
    execReducedRecord c t.uid d s = .next
      (s.abortStep c t.uid .abortedFault .commitMismatch (if d.lowBad = 0x7FFF#15 then 0 else d.lowBad.toNat)).dispatch := by
  rw [execReducedRecord_of_prepared hu ht hp hn, if_neg (not_not_intro he), if_neg (by simp [ha])]

end

/-- The fabric apart from its flows. -/
theorem State.fab_of_outer {s t : State} (h : t.outer = s.outer) : { t.fab with flows := [] } = { s.fab with flows := [] } :=
  congrArg (·.fab) h
theorem State.fab_of_still {s t : State} (h : t.still = s.still) : { t.fab with flows := [] } = { s.fab with flows := [] } :=
  congrArg (·.fab) h

/-! ### The end of a wait -/

theorem satAdd_zero (r : Reg) : satAdd r 0 = r := by
  have h : r.toNat ≤ 0xFFFFFFFF := Nat.le_of_lt_succ r.isLt
  rw [satAdd, Nat.add_zero, Nat.min_eq_left h, BitVec.ofNat_toNat, BitVec.setWidth_eq]

theorem satAdd_satInc (r : Reg) (n : Nat) : satAdd (satInc r) n = satAdd r (n + 1) := by
  have h : r.toNat < 2 ^ 32 := r.isLt
  apply BitVec.eq_of_toNat_eq
  simp only [satAdd, satInc, BitVec.toNat_ofNat]
  omega

theorem State.report_still (s : State) (f : Fab) (g : Sig) (v : Nat) :
    ((State.record { s with fab := f } g).msixBoth v).still = { s.still with fab := { f with flows := [] }, intg := (s.record g).intg } := rfl
@[simp] theorem State.record_fab (s : State) (g : Sig) : (s.record g).fab = s.fab := rfl
@[simp] theorem State.record_recSeq (s : State) (g : Sig) : (s.record g).intg.recSeq = s.intg.recSeq + 1 := rfl
@[simp] theorem State.msixBoth_fab (s : State) (v : Nat) : (s.msixBoth v).fab = s.fab := rfl
@[simp] theorem State.msixBoth_intg (s : State) (v : Nat) : (s.msixBoth v).intg = s.intg := rfl
@[simp] theorem State.trace_fab (s : State) (cls event ctx arg : Nat) : (s.trace cls event ctx arg).fab = s.fab := by
  rw [State.trace_rest]
@[simp] theorem State.trace_intg (s : State) (cls event ctx arg : Nat) : (s.trace cls event ctx arg).intg = s.intg := by
  rw [State.trace_rest]

/-- The fabric registers after a suspicion with a word of FAB_SUSPECT_LAST (R289). -/
def Fab.suspected (f : Fab) (w : Nat) : Fab := { f with suspectLast := BitVec.ofNat 32 w, suspects := satInc f.suspects }

theorem State.suspect_eq (s : State) (k : Suspicion) (c : Option CtxId) (rank port epoch : Nat) :
    ∃ g w, s.suspect k c rank port epoch = ((State.record { s with fab := s.fab.suspected w } g).msixBoth 1).trace 3 0x31
      ((c.map fun i => i.val).getD 0) w := ⟨_, _, rfl⟩

/-- A suspicion is counted and recorded, and leaves everything but fabric registers, records, trace and outputs. -/
theorem State.suspect_reports (s : State) (k : Suspicion) (c : Option CtxId) (rank port epoch : Nat) :
    (∃ fab intg, (s.suspect k c rank port epoch).still = { s.still with fab := fab, intg := intg })
      ∧ (s.suspect k c rank port epoch).fab.suspects = satInc s.fab.suspects
      ∧ (s.suspect k c rank port epoch).intg.recSeq = s.intg.recSeq + 1 := by
  obtain ⟨g, w, h⟩ := s.suspect_eq k c rank port epoch
  rw [h]
  refine ⟨⟨_, _, (State.trace_still ..).trans (s.report_still (s.fab.suspected w) g 1)⟩, ?_, ?_⟩
  · rw [State.trace_fab, State.msixBoth_fab, State.record_fab, Fab.suspected]
  · rw [State.trace_intg, State.msixBoth_intg, State.record_recSeq]

/-- Each missing rank is counted and recorded once. -/
theorem State.missingRanks_reports (s : State) (c : CtxId) (missing : List Nat) :
    (∃ fab intg, (s.missingRanks c missing).still = { s.still with fab := fab, intg := intg })
      ∧ (s.missingRanks c missing).fab.suspects = satAdd s.fab.suspects missing.length
      ∧ (s.missingRanks c missing).intg.recSeq = s.intg.recSeq + missing.length := by
  unfold State.missingRanks
  induction missing generalizing s with
  | nil => exact ⟨⟨_, _, rfl⟩, (satAdd_zero _).symm, rfl⟩
  | cons r rs ih =>
    obtain ⟨⟨fab, intg, hstill⟩, hcount, hseq⟩ := s.suspect_reports .timeout (some c) r 0 (s.ctx c).job.epoch.toNat
    obtain ⟨⟨fab', intg', hstill'⟩, hcount', hseq'⟩ := ih (s.suspect .timeout (some c) r 0 (s.ctx c).job.epoch.toNat)
    refine ⟨⟨fab', intg', ?_⟩, ?_, ?_⟩
    · rw [List.foldl_cons, hstill', hstill]
    · rw [List.foldl_cons, hcount', hcount, satAdd_satInc, List.length_cons]
    · rw [List.foldl_cons, hseq', hseq, List.length_cons, Nat.add_assoc, Nat.add_comm 1]

/-- A wait that is over belongs to a step that is there. -/
theorem State.step?_of_waitOver {s : State} {w : WaitRef} (h : s.waitOver w = true) :
    ∃ t, (s.ctx (waitStep w).1).step? (waitStep w).2 = some t := by
  cases w with
  | command r =>
    cases ht : s.step? r with
    | none => simp [State.waitOver, ht] at h
    | some t => exact ⟨t, ht⟩
  | commitReady c uid =>
    cases ht : (s.ctx c).step? uid with
    | none => simp [State.waitOver, ht] at h
    | some t => exact ⟨t, ht⟩

theorem execCollectiveDeadline_of_over {s : State} {w : WaitRef} (hu : s.up = true) (hw : s.waitOver w = true) (missing : List Nat) :
    execCollectiveDeadline w missing s = .next
      ((s.abortStep (waitStep w).1 (waitStep w).2 .abortedFault .peerMissing (missing.headD 0)).missingRanks (waitStep w).1 missing).dispatch := by
  unfold execCollectiveDeadline
  rw [hu, hw]
  cases w <;> rfl

/-- Settles O50: the record's epoch and agreement select a drop, the commit of a host step, or an abort; a wait that is over aborts its
step and reports each rank. -/
theorem jobStepsDecide : Obligations.JobStepsDecide := by
  simp only [Obligations.JobStepsDecide, exec_reducedRecord, exec_collectiveDeadline]
  refine ⟨fun s c t d hu ht hp hn => ⟨fun he => ?otherEpoch, fun k he ha hk => ?agreed, fun he ha => ?mismatch⟩,
    fun s w missing hu hw hc => ?deadline⟩
  case otherEpoch => exact execReducedRecord_of_otherEpoch hu ht hp hn he
  case agreed => exact ⟨_, execReducedRecord_of_agreed hu ht hp hn he ha, s.hostCommit_commits c hk⟩
  case mismatch =>
    have hlive : t.state ≠ .committed := by simp [hp]
    refine ⟨_, execReducedRecord_of_mismatch hu ht hp hn he ha, (State.EndsStep.abortStep ht hlive ..).dispatch, ?_⟩
    have hfab := (State.fab_of_still (State.dispatch_still _)).trans (State.fab_of_outer (State.Ended.abortStep s c t.uid .abortedFault
      .commitMismatch (if d.lowBad = 0x7FFF#15 then 0 else d.lowBad.toNat) true).outer)
    have hdrops := congrArg (·.dropEpoch) hfab
    exact hdrops
  case deadline =>
    obtain ⟨t, ht⟩ := State.step?_of_waitOver hw
    have hends := State.EndsStep.abortStep ht (hc t ht) .abortedFault .peerMissing (missing.headD 0) true
    have houter := (State.Ended.abortStep s (waitStep w).1 (waitStep w).2 .abortedFault .peerMissing (missing.headD 0) true).outer
    obtain ⟨⟨_, _, hstill⟩, hcount, hseq⟩ :=
      (s.abortStep (waitStep w).1 (waitStep w).2 .abortedFault .peerMissing (missing.headD 0)).missingRanks_reports (waitStep w).1 missing
    refine ⟨_, execCollectiveDeadline_of_over hu hw missing, (hends.then_still hstill).dispatch, ?_, ?_⟩
    · have hfab := congrArg (·.fab.suspects) (State.dispatch_still
        ((s.abortStep (waitStep w).1 (waitStep w).2 .abortedFault .peerMissing (missing.headD 0)).missingRanks (waitStep w).1 missing))
      exact hfab.trans (hcount.trans (congrArg (satAdd · missing.length) (congrArg (·.fab.suspects) houter)))
    · rw [State.dispatch_intg, hseq]
      exact congrArg (· + missing.length) (congrArg (·.intg.recSeq) houter)

end Sys2Proof.Machine
end

section
/-! PROOFS. Epoch records: an epoch that is not greater, one that the context joins, and one that shuts it out (R34, R285, R286). -/

namespace Sys2Proof.Machine

theorem exec_epoch (r : RecordIn) (s : State) : exec (.epoch r) s = .next (s.recordIn 0x20 r) := rfl

/-! ### Three judgements of an epoch record -/

theorem leNat_lt (bs : List Byte) : leNat bs < 256 ^ bs.length := by
  induction bs with
  | nil => exact Nat.one_pos
  | cons b bs ih =>
    have hb := b.isLt
    rw [leNat, List.length_cons, Nat.pow_succ]
    omega

theorem field_lt (bs : List Byte) (off len : Nat) : field bs off len < 256 ^ len :=
  (leNat_lt _).trans_le (Nat.pow_le_pow_right (by decide) (List.length_take_le ..))

/-- An epoch field fits its 32 bits. -/
theorem toNat_epochField (bs : List Byte) : (BitVec.ofNat 32 (field bs 0 4)).toNat = field bs 0 4 := by
  rw [BitVec.toNat_ofNat]
  exact Nat.mod_eq_of_lt (field_lt bs 0 4)

section
variable {s : State} {c : CtxId} {bs : List Byte} (ht : (s.ctx c).job.tag ≠ 0#32) (hp : packed bs 10 = true) (hg : gap bs 5 6 = true)
include ht hp hg

theorem State.judgeEpoch_of_stale (he : field bs 0 4 ≤ (s.ctx c).job.epoch.toNat)
    (hm : field bs 4 1 = 0 ∨ field bs 4 1 = 1 ∧ field bs 6 2 < field bs 8 2 ∧ field bs 8 2 ≤ 16384) (w : Who) :
    s.judgeEpoch c bs w = s.accept c w id := by
  unfold State.judgeEpoch
  dsimp only
  rw [toNat_epochField]
  obtain hm | ⟨hm, hrank, hcount⟩ := hm
  · simp [hp, hg, ht, hm, he]
  · have hfit : ¬ (field bs 8 2 < 1 ∨ 16384 < field bs 8 2 ∨ field bs 8 2 ≤ field bs 6 2) := by omega
    rw [if_neg (by simp [hp, hg, ht, hm]), if_neg (by simp [hm]), if_neg hfit, if_pos he]

theorem State.judgeEpoch_of_member (he : (s.ctx c).job.epoch.toNat < field bs 0 4) (hm : field bs 4 1 = 1)
    (hrank : field bs 6 2 < field bs 8 2) (hcount : field bs 8 2 ≤ 16384) (w : Who) :
    s.judgeEpoch c bs w = (s.accept c w id).adoptEpoch c (BitVec.ofNat 32 (field bs 0 4)) (field bs 6 2) (field bs 8 2) := by
  have hfit : ¬ (field bs 8 2 < 1 ∨ 16384 < field bs 8 2 ∨ field bs 8 2 ≤ field bs 6 2) := by omega
  unfold State.judgeEpoch
  dsimp only
  rw [toNat_epochField, if_neg (by simp [hp, hg, ht, hm]), if_neg (by simp [hm]), if_neg hfit, if_neg (Nat.not_le.2 he)]

theorem State.judgeEpoch_of_fence (he : (s.ctx c).job.epoch.toNat < field bs 0 4) (hm : field bs 4 1 = 0) (w : Who) :
    s.judgeEpoch c bs w = (s.accept c w id).fence c w := by
  unfold State.judgeEpoch
  dsimp only
  rw [toNat_epochField]
  simp [hp, hg, ht, hm, Nat.not_le.2 he]

end

/-! ### A context that is a member: the steps of older epochs end -/

/-- One step of the context under a new epoch. -/
def State.endOldStep (c : CtxId) (u : State) (t : Step) : State :=
  match (u.ctx c).step? t.uid with
  | some v => if v.oldEpoch then u.abortStep c v.uid .abortedEpoch .none 0 false else u
  | none => u

theorem State.Ended.endOldStep (c : CtxId) (u : State) (t : Step) : State.Ended c u (State.endOldStep c u t) := by
  unfold State.endOldStep
  split
  · split
    · exact .abortStep ..
    · exact .refl ..
  · exact .refl ..

/-- No two steps of a context share a number. -/
def Ctx.Distinct (x : Ctx) : Prop := ∀ v ∈ x.steps, ∀ w ∈ x.steps, v.uid = w.uid → v = w

theorem State.Numbered.distinct {s : State} (h : s.Numbered) (c : CtxId) : (s.ctx c).Distinct :=
  fun _ hv _ hw e => List.inj_on_of_nodup_map (h c).1 hv hw e

theorem Ctx.Distinct.step? {x : Ctx} (h : x.Distinct) {v : Step} (hv : v ∈ x.steps) : x.step? v.uid = some v := by
  cases hf : x.step? v.uid with
  | none =>
    have := List.find?_eq_none.1 hf v hv
    simp at this
  | some w =>
    have hu : w.uid = v.uid := by simpa using List.find?_some hf
    rw [h w (List.mem_of_find?_eq_some hf) v hv hu]

theorem Step.not_committed_of_oldEpoch {t : Step} (h : t.oldEpoch = true) : t.state ≠ .committed := by
  unfold Step.oldEpoch at h
  intro e
  simp [e] at h

/-- A step of an older epoch is gone once its turn has come. -/
theorem State.endOldStep_clears {c : CtxId} {u : State} (hd : (u.ctx c).Distinct) {v : Step}
    (hv : v ∈ ((State.endOldStep c u v).ctx c).steps) : v.oldEpoch = false := by
  have hmem := (State.Ended.endOldStep c u v).steps v hv
  have hfind := hd.step? hmem
  by_contra hold
  rw [Bool.not_eq_false] at hold
  simp only [State.endOldStep, hfind, hold, if_true] at hv
  exact State.abortStep_gone u c v.uid _ _ _ _ hfind (Step.not_committed_of_oldEpoch hold) v hv rfl

/-- Of the listed steps none of an older epoch is left. -/
theorem State.foldl_endOldStep_clears (c : CtxId) (ts : List Step) {u : State} (hd : (u.ctx c).Distinct) :
    ∀ v ∈ ((ts.foldl (State.endOldStep c) u).ctx c).steps, v ∈ ts → v.oldEpoch = false := by
  induction ts generalizing u with
  | nil => intro v _ hv; cases hv
  | cons t ts ih =>
    intro v hv hin
    have hstep := State.Ended.endOldStep c u t
    have hd' : ((State.endOldStep c u t).ctx c).Distinct := fun a ha b hb => hd a (hstep.steps a ha) b (hstep.steps b hb)
    have hrest : State.Ended c (State.endOldStep c u t) (ts.foldl (State.endOldStep c) (State.endOldStep c u t)) :=
      .foldl _ (fun a b => .endOldStep c a b) _ _
    obtain rfl | hin := List.mem_cons.1 hin
    · exact State.endOldStep_clears hd (hrest.steps _ hv)
    · exact ih hd' v hv hin

/-- The state in which a new epoch finds its context: steps of older epochs ended, its stream abandoned. -/
def State.oldEpochEnded (s : State) (c : CtxId) : State := ((s.ctx c).steps.foldl (State.endOldStep c) s).dropStream c false

theorem State.dropStream_none (s : State) (c : CtxId) : ((s.dropStream c false).ctx c).stream = none := by
  unfold State.dropStream
  split
  · assumption
  · dsimp only
    have hcount : ∀ u : State, u.countMiss.ctx c = u.ctx c := fun _ => rfl
    rw [if_neg Bool.false_ne_true, hcount, State.modCtx_ctx, if_pos rfl]

/-- What the ends of older epochs' steps and of the stream leave. -/
theorem State.oldEpochEnded_leaves (s : State) (c : CtxId) (hd : (s.ctx c).Distinct) :
    let u := s.oldEpochEnded c
    u.recv = s.recv ∧ (u.ctx c).stream = none ∧ (u.ctx c).state = (s.ctx c).state ∧ (u.ctx c).regs.gen = (s.ctx c).regs.gen
      ∧ (u.ctx c).job = (s.ctx c).job ∧ (∀ v ∈ (u.ctx c).steps, v ∈ (s.ctx c).steps ∧ v.oldEpoch = false)
      ∧ ∀ d : CtxId, d ≠ c → u.ctx d = s.ctx d := by
  have he : State.Ended c s ((s.ctx c).steps.foldl (State.endOldStep c) s) := .foldl _ (fun a b => .endOldStep c a b) _ _
  have hm : State.Mirrors c ((s.ctx c).steps.foldl (State.endOldStep c) s) (s.oldEpochEnded c) := .dropStream ..
  have hclears := State.foldl_endOldStep_clears c (s.ctx c).steps hd
  have hself := hm.self
  refine ⟨?_, State.dropStream_none .., ?_, ?_, ?_, fun v hv => ?_, fun d h => (hm.others d h).trans (he.others d h)⟩
  · rw [hm.rest]
    exact congrArg (·.recv) he.outer
  · rw [hself]
    exact congrArg (·.state) he.face
  · rw [hself]
    exact congrArg (·.regs.gen) he.face
  · rw [hself]
    exact congrArg (·.job) he.face
  · rw [hm.steps] at hv
    exact ⟨he.steps v hv, hclears v hv (he.steps v hv)⟩

/-- What a new epoch sets in its context (R285). -/
def Ctx.inEpoch (x : Ctx) (epoch : BitVec 32) (rank count : Nat) : Ctx :=
  { x with genAdv := 0, job := { x.job with epoch := epoch, rank := some rank, count := count, aheadSeen := [] } }

/-- A context that receives no mirrors enters the epoch once its older steps have ended. -/
theorem State.adoptEpoch_ctx {s : State} {c : CtxId} (hd : (s.ctx c).Distinct) (hr : s.recv.ctx ≠ some c) (epoch : BitVec 32) (rank count : Nat)
    (d : CtxId) : ((s.adoptEpoch c epoch rank count).ctx d).still
      = (if c = d then ((s.oldEpochEnded c).ctx c).inEpoch epoch rank count else (s.oldEpochEnded c).ctx d).still := by
  have hrecv : (s.oldEpochEnded c).recv.ctx ≠ some c := by
    rw [(s.oldEpochEnded_leaves c hd).1]
    exact hr
  unfold State.adoptEpoch
  extract_lets s1 s2 s3 fab s4
  have h3 : s3 = s.oldEpochEnded c := if_neg hrecv
  have h4 : ∀ e, s4.ctx e = (s.oldEpochEnded c).ctx e := State.ctx_of_ctxs (congrArg (·.ctxs) h3)
  rw [State.dispatch_ctx, State.modCtx_ctx, h4, h4]
  rfl

/-! ### A context that is no member: it is fenced -/

theorem State.tearRow_ctx (s : State) (c d : CtxId) : (s.tearRow c).ctx d =
    if c = d then
      { s.ctx c with
        alloc := [], walking := (s.ctx c).alloc ++ (s.ctx c).walking, regs := { (s.ctx c).regs with gen := genNext (s.ctx c).regs.gen }
        tearing := (s.ctx c).tearing.map fun t => { t with rowDone := true } }
    else s.ctx d := State.modCtx_ctx ..

/-- A context that is torn down with no step to end. -/
def Ctx.torn (x : Ctx) (code : Code) (reason : Reason) (w : Who) (now : Ns) : Ctx :=
  { x with
    state := .tearing, asm := none, pattern := none, restore := none, load := none
    alloc := [], walking := x.alloc ++ x.walking, regs := { x.regs with gen := genNext x.regs.gen }
    tearing := some { code := code, reason := reason, since := now, tag := w.tag, seq := w.seq, rowDone := true } }

/-- With no step, stream or receive role its row is written at once (R337). -/
theorem State.startTeardown_ctx_of_idle {s : State} {c : CtxId} (ha : (s.ctx c).state = .active) (hs : (s.ctx c).steps = [])
    (hm : (s.ctx c).stream = none) (hr : s.recv.ctx ≠ some c) (code : Code) (reason : Reason) (w : Who) (d : CtxId) :
    ((s.startTeardown c code reason w).ctx d).still = (if c = d then (s.ctx c).torn code reason w s.clk.now else s.ctx d).still := by
  have hstream : s.dropStream c true = s := by
    unfold State.dropStream
    rw [hm]
  have hreceiver : s.dropReceiver c = s := by
    unfold State.dropReceiver
    rw [if_neg hr]
  unfold State.startTeardown
  rw [if_neg (not_not_intro ha)]
  extract_lets hold s1 s2 intg sec s3
  have h1 : s1 = s := by
    show (s.ctx c).steps.foldl _ s = s
    rw [hs, List.foldl_nil]
  have h3 : ∀ e, s3.ctx e = s2.ctx e := fun _ => rfl
  have hempty : (s3.ctx c).steps.isEmpty = true := by
    rw [h3, State.modCtx_ctx, if_pos rfl, h1, hstream, hreceiver, hs]
    rfl
  rw [if_pos hempty, State.dispatch_ctx, State.tearRow_ctx, h3, h3, State.modCtx_ctx, State.modCtx_ctx, h1, hstream, hreceiver]
  by_cases hd : c = d
  · subst hd
    simp only [↓reduceIte]
    rfl
  · simp only [if_neg hd]

/-- A fence is a teardown with ABORTED_EPOCH of a context that stops sending first. -/
theorem State.fence_ctx_of_idle {s : State} {c : CtxId} (ha : (s.ctx c).state = .active) (hs : (s.ctx c).steps = [])
    (hm : (s.ctx c).stream = none) (hr : s.recv.ctx ≠ some c) (w : Who) (d : CtxId) :
    ((s.fence c w).ctx d).still
      = (if c = d then Ctx.torn { s.ctx c with fenced := true } .abortedEpoch .none w s.clk.now else s.ctx d).still := by
  have hctx := State.modCtx_ctx s c c fun x => { x with fenced := true }
  rw [if_pos rfl] at hctx
  have hfence : s.fence c w = (s.modCtx c fun x => { x with fenced := true }).startTeardown c .abortedEpoch .none w := if_pos ha
  have hrecv : (s.modCtx c fun x => { x with fenced := true }).recv.ctx ≠ some c := hr
  rw [hfence, State.startTeardown_ctx_of_idle (by rw [hctx]; exact ha) (by rw [hctx]; exact hs) (by rw [hctx]; exact hm) hrecv, hctx,
    State.modCtx_ctx]
  split <;> rfl

/-! ### The three cases from the record on -/

/-- An accepted record leaves its context as it was but for the registers of R320 and the result ring. -/
theorem State.accepted_self (s : State) (r : RecordIn) :
    let a := (s.taken r).accept r.ctx (whoOf r) id
    a.ctx r.ctx = { s.ctx r.ctx with regs := (a.ctx r.ctx).regs, rings := (a.ctx r.ctx).rings }
      ∧ (a.ctx r.ctx).regs.gen = (s.ctx r.ctx).regs.gen := by
  dsimp only
  rw [State.accept_ctx, if_pos rfl, State.taken_ctx, if_pos rfl]
  exact ⟨rfl, rfl⟩

theorem State.accepted_other (s : State) {r : RecordIn} {d : CtxId} (hd : d ≠ r.ctx) :
    ((s.taken r).accept r.ctx (whoOf r) id).ctx d = s.ctx d := by
  rw [State.accept_ctx, if_neg hd.symm, State.taken_ctx, if_neg hd.symm]

theorem State.accepted_recv (s : State) (r : RecordIn) : ((s.taken r).accept r.ctx (whoOf r) id).recv = s.recv := by
  rw [State.accept_rest]
  rfl

theorem State.modCtx_id (s : State) (c : CtxId) : s.modCtx c id = s := by
  simp [State.modCtx, State.setCtx, State.ctx]

/-- A record that is accepted and does nothing else. -/
theorem State.accepted_answers (s : State) (r : RecordIn) :
    let t := ((s.taken r).accept r.ctx (whoOf r) id).dispatch
    s.Answers t r
      ∧ (t.ctx r.ctx).still = { (s.ctx r.ctx).still with regs := (t.ctx r.ctx).regs, rings := (t.ctx r.ctx).rings } := by
  have h := State.Answers.of_modCtx s r id id (fun _ => ⟨rfl, rfl⟩) fun _ => ⟨rfl, rfl⟩
  rw [State.modCtx_id] at h
  refine ⟨h, ?_⟩
  rw [State.dispatch_ctx, State.dispatch_ctx_regs, State.dispatch_ctx_rings]
  exact congrArg Ctx.still (s.accepted_self r).1

/-- A greater epoch of a context that belongs to it (R285). -/
theorem State.accepted_adopts (s : State) (r : RecordIn) (hrecv : s.recv.ctx ≠ some r.ctx) (hnum : s.Numbered) (epoch : BitVec 32)
    (rank count : Nat) :
    let t := (((s.taken r).accept r.ctx (whoOf r) id).adoptEpoch r.ctx epoch rank count).dispatch
    (t.ctx r.ctx).job = { (s.ctx r.ctx).job with epoch := epoch, rank := some rank, count := count, aheadSeen := [] }
      ∧ (t.ctx r.ctx).genAdv = 0 ∧ (t.ctx r.ctx).state = (s.ctx r.ctx).state ∧ (t.ctx r.ctx).regs.gen = (s.ctx r.ctx).regs.gen
      ∧ (t.ctx r.ctx).stream = none
      ∧ (∀ u ∈ (t.ctx r.ctx).steps, ∃ v ∈ (s.ctx r.ctx).steps, u.still = v.still ∧ v.oldEpoch = false)
      ∧ ∀ d : CtxId, d ≠ r.ctx → (t.ctx d).still = (s.ctx d).still := by
  obtain ⟨hself, hgen⟩ := s.accepted_self r
  have hother := fun d => s.accepted_other (r := r) (d := d)
  have hrecv' : ((s.taken r).accept r.ctx (whoOf r) id).recv.ctx ≠ some r.ctx := by rwa [State.accepted_recv]
  generalize (s.taken r).accept r.ctx (whoOf r) id = a at *
  have hsteps : (a.ctx r.ctx).steps = (s.ctx r.ctx).steps := congrArg (·.steps) hself
  have hdist : (a.ctx r.ctx).Distinct := by
    unfold Ctx.Distinct
    rw [hsteps]
    exact hnum.distinct r.ctx
  obtain ⟨-, hstream, hstate, hgen', hjob, hkeep, hothers⟩ := a.oldEpochEnded_leaves r.ctx hdist
  have hctx : ∀ d, ((a.adoptEpoch r.ctx epoch rank count).dispatch.ctx d).still = _ :=
    fun d => (State.dispatch_ctx _ d).trans (State.adoptEpoch_ctx hdist hrecv' epoch rank count d)
  have hc := (hctx r.ctx).trans (congrArg Ctx.still (if_pos rfl))
  refine ⟨?job, congrArg (·.genAdv) hc, ?state, ?gen, (congrArg (·.stream) hc).trans hstream, fun u hu => ?steps, fun d hd => ?others⟩
  case job =>
    refine (congrArg (·.job) hc).trans ?_
    show { ((a.oldEpochEnded r.ctx).ctx r.ctx).job with epoch := epoch, rank := some rank, count := count, aheadSeen := [] } = _
    rw [hjob, hself]
  case state => exact (congrArg (·.state) hc).trans (hstate.trans (congrArg (·.state) hself))
  case gen => exact (congrArg (·.regs.gen) hc).trans (hgen'.trans hgen)
  case steps =>
    have hmem : u.still ∈ ((a.adoptEpoch r.ctx epoch rank count).dispatch.ctx r.ctx).still.steps := List.mem_map_of_mem hu
    rw [hc] at hmem
    obtain ⟨v, hv, e⟩ := List.mem_map.1 hmem
    obtain ⟨hin, hold⟩ := hkeep v hv
    exact ⟨v, hsteps ▸ hin, e.symm, hold⟩
  case others => rw [hctx, if_neg hd.symm, hothers d hd, hother d hd]

/-- A greater epoch of a context that does not belong to it (R286). -/
theorem State.accepted_fences (s : State) (r : RecordIn) (ha : (s.ctx r.ctx).state = .active) (hsteps : (s.ctx r.ctx).steps = [])
    (hstream : (s.ctx r.ctx).stream = none) (hrecv : s.recv.ctx ≠ some r.ctx) :
    let t := (((s.taken r).accept r.ctx (whoOf r) id).fence r.ctx (whoOf r)).dispatch
    (t.ctx r.ctx).state = .tearing ∧ (t.ctx r.ctx).fenced = true ∧ (t.ctx r.ctx).regs.gen = genNext (s.ctx r.ctx).regs.gen
      ∧ (t.ctx r.ctx).alloc = [] ∧ ((t.ctx r.ctx).tearing.map (·.code)) = some .abortedEpoch
      ∧ ∀ d : CtxId, d ≠ r.ctx → (t.ctx d).still = (s.ctx d).still := by
  obtain ⟨hself, hgen⟩ := s.accepted_self r
  have hother := fun d => s.accepted_other (r := r) (d := d)
  have hrecv' : ((s.taken r).accept r.ctx (whoOf r) id).recv.ctx ≠ some r.ctx := by rwa [State.accepted_recv]
  generalize (s.taken r).accept r.ctx (whoOf r) id = a at *
  have hctx : ∀ d, ((a.fence r.ctx (whoOf r)).dispatch.ctx d).still = _ := fun d => (State.dispatch_ctx _ d).trans
    (State.fence_ctx_of_idle (by rw [hself]; exact ha) (by rw [hself]; exact hsteps) (by rw [hself]; exact hstream) hrecv' (whoOf r) d)
  have hc := (hctx r.ctx).trans (congrArg Ctx.still (if_pos rfl))
  refine ⟨congrArg (·.state) hc, congrArg (·.fenced) hc, ?gen, congrArg (·.alloc) hc, congrArg (·.tearing.map (·.code)) hc,
    fun d hd => ?others⟩
  case gen => exact (congrArg (·.regs.gen) hc).trans (congrArg genNext hgen)
  case others => rw [hctx, if_neg hd.symm, hother d hd]

/-- Settles O13: the record's MEMBER and epoch select an acceptance, a new epoch or a fence. -/
theorem epochsAdvance : Obligations.EpochsAdvance := by
  intro s r htakes hactive hasm htag hpacked hgap
  have hrun : exec (.epoch r) s = .next ((s.taken r).judgeEpoch r.ctx r.payload (whoOf r)).dispatch := by
    rw [exec_epoch, State.recordIn_judged htakes (by decide) (.inl hactive) (.inl hasm)]
    rfl
  have hjob : ((s.taken r).ctx r.ctx).job = (s.ctx r.ctx).job := by rw [State.taken_ctx, if_pos rfl]
  have htag' : ((s.taken r).ctx r.ctx).job.tag ≠ 0#32 := by rwa [hjob]
  refine ⟨fun he hm => ?stale, fun he hm hrank hcount hrecv hnum => ?member, fun he hm hsteps hstream hrecv => ?fence⟩
  case stale =>
    rw [hrun, State.judgeEpoch_of_stale htag' hpacked hgap (by rwa [hjob]) hm]
    exact ⟨_, rfl, s.accepted_answers r⟩
  case member =>
    rw [hrun, State.judgeEpoch_of_member htag' hpacked hgap (by rwa [hjob]) hm hrank hcount]
    obtain ⟨hnew, hadv, hstate, hrest⟩ := s.accepted_adopts r hrecv hnum (BitVec.ofNat 32 (field r.payload 0 4)) (field r.payload 6 2)
      (field r.payload 8 2)
    exact ⟨_, rfl, hnew, hadv, hstate.trans hactive, hrest⟩
  case fence =>
    rw [hrun, State.judgeEpoch_of_fence htag' hpacked hgap (by rwa [hjob]) hm]
    exact ⟨_, rfl, s.accepted_fences r hactive hsteps hstream hrecv⟩

end Sys2Proof.Machine
end

section
/-! PROOFS. What neither the end of steps, nor a test of admitted work, nor a region rung reaches: ownership, units, bridges, rings, boot. -/

namespace Sys2Proof.Machine

/-- The state without contexts, Weir, memory, Sluice, mirror slots, flows, records, verifier, trace, kills and outputs. -/
def State.plant (s : State) : State :=
  { s with ctxs := State.reset.ctxs, weir := Weir.reset, mem := State.reset.mem, slu := Slu.reset, recv := State.reset.recv, fab := Fab.reset
           intg := Intg.reset, sec := Sec.reset, tel := State.reset.tel, out := [], rcv := { s.rcv with kills := [] } }

theorem State.outer_plant (s : State) : s.outer.plant = s.plant := rfl
theorem State.still_plant (s : State) : s.still.plant = s.plant := rfl

theorem State.plant_of_outer {s t : State} (h : t.outer = s.outer) : t.plant = s.plant := by
  rw [← State.outer_plant t, h, State.outer_plant]

theorem State.plant_of_still {s t : State} (h : t.still = s.still) : t.plant = s.plant := by
  rw [← State.still_plant t, h, State.still_plant]

theorem State.plant_of_mirrors {c : CtxId} {s t : State} (h : State.Mirrors c s t) : t.plant = s.plant := by
  rw [h.rest]
  rfl

theorem State.plant_foldl {α : Type} (f : State → α → State) (h : ∀ u a, (f u a).plant = u.plant) (l : List α) (s : State) :
    (l.foldl f s).plant = s.plant := State.keeps_foldl State.plant f h l s

@[simp] theorem State.dispatch_plant (s : State) : s.dispatch.plant = s.plant := State.plant_of_still s.dispatch_still
@[simp] theorem State.trace_plant (s : State) (cls event ctx arg : Nat) : (s.trace cls event ctx arg).plant = s.plant := by
  rw [State.trace_rest]
  rfl
@[simp] theorem State.freezeTrace_plant (s : State) : s.freezeTrace.plant = s.plant := by
  rw [State.freezeTrace_rest]
  rfl
@[simp] theorem State.dropTail_plant (s : State) (c : CtxId) (uid : Nat) : (s.dropTail c uid).plant = s.plant := rfl
@[simp] theorem State.tearRow_plant (s : State) (c : CtxId) : (s.tearRow c).plant = s.plant := rfl
@[simp] theorem State.loseEvidence_plant (s : State) (lost : Nat → Bool) : (s.loseEvidence lost).plant = s.plant := rfl
@[simp] theorem State.forgetKills_plant (s : State) (scope : RungScope) : (s.forgetKills scope).plant = s.plant := rfl

@[simp] theorem State.abortOne_plant (s : State) (c : CtxId) (t : Step) (code : Code) (reason : Reason) (index : Nat) (tell : Bool) :
    (s.abortOne c t code reason index tell).plant = s.plant := State.plant_of_outer (State.Ended.abortOne ..).outer

@[simp] theorem State.abortStep_plant (s : State) (c : CtxId) (uid : Nat) (code : Code) (reason : Reason) (index : Nat) (tell : Bool) :
    (s.abortStep c uid code reason index tell).plant = s.plant := State.plant_of_outer (State.Ended.abortStep ..).outer

/-! ### Testing admitted work again (R55, R315) -/

@[simp] theorem State.deliver_plant (s : State) (c : CtxId) (ds : List Delivery) : (s.deliver c ds).plant = s.plant := by
  unfold State.deliver State.msixOwner
  dsimp only
  (repeat' split) <;> rfl

@[simp] theorem State.endPattern_plant (s : State) (c : CtxId) : (s.endPattern c).plant = s.plant := by
  unfold State.endPattern
  dsimp only
  split <;> rfl

@[simp] theorem State.retestPattern_plant (s : State) (c : CtxId) (reason : Reason) : (s.retestPattern c reason).plant = s.plant := by
  unfold State.retestPattern
  split
  · rfl
  · split
    · dsimp only
      rw [State.endPattern_plant, State.deliver_plant, State.plant_foldl _ fun _ _ => State.abortStep_plant ..]
    · rfl

@[simp] theorem State.retestFrom_plant (reason : Reason) (ts : List (CtxId × Step)) (kept : List Item) (s : State) :
    (State.retestFrom reason ts kept s).plant = s.plant := by
  induction ts generalizing kept s with
  | nil => rfl
  | cons p ts ih =>
    unfold State.retestFrom
    split
    · exact ih ..
    · extract_lets new ok
      rw [apply_ite State.plant, ih, ih, State.abortStep_plant, ite_self]

@[simp] theorem State.retestAll_plant (s : State) (reason : Reason) : (s.retestAll reason).plant = s.plant := by
  unfold State.retestAll State.retest State.forCtx
  rw [State.dispatch_plant, State.retestFrom_plant, State.plant_foldl _ fun _ _ => State.retestPattern_plant ..]

/-! ### A rung's way through the contexts (R369, R371) -/

@[simp] theorem State.abortReceive_plant (s : State) (i : Nat) : (s.abortReceive i).plant = s.plant := by
  unfold State.abortReceive
  split
  · rfl
  · dsimp only
    split <;> rfl

@[simp] theorem State.dropReceiver_plant (s : State) (c : CtxId) : (s.dropReceiver c).plant = s.plant := by
  unfold State.dropReceiver
  split
  · refine (State.plant_foldl (fun (t : State) i => _) (fun u i => ?_) _ s : _ = s.plant)
    split
    · exact State.abortReceive_plant ..
    · rfl
  · rfl

@[simp] theorem State.startTeardown_plant (s : State) (c : CtxId) (code : Code) (reason : Reason) (w : Who) :
    (s.startTeardown c code reason w).plant = s.plant := by
  unfold State.startTeardown
  extract_lets x hold s1 s2 intg sec s3
  split
  · rfl
  · have h1 : s1.plant = s.plant := State.plant_foldl _ (fun u t => by
      split
      · split
        · exact State.dropTail_plant ..
        · split
          · rfl
          · exact State.abortOne_plant ..
      · rfl) _ _
    have h2 : s2.plant = s1.plant := (State.dropReceiver_plant ..).trans (State.plant_of_mirrors (State.Mirrors.dropStream ..))
    have h3 : s3.plant = s2.plant := rfl
    rw [State.dispatch_plant]
    split
    · rw [State.tearRow_plant, h3, h2, h1]
    · rw [h3, h2, h1]

@[simp] theorem State.advanceGen_plant (s : State) (c : CtxId) : (s.advanceGen c).plant = s.plant := by
  unfold State.advanceGen
  dsimp only
  split
  · rfl
  · split
    · exact State.startTeardown_plant ..
    · rfl

@[simp] theorem State.rungAborts_plant (s : State) (scope : RungScope) (c : CtxId) : (s.rungAborts scope c).plant = s.plant := by
  refine State.plant_foldl _ (fun u t => ?_) _ _
  split
  · split
    · exact State.dropTail_plant ..
    · exact State.abortStep_plant ..
  · rfl

@[simp] theorem State.rungCtx_plant (scope : RungScope) (s : State) (c : CtxId) : (State.rungCtx scope s c).plant = s.plant := by
  unfold State.rungCtx
  dsimp only
  split
  · rw [State.advanceGen_plant]
    split
    · exact State.rungAborts_plant ..
    · exact State.rungAborts_plant ..
  · rfl

/-! ### A region rung -/

/-- A rung that is noted runs last, and only RCV_ registers, the trace and the outputs differ otherwise. -/
theorem State.noteRung_rest (s : State) (g : Rung) :
    ∃ counts last, (s.noteRung g).plant
      = State.plant { s with rcv := { s.rcv with rungs := s.rcv.rungs ++ [g], counts := counts, last := last } } := by
  unfold State.noteRung
  exact ⟨_, _, (State.freezeTrace_plant _).trans (State.trace_plant ..)⟩

/-- The region rung, where no running rung holds it. -/
theorem State.startRung_region (s : State) (q : Fin 4) (missed : Bool) (engine : Option Engine) (todo : List CtxId)
    (h : (s.rcv.rungs.any fun g => s.holdsScope g.scope (.region q)) = false) :
    s.startRung (.region q) missed engine todo =
      let s1 : State := { s with rcv := { s.rcv with rungs := s.rcv.rungs.filter fun r => !(s.holdsScope (.region q) r.scope) } }
      let s2 := ((s1.noteRung { scope := .region q, start := s.clk.now, missed := missed, engine := engine, todo := todo }).forCtx
        (State.rungCtx (.region q))).forgetKills (.region q)
      (State.loseEvidence { s2 with dma := { s2.dma with ready := s2.dma.ready.set q.val false } } fun a => a / 2 == q.val).retestAll
        .capacityLost := by
  unfold State.startRung
  rw [if_neg (Bool.eq_false_iff.1 h)]

/-- A region rung of a device without rungs: it alone runs from now on, and the region's complex is not ready. -/
theorem State.startRung_region_plant (s : State) (q : Fin 4) (h : s.rcv.rungs = []) :
    ∃ counts last, (s.startRung (.region q) false none []).plant = State.plant { s with
      rcv := { s.rcv with
        rungs := [{ scope := .region q, start := s.clk.now, missed := false, engine := none, todo := [] }], counts := counts, last := last }
      dma := { s.dma with ready := s.dma.ready.set q.val false } } := by
  rw [State.startRung_region s q false none [] (by rw [h]; rfl)]
  extract_lets rcv s1 s2
  obtain ⟨counts, last, hnote⟩ := s1.noteRung_rest { scope := .region q, start := s.clk.now, missed := false, engine := none, todo := [] }
  have h2 : s2.plant = _ := (State.forgetKills_plant ..).trans
    ((State.plant_foldl _ (fun u c => State.rungCtx_plant (.region q) u c) _ _).trans hnote)
  refine ⟨counts, last, ?_⟩
  rw [State.retestAll_plant, State.loseEvidence_plant]
  have hready : ∀ u : State, State.plant { u with dma := { u.dma with ready := u.dma.ready.set q.val false } }
      = { u.plant with dma := { u.plant.dma with ready := u.plant.dma.ready.set q.val false } } := fun _ => rfl
  have h1 : s1.rcv.rungs = [] := congrArg (List.filter _) h
  rw [hready, h2, h1]
  rfl

/-- What of the rest of the device that rung leaves. -/
theorem State.startRung_region_leaves (s : State) (q : Fin 4) (h : s.rcv.rungs = []) :
    let t := s.startRung (.region q) false none []
    t.ring = s.ring ∧ t.rcv.rungs = [{ scope := .region q, start := s.clk.now, missed := false, engine := none, todo := [] }]
      ∧ t.cfg = s.cfg ∧ t.own = s.own ∧ t.fuse = s.fuse := by
  obtain ⟨counts, last, hplant⟩ := s.startRung_region_plant q h
  generalize s.startRung (.region q) false none [] = t at hplant ⊢
  exact ⟨congrArg (·.ring) hplant, congrArg (·.rcv.rungs) hplant, congrArg (·.cfg) hplant, congrArg (·.own) hplant,
    congrArg (·.fuse) hplant⟩

end Sys2Proof.Machine
end

section
/-! PROOFS. Mesh packets, the modules of the bridges, and breaks of the management rings (R25, R181, R185 to R187). -/

namespace Sys2Proof.Machine

theorem exec_meshPacketArrival (p : MeshPkt) (s : State) : exec (.meshPacketArrival p) s = execMeshPacketArrival p s := rfl
theorem exec_ucieReplayLimit (m : Module) (s : State) : exec (.ucieReplayLimit m) s = execUcieReplayLimit m s := rfl
theorem exec_ucieModuleRepair (m : Module) (ok : Bool) (s : State) : exec (.ucieModuleRepair m ok) s = execUcieModuleRepair m ok s := rfl
theorem exec_ringBreak (r : Fin 2) (g : Fin 7) (s : State) : exec (.ringBreak r g) s = execRingBreak r g s := rfl

/-! ### Packets -/

theorem execMeshPacketArrival_of_unknown {s : State} {p : MeshPkt} (hu : s.up = true) (ht : 7 ≤ p.typ.toNat) :
    execMeshPacketArrival p s = .next s.meshStale := by
  simp [execMeshPacketArrival, State.whenUp_of_up hu, ht]

/-- Without a rung no region absorbs a packet. -/
theorem execMeshPacketArrival_of_known {s : State} {p : MeshPkt} (hu : s.up = true) (ht : p.typ.toNat < 7) (hr : s.rcv.rungs = []) :
    execMeshPacketArrival p s = .next
      (if p.gen != 0#16 && p.gen != (s.ctx p.ctx).regs.gen then (if meshAsks p then s.meshNack p else s.meshStale) else s.meshRun p) := by
  simp [execMeshPacketArrival, State.whenUp_of_up hu, Nat.not_le.2 ht, hr]

theorem execMeshPacketArrival_of_old {s : State} {p : MeshPkt} (hu : s.up = true) (ht : p.typ.toNat < 7) (hr : s.rcv.rungs = [])
    (h0 : p.gen ≠ 0#16) (hg : p.gen ≠ (s.ctx p.ctx).regs.gen) :
    execMeshPacketArrival p s = .next (if meshAsks p then s.meshNack p else s.meshStale) := by
  rw [execMeshPacketArrival_of_known hu ht hr, if_pos (by simp [h0, hg])]

theorem execMeshPacketArrival_of_current {s : State} {p : MeshPkt} (hu : s.up = true) (ht : p.typ.toNat < 7) (hr : s.rcv.rungs = [])
    (hg : p.gen = 0#16 ∨ p.gen = (s.ctx p.ctx).regs.gen) : execMeshPacketArrival p s = .next (s.meshRun p) := by
  rw [execMeshPacketArrival_of_known hu ht hr, if_neg]
  obtain h | h := hg <;> simp [h]

theorem State.meshRun_of_deviceRead {s : State} {p : MeshPkt} (hc : p.cmd = none) (ht : p.typ = 0#4) :
    s.meshRun p = s.emit (.mesh (meshReply p p.gen 3#4 (s.committedBytes p.addr.toNat (meshLen p)))) := by
  simp [State.meshRun, State.meshRead, hc, ht]

theorem State.meshRun_of_deviceWrite {s : State} {p : MeshPkt} (hc : p.cmd = none) (ht : p.typ = 1#4) :
    s.meshRun p = (s.putBase p.addr.toNat p.data).emit (.mesh (meshReply p p.gen 4#4 [])) := by
  simp [State.meshRun, State.meshWrite, meshStores, hc, ht]

/-! ### Modules -/

theorem State.setModule_rest (s : State) (m : Module) (st : ModState) : s.setModule m st = { s with dma := (s.setModule m st).dma } := by
  cases m <;> rfl

theorem State.setModule_counts (s : State) (m : Module) (st : ModState) :
    (s.setModule m st).dma.replays = s.dma.replays ∧ (s.setModule m st).dma.repairs = s.dma.repairs := by
  cases m <;> exact ⟨rfl, rfl⟩

@[simp] theorem State.setModule_module (s : State) (m n : Module) (st : ModState) :
    (s.setModule m st).module n = if m = n then st else s.module n := by
  cases m with
  | d2d i =>
    cases n with
    | d2d j => simp [State.setModule, State.module, Vector.getElem_set, Fin.ext_iff]
    | ford d j => simp [State.setModule, State.module]
  | ford d i =>
    cases n with
    | d2d j => simp [State.setModule, State.module]
    | ford e j =>
      by_cases hd : d = e
      · subst hd
        simp [State.setModule, State.module, Vector.getElem_set, Fin.ext_iff]
      · have hv : d.val ≠ e.val := fun h => hd (Fin.ext h)
        simp [State.setModule, State.module, hv, hd]

/-- The modules are as the bridges' state says. -/
theorem State.module_of_dma {s t : State} (h : t.dma = s.dma) (m : Module) : t.module m = s.module m := by
  cases m <;> simp [State.module, h]

theorem execUcieReplayLimit_of_live {s : State} {m : Module} (hp : s.powered = true) (hm : s.module m = .live) :
    execUcieReplayLimit m s = .next ((State.setModule { s with dma := { s.dma with
      replays := satAdd s.dma.replays 16, repairs := satInc s.dma.repairs } } m .repair).retestAll .bridgeLost) := by
  simp [execUcieReplayLimit, State.whenPowered_of_on hp, hm]

theorem execUcieModuleRepair_of_repair {s : State} {m : Module} (hp : s.powered = true) (hm : s.module m = .repair) (ok : Bool) :
    execUcieModuleRepair m ok s = .next (if ok then s.setModule m .live else s.loseModule m) := by
  simp [execUcieModuleRepair, State.whenPowered_of_on hp, hm]

theorem State.loseModule_of_repair {s : State} {m : Module} (hm : s.module m = .repair) :
    s.loseModule m = ((s.journal (.modLost m)).setModule m .lost).retestAll .bridgeLost := by
  unfold State.loseModule
  rw [if_neg (by simp [hm])]
  cases m <;> rfl

/-- A module's new state, and the test of admitted work that follows, leave the other modules and these parts of the device. -/
theorem State.setModule_retested (s : State) (m : Module) (st : ModState) (reason : Reason) :
    let t := (s.setModule m st).retestAll reason
    t.module m = st ∧ (∀ n, n ≠ m → t.module n = s.module n) ∧ t.dma.replays = s.dma.replays ∧ t.dma.repairs = s.dma.repairs
      ∧ t.cfg = s.cfg ∧ t.own = s.own ∧ t.hw = s.hw ∧ t.boot = s.boot := by
  have hset := s.setModule_rest m st
  obtain ⟨hreplays, hrepairs⟩ := s.setModule_counts m st
  have hplant := (s.setModule m st).retestAll_plant reason
  have hdma : ((s.setModule m st).retestAll reason).dma = (s.setModule m st).dma := congrArg (·.dma) hplant
  refine ⟨?_, fun n hn => ?_, hdma ▸ hreplays, hdma ▸ hrepairs, (congrArg (·.cfg) hplant).trans (congrArg (·.cfg) hset),
    (congrArg (·.own) hplant).trans (congrArg (·.own) hset), (congrArg (·.hw) hplant).trans (congrArg (·.hw) hset),
    (congrArg (·.boot) hplant).trans (congrArg (·.boot) hset)⟩
  · rw [State.module_of_dma hdma, State.setModule_module, if_pos rfl]
  · rw [State.module_of_dma hdma, State.setModule_module, if_neg hn.symm]

/-! ### Rings -/

theorem State.journal_isolatedRegions (s : State) (b : JBody) : (s.journal b).isolatedRegions = s.isolatedRegions := rfl

/-- A new break is journalled, and each region behind an isolated steward goes to its rung. -/
theorem execRingBreak_of_new {s : State} {r : Fin 2} {g : Fin 7} (hp : s.powered = true) (hn : (r, g) ∉ s.ring.breaks) :
    execRingBreak r g s =
      let broken : State := { s with ring := { s.ring with breaks := (r, g) :: s.ring.breaks } }
      .next (if s.up then broken.isolatedRegions.foldl (fun u q => u.startRung (.region q) false none []) (broken.journal (.ringBreak r g))
        else broken.journal (.ringBreak r g)) := by
  unfold execRingBreak
  rw [State.whenPowered_of_on hp]
  simp only [List.contains_eq_mem, hn, decide_false, Bool.false_eq_true, if_false, State.journal_isolatedRegions]
  rfl

/-- Settles O57: packets fall into the branches of TYPE and generation, a module changes as its event says, and a break starts the region
rung of what it isolates. -/
theorem meshAndRingsAct : Obligations.MeshAndRingsAct := by
  simp only [Obligations.MeshAndRingsAct, exec_meshPacketArrival, exec_ucieReplayLimit, exec_ucieModuleRepair, exec_ringBreak]
  refine ⟨fun s p hu => ⟨fun ht => ?unknown, fun ht hr h0 hg => ⟨fun ha => ?asks, fun ha => ?silent⟩,
      fun hr hg hc => ⟨fun ht => ?read, fun ht => ?write⟩⟩,
    fun s m hp => ⟨fun hm => ?limit, fun hm => ⟨?repaired, ?lost⟩⟩,
    fun s r g hp hn => ⟨fun h => ?quiet, fun q hu hq hr => ?rung⟩⟩
  case unknown => exact execMeshPacketArrival_of_unknown hu ht
  case asks => exact (execMeshPacketArrival_of_old hu ht hr h0 hg).trans (by rw [if_pos ha]; rfl)
  case silent => exact (execMeshPacketArrival_of_old hu ht hr h0 hg).trans (by rw [if_neg (by simp [ha])]; rfl)
  case read =>
    rw [execMeshPacketArrival_of_current hu (by simp [ht]) hr hg, State.meshRun_of_deviceRead hc ht]
    rfl
  case write =>
    rw [execMeshPacketArrival_of_current hu (by simp [ht]) hr hg, State.meshRun_of_deviceWrite hc ht]
    rfl
  case limit =>
    obtain ⟨hmod, hothers, hreplays, hrepairs, hcfg, hown, hhw, -⟩ := State.setModule_retested
      { s with dma := { s.dma with replays := satAdd s.dma.replays 16, repairs := satInc s.dma.repairs } } m .repair .bridgeLost
    refine ⟨_, execUcieReplayLimit_of_live hp hm, hmod, hreplays, hrepairs, fun n hn => (hothers n hn).trans ?_, hcfg, hown, hhw⟩
    cases n <;> rfl
  case repaired =>
    refine ⟨_, execUcieModuleRepair_of_repair hp hm true, s.setModule_rest m .live, ?_, fun n hn => ?_⟩
    · exact (s.setModule_module m m .live).trans (if_pos rfl)
    · exact (s.setModule_module m n .live).trans (if_neg hn.symm)
  case lost =>
    obtain ⟨hmod, hothers, -, -, hcfg, hown, -, hboot⟩ := (s.journal (.modLost m)).setModule_retested m .lost .bridgeLost
    refine ⟨_, (execUcieModuleRepair_of_repair hp hm false).trans (congrArg _ (State.loseModule_of_repair hm)), hmod, ?_,
      fun n hn => (hothers n hn).trans (State.module_of_dma (s.journal_dma _) n), hcfg, hown⟩
    rw [hboot]
    exact List.mem_append_right _ (List.mem_singleton_self _)
  case quiet =>
    rw [execRingBreak_of_new hp hn]
    obtain h | h := h
    · simp [h]
    · simp [h]
  case rung =>
    rw [execRingBreak_of_new hp hn]
    dsimp only
    rw [if_pos hu, hq, List.foldl_cons, List.foldl_nil]
    exact ⟨_, rfl, State.startRung_region_leaves _ q hr⟩

end Sys2Proof.Machine
end

section
/-! PROOFS. A detected fault of a command ends its step (R37, R46). -/

namespace Sys2Proof.Machine

theorem State.modCtx_eq_self {s : State} {c : CtxId} {f : Ctx → Ctx} (h : f (s.ctx c) = s.ctx c) : s.modCtx c f = s := by
  unfold State.modCtx State.setCtx
  rw [h]
  simp [State.ctx]

/-- A step that is gone leaves no tail to give up. -/
theorem State.dropTail_of_gone {s : State} {c : CtxId} {uid : Nat} (h : ∀ u ∈ (s.ctx c).steps, u.uid ≠ uid) : s.dropTail c uid = s := by
  refine State.modCtx_eq_self ?_
  have hfilter : (s.ctx c).steps.filter (fun t => !(t.uid == uid && t.state == .committed)) = (s.ctx c).steps :=
    List.filter_eq_self.2 fun t ht => by simp [h t ht]
  rw [hfilter]

/-- A fault of a command whose step has not committed ends that step. -/
theorem State.EndsStep.faultCmd {s : State} {r : CmdRef} {t : Step} (h : s.step? r = some t) (hc : t.state ≠ .committed)
    (reason : Reason) : s.EndsStep (s.faultCmd r reason) r.ctx r.step .abortedFault := by
  have hends := State.EndsStep.abortStep h hc .abortedFault reason r.idx true
  unfold State.faultCmd
  rw [State.dropTail_of_gone hends.gone]
  exact hends.dispatch

end Sys2Proof.Machine
end


section
/-! PROOFS. Messages that pass every row of R281 reach what they name: collective contributions, stage-queue buffers, aborts (R51, R207,
R253, R257, R260, R278, R281). -/

namespace Sys2Proof.Machine

theorem exec_collectiveMessage (p : OxtPkt) (s : State) : exec (.collectiveMessage p) s = execCollectiveMessage p s := rfl
theorem exec_stageQueueData (p : OxtPkt) (s : State) : exec (.stageQueueData p) s = execStageQueueData p s := rfl
theorem exec_oxtAbort (p : OxtPkt) (s : State) : exec (.oxtAbort p) s = execOxtAbort p s := rfl
theorem exec_managementRequest (p : OxtPkt) (s : State) : exec (.managementRequest p) s = execManagementRequest p s := rfl

/-! ### Flows -/

theorem State.flow_key (s : State) (k : FlowKey) : (s.flow k).key = k := by
  unfold State.flow
  cases h : s.fab.flows.find? fun f => f.key == k with
  | none => rfl
  | some f => simpa using List.find?_some h

/-- The flow that was set is found; every other one is as it was. -/
theorem State.setFlow_flow (s : State) (f : Flow) (k : FlowKey) : (s.setFlow f).flow k = if f.key = k then f else s.flow k := by
  unfold State.flow State.setFlow
  by_cases h : f.key = k
  · simp [h]
  · have hrest : (s.fab.flows.filter fun g => g.key != f.key).find? (fun g => g.key == k) = s.fab.flows.find? fun g => g.key == k := by
      rw [List.find?_filter]
      congr 1
      funext g
      by_cases hg : g.key = k
      · simp [hg, Ne.symm h]
      · simp [hg]
    simp [h, hrest]

/-- Between two states flows and outputs alone differ. -/
def State.OnFlows (s t : State) : Prop := t = { s with fab := { s.fab with flows := t.fab.flows }, out := t.out }

theorem State.OnFlows.refl (s : State) : s.OnFlows s := rfl

theorem State.OnFlows.trans {s t u : State} (a : s.OnFlows t) (b : t.OnFlows u) : s.OnFlows u := by
  unfold State.OnFlows at *
  rw [b, a]

theorem State.OnFlows.foldl {α : Type} (f : State → α → State) (h : ∀ u a, State.OnFlows u (f u a)) (l : List α) (s : State) :
    s.OnFlows (l.foldl f s) := by
  induction l generalizing s with
  | nil => exact .refl _
  | cons a l ih => exact (h s a).trans (ih _)

theorem State.OnFlows.setFlow (s : State) (f : Flow) : s.OnFlows (s.setFlow f) := rfl

theorem State.OnFlows.heard (s : State) (c : CtxId) (p : OxtPkt) : s.OnFlows (s.heard c p) := rfl

theorem State.OnFlows.releaseHeld (s : State) (k : FlowKey) : s.OnFlows (s.releaseHeld k) := by
  refine State.OnFlows.foldl _ (fun u p => ?_) _ _
  dsimp only
  split
  · rfl
  · rfl

theorem State.OnFlows.applyAck (s : State) (k : FlowKey) (p : OxtPkt) : s.OnFlows (s.applyAck k p) :=
  (State.OnFlows.setFlow ..).trans (.releaseHeld ..)

theorem State.OnFlows.takeInOrder (s : State) (k : FlowKey) (p : OxtPkt) : s.OnFlows (s.takeInOrder k p) := by
  unfold State.takeInOrder
  dsimp only
  split
  · rfl
  · rfl

theorem State.OnFlows.arrived (s : State) (c : CtxId) (p : OxtPkt) : s.OnFlows (s.arrived c p) :=
  (State.OnFlows.heard ..).trans ((State.OnFlows.applyAck ..).trans (.takeInOrder ..))

/-- What was held back and leaves now changes nothing of what the flow expects to receive. -/
theorem State.releaseHeld_expect (s : State) (k : FlowKey) : ((s.releaseHeld k).flow k).expect = (s.flow k).expect := by
  refine State.keeps_foldl (fun u : State => (u.flow k).expect) _ (fun u p => ?_) _ _
  dsimp only
  split
  · show ((u.setFlow _).flow k).expect = _
    rw [State.setFlow_flow, if_pos (u.flow_key k)]
  · rfl

/-- Nor do a recorded generation and an acknowledgement. -/
theorem State.heard_expect (s : State) (c : CtxId) (p : OxtPkt) :
    (((s.heard c p).applyAck (pktKey c p) p).flow (pktKey c p)).expect = (s.flow (pktKey c p)).expect := by
  have hheard : ((s.heard c p).flow (pktKey c p)).expect = (s.flow (pktKey c p)).expect := by
    show ((s.setFlow _).flow _).expect = _
    rw [State.setFlow_flow, if_pos (s.flow_key _)]
  rw [State.applyAck, State.releaseHeld_expect, State.setFlow_flow, if_pos (State.flow_key ..)]
  exact hheard

/-! ### The rows of R281 -/

theorem State.judge_of_unsound {s : State} {p : OxtPkt} (h : pktSound p = false) : s.judge p = (s.dropBad, none) := by
  simp [State.judge, h]

/-- A packet that passes every row up to DST_GEN may be executed for its context. -/
theorem State.judge_of_hears {s : State} {p : OxtPkt} {c : CtxId} (h : s.Hears p c) : s.judge p = (s.heard c p, some c) := by
  have hdst : ¬ (p.dstGen ≠ 0#16 ∧ p.dstGen ≠ (s.ctx c).regs.gen) := fun ⟨hzero, hgen⟩ => h.dst.elim hzero hgen
  unfold State.judge
  rw [h.sound, h.job]
  dsimp only
  rw [h.epoch]
  obtain hgen | hgen := h.gen
  · simp only [hgen, lt_irrefl, if_false, if_neg hdst, ne_eq, not_true_eq_false, false_and, bne_self_eq_false, Bool.not_true,
      Bool.false_eq_true]
    rfl
  · simp only [hgen, lt_irrefl, if_false, if_neg hdst, Bool.not_true, Bool.false_eq_true]
    rfl

theorem State.receive_of_unsound {s : State} {p : OxtPkt} (hu : s.up = true) (h : pktSound p = false) (typ cls : Nat)
    (known : State → CtxId → Bool) (act : State → CtxId → State) : s.receive p typ cls known act = s.dropBad := by
  simp [State.receive, hu, h, State.judge_of_unsound h]

/-- The next message in order reaches its command; one that no command awaits is counted. -/
theorem State.receive_of_delivers {s : State} {p : OxtPkt} {typ cls : Nat} {c : CtxId} (h : s.Delivers p typ cls c)
    (known : State → CtxId → Bool) (act : State → CtxId → State) :
    s.receive p typ cls known act = if known (s.arrived c p) c then act (s.arrived c p) c else (s.arrived c p).dropMessage := by
  have hpsn : p.psn = (((s.heard c p).applyAck (pktKey c p) p).flow (pktKey c p)).expect := by rw [State.heard_expect, h.psn]
  unfold State.receive
  rw [h.heard.up, h.typ, h.cls, State.judge_of_hears h.heard]
  simp only [bne_self_eq_false, Bool.or_self, Bool.and_false, Bool.not_true, Bool.false_eq_true, if_false, ← hpsn, if_true]
  rfl

/-! ### What a message names is as it was before the message -/

section
variable {s t : State} (h : s.OnFlows t)
include h

theorem State.OnFlows.collOf (c : CtxId) (p : OxtPkt) : t.collOf c p = s.collOf c p := by rw [h]; rfl
theorem State.OnFlows.commandOf (c : CtxId) (p : OxtPkt) : t.commandOf c p = s.commandOf c p := by rw [h]; rfl
theorem State.OnFlows.ctx (c : CtxId) : t.ctx c = s.ctx c := by rw [h]; rfl
theorem State.OnFlows.weir : t.weir = s.weir := by rw [h]
theorem State.OnFlows.mem : t.mem = s.mem := by rw [h]
theorem State.OnFlows.slot (r : Fin 17) (k : Fin 8) : t.slot r k = s.slot r k := by rw [h]; rfl
theorem State.OnFlows.step? (r : CmdRef) : t.step? r = s.step? r := by rw [h]; rfl
theorem State.OnFlows.cmd? (r : CmdRef) : t.cmd? r = s.cmd? r := by rw [h]; rfl
theorem State.OnFlows.collJob (c : CtxId) (v : Step) (k : Cmd) : t.collJob c v k = s.collJob c v k := by rw [h]; rfl
theorem State.OnFlows.still : t.still = s.still := by rw [h]; rfl

/-- A step that ends after flows and outputs have changed. -/
theorem State.OnFlows.endsStep {u : State} {c : CtxId} {uid : Nat} {code : Code} (e : t.EndsStep u c uid code) :
    s.EndsStep u c uid code := by
  rw [h] at e
  exact ⟨e.gone, e.kept, e.others, e.told, e.same, e.version, e.rest⟩

end

/-- What a change of commands' progress, flows, trace and outputs leaves, in the parts that messages are asked of. -/
theorem State.parts_of_still {s t : State} (h : t.still = s.still) :
    t.mem = s.mem ∧ t.weir = s.weir ∧ t.cfg = s.cfg ∧ ∀ d, (t.ctx d).still = (s.ctx d).still := by
  refine ⟨congrArg (·.mem) h, congrArg (·.weir) h, congrArg (·.cfg) h, fun d => ?_⟩
  simpa [State.still, State.ctx] using congrArg (fun u : State => u.ctxs[d]) h

/-! ### Contributions (R257) -/

section
variable {s : State} {c : CtxId} {p : OxtPkt} {r : CmdRef} {t : Step} {k : Cmd} {j : CollJob}
  (hc : s.collOf c p = some (r, t, k)) (hj : s.collJob c t k = some j) (hsend : j.d.op ≠ 7) (hrecv : j.d.op ≠ 8) (hpos : p.slot.toNat < j.g)
include hc hj

theorem State.stageMessage_of_second (hdup : ((k.arrived p.slot.toNat).any fun x => x.1 == p.offset.toNat) = true) :
    s.stageMessage c p = s.dropMessage := by
  simp only [State.stageMessage, hc, hj, hdup, or_true, if_true]

include hsend hrecv hpos in
theorem State.stageMessage_of_first (hnew : ((k.arrived p.slot.toNat).any fun x => x.1 == p.offset.toNat) = false) :
    s.stageMessage c p = (s.modCmd r fun k => k.stagePiece p.slot.toNat p.offset.toNat p.payload).collAdvance r := by
  simp only [State.stageMessage, hc, hj, hsend, hrecv, hnew, Nat.not_le.2 hpos, or_self, Bool.false_eq_true, if_false]

end

theorem execCollectiveMessage_of_delivers {s : State} {p : OxtPkt} {c : CtxId} (h : s.Delivers p 0 0 c) :
    execCollectiveMessage p s =
      .next (if (s.collOf c p).isSome then (s.arrived c p).stageMessage c p else (s.arrived c p).dropMessage) := by
  rw [execCollectiveMessage, State.receive_of_delivers h, (State.OnFlows.arrived s c p).collOf]

/-! ### Stage queues (R253, R260) -/

section
variable {s : State} {c : CtxId} {p : OxtPkt} {r : CmdRef} {t : Step} {k : Cmd} {j : CollJob}
  (hr : s.commandOf c p = some r) (ht : s.step? r = some t) (hk : s.cmd? r = some k) (hj : s.collJob c t k = some j) (hop : j.d.op = 8)
  (ha : k.alive = true)
include hr ht hk hj hop ha

theorem State.queueData_of_beyond (hb : j.d.depth ≤ p.slot.toNat ∨ j.d.buf < p.offset.toNat + p.payload.length) :
    s.queueData c p = s.faultCmd r .fault := by
  simp [State.queueData, hr, ht, hk, hj, hop, ha, hb]

theorem State.queueData_of_inside (hslot : p.slot.toNat < j.d.depth) (hbuf : p.offset.toNat + p.payload.length ≤ j.d.buf)
    (hnew : ((k.arrived 0).any fun x => x.1 == p.offset.toNat) = false) {stage : Tensor} (hs : j.stage = some stage) :
    s.queueData c p = ((s.putBase (stage.base + p.slot.toNat * j.d.buf + p.offset.toNat) p.payload).modCmd r fun k =>
      k.stagePiece 0 p.offset.toNat p.payload).collAdvance r := by
  have hin : ¬ (j.d.depth ≤ p.slot.toNat ∨ j.d.buf < p.offset.toNat + p.payload.length) := by omega
  simp only [State.queueData, hr, ht, hk, hj, hop, ha, hin, hnew, hs, Nat.reduceEqDiff, ne_eq, not_true_eq_false, Bool.not_true,
    Bool.false_eq_true, or_self, if_false]

end

theorem execStageQueueData_of_delivers {s : State} {p : OxtPkt} {c : CtxId} (h : s.Delivers p 0 1 c) :
    execStageQueueData p s =
      .next (if (s.commandOf c p).isSome then (s.arrived c p).queueData c p else (s.arrived c p).dropMessage) := by
  rw [execStageQueueData, State.receive_of_delivers h, (State.OnFlows.arrived s c p).commandOf]

/-! ### Aborts (R51, R207) -/

theorem execOxtAbort_of_delivers {s : State} {p : OxtPkt} {c : CtxId} (h : s.Delivers p 4 4 c) :
    execOxtAbort p s = .next ((s.arrived c p).abortMessage c p) := by
  rw [execOxtAbort, State.receive_of_delivers h, if_pos rfl]

theorem State.abortMessage_of_live {s : State} {c : CtxId} {p : OxtPkt} {t : Step}
    (h : (s.ctx c).steps.find? (fun t => t.hdr.step.setWidth 32 == p.step && t.state != .committed) = some t) :
    s.abortMessage c p = (s.abortStep c t.uid .abortedFault .peerReset p.srcRank.toNat false).dispatch := by
  simp only [State.abortMessage, h]

/-- A step that the message finds committed is marked late. -/
def Step.markLate (step : BitVec 32) (t : Step) : Step := if t.hdr.step.setWidth 32 == step then { t with late := true } else t

theorem Step.late_of_markLate {step : BitVec 32} {t : Step} (h : (t.markLate step).hdr.step.setWidth 32 = step) :
    (t.markLate step).late = true := by
  unfold Step.markLate at h ⊢
  split
  · rfl
  · rename_i hne
    rw [if_neg hne] at h
    exact absurd (beq_iff_eq.2 h) hne

theorem State.abortMessage_of_committed {s : State} {c : CtxId} {p : OxtPkt} {g : Group} (hg : g ∈ s.weir.groups)
    (hall : ∀ t ∈ (s.ctx c).steps, t.hdr.step.setWidth 32 = p.step → t.state = .committed) (hrow : g.row = rowOf c)
    (hstep : g.step.setWidth 32 = p.step) (hslot : s.slot g.row g.slot = .last ∨ s.slot g.row g.slot = .folding) :
    s.abortMessage c p = State.modCtx { s with weir := { s.weir with lateAborts := satInc s.weir.lateAborts } } c fun x =>
      { x with steps := x.steps.map (Step.markLate p.step) } := by
  have hnone : (s.ctx c).steps.find? (fun t => t.hdr.step.setWidth 32 == p.step && t.state != .committed) = none :=
    List.find?_eq_none.2 fun t ht => by
      simp only [Bool.and_eq_true, beq_iff_eq, bne_iff_ne, ne_eq, not_and, not_not]
      exact hall t ht
  have hlate : (s.weir.groups.any fun g => g.row == rowOf c && g.step.setWidth 32 == p.step
      && (s.slot g.row g.slot == .last || s.slot g.row g.slot == .folding)) = true :=
    List.any_eq_true.2 ⟨g, hg, by simpa [hrow, hstep] using (hrow ▸ hslot)⟩
  simp only [State.abortMessage, hnone, hlate, if_true]
  rfl

/-- Settles O54: a message in order reaches the command or the step that it names, and an unsound packet is counted. -/
theorem messagesReachCommands : Obligations.MessagesReachCommands := by
  simp only [Obligations.MessagesReachCommands, exec_collectiveMessage, exec_stageQueueData, exec_oxtAbort, exec_managementRequest]
  refine ⟨fun s p c h => ⟨fun hc => ?unmatched, fun r t k j hc hj hsend hrecv hpos => ⟨fun hdup => ?second, fun hnew => ?first⟩⟩,
    fun s p c h => ⟨fun hr => ?unqueued, fun r t k j hr ht hk hj hop ha =>
      ⟨fun hb hlive => ?beyond, fun stage hslot hbuf hnew hs => ?inside⟩⟩,
    fun s p c h => ⟨fun t hfind ht => ?aborts, fun g hg hall hrow hstep hslot => ?late⟩,
    fun s p hu hbad => ⟨?collective, ?queue, ?abort, ?management⟩⟩
  case unmatched =>
    rw [execCollectiveMessage_of_delivers h, hc]
    rfl
  case second =>
    have hflows := State.OnFlows.arrived s c p
    rw [execCollectiveMessage_of_delivers h, hc,
      State.stageMessage_of_second ((hflows.collOf c p).trans hc) ((hflows.collJob c t k).trans hj) hdup]
    rfl
  case first =>
    have hflows := State.OnFlows.arrived s c p
    have hrun : execCollectiveMessage p s = .next (((s.arrived c p).modCmd r fun k =>
        k.stagePiece p.slot.toNat p.offset.toNat p.payload).collAdvance r) := by
      rw [execCollectiveMessage_of_delivers h, hc,
        State.stageMessage_of_first ((hflows.collOf c p).trans hc) ((hflows.collJob c t k).trans hj) hsend hrecv hpos hnew]
      rfl
    exact ⟨hrun, _, hrun, State.parts_of_still ((State.collAdvance_still ..).trans ((State.modCmd_still ..).trans hflows.still))⟩
  case unqueued =>
    rw [execStageQueueData_of_delivers h, hr]
    rfl
  case beyond =>
    have hflows := State.OnFlows.arrived s c p
    have ht' := (hflows.step? r).trans ht
    refine ⟨_, ?_, hflows.endsStep (State.EndsStep.faultCmd ht' hlive .fault)⟩
    rw [execStageQueueData_of_delivers h, hr, State.queueData_of_beyond ((hflows.commandOf c p).trans hr) ht' ((hflows.cmd? r).trans hk)
      ((hflows.collJob c t k).trans hj) hop ha hb]
    rfl
  case inside =>
    have hflows := State.OnFlows.arrived s c p
    have hrun : execStageQueueData p s = .next ((((s.arrived c p).putBase (stage.base + p.slot.toNat * j.d.buf + p.offset.toNat)
        p.payload).modCmd r fun k => k.stagePiece 0 p.offset.toNat p.payload).collAdvance r) := by
      rw [execStageQueueData_of_delivers h, hr, State.queueData_of_inside ((hflows.commandOf c p).trans hr) ((hflows.step? r).trans ht)
        ((hflows.cmd? r).trans hk) ((hflows.collJob c t k).trans hj) hop ha hslot hbuf hnew hs]
      rfl
    obtain ⟨hmem, hweir, -, hctx⟩ := State.parts_of_still ((State.collAdvance_still ..).trans (State.modCmd_still
      ((s.arrived c p).putBase (stage.base + p.slot.toNat * j.d.buf + p.offset.toNat) p.payload) r
      fun k => k.stagePiece 0 p.offset.toNat p.payload))
    obtain ⟨hmem', hweir', -, hctx'⟩ := State.parts_of_still hflows.still
    refine ⟨_, hrun, hmem.trans ?_, hweir.trans hweir', fun d => (hctx d).trans (hctx' d)⟩
    rw [State.putBase_mem, hmem']
  case aborts =>
    have hflows := State.OnFlows.arrived s c p
    have hlive : t.state ≠ .committed := by
      have := List.find?_some hfind
      simp only [Bool.and_eq_true, bne_iff_ne] at this
      exact this.2
    refine ⟨_, ?_, hflows.endsStep (State.EndsStep.abortStep (by rw [hflows.ctx]; exact ht) hlive .abortedFault .peerReset p.srcRank.toNat
      false).dispatch⟩
    rw [execOxtAbort_of_delivers h, State.abortMessage_of_live (by rw [hflows.ctx]; exact hfind)]
  case late =>
    have hflows := State.OnFlows.arrived s c p
    have hrun := State.abortMessage_of_committed (s := s.arrived c p) (by rw [hflows.weir]; exact hg) (by rw [hflows.ctx]; exact hall)
      hrow hstep (by rw [hflows.slot]; exact hslot)
    refine ⟨_, (execOxtAbort_of_delivers h).trans (congrArg _ hrun), ?_, hflows.mem, fun t ht he => ?_⟩
    · rw [State.modCtx_weir, hflows.weir]
    rw [State.modCtx_ctx, if_pos rfl] at ht
    obtain ⟨v, -, rfl⟩ := List.mem_map.1 ht
    exact Step.late_of_markLate he
  case collective => rw [execCollectiveMessage, State.receive_of_unsound hu hbad]; rfl
  case queue => rw [execStageQueueData, State.receive_of_unsound hu hbad]; rfl
  case abort => rw [execOxtAbort, State.receive_of_unsound hu hbad]; rfl
  case management =>
    rw [execManagementRequest, State.whenUp_of_up hu, hbad]
    rfl

end Sys2Proof.Machine
end

section
/-! PROOFS. What a change of one command, and the start of ready commands, leave of the other commands (R47, R254, R333). -/

namespace Sys2Proof.Machine

/-! ### One command changes -/

theorem State.cmd?_of_ctxs {s t : State} (h : t.ctxs = s.ctxs) (q : CmdRef) : t.cmd? q = s.cmd? q := by
  unfold State.cmd? State.step?
  rw [State.ctx_of_ctxs h]

/-- A step after a change that keeps step numbers. -/
theorem Ctx.step?_modStep (x : Ctx) (uid v : Nat) (f : Step → Step) (hf : ∀ t, (f t).uid = t.uid) :
    (x.modStep uid f).step? v = (x.step? v).map fun t => if t.uid == uid then f t else t := by
  have huid : ((fun t : Step => t.uid == v) ∘ fun t => if t.uid == uid then f t else t) = fun t => t.uid == v := by
    funext t
    simp only [Function.comp]
    split
    · rw [hf]
    · rfl
  unfold Ctx.step? Ctx.modStep
  rw [List.find?_map, huid]

theorem State.step?_modStep (s : State) (c : CtxId) (uid : Nat) (f : Step → Step) (hf : ∀ t, (f t).uid = t.uid) (q : CmdRef) :
    (s.modStep c uid f).step? q = (s.step? q).map fun t => if c = q.ctx ∧ t.uid = uid then f t else t := by
  unfold State.step? State.modStep
  rw [State.modCtx_ctx]
  by_cases hc : c = q.ctx
  · subst hc
    simp [Ctx.step?_modStep _ _ _ _ hf]
  · simp [hc]

theorem State.step?_modCmd (s : State) (r : CmdRef) (f : Cmd → Cmd) (q : CmdRef) : (s.modCmd r f).step? q =
    (s.step? q).map fun t => if r.ctx = q.ctx ∧ t.uid = r.step then { t with cmds := t.cmds.modify r.idx f } else t :=
  State.step?_modStep _ _ _ _ (fun _ => by rfl) _

theorem State.uid_of_step? {s : State} {q : CmdRef} {t : Step} (h : s.step? q = some t) : t.uid = q.step := by
  simpa using List.find?_some h

theorem State.step?_modCmd_self {s : State} {r : CmdRef} {t : Step} (h : s.step? r = some t) (f : Cmd → Cmd) :
    (s.modCmd r f).step? r = some { t with cmds := t.cmds.modify r.idx f } := by
  rw [State.step?_modCmd, h, Option.map_some, if_pos ⟨rfl, State.uid_of_step? h⟩]

theorem State.step?_of_ctxs {s t : State} (h : t.ctxs = s.ctxs) (q : CmdRef) : t.step? q = s.step? q := by
  unfold State.step?
  rw [State.ctx_of_ctxs h]

@[simp] theorem State.modCmd_cmd?_self (s : State) (r : CmdRef) (f : Cmd → Cmd) : (s.modCmd r f).cmd? r = (s.cmd? r).map f := by
  unfold State.cmd?
  rw [State.step?_modCmd]
  cases h : s.step? r with
  | none => rfl
  | some t => simp [State.uid_of_step? h]

theorem State.modCmd_cmd?_other (s : State) {r q : CmdRef} (hq : q ≠ r) (f : Cmd → Cmd) : (s.modCmd r f).cmd? q = s.cmd? q := by
  unfold State.cmd?
  rw [State.step?_modCmd]
  cases h : s.step? q with
  | none => rfl
  | some t =>
    simp only [Option.map_some, Option.bind_some]
    split
    · rename_i hr
      have hidx : r.idx ≠ q.idx := fun e => hq (by
        cases r
        cases q
        simp_all [State.uid_of_step? h])
      simp [hidx]
    · rfl

/-- Between two states command `r` alone has changed, and not its entry. -/
structure State.Alters (r : CmdRef) (s t : State) : Prop where
  others : ∀ q, q ≠ r → t.cmd? q = s.cmd? q
  entry  : (t.cmd? r).map (·.entry) = (s.cmd? r).map (·.entry)

theorem State.Alters.of_ctxs {r : CmdRef} {s t : State} (h : t.ctxs = s.ctxs) : State.Alters r s t :=
  ⟨fun q _ => State.cmd?_of_ctxs h q, by rw [State.cmd?_of_ctxs h]⟩

theorem State.Alters.refl (r : CmdRef) (s : State) : State.Alters r s s := .of_ctxs rfl

theorem State.Alters.trans {r : CmdRef} {s t u : State} (a : State.Alters r s t) (b : State.Alters r t u) : State.Alters r s u :=
  ⟨fun q h => (b.others q h).trans (a.others q h), b.entry.trans a.entry⟩

theorem State.Alters.modCmd (s : State) (r : CmdRef) (f : Cmd → Cmd) (hf : ∀ k, (f k).entry = k.entry) :
    State.Alters r s (s.modCmd r f) :=
  ⟨fun _ h => s.modCmd_cmd?_other h f, by
    rw [State.modCmd_cmd?_self]
    cases s.cmd? r with
    | none => rfl
    | some k => exact congrArg some (hf k)⟩

/-! ### Messages touch no command -/

@[simp] theorem State.sendOnFlow_ctxs (s : State) (c : CtxId) (p : OxtPkt) : (s.sendOnFlow c p).ctxs = s.ctxs := by
  rw [State.sendOnFlow_rest]

@[simp] theorem State.sendData_ctxs (s : State) (c : CtxId) (peer : Nat) (f : Fin 8) (cls : Nat) (tweak : OxtPkt → OxtPkt) :
    (s.sendData c peer f cls tweak).ctxs = s.ctxs := by
  unfold State.sendData
  split
  · exact State.sendOnFlow_ctxs ..
  · rfl

@[simp] theorem State.sendParts_ctxs (s : State) (c : CtxId) (t : Step) (idx peer pos cls n : Nat) (parts : List Part) :
    (s.sendParts c t idx peer pos cls n parts).ctxs = s.ctxs :=
  State.keeps_foldl (·.ctxs) _ (fun _ _ => State.sendData_ctxs ..) _ _

theorem State.sendAck_ctxs (s : State) (k : FlowKey) : (s.sendAck k).ctxs = s.ctxs := rfl

@[simp] theorem State.grantFlows_ctxs (s : State) (r : CmdRef) : (s.grantFlows r).ctxs = s.ctxs := by
  unfold State.grantFlows
  exact State.keeps_foldl (·.ctxs) _ (fun u _ => u.sendAck_ctxs _) _ _

/-! ### A command starts -/

theorem State.Alters.sendBuffer (s : State) (r : CmdRef) (t : Step) (j : CollJob) : State.Alters r s (s.sendBuffer r t j) := by
  unfold State.sendBuffer
  dsimp only
  split
  · exact (State.Alters.of_ctxs (State.sendParts_ctxs ..)).trans (.modCmd _ _ _ fun _ => by rfl)
  · exact .modCmd _ _ _ fun _ => by rfl

theorem Cmd.setWait_entry (k : Cmd) (now : Ns) (wait : Bool) : (k.setWait now wait).entry = k.entry := by
  unfold Cmd.setWait
  (repeat' split) <;> rfl

theorem State.Alters.collAdvance (s : State) (r : CmdRef) : State.Alters r s (s.collAdvance r) := by
  unfold State.collAdvance
  split
  · split
    · exact .refl ..
    · split
      · exact .refl ..
      · rename_i t k _ _ _ j _ _ p _
        extract_lets v s1 s2
        have h1 : State.Alters r s s1 := by
          unfold s1
          split
          · split
            · exact .refl ..
            · refine (State.Alters.of_ctxs (State.keeps_foldl (·.ctxs) _ (fun u a => ?_) _ _)).trans (.modCmd _ _ _ fun _ => by rfl)
              split
              · rfl
              · exact State.sendParts_ctxs ..
          · exact .refl ..
        clear_value s1
        have h2 : State.Alters r s s2 := by
          unfold s2
          split
          · split
            · refine h1.trans ((State.Alters.of_ctxs (State.keeps_foldl (·.ctxs) _ (fun u a => ?_) _ _)).trans (.modCmd _ _ _ fun _ => by rfl))
              split
              · rfl
              · exact State.sendParts_ctxs ..
            · exact h1
          · exact h1
        clear_value s2
        split
        · exact h2
        · exact h2.trans (.modCmd _ _ _ fun k => k.setWait_entry ..)
  · exact .refl ..

theorem State.Alters.collStart (s : State) (r : CmdRef) : State.Alters r s (s.collStart r) := by
  unfold State.collStart
  extract_lets u
  have h : State.Alters r s u := .of_ctxs (State.grantFlows_ctxs ..)
  clear_value u
  split
  · split
    · exact h
    · split
      · exact h
      · split
        · exact h
        · split
          · exact h.trans (.sendBuffer ..)
          · refine h.trans ((State.Alters.of_ctxs (State.keeps_foldl (·.ctxs) _ (fun u a => ?_) _ _)).trans (.collAdvance ..))
            split
            · rfl
            · exact State.sendParts_ctxs ..
  · exact h

theorem State.Alters.collResume (s : State) (r : CmdRef) : State.Alters r s (s.collResume r) := by
  unfold State.collResume
  split
  · split
    · exact .refl ..
    · split
      · split
        · split
          · exact .refl ..
          · exact .sendBuffer ..
        · exact .collAdvance ..
      · exact .refl ..
  · exact .refl ..

theorem State.Alters.startCmd (s : State) (r : CmdRef) : State.Alters r s (s.startCmd r) := by
  unfold State.startCmd
  split
  · extract_lets ev scale s1
    have h1 : State.Alters r s s1 := by
      unfold s1
      exact (State.Alters.modCmd _ _ _ fun _ => by rfl).trans (.of_ctxs (State.trace_ctxs ..))
    clear_value s1
    split
    · exact h1.trans (.collResume ..)
    · exact h1.trans (.collStart ..)
  · exact .refl ..

/-- A command of another engine than a collective agent neither starts nor resumes communication. -/
theorem State.collResume_of_other {s : State} {r : CmdRef} {k : Cmd} (h : s.cmd? r = some k) (he : engineKind k.entry.engine ≠ 5) :
    s.collResume r = s := by
  unfold State.collResume
  split
  · rename_i t q _ hq
    obtain rfl : k = q := Option.some.inj (h.symm.trans hq)
    rw [if_pos (.inr he)]
  · rfl

theorem State.collStart_of_other {s : State} {r : CmdRef} {k : Cmd} (h : s.cmd? r = some k) (he : engineKind k.entry.engine ≠ 5) :
    s.collStart r = s.grantFlows r := by
  have h' : (s.grantFlows r).cmd? r = some k := (State.cmd?_of_ctxs (State.grantFlows_ctxs ..) r).trans h
  unfold State.collStart
  extract_lets u
  split
  · rename_i t q _ hq
    obtain rfl : k = q := Option.some.inj (h'.symm.trans hq)
    rw [if_pos (.inr he)]
  · rfl

theorem State.step?_of_cmd? {s : State} {r : CmdRef} {k : Cmd} (h : s.cmd? r = some k) : ∃ t, s.step? r = some t := by
  cases ht : s.step? r with
  | none => simp [State.cmd?, ht] at h
  | some t => exact ⟨t, rfl⟩

/-- Off the collective agents a command that starts does nothing but run. -/
theorem State.startCmd_runs {s : State} {r : CmdRef} {k : Cmd} (h : s.cmd? r = some k) (he : engineKind k.entry.engine ≠ 5) :
    ∃ q, (s.startCmd r).cmd? r = some q ∧ q.state = .running ∧ q.entry = k.entry := by
  obtain ⟨t, ht⟩ := State.step?_of_cmd? h
  simp only [State.startCmd, ht, h]
  generalize (if engineKind k.entry.engine = 4 ∧ k.gscale = none then some (s.scaleAt r.ctx t k) else k.gscale) = scale
  generalize hu : State.trace _ _ _ _ _ = u
  have hk : u.cmd? r = some { k with state := .running, since := s.clk.now, gscale := scale } := by
    rw [← hu, State.cmd?_of_ctxs (State.trace_ctxs ..), State.modCmd_cmd?_self, h]
    rfl
  refine ⟨{ k with state := .running, since := s.clk.now, gscale := scale }, ?_, rfl, rfl⟩
  · split
    · rw [State.collResume_of_other hk he, hk]
    · rw [State.collStart_of_other hk he, State.cmd?_of_ctxs (State.grantFlows_ctxs ..), hk]

/-! ### Every idle engine takes its first ready command -/

/-- One choice of `State.dispatch`. -/
def State.takeChoice (s : State) (ch : Choice) : State :=
  match s.cmd? ch.ref with
  | some k => if (s.running? k.entry.engine).isNone && !s.engineBlocked k.entry.engine then s.startCmd ch.ref else s
  | none => s

theorem State.dispatch_eq (s : State) : s.dispatch = s.ready.foldl State.takeChoice s := rfl

theorem State.Alters.takeChoice (s : State) (ch : Choice) : State.Alters ch.ref s (s.takeChoice ch) := by
  unfold State.takeChoice
  split
  · split
    · exact .startCmd ..
    · exact .refl ..
  · exact .refl ..

/-- Choices of other commands leave a command alone. -/
theorem State.takeChoices_cmd? {r : CmdRef} (l : List Choice) (h : ∀ ch ∈ l, ch.ref ≠ r) (s : State) :
    (l.foldl State.takeChoice s).cmd? r = s.cmd? r := by
  induction l generalizing s with
  | nil => rfl
  | cons ch l ih =>
    have hhead : r ≠ ch.ref := (h ch (List.mem_cons_self ..)).symm
    rw [List.foldl_cons, ih fun c hc => h c (List.mem_cons_of_mem _ hc)]
    exact (State.Alters.takeChoice s ch).others r hhead

/-- A command that is not ready stays as it is when the ready ones start. -/
theorem State.dispatch_cmd? {s : State} {r : CmdRef} (h : ∀ ch ∈ s.ready, ch.ref ≠ r) : s.dispatch.cmd? r = s.cmd? r :=
  State.takeChoices_cmd? _ h _

/-! ### The lists of commands and of choices, by reference -/

theorem State.mem_allCmds {s : State} {r : CmdRef} {k : Cmd} (h : (r, k) ∈ s.allCmds) :
    ∃ t ∈ (s.ctx r.ctx).steps, t.uid = r.step ∧ t.cmds[r.idx]? = some k := by
  simp only [State.allCmds, List.mem_flatMap, List.mem_map] at h
  obtain ⟨c, -, t, ht, p, hp, rfl, rfl⟩ := h
  exact ⟨t, ht, rfl, List.mk_mem_zipIdx_iff_getElem?.1 hp⟩

theorem State.mem_ready {s : State} {ch : Choice} : ch ∈ s.ready ↔
    ∃ t ∈ (s.ctx ch.ref.ctx).steps, t.uid = ch.ref.step ∧ ∃ k, t.cmds[ch.ref.idx]? = some k
      ∧ k.waitSince = none ∧ (k.state = .ready ∨ k.state = .suspended) ∧ ch.dl = t.deadline k := by
  simp only [State.ready, List.mem_mergeSort, List.mem_flatMap, List.mem_filterMap]
  constructor
  · rintro ⟨c, -, t, ht, p, hp, hch⟩
    split at hch
    · rename_i hready
      obtain rfl := Option.some.inj hch
      exact ⟨t, ht, rfl, p.1, List.mk_mem_zipIdx_iff_getElem?.1 hp, hready.1, hready.2, rfl⟩
    · cases hch
  · rintro ⟨t, ht, hu, k, hk, hwait, hstate, hdl⟩
    refine ⟨ch.ref.ctx, List.mem_finRange _, t, ht, (k, ch.ref.idx), List.mk_mem_zipIdx_iff_getElem?.2 hk, ?_⟩
    rw [if_pos ⟨hwait, hstate⟩, hu, ← hdl]

theorem Choice.le_iff {a b : Choice} : a.le b = true ↔ a.dl < b.dl ∨ a.dl = b.dl
    ∧ (a.ref.ctx.val < b.ref.ctx.val ∨ a.ref.ctx.val = b.ref.ctx.val ∧ a.ref.idx ≤ b.ref.idx) := by
  simp [Choice.le, Fin.ext_iff]

/-- Choices come with the earliest deadline first (R47). -/
theorem State.ready_pairwise (s : State) : s.ready.Pairwise fun a b => a.dl ≤ b.dl := by
  have htrans : ∀ a b c : Choice, a.le b = true → b.le c = true → a.le c = true := by
    intro a b c
    simp only [Choice.le_iff, Ns]
    omega
  have htotal : ∀ a b : Choice, (a.le b || b.le a) = true := by
    intro a b
    simp only [Bool.or_eq_true, Choice.le_iff, Ns]
    omega
  exact (List.pairwise_mergeSort htrans htotal _).imp fun h => (Choice.le_iff.1 h).elim Nat.le_of_lt fun e => Nat.le_of_eq e.1

/-- While step numbers name one step each, a listed step is the one that a reference names. -/
theorem State.step?_of_mem {s : State} {r : CmdRef} {t : Step} (hn : s.Numbered) (ht : t ∈ (s.ctx r.ctx).steps) (hu : t.uid = r.step) :
    s.step? r = some t := by
  unfold State.step?
  rw [← hu]
  exact (hn.distinct r.ctx).step? ht

/-- Step numbers do not change with commands' progress. -/
theorem State.Numbered.of_still {s t : State} (hn : s.Numbered) (h : t.still = s.still) : t.Numbered := by
  intro c
  obtain ⟨-, -, -, hctx⟩ := State.parts_of_still h
  have hslu : t.slu = s.slu := congrArg (·.slu) h
  have huids : ∀ l : List Step, (l.map Step.still).map (·.uid) = l.map (·.uid) := fun l => by
    rw [List.map_map]
    rfl
  have hsteps : (t.ctx c).steps.map (·.uid) = (s.ctx c).steps.map (·.uid) := by
    rw [← huids (t.ctx c).steps, ← huids (s.ctx c).steps]
    exact congrArg (fun x : Ctx => x.steps.map (·.uid)) (hctx c)
  have hall : ∀ {u : State}, (∀ v ∈ (u.ctx c).steps, v.uid < s.slu.nextUid) ↔ ∀ n ∈ (u.ctx c).steps.map (·.uid), n < s.slu.nextUid :=
    by simp
  rw [hslu, hsteps, hall, hsteps, ← hall]
  exact hn c

section
variable {s : State} (hn : s.Numbered)
include hn

theorem State.mem_allCmds_iff {r : CmdRef} {k : Cmd} : (r, k) ∈ s.allCmds ↔ s.cmd? r = some k := by
  constructor
  · intro h
    obtain ⟨t, ht, hu, hk⟩ := State.mem_allCmds h
    simp [State.cmd?, State.step?_of_mem hn ht hu, hk]
  · intro h
    obtain ⟨t, ht⟩ := State.step?_of_cmd? h
    have hk : t.cmds[r.idx]? = some k := by simpa [State.cmd?, ht] using h
    simp only [State.allCmds, List.mem_flatMap, List.mem_map]
    refine ⟨r.ctx, List.mem_finRange _, t, List.mem_of_find?_eq_some ht, (k, r.idx), List.mk_mem_zipIdx_iff_getElem?.2 hk, ?_⟩
    rw [State.uid_of_step? ht]

theorem State.mem_ready_iff {ch : Choice} : ch ∈ s.ready ↔ ∃ t k, s.step? ch.ref = some t ∧ s.cmd? ch.ref = some k
    ∧ k.waitSince = none ∧ (k.state = .ready ∨ k.state = .suspended) ∧ ch.dl = t.deadline k := by
  rw [State.mem_ready]
  constructor
  · rintro ⟨t, ht, hu, k, hk, hrest⟩
    have hstep := State.step?_of_mem hn ht hu
    exact ⟨t, k, hstep, by simp [State.cmd?, hstep, hk], hrest⟩
  · rintro ⟨t, k, ht, hk, hrest⟩
    exact ⟨t, List.mem_of_find?_eq_some ht, State.uid_of_step? ht, k, by simpa [State.cmd?, ht] using hk, hrest⟩

end

/-! ### Engines that take nothing -/

/-- A command runs on the engine. -/
def State.Busy (s : State) (e : Engine) : Prop := ∃ r k, s.cmd? r = some k ∧ k.entry.engine = e ∧ k.state = .running

theorem State.running?_isSome_iff {s : State} (hn : s.Numbered) {e : Engine} : (s.running? e).isSome = true ↔ s.Busy e := by
  rw [State.running?, List.find?_isSome]
  constructor
  · rintro ⟨⟨r, k⟩, hmem, hk⟩
    simp only [Bool.and_eq_true, beq_iff_eq] at hk
    exact ⟨r, k, (State.mem_allCmds_iff hn).1 hmem, hk⟩
  · rintro ⟨r, k, hk, he, hrun⟩
    exact ⟨(r, k), (State.mem_allCmds_iff hn).2 hk, by simp [he, hrun]⟩

theorem State.takeChoice_still (s : State) (ch : Choice) : (s.takeChoice ch).still = s.still := by
  unfold State.takeChoice
  split
  · split
    · exact State.startCmd_still ..
    · rfl
  · rfl

/-- The engine takes no command: one runs on it, or it is blocked. -/
def State.Closed (s : State) (e : Engine) : Prop := s.Busy e ∨ s.engineBlocked e = true

theorem State.engineBlocked_of_still {s t : State} (h : t.still = s.still) (e : Engine) : t.engineBlocked e = s.engineBlocked e := by
  have hblocked : ∀ u : State, u.still.engineBlocked e = u.engineBlocked e := fun _ => rfl
  rw [← hblocked, h, hblocked]

section
variable {s : State} (hn : s.Numbered)
include hn

theorem State.takeChoice_of_closed {ch : Choice} {k : Cmd} (hk : s.cmd? ch.ref = some k) (hc : s.Closed k.entry.engine) :
    s.takeChoice ch = s := by
  unfold State.takeChoice
  rw [hk]
  refine if_neg ?_
  simp only [Bool.and_eq_true, Bool.not_eq_true', not_and, Bool.not_eq_false]
  intro hnone
  refine hc.resolve_left fun hbusy => ?_
  rw [← State.running?_isSome_iff hn, ← Option.not_isNone, hnone] at hbusy
  cases hbusy

theorem State.takeChoice_of_open {ch : Choice} {k : Cmd} (hk : s.cmd? ch.ref = some k) (hc : ¬ s.Closed k.entry.engine) :
    s.takeChoice ch = s.startCmd ch.ref := by
  rw [State.Closed, not_or, ← State.running?_isSome_iff hn] at hc
  unfold State.takeChoice
  rw [hk]
  exact if_pos (by simpa [Option.isNone_iff_eq_none, Option.isSome_iff_ne_none] using hc)

/-- An engine that takes nothing stays so. -/
theorem State.Closed.takeChoice {e : Engine} (hc : s.Closed e) (ch : Choice) : (s.takeChoice ch).Closed e := by
  obtain hbusy | hblocked := hc
  · obtain ⟨r, k, hk, he, hrun⟩ := hbusy
    have hsame : (s.takeChoice ch).cmd? r = s.cmd? r := by
      by_cases hr : r = ch.ref
      · subst hr
        rw [State.takeChoice_of_closed hn hk (.inl ⟨ch.ref, k, hk, rfl, hrun⟩)]
      · exact (State.Alters.takeChoice s ch).others r hr
    exact .inl ⟨r, k, hsame.trans hk, he, hrun⟩
  · exact .inr ((State.engineBlocked_of_still (s.takeChoice_still ch) e).trans hblocked)

end

/-- A command whose engine takes nothing stays as it is. -/
theorem State.takeChoices_of_closed {r : CmdRef} {k : Cmd} (l : List Choice) {s : State} (hn : s.Numbered) (hk : s.cmd? r = some k)
    (hc : s.Closed k.entry.engine) : (l.foldl State.takeChoice s).cmd? r = some k := by
  induction l generalizing s with
  | nil => exact hk
  | cons ch l ih =>
    have hsame : (s.takeChoice ch).cmd? r = some k := by
      by_cases hr : ch.ref = r
      · rw [State.takeChoice_of_closed hn (hr ▸ hk) hc, hk]
      · rw [(State.Alters.takeChoice s ch).others r (Ne.symm hr), hk]
    exact ih (hn.of_still (s.takeChoice_still ch)) hsame (hc.takeChoice hn ch)

theorem State.Alters.entry_all {r : CmdRef} {s t : State} (h : State.Alters r s t) (q : CmdRef) :
    (t.cmd? q).map (·.entry) = (s.cmd? q).map (·.entry) := by
  by_cases hq : q = r
  · rw [hq, h.entry]
  · rw [h.others q hq]

/-- After the choice of a command off the collective agents its engine takes nothing. -/
theorem State.takeChoice_closes {s : State} (hn : s.Numbered) {ch : Choice} {k : Cmd} (hk : s.cmd? ch.ref = some k)
    (he : engineKind k.entry.engine ≠ 5) : (s.takeChoice ch).Closed k.entry.engine := by
  by_cases hc : s.Closed k.entry.engine
  · exact hc.takeChoice hn ch
  · obtain ⟨q, hq, hrun, hentry⟩ := State.startCmd_runs hk he
    rw [State.takeChoice_of_open hn hk hc]
    exact .inl ⟨ch.ref, q, hq, congrArg (·.engine) hentry, hrun⟩

/-- A ready command yields to one of its engine with an earlier deadline. -/
theorem State.takeChoices_of_earlier {r : CmdRef} {k : Cmd} {ch0 : Choice} (l : List Choice) (hl : l.Pairwise fun a b => a.dl ≤ b.dl)
    (hmem : ch0 ∈ l) (hdl : ∀ ch ∈ l, ch.ref = r → ch0.dl < ch.dl) {s : State} (hn : s.Numbered) (hk : s.cmd? r = some k)
    (h0 : (s.cmd? ch0.ref).map (·.entry.engine) = some k.entry.engine) (he : engineKind k.entry.engine ≠ 5) :
    (l.foldl State.takeChoice s).cmd? r = some k := by
  induction l generalizing s with
  | nil => cases hmem
  | cons ch l ih =>
    obtain ⟨hhead, htail⟩ := List.pairwise_cons.1 hl
    have hle : ch.dl ≤ ch0.dl := by
      obtain rfl | hin := List.mem_cons.1 hmem
      · exact Nat.le_refl _
      · exact hhead ch0 hin
    have hr : ch.ref ≠ r := fun e => Nat.not_lt.2 hle (hdl ch (List.mem_cons_self ..) e)
    have hn' := hn.of_still (s.takeChoice_still ch)
    have hk' : (s.takeChoice ch).cmd? r = some k := by rw [(State.Alters.takeChoice s ch).others r hr.symm, hk]
    rw [List.foldl_cons]
    obtain rfl | hin := List.mem_cons.1 hmem
    · obtain ⟨q, hq, heng⟩ := Option.map_eq_some_iff.1 h0
      have hclosed := State.takeChoice_closes hn hq (heng ▸ he)
      exact State.takeChoices_of_closed l hn' hk' (heng ▸ hclosed)
    · refine ih htail hin (fun c hc => hdl c (List.mem_cons_of_mem _ hc)) hn' hk' ?_
      have hentry := congrArg (Option.map (·.engine)) ((State.Alters.takeChoice s ch).entry_all ch0.ref)
      rw [Option.map_map, Option.map_map] at hentry
      exact hentry.trans h0

/-- A ready command runs where its engine is open and nothing else waits for it. -/
theorem State.takeChoices_of_alone {r : CmdRef} {k : Cmd} (l : List Choice) (hmem : ∃ ch ∈ l, ch.ref = r) {s : State} (hn : s.Numbered)
    (hk : s.cmd? r = some k) (he : engineKind k.entry.engine ≠ 5) (hopen : ¬ s.Closed k.entry.engine)
    (halone : ∀ ch ∈ l, ch.ref ≠ r → (s.cmd? ch.ref).map (·.entry.engine) ≠ some k.entry.engine) :
    ((l.foldl State.takeChoice s).cmd? r).map (·.state) = some .running := by
  induction l generalizing s with
  | nil => obtain ⟨ch, hch, -⟩ := hmem; cases hch
  | cons ch l ih =>
    have halter := State.Alters.takeChoice s ch
    have hn' := hn.of_still (s.takeChoice_still ch)
    rw [List.foldl_cons]
    by_cases hr : ch.ref = r
    · obtain ⟨q, hq, hrun, hentry⟩ := State.startCmd_runs hk he
      have hq' : (s.takeChoice ch).cmd? r = some q := by rw [State.takeChoice_of_open hn (hr ▸ hk) hopen, hr, hq]
      rw [State.takeChoices_of_closed l hn' hq' (.inl ⟨r, q, hq', rfl, hrun⟩), Option.map_some, hrun]
    · have hk' : (s.takeChoice ch).cmd? r = some k := by rw [halter.others r (Ne.symm hr), hk]
      have hin : ∃ c ∈ l, c.ref = r := by
        obtain ⟨c, hc, e⟩ := hmem
        obtain rfl | hc := List.mem_cons.1 hc
        · exact absurd e hr
        · exact ⟨c, hc, e⟩
      refine ih hin hn' hk' (fun hclosed => ?_) fun c hc hne => ?_
      · obtain ⟨q, v, hv, heng, hrun⟩ | hblocked := hclosed
        · by_cases hq : q = ch.ref
          · refine halone ch (List.mem_cons_self ..) hr ?_
            have hentry := congrArg (Option.map (·.engine)) halter.entry
            rw [Option.map_map, Option.map_map] at hentry
            rw [hq] at hv
            exact hentry.symm.trans (by rw [hv]; exact congrArg some heng)
          · exact hopen (.inl ⟨q, v, (halter.others q hq).symm.trans hv, heng, hrun⟩)
        · exact hopen (.inr ((State.engineBlocked_of_still (s.takeChoice_still ch) _).symm.trans hblocked))
      · have hentry := congrArg (Option.map (·.engine)) (halter.entry_all c.ref)
        rw [Option.map_map, Option.map_map] at hentry
        exact fun e => halone c (List.mem_cons_of_mem _ hc) hne (hentry.symm.trans e)

end Sys2Proof.Machine
end

section
/-! PROOFS. What follows the end of a command: a prepared step, or the end of a committed one (R46, R206, R207, R329). -/

namespace Sys2Proof.Machine

/-- What follows a command's end in context `c` may have happened between two states: rows, flows and outputs may differ, and in the
context its steps and result entries; no version, no other context and no command has changed. -/
structure State.Concludes (c : CtxId) (s t : State) : Prop where
  rest   : t = { s with ctxs := t.ctxs, weir := { s.weir with rows := t.weir.rows }, fab := { s.fab with flows := t.fab.flows }
                        out := t.out }
  others : ∀ d : CtxId, d ≠ c → t.ctx d = s.ctx d
  same   : (t.ctx c).state = (s.ctx c).state ∧ (t.ctx c).alloc = (s.ctx c).alloc ∧ (t.ctx c).regs.gen = (s.ctx c).regs.gen
             ∧ (t.ctx c).job = (s.ctx c).job
  rows   : ∀ q : Fin 17, (t.row q).version = (s.row q).version
  steps  : ∀ v ∈ (t.ctx c).steps, ∃ w ∈ (s.ctx c).steps, v.uid = w.uid ∧ v.cmds = w.cmds

theorem State.Concludes.refl (c : CtxId) (s : State) : State.Concludes c s s :=
  ⟨rfl, fun _ _ => rfl, ⟨rfl, rfl, rfl, rfl⟩, fun _ => rfl, fun v hv => ⟨v, hv, rfl, rfl⟩⟩

/-- Setting a slot of a row names no version. -/
theorem State.setSlot_version (s : State) (r q : Fin 17) (k : Fin 8) (g : GroupState) :
    ((s.writeRow r fun d => d.setSlot k g).row q).version = (s.row q).version := by
  rw [State.writeRow_row]
  split
  · rename_i h
    rw [h]
    rfl
  · rfl

theorem State.sendData_rest (s : State) (c : CtxId) (peer : Nat) (f : Fin 8) (cls : Nat) (tweak : OxtPkt → OxtPkt) :
    s.sendData c peer f cls tweak =
      { s with fab := { s.fab with flows := (s.sendData c peer f cls tweak).fab.flows }, out := (s.sendData c peer f cls tweak).out } := by
  unfold State.sendData
  split
  · exact State.sendOnFlow_rest ..
  · rfl

theorem State.prepareStep_of_slot {t : Step} {k : Fin 8} (h : t.slot = some k) (s : State) (c : CtxId) :
    ∃ (cls : Nat) (tweak : OxtPkt → OxtPkt), s.prepareStep c t
      = (((s.prepareGroup (rowOf c) k).modStep c t.uid fun u => { u with state := .prepared, prepared := s.clk.now }).sendData
      c 0 (flowFor 0 0) cls tweak) := by
  unfold State.prepareStep
  rw [h]
  exact ⟨4, _, rfl⟩

theorem State.Concludes.prepareStep (s : State) (c : CtxId) (t : Step) : State.Concludes c s (s.prepareStep c t) := by
  cases h : t.slot with
  | none =>
    have : s.prepareStep c t = s := by simp [State.prepareStep, h]
    rw [this]
    exact .refl ..
  | some k =>
    obtain ⟨cls, tweak, hsend⟩ := State.prepareStep_of_slot h s c
    have hctx : ∀ d, (s.prepareStep c t).ctx d = if c = d then (s.ctx c).modStep t.uid fun u =>
        { u with state := .prepared, prepared := s.clk.now } else s.ctx d := fun d => by
      rw [hsend, State.ctx_of_ctxs (State.sendData_ctxs ..)]
      exact State.modCtx_ctx ..
    refine ⟨?_, fun d hd => by rw [hctx, if_neg hd.symm], ?_, fun q => ?_, fun v hv => ?_⟩
    · rw [hsend, State.sendData_rest]
      rfl
    · rw [hctx, if_pos rfl]
      exact ⟨rfl, rfl, rfl, rfl⟩
    · have hrows : (s.prepareStep c t).weir.rows = (s.prepareGroup (rowOf c) k).weir.rows := by
        rw [hsend, State.sendData_rest]
        rfl
      rw [State.row_of_rows hrows]
      exact s.setSlot_version ..
    · rw [hctx, if_pos rfl] at hv
      obtain ⟨w, hw, rfl⟩ := List.mem_map.1 hv
      refine ⟨w, hw, ?_⟩
      dsimp only
      split <;> exact ⟨rfl, rfl⟩

theorem State.prepareStep_cmd? (s : State) (c : CtxId) (t : Step) (q : CmdRef) : (s.prepareStep c t).cmd? q = s.cmd? q := by
  cases h : t.slot with
  | none => simp [State.prepareStep, h]
  | some k =>
    obtain ⟨cls, tweak, hsend⟩ := State.prepareStep_of_slot h s c
    rw [hsend, State.cmd?_of_ctxs (State.sendData_ctxs ..), State.cmd?, State.step?_modStep _ _ _ _ (fun _ => by rfl), State.cmd?]
    have hstep : (s.prepareGroup (rowOf c) k).step? q = s.step? q := rfl
    rw [hstep]
    cases s.step? q with
    | none => rfl
    | some v =>
      simp only [Option.map_some, Option.bind_some]
      split <;> rfl

theorem State.Concludes.afterCmd (s : State) (c : CtxId) (uid : Nat) : State.Concludes c s (s.afterCmd c uid) := by
  unfold State.afterCmd
  split
  · exact .refl ..
  · split
    · split
      · exact .prepareStep ..
      · exact .refl ..
    · split
      · extract_lets s1
        have h1 : State.Concludes c s s1 :=
          ⟨rfl, fun d hd => by simp [s1, Ne.symm hd], by simp [s1], fun _ => rfl, fun v hv => by
            simp only [s1, State.modCtx_ctx, if_true, List.mem_filter] at hv
            exact ⟨v, hv.1, rfl, rfl⟩⟩
        clear_value s1
        split
        · exact h1
        · obtain ⟨hrest, hothers, hsame, hrows, hsteps⟩ := h1
          refine ⟨?_, fun d hd => ?_, ?_, fun q => ?_, ?_⟩
          · rw [State.putEntry_rest, hrest]
          · rw [State.putEntry_ctx, if_neg hd.symm, hothers d hd]
          · rw [State.putEntry_ctx, if_pos rfl]
            exact hsame
          · rw [State.row_of_rows (s := s1) (by rw [State.putEntry_weir]), hrows]
          · rw [State.putEntry_ctx, if_pos rfl]
            exact hsteps
      · exact .refl ..
    · exact .refl ..

/-- The command that has ended is still there, unless its step has ended with it. -/
theorem State.afterCmd_cmd? (s : State) (r : CmdRef) :
    (s.afterCmd r.ctx r.step).cmd? r = s.cmd? r ∨ (s.afterCmd r.ctx r.step).step? r = none := by
  have hgone : ∀ x : Ctx, Ctx.step? { x with steps := x.steps.filter fun u => u.uid != r.step } r.step = none := fun x =>
    List.find?_eq_none.2 fun v hv => by simpa using (List.mem_filter.1 hv).2
  unfold State.afterCmd
  split
  · exact .inl rfl
  · split
    · split
      · exact .inl (State.prepareStep_cmd? ..)
      · exact .inl rfl
    · split
      · refine .inr ?_
        unfold State.step?
        dsimp only
        split
        · rw [State.modCtx_ctx, if_pos rfl]
          exact hgone _
        · rw [State.putEntry_ctx, if_pos rfl, State.modCtx_ctx, if_pos rfl]
          exact hgone _
      · exact .inl rfl
    · exact .inl rfl

theorem State.afterCmd_cmd?_of_running {s : State} {r : CmdRef} {t : Step} (ht : s.step? r = some t) (hrun : t.state = .running) :
    (s.afterCmd r.ctx r.step).cmd? r = s.cmd? r := by
  have ht' : (s.ctx r.ctx).step? r.step = some t := ht
  simp only [State.afterCmd, ht', hrun]
  split
  · exact State.prepareStep_cmd? ..
  · rfl

/-! ### A command that is done does not start again -/

/-- Every command that the reference could name is done. -/
def State.Settled (s : State) (r : CmdRef) : Prop :=
  ∀ v ∈ (s.ctx r.ctx).steps, v.uid = r.step → ∀ k, v.cmds[r.idx]? = some k → k.state = .done

theorem State.Settled.modCmd (s : State) (r : CmdRef) (f : Cmd → Cmd) (hf : ∀ k, (f k).state = .done) : (s.modCmd r f).Settled r := by
  intro v hv hu k hk
  have hctx : (s.modCmd r f).ctx r.ctx = (s.ctx r.ctx).modStep r.step fun t => { t with cmds := t.cmds.modify r.idx f } :=
    (State.modCtx_ctx ..).trans (if_pos rfl)
  rw [hctx] at hv
  obtain ⟨w, -, rfl⟩ := List.mem_map.1 hv
  by_cases hw : w.uid == r.step
  · simp only [hw, if_true, List.getElem?_modify_eq] at hk
    obtain ⟨q, -, rfl⟩ := Option.map_eq_some_iff.1 hk
    exact hf q
  · simp only [hw, Bool.false_eq_true, if_false] at hu
    exact absurd (beq_iff_eq.2 hu) hw

theorem State.Settled.concludes {s t : State} {r : CmdRef} (h : s.Settled r) (hc : State.Concludes r.ctx s t) : t.Settled r := by
  intro v hv hu k hk
  obtain ⟨w, hw, huid, hcmds⟩ := hc.steps v hv
  exact h w hw (huid ▸ hu) k (hcmds ▸ hk)

theorem State.Settled.of_ctxs {s t : State} {r : CmdRef} (h : s.Settled r) (hc : t.ctxs = s.ctxs) : t.Settled r := by
  unfold State.Settled
  rw [State.ctx_of_ctxs hc]
  exact h

theorem State.Settled.dispatch {s : State} {r : CmdRef} (h : s.Settled r) : s.dispatch.cmd? r = s.cmd? r :=
  State.dispatch_cmd? fun ch hch e => by
    obtain ⟨v, hv, hu, k, hk, -, hstate, -⟩ := State.mem_ready.1 hch
    rw [e] at hv hu hk
    rw [h v hv hu k hk] at hstate
    simp at hstate

end Sys2Proof.Machine
end

section
/-! PROOFS. Release, slice boundary and overrun of a command (R44, R46, R47, R219, R333). -/

namespace Sys2Proof.Machine

theorem exec_commandRelease (r : CmdRef) (s : State) : exec (.commandRelease r) s = execCommandRelease r s := rfl
theorem exec_timeSliceBoundary (e : Engine) (s : State) : exec (.timeSliceBoundary e) s = execTimeSliceBoundary e s := rfl
theorem exec_overrun (r : CmdRef) (s : State) : exec (.overrun r) s = execOverrun r s := rfl

/-! ### Choices while one command changes -/

theorem State.ready_of_ctxs {s t : State} (h : t.ctxs = s.ctxs) : t.ready = s.ready := by
  unfold State.ready
  simp only [State.ctx_of_ctxs h]

/-- The choices of other commands do not depend on what a command is doing. -/
theorem State.mem_ready_modCmd {s : State} (hn : s.Numbered) {r : CmdRef} {f : Cmd → Cmd} {ch : Choice} (h : ch.ref ≠ r) :
    ch ∈ (s.modCmd r f).ready ↔ ch ∈ s.ready := by
  rw [State.mem_ready_iff hn, State.mem_ready_iff (hn.of_still (State.modCmd_still ..)), State.modCmd_cmd?_other _ h, State.step?_modCmd]
  have hdl : ∀ (v : Step) (k : Cmd), Step.deadline (if r.ctx = ch.ref.ctx ∧ v.uid = r.step then { v with cmds := v.cmds.modify r.idx f }
      else v) k = v.deadline k := fun v k => by split <;> rfl
  constructor
  · rintro ⟨t, k, ht, hk, hwait, hstate, hd⟩
    obtain ⟨v, hv, rfl⟩ := Option.map_eq_some_iff.1 ht
    exact ⟨v, k, hv, hk, hwait, hstate, hd.trans (hdl v k)⟩
  · rintro ⟨t, k, ht, hk, hwait, hstate, hd⟩
    exact ⟨_, k, Option.map_eq_some_iff.2 ⟨t, ht, rfl⟩, hk, hwait, hstate, hd.trans (hdl t k).symm⟩

/-- A choice of the command itself has its deadline. -/
theorem State.dl_of_mem_ready {s : State} (hn : s.Numbered) {ch : Choice} (h : ch ∈ s.ready) {t : Step} {k : Cmd}
    (ht : s.step? ch.ref = some t) (hk : s.cmd? ch.ref = some k) : ch.dl = t.deadline k := by
  obtain ⟨v, q, hv, hq, -, -, hd⟩ := (State.mem_ready_iff hn).1 h
  rw [hd, Option.some.inj (hv.symm.trans ht), Option.some.inj (hq.symm.trans hk)]

/-! ### Release -/

/-- A command in another state, and a command suspended at an instant (R46). -/
def Cmd.inState (k : Cmd) (st : CmdState) : Cmd := { k with state := st }
def Cmd.suspendedAt (k : Cmd) (now : Ns) : Cmd := { k with state := .suspended, ran := k.runTime now }

theorem execCommandRelease_of_due {s : State} {r : CmdRef} {t : Step} {k : Cmd} (hu : s.up = true) (ht : s.step? r = some t)
    (hk : s.cmd? r = some k) (hrun : t.state = .running) (hafter : k.afterCommit = false) (hwait : k.state = .waiting)
    (hdue : t.release k ≤ s.clk.now) : execCommandRelease r s = .next
      (if k.entry.cond && t.condFlag then ((s.modCmd r fun k => k.inState .done).afterCmd r.ctx r.step).dispatch
       else (s.modCmd r fun k => k.inState .ready).dispatch) := by
  simp [execCommandRelease, State.whenUp_of_up hu, ht, hk, hrun, hafter, hwait, hdue, Cmd.inState]

theorem execOverrun_of_over {s : State} {r : CmdRef} {k : Cmd} (hu : s.up = true) (hk : s.cmd? r = some k) (hrun : k.state = .running)
    (hover : k.wPrime ≤ k.runTime s.clk.now) : execOverrun r s = .next (s.faultCmd r .overrun) := by
  simp [execOverrun, State.whenUp_of_up hu, hk, hrun, hover]

theorem execTimeSliceBoundary_of_due {s : State} {r : CmdRef} {t : Step} {k : Cmd} (hu : s.up = true) (ht : s.step? r = some t) {e : Engine}
    (hrun : s.running? e = some (r, k)) (hslice : k.since + Config.slice ≤ s.clk.now)
    (hmod : (s.clk.now - k.since) % Config.slice = 0) (hearlier : s.earlierReady r e (t.deadline k) = true) :
    execTimeSliceBoundary e s = .next (s.suspendCmd r k).dispatch := by
  simp only [execTimeSliceBoundary, State.whenUp_of_up hu, hrun, ht, hslice, hmod, hearlier, and_self, if_true]

/-- A COND command that finds its flag set is done, and what follows a command's end follows (R219). -/
theorem State.condDone_leaves {s : State} {r : CmdRef} {t : Step} {k : Cmd} (ht : s.step? r = some t) (hk : s.cmd? r = some k)
    (hrun : t.state = .running) :
    let u := ((s.modCmd r fun k => k.inState .done).afterCmd r.ctx r.step).dispatch
    (u.cmd? r).map (·.state) = some .done ∧ u.mem = s.mem ∧ u.weir.groups = s.weir.groups
      ∧ (∀ d, d ≠ r.ctx → (u.ctx d).still = (s.ctx d).still) ∧ u.cfg = s.cfg ∧ u.own = s.own := by
  have hv := State.step?_modCmd_self ht fun k => k.inState .done
  have hsettled : (s.modCmd r fun k => k.inState .done).Settled r := .modCmd s r _ fun _ => by rfl
  have hcmd : (s.modCmd r fun k => k.inState .done).cmd? r = some (k.inState .done) := by
    rw [State.modCmd_cmd?_self, hk]
    rfl
  obtain ⟨-, -, -, hctx⟩ := State.parts_of_still (State.modCmd_still s r fun k => k.inState .done)
  have hparts : (s.modCmd r fun k => k.inState .done).mem = s.mem
    ∧ (s.modCmd r fun k => k.inState .done).weir.groups = s.weir.groups
    ∧ (s.modCmd r fun k => k.inState .done).cfg = s.cfg ∧ (s.modCmd r fun k => k.inState .done).own = s.own :=
    ⟨rfl, rfl, rfl, rfl⟩
  generalize (s.modCmd r fun k => k.inState .done) = u0 at *
  have hc := State.Concludes.afterCmd u0 r.ctx r.step
  obtain ⟨hmem, hgroups, hcfg, hown⟩ := hparts
  refine ⟨?_, ?_, ?_, fun d hd => ?_, ?_, ?_⟩
  · rw [(hsettled.concludes hc).dispatch, State.afterCmd_cmd?_of_running hv hrun, hcmd]
    rfl
  · rw [State.dispatch_mem, hc.rest, hmem]
  · rw [State.dispatch_weir, hc.rest, hgroups]
  · rw [State.dispatch_ctx, hc.others d hd, hctx]
  · rw [State.dispatch_cfg, hc.rest, hcfg]
  · rw [State.dispatch_own, hc.rest, hown]

section
variable {s : State} {r : CmdRef} {k : Cmd} (hn : s.Numbered) (hk : s.cmd? r = some k)
include hn hk

/-- A command that is ready waits while another one runs on its engine. -/
theorem State.released_waits (hne : k.state ≠ .running) (hbusy : (s.running? k.entry.engine).isSome = true) :
    ((s.modCmd r fun k => k.inState .ready).dispatch.cmd? r).map (·.state) = some .ready := by
  have hcmd : (s.modCmd r fun k => k.inState .ready).cmd? r = some (k.inState .ready) := by
    rw [State.modCmd_cmd?_self, hk]
    rfl
  obtain ⟨q, v, hv, he, hrun⟩ := (State.running?_isSome_iff hn).1 hbusy
  have hq : q ≠ r := fun e => hne (by rw [e, hk] at hv; exact Option.some.inj hv ▸ hrun)
  have hclosed : (s.modCmd r fun k => k.inState .ready).Closed k.entry.engine :=
    .inl ⟨q, v, (State.modCmd_cmd?_other s hq _).trans hv, he, hrun⟩
  rw [State.dispatch_eq, State.takeChoices_of_closed _ (hn.of_still (State.modCmd_still ..)) hcmd hclosed]
  rfl

/-- It runs at once where its engine is idle and open, and nothing else waits for it (R333). -/
theorem State.released_runs (hwait : k.waitSince = none) (hidle : (s.running? k.entry.engine).isNone = true)
    (he : engineKind k.entry.engine ≠ 5) (hopen : s.engineBlocked k.entry.engine = false)
    (halone : ∀ ch ∈ s.ready, ∀ q, s.cmd? ch.ref = some q → q.entry.engine ≠ k.entry.engine) :
    ((s.modCmd r fun k => k.inState .ready).dispatch.cmd? r).map (·.state) = some .running := by
  have hn' : (s.modCmd r fun k => k.inState .ready).Numbered := hn.of_still (State.modCmd_still ..)
  have hcmd : (s.modCmd r fun k => k.inState .ready).cmd? r = some (k.inState .ready) := by
    rw [State.modCmd_cmd?_self, hk]
    rfl
  have hmem : ∃ ch ∈ (s.modCmd r fun k => k.inState .ready).ready, ch.ref = r := by
    obtain ⟨v, hv⟩ := State.step?_of_cmd? hcmd
    exact ⟨⟨r, v.deadline (k.inState .ready)⟩, (State.mem_ready_iff hn').2 ⟨v, _, hv, hcmd, hwait, .inl rfl, rfl⟩, rfl⟩
  rw [State.dispatch_eq]
  refine State.takeChoices_of_alone _ hmem hn' hcmd he (fun hclosed => ?_) fun ch hch hr => ?_
  · obtain ⟨q, v, hv, heng, hrun⟩ | hblocked := hclosed
    · by_cases hq : q = r
      · rw [hq, hcmd] at hv
        rw [← Option.some.inj hv] at hrun
        cases hrun
      · have hsome : (s.running? k.entry.engine).isSome = true := (State.running?_isSome_iff hn).2
          ⟨q, v, (State.modCmd_cmd?_other s hq _).symm.trans hv, heng, hrun⟩
        rw [← Option.not_isNone, hidle] at hsome
        cases hsome
    · exact Bool.false_ne_true (hopen.symm.trans hblocked)
  · rw [State.modCmd_cmd?_other _ hr]
    intro heng
    obtain ⟨q, hq, hqe⟩ := Option.map_eq_some_iff.1 heng
    exact halone ch ((State.mem_ready_modCmd hn hr).1 hch) q hq hqe

/-! ### Slices -/

/-- A suspended command keeps the time it has run, and its engine goes to the earlier one. -/
theorem State.suspended_yields {t : Step} (ht : s.step? r = some t) {e : Engine} (hrun : s.running? e = some (r, k))
    (hearlier : s.earlierReady r e (t.deadline k) = true) (he : engineKind e ≠ 5) :
    ((s.suspendCmd r k).dispatch.cmd? r).map (fun q => (q.state, q.ran)) = some (.suspended, k.runTime s.clk.now) := by
  obtain rfl : k.entry.engine = e := by
    have := List.find?_some hrun
    simp only [Bool.and_eq_true, beq_iff_eq] at this
    exact this.1
  have hn' : (s.suspendCmd r k).Numbered := hn.of_still ((State.trace_still ..).trans (State.modCmd_still ..))
  have hctxs : (s.suspendCmd r k).ctxs = (s.modCmd r fun k => k.suspendedAt s.clk.now).ctxs :=
    State.trace_ctxs ..
  have hcmd : (s.suspendCmd r k).cmd? r = some (k.suspendedAt s.clk.now) := by
    rw [State.cmd?_of_ctxs hctxs, State.modCmd_cmd?_self, hk]
    rfl
  have hv : (s.suspendCmd r k).step? r
      = some { t with cmds := t.cmds.modify r.idx fun k => k.suspendedAt s.clk.now } := by
    rw [State.step?_of_ctxs hctxs, State.step?_modCmd_self ht]
  obtain ⟨ch0, hch0, hmore⟩ := List.any_eq_true.1 hearlier
  simp only [Bool.and_eq_true, bne_iff_ne, decide_eq_true_eq] at hmore
  obtain ⟨⟨hctx, hdl⟩, heng⟩ := hmore
  have hne : ch0.ref ≠ r := fun h => hctx (congrArg (·.ctx) h)
  rw [State.dispatch_eq, State.takeChoices_of_earlier (ch0 := ch0) _ (State.ready_pairwise _) ?mem ?dl hn' hcmd ?engine he]
  · rfl
  case mem =>
    rw [State.ready_of_ctxs hctxs]
    exact (State.mem_ready_modCmd hn hne).2 hch0
  case dl =>
    intro ch hch hr
    rw [State.dl_of_mem_ready hn' hch ((congrArg _ hr).trans hv) ((congrArg _ hr).trans hcmd)]
    exact hdl
  case engine =>
    rw [State.cmd?_of_ctxs hctxs, State.modCmd_cmd?_other _ hne]
    cases hq : s.cmd? ch0.ref with
    | none => simp [hq] at heng
    | some q => simpa [hq, Cmd.suspendedAt] using heng

end

/-- Settles O45: a release ends in one of two branches; a choice among ready commands takes each engine's first; an overrun is a fault. -/
theorem enginesTakeCommands : Obligations.EnginesTakeCommands := by
  simp only [Obligations.EnginesTakeCommands, exec_commandRelease, exec_timeSliceBoundary, exec_overrun]
  intro s r t k hu hn ht hk
  refine ⟨fun hrun hafter hw hwait hdue => ⟨fun hcond hflag => ?done, fun hcond => ?ready⟩,
    fun e hrun hslice hmod hearlier => ?slice, fun hrun hover hlive => ?overrun⟩
  case done =>
    have hgo := execCommandRelease_of_due hu ht hk hrun hafter hw hdue
    rw [if_pos (by simp [hcond, hflag])] at hgo
    exact ⟨_, hgo, State.condDone_leaves ht hk hrun⟩
  case ready =>
    have hgo := execCommandRelease_of_due hu ht hk hrun hafter hw hdue
    rw [if_neg (by simp [hcond])] at hgo
    have hstill := (State.dispatch_still (s.modCmd r fun k => k.inState .ready)).trans (State.modCmd_still ..)
    obtain ⟨hmem, hweir, hcfg, hctx⟩ := State.parts_of_still hstill
    have hne : k.state ≠ .running := by simp [hw]
    exact ⟨_, hgo, hmem, hweir, congrArg (·.slu) hstill, congrArg (·.intg) hstill, hctx, hcfg, congrArg (·.own) hstill,
      fun hbusy _ => State.released_waits hn hk hne hbusy,
      fun hidle he hopen halone => State.released_runs hn hk hwait hidle he hopen halone⟩
  case slice =>
    have hstill : (s.suspendCmd r k).dispatch.still = s.still :=
      (State.dispatch_still _).trans ((State.trace_still ..).trans (State.modCmd_still ..))
    obtain ⟨hmem, hweir, hcfg, hctx⟩ := State.parts_of_still hstill
    exact ⟨_, execTimeSliceBoundary_of_due hu ht hrun hslice hmod hearlier, hmem, hweir, congrArg (·.slu) hstill, hctx, hcfg,
      congrArg (·.own) hstill, fun he => State.suspended_yields hn hk ht hrun hearlier he⟩
  case overrun =>
    exact ⟨_, execOverrun_of_over hu hk hrun hover, State.EndsStep.faultCmd ht hlive .overrun⟩

end Sys2Proof.Machine
end

section
/-! PROOFS. What a command's writes can reach, and what its completion leaves (R46, R170, R191, R194, R241, R254). -/

namespace Sys2Proof.Machine

theorem exec_matrixCommandComplete (r : CmdRef) (s : State) :
    exec (.matrixCommandComplete r) s = execMatrixCommandComplete r s := rfl
theorem exec_vectorCommandComplete (r : CmdRef) (s : State) :
    exec (.vectorCommandComplete r) s = execVectorCommandComplete r s := rfl
theorem exec_updateCommandComplete (r : CmdRef) (s : State) :
    exec (.updateCommandComplete r) s = execUpdateCommandComplete r s := rfl
theorem exec_dmaCommandComplete (r : CmdRef) (host : List Byte) (s : State) :
    exec (.dmaCommandComplete r host) s = execDmaCommandComplete r host s := rfl
theorem exec_collectiveCommandComplete (r : CmdRef) (s : State) :
    exec (.collectiveCommandComplete r) s = execCollectiveCommandComplete r s := rfl

/-! ### Writes -/

/-- The state without what a command's writes reach: memory, page copies and their conflicts, HBM, the DMA counts and the outputs. -/
def State.dry (s : State) : State :=
  { s with mem := State.reset.mem, weir := { s.weir with groups := [], conflicts := 0#32 }, hbm := Hbm.reset, dma := Dma.reset, out := [] }

@[simp] theorem State.modGroup_dry (s : State) (r : Fin 17) (k : Fin 8) (f : Group → Group) : (s.modGroup r k f).dry = s.dry := rfl
@[simp] theorem State.putCopy_dry (s : State) (c : CtxId) (k : Fin 8) (a : Nat) (bs : List Byte) : (s.putCopy c k a bs).dry = s.dry := rfl

@[simp] theorem State.inlineFold_dry (s : State) (r : Fin 17) (page : Nat) : (s.inlineFold r page).dry = s.dry := by
  unfold State.inlineFold
  (repeat' split) <;> rfl

@[simp] theorem State.shadowFor_dry (s : State) (c : CtxId) (k : Fin 8) (exts : List (Nat × Nat)) (page : Nat) :
    (s.shadowFor c k exts page).1.dry = s.dry := by
  unfold State.shadowFor
  extract_lets r
  split
  · rfl
  · split
    · rfl
    · split
      · rfl
      · split
        · rfl
        · extract_lets frame s1 fresh g'
          have h1 : s1.dry = s.dry := by
            unfold s1
            split
            · exact State.keeps_foldl State.dry _ (fun _ _ => State.inlineFold_dry ..) _ _
            · exact State.inlineFold_dry ..
          split
          · rfl
          · exact (State.modGroup_dry ..).trans h1

@[simp] theorem State.writePart_dry (s : State) (c : CtxId) (k : Fin 8) (exts : List (Nat × Nat)) (part : Nat × List Byte) :
    (s.writePart c k exts part).1.dry = s.dry := by
  unfold State.writePart
  dsimp only
  split
  · split <;> rfl
  · split
    · split
      · exact State.shadowFor_dry ..
      · exact (State.putCopy_dry ..).trans (State.shadowFor_dry ..)
    · rfl
    · rfl
    · rfl

@[simp] theorem State.writeParts_dry (c : CtxId) (k : Fin 8) (exts ws) (s : State) : (State.writeParts c k exts ws s).1.dry = s.dry := by
  induction ws generalizing s with
  | nil => rfl
  | cons w ws ih =>
    unfold State.writeParts
    dsimp only
    split
    · exact State.writePart_dry ..
    · exact (ih _).trans (State.writePart_dry ..)

@[simp] theorem State.replayPart_dry (s : State) (c : CtxId) (w : Nat × List Byte) : (s.replayPart c w).1.dry = s.dry := by
  unfold State.replayPart
  dsimp only
  (repeat' split) <;> rfl

@[simp] theorem State.replayParts_dry (c : CtxId) (ws : List (Nat × List Byte)) (s : State) : (State.replayParts c ws s).1.dry = s.dry := by
  induction ws generalizing s with
  | nil => rfl
  | cons w ws ih =>
    unfold State.replayParts
    dsimp only
    split
    · exact State.replayPart_dry ..
    · exact (ih _).trans (State.replayPart_dry ..)

@[simp] theorem State.cmdPut_dry (s : State) (c : CtxId) (t : Step) (ws : List (Nat × List Byte)) : (s.cmdPut c t ws).1.dry = s.dry := by
  unfold State.cmdPut
  split
  · exact State.replayParts_dry ..
  · split
    · exact State.writeParts_dry ..
    · split <;> rfl

@[simp] theorem State.injectWrite_dry (s : State) (exts : List (Nat × Nat)) : (s.injectWrite exts).dry = s.dry := by
  unfold State.injectWrite
  dsimp only
  split
  · rfl
  · split <;> rfl

@[simp] theorem State.cmdWrite_dry (s : State) (c : CtxId) (t : Step) (ws : List (Nat × List Byte)) : (s.cmdWrite c t ws).1.dry = s.dry :=
  (State.injectWrite_dry ..).trans (State.cmdPut_dry ..)

@[simp] theorem State.countBursts_dry (j : DmaJob) (ns : List Nat) (pos : Nat) (s : State) : (s.countBursts j ns pos).dry = s.dry := by
  induction ns generalizing s pos with
  | nil => rfl
  | cons n ns ih => exact ih ..

@[simp] theorem State.dmaMove_dry (s : State) (c : CtxId) (t : Step) (j : DmaJob) (host : List Byte) (pos n : Nat) :
    (s.dmaMove c t j host pos n).1.dry = s.dry := by
  unfold State.dmaMove
  dsimp only
  split
  · rfl
  · split
    · exact State.cmdWrite_dry ..
    · rfl
    · rfl

@[simp] theorem State.dmaHash_dry (s : State) (c : CtxId) (t : Step) (j : DmaJob) (host : List Byte) :
    (s.dmaHash c t j host).1.dry = s.dry := by
  unfold State.dmaHash
  split
  · exact State.cmdWrite_dry ..
  · rfl

/-! ### What a command performs -/

/-- Command `r` has performed its writes between two states: memory and page copies, its own progress, flows and outputs may differ. -/
structure State.Performs (r : CmdRef) (s w : State) : Prop where
  dry    : w.dry.still = s.dry.still
  alters : State.Alters r s w

theorem State.Performs.of_dry {r : CmdRef} {s w : State} (h : w.dry = s.dry) : State.Performs r s w :=
  ⟨congrArg State.still h, .of_ctxs (congrArg (·.ctxs) h)⟩

theorem State.Performs.trans {r : CmdRef} {s t u : State} (a : State.Performs r s t) (b : State.Performs r t u) :
    State.Performs r s u := ⟨b.dry.trans a.dry, a.alters.trans b.alters⟩

theorem State.Performs.modCmd (s : State) (r : CmdRef) (f : Cmd → Cmd) (hf : ∀ k, (f k).entry = k.entry) :
    State.Performs r s (s.modCmd r f) := ⟨s.dry.modCmd_still r f, .modCmd s r f hf⟩

theorem State.Performs.sendData (r : CmdRef) (s : State) (c : CtxId) (peer : Nat) (f : Fin 8) (cls : Nat) (tweak : OxtPkt → OxtPkt) :
    State.Performs r s (s.sendData c peer f cls tweak) := by
  refine ⟨?_, .of_ctxs (State.sendData_ctxs ..)⟩
  rw [State.sendData_rest]
  rfl

theorem State.Performs.returnCredit (s : State) (r : CmdRef) (t : Step) (j : CollJob) : State.Performs r s (s.returnCredit r t j) := by
  unfold State.returnCredit
  exact .sendData ..

theorem dmaEffect_performs (host : List Byte) (r : CmdRef) (s : State) (t : Step) (k : Cmd) :
    State.Performs r s (dmaEffect host r s t k).1 := by
  refine .of_dry ?_
  unfold dmaEffect
  split
  · rfl
  · extract_lets n m s1
    have hm : m.1.dry = s.dry := by
      unfold m
      split
      · rfl
      · exact State.dmaMove_dry ..
    clear_value m
    split
    · exact hm
    · refine (State.dmaHash_dry ..).trans ?_
      unfold s1
      split
      · exact hm
      · exact (State.countBursts_dry ..).trans hm

theorem collEffect_performs (r : CmdRef) (s : State) (t : Step) (k : Cmd) : State.Performs r s (collEffect r s t k).1 := by
  unfold collEffect
  split
  · exact .of_dry rfl
  next j hj =>
  split
  · exact .of_dry rfl
  split
  · exact .of_dry rfl
  split
  · exact .of_dry rfl
  dsimp only
  split
  · exact .of_dry rfl
  next w hw =>
  have h1 := (State.Performs.of_dry (r := r) (State.cmdWrite_dry s r.ctx t w.1)).trans
    (.modCmd _ r (fun k => { k with saturated := w.2, dropped := dropCounts (j.routed (s.cmdView r.ctx t)) }) fun _ => by rfl)
  split
  · exact h1.trans (.returnCredit ..)
  · exact h1

theorem vectorEffect_performs (r : CmdRef) (s : State) (t : Step) (k : Cmd) : State.Performs r s (vectorEffect r s t k).1 := by
  unfold vectorEffect
  split
  · exact .of_dry rfl
  · exact (State.Performs.of_dry (State.cmdWrite_dry ..)).trans (.modCmd _ r _ fun _ => by rfl)

/-! ### What a completion leaves -/

theorem State.uids_of_still {s t : State} (h : t.still = s.still) (d : CtxId) :
    (t.ctx d).steps.map (·.uid) = (s.ctx d).steps.map (·.uid) := by
  have hctx := congrArg (fun x : Ctx => x.steps.map (·.uid)) ((State.parts_of_still h).2.2.2 d)
  simpa [Ctx.still, Step.still, Function.comp_def] using hctx

theorem State.step?_eq_none {s : State} {q : CmdRef} : s.step? q = none ↔ q.step ∉ (s.ctx q.ctx).steps.map (·.uid) := by
  simp [State.step?, Ctx.step?, List.find?_eq_none]

/-- A command as its completion leaves it (R46). -/
def Cmd.finished (k : Cmd) (now : Ns) : Cmd :=
  { k with state := .done, ran := k.runTime now, waitSince := none, staged := k.staged.filter fun x => decide (8 ≤ x.phase) }

theorem State.finishCmd_parts {s : State} {r : CmdRef} {k : Cmd} (hk : s.cmd? r = some k) : ∃ (tel : Tel) (rcv : Rcv),
    s.finishCmd r = (State.afterCmd { s.modCmd r (·.finished s.clk.now) with tel := tel, rcv := rcv } r.ctx r.step).dispatch := by
  unfold State.finishCmd
  simp only [State.modCmd_cmd?_self, hk, Option.map_some]
  rw [State.trace_rest]
  exact ⟨_, _, rfl⟩

theorem State.Performs.completes {s w : State} {r : CmdRef} (h : State.Performs r s w) (hk : (s.cmd? r).isSome = true) :
    s.Completes w (w.finishCmd r) r := by
  obtain ⟨k, hk'⟩ : ∃ k, w.cmd? r = some k := by
    have hentry := congrArg Option.isSome h.alters.entry
    rw [Option.isSome_map, Option.isSome_map, hk] at hentry
    exact Option.isSome_iff_exists.1 hentry
  obtain ⟨tel, rcv, hfinish⟩ := State.finishCmd_parts hk'
  rw [hfinish]
  generalize hu : ({ w.modCmd r (·.finished w.clk.now) with tel := tel, rcv := rcv } : State) = u
  have hset : u.Settled r := by
    rw [← hu]
    exact (State.Settled.modCmd w r _ fun _ => rfl).of_ctxs rfl
  have hcmd : (u.cmd? r).map (·.state) = some .done := by
    have hctxs : u.ctxs = (w.modCmd r (·.finished w.clk.now)).ctxs := by rw [← hu]
    rw [State.cmd?_of_ctxs hctxs, State.modCmd_cmd?_self, hk']
    rfl
  have hstill : ∀ d, (u.ctx d).still = (s.ctx d).still := fun d => by
    have hmod := (State.parts_of_still (State.modCmd_still w r (·.finished w.clk.now))).2.2.2 d
    rw [← hu]
    exact hmod.trans ((State.parts_of_still h.dry).2.2.2 d)
  have hc := State.Concludes.afterCmd u r.ctx r.step
  refine ⟨?_, ?_, ?_, fun d hd => ?_, ?_, fun c => ?_, ?_⟩
  · obtain hsame | hnone := u.afterCmd_cmd? r
    · exact .inl (by rw [(hset.concludes hc).dispatch, hsame, hcmd])
    · refine .inr (State.step?_eq_none.2 ?_)
      rw [State.uids_of_still (State.dispatch_still _)]
      exact State.step?_eq_none.1 hnone
  · rw [State.dispatch_mem, hc.rest, ← hu]
    rfl
  · rw [State.dispatch_weir, hc.rest, ← hu]
    rfl
  · rw [State.dispatch_ctx, hc.others d hd, hstill]
  · obtain ⟨hstate, halloc, hgen, hjob⟩ := hc.same
    have hx := hstill r.ctx
    simp only [State.dispatch_ctx_state, State.dispatch_ctx_alloc, State.dispatch_ctx_regs, State.dispatch_ctx_job, hstate, halloc, hgen,
      hjob]
    exact ⟨congrArg (·.state) hx, congrArg (·.alloc) hx, congrArg (·.regs.gen) hx, congrArg (·.job) hx⟩
  · have hrows : u.weir.rows = s.weir.rows := by
      rw [← hu]
      exact congrArg (·.weir.rows) h.dry
    rw [State.row_of_rows (s := u.afterCmd r.ctx r.step) (by rw [State.dispatch_weir]), hc.rows, State.row_of_rows hrows]
  · simp only [State.dispatch_cfg, State.dispatch_own, State.dispatch_fuse, State.dispatch_clk, State.dispatch_sec, State.dispatch_boot,
      State.dispatch_pwr, State.dispatch_recv, State.dispatch_flash, State.dispatch_hw]
    rw [hc.rest, ← hu]
    exact ⟨congrArg (·.cfg) h.dry, congrArg (·.own) h.dry, congrArg (·.fuse) h.dry, congrArg (·.clk) h.dry, congrArg (·.sec) h.dry,
      congrArg (·.boot) h.dry, congrArg (·.pwr) h.dry, congrArg (·.recv) h.dry, congrArg (·.flash) h.dry, congrArg (·.hw) h.dry⟩

/-- A command that may end and whose effect finds no fault completes. -/
theorem State.completeCmd_of_done {s : State} {r : CmdRef} {t : Step} {k : Cmd} {kind : Nat} {minTime : State → Step → Cmd → Ns}
    {eff : Effect} {e : State × Option Reason} (hup : s.up = true) (ht : s.step? r = some t) (hk : s.cmd? r = some k)
    (hkind : engineKind k.entry.engine = kind)
    (hmay : k.mayEnd s.clk.now (minTime s t k) = true) (heff : eff s t k = e) (hdone : e.2 = none) :
    s.completeCmd r kind minTime eff = e.1.finishCmd r := by
  simp only [State.completeCmd, ht, hk, hup, hkind, hmay, heff, hdone, and_self, if_true]

theorem State.endCore_of_sound {s : State} {r : CmdRef} (h : s.injected r = none) (f : State → CmdRef → State) : s.endCore r f = f s r := by
  simp only [State.endCore, h]

theorem matrixEffect_of_job {s : State} {c : CtxId} {t : Step} {k : Cmd} {j : MatJob} {m : Mode} (hj : s.matJob c t k = some j)
    (hm : j.mode = some m) :
    matrixEffect c s t k = s.cmdWrite c t (j.writes (s.cmdView c t) m (coreOf k.entry.engine) k.entry.arrays) := by
  unfold matrixEffect
  rw [hj]
  dsimp only
  rw [hm]

theorem vectorEffect_of_job {s : State} {r : CmdRef} {t : Step} {k : Cmd} {j : VecJob} (hj : s.vecJob r.ctx t k = some j) :
    vectorEffect r s t k = ((s.cmdWrite r.ctx t (j.writes (s.cmdView r.ctx t)).1).1.modCmd r
      fun q => { q with saturated := (j.writes (s.cmdView r.ctx t)).2 }, (s.cmdWrite r.ctx t (j.writes (s.cmdView r.ctx t)).1).2) := by
  unfold vectorEffect
  rw [hj]

theorem updateEffect_of_job {s : State} {c : CtxId} {t : Step} {k : Cmd} {j : UpdJob} (hj : s.updJob c t k = some j)
    (hfinite : j.nonFinite (s.cmdView c t) (k.gscale.getD fp32One) = false) :
    updateEffect c s t k = s.cmdWrite c t (j.writes (s.cmdView c t) (k.gscale.getD fp32One)) := by
  unfold updateEffect
  rw [hj]
  dsimp only
  rw [hfinite]
  rfl

/-- A completion is about memory and page copies as the writes left them. -/
theorem State.Completes.congr {s w x t : State} {r : CmdRef} (h : s.Completes w t r) (hmem : w.mem = x.mem)
    (hgroups : w.weir.groups = x.weir.groups) : s.Completes x t r :=
  { h with mem := h.mem.trans hmem, groups := h.groups.trans hgroups }

/-- Settles O46: an effect reaches memory, page copies, HBM, DMA counts, its own progress and outputs only, and the end of a command adds
nothing to them; so each engine's completion is its effect and then the end. -/
theorem commandsComplete : Obligations.CommandsComplete := by
  intro s r t k hup ht hk v
  have hsome : (s.cmd? r).isSome = true := by rw [hk]; rfl
  refine ⟨?matrix, ?vector, ?update, ?dma, ?collective⟩
  case matrix =>
    intro n j m he hinj hj hm hmay w hw
    have hdone : s.matrixComplete r = w.1.finishCmd r :=
      State.completeCmd_of_done hup ht hk (congrArg engineKind he) hmay (matrixEffect_of_job hj hm) hw
    have hrun : exec (.matrixCommandComplete r) s = .next (w.1.finishCmd r) := by
      rw [exec_matrixCommandComplete, execMatrixCommandComplete, State.endCore_of_sound hinj, hdone]
    have hperforms : State.Performs r s w.1 := .of_dry (State.cmdWrite_dry s r.ctx t _)
    exact ⟨_, hrun, hperforms.completes hsome⟩
  case vector =>
    intro n j he hinj hj hmay w hw
    have heff := vectorEffect_of_job hj
    have hdone : s.vectorComplete r = (vectorEffect r s t k).1.finishCmd r :=
      State.completeCmd_of_done hup ht hk (congrArg engineKind he) hmay rfl (by rw [heff]; exact hw)
    have hrun : exec (.vectorCommandComplete r) s = .next ((vectorEffect r s t k).1.finishCmd r) := by
      rw [exec_vectorCommandComplete, execVectorCommandComplete, State.endCore_of_sound hinj, hdone]
    have hmem : (vectorEffect r s t k).1.mem = w.1.mem := congrArg (·.1.mem) heff
    have hgroups : (vectorEffect r s t k).1.weir.groups = w.1.weir.groups := congrArg (·.1.weir.groups) heff
    exact ⟨_, hrun, ((vectorEffect_performs r s t k).completes hsome).congr hmem hgroups⟩
  case update =>
    intro n j he hj hnf hmay w hw
    have hrun : execUpdateCommandComplete r s = .next (w.1.finishCmd r) := congrArg _
      (State.completeCmd_of_done (minTime := fun s t k => updateMinTime s r.ctx t k) hup ht hk (congrArg engineKind he) hmay
        (updateEffect_of_job hj hnf) hw)
    have hperforms : State.Performs r s w.1 := .of_dry (State.cmdWrite_dry s r.ctx t _)
    exact ⟨_, (exec_updateCommandComplete r s).trans hrun, hperforms.completes hsome⟩
  case dma =>
    intro host he hpaced hmay w hw
    have hrun : execDmaCommandComplete r host s = .next (w.1.finishCmd r) := by
      rw [execDmaCommandComplete, if_pos hpaced]
      exact congrArg _ (State.completeCmd_of_done hup ht hk he hmay rfl hw)
    exact ⟨_, (exec_dmaCommandComplete r host s).trans hrun, (dmaEffect_performs host r s t k).completes hsome⟩
  case collective =>
    intro he hdone hmay w hw
    have hrun : execCollectiveCommandComplete r s = .next (w.1.finishCmd r) := by
      rw [execCollectiveCommandComplete, if_pos hdone]
      exact congrArg _ (State.completeCmd_of_done hup ht hk he hmay rfl hw)
    exact ⟨_, (exec_collectiveCommandComplete r s).trans hrun, (collEffect_performs r s t k).completes hsome⟩

end Sys2Proof.Machine
end

section
/-! PROOFS. What stays beside a context that commits, and the row that its commit writes (R202, R302 to R307). -/

namespace Sys2Proof.Machine

theorem exec_commit (c : CtxId) (uid : Nat) (s : State) : exec (.commit c uid) s = execCommit c uid s := rfl

/-! ### Beside a context -/

/-- The parts of the device that a step's start and its commit leave. -/
def State.fixed (s : State) : Cfg × Own × Fuse × Clk × Sec × Boot × Pwr × Flash × Hw :=
  (s.cfg, s.own, s.fuse, s.clk, s.sec, s.boot, s.pwr, s.flash, s.hw)

theorem State.outer_fixed (s : State) : s.outer.fixed = s.fixed := rfl
theorem State.still_fixed (s : State) : s.still.fixed = s.fixed := rfl

theorem State.fixed_of_outer {s t : State} (h : t.outer = s.outer) : t.fixed = s.fixed := by
  rw [← State.outer_fixed t, h, State.outer_fixed]

theorem State.fixed_of_still {s t : State} (h : t.still = s.still) : t.fixed = s.fixed := by
  rw [← State.still_fixed t, h, State.still_fixed]

/-- Between two states only context `c` and what contexts share has changed: every row, every other context and the fixed parts stand. -/
structure State.Inside (c : CtxId) (s t : State) : Prop where
  rows  : ∀ q, t.row q = s.row q
  ctxs  : ∀ d : CtxId, d ≠ c → (t.ctx d).still = (s.ctx d).still
  fixed : t.fixed = s.fixed

theorem State.Inside.refl (c : CtxId) (s : State) : State.Inside c s s := ⟨fun _ => rfl, fun _ _ => rfl, rfl⟩

theorem State.Inside.trans {c : CtxId} {s t u : State} (a : State.Inside c s t) (b : State.Inside c t u) : State.Inside c s u :=
  ⟨fun q => (b.rows q).trans (a.rows q), fun d hd => (b.ctxs d hd).trans (a.ctxs d hd), b.fixed.trans a.fixed⟩

theorem State.Inside.foldl {α : Type} {c : CtxId} (f : State → α → State) (h : ∀ u a, State.Inside c u (f u a)) (l : List α) (s : State) :
    State.Inside c s (l.foldl f s) := by
  induction l generalizing s with
  | nil => exact .refl ..
  | cons a l ih => exact (h s a).trans (ih _)

theorem State.Inside.modCtx (c : CtxId) (s : State) (f : Ctx → Ctx) : State.Inside c s (s.modCtx c f) :=
  ⟨fun _ => rfl, fun d hd => by rw [State.modCtx_ctx, if_neg hd.symm], rfl⟩

theorem State.Inside.of_ctxs {c : CtxId} {s t : State} (hctxs : t.ctxs = s.ctxs) (hrows : t.weir.rows = s.weir.rows)
    (hfixed : t.fixed = s.fixed) : State.Inside c s t :=
  ⟨State.row_of_rows hrows, fun d _ => by rw [State.ctx_of_ctxs hctxs], hfixed⟩

theorem State.Inside.of_still {c : CtxId} {s t : State} (h : t.still = s.still) : State.Inside c s t :=
  ⟨State.row_of_rows (congrArg (·.weir.rows) h), fun d _ => (State.parts_of_still h).2.2.2 d, State.fixed_of_still h⟩

theorem State.Inside.dispatch (c : CtxId) (s : State) : State.Inside c s s.dispatch := .of_still s.dispatch_still

theorem State.Inside.of_mirrors {c : CtxId} {s t : State} (h : State.Mirrors c s t) : State.Inside c s t :=
  ⟨h.row, fun d hd => by rw [h.others d hd], by rw [h.rest]; rfl⟩

theorem State.Inside.putEntry (c : CtxId) (s : State) (e : Entry64) : State.Inside c s (s.putEntry c e) :=
  ⟨State.row_of_rows (by rw [State.putEntry_weir]), fun d hd => by rw [State.putEntry_ctx, if_neg hd.symm], by
    rw [State.putEntry_rest]
    rfl⟩

theorem State.OthersStand.of_fixed {s t : State} {c : CtxId} (hctxs : ∀ d : CtxId, d ≠ c → (t.ctx d).still = (s.ctx d).still)
    (hrows : ∀ q : Fin 17, q ≠ rowOf c → t.row q = s.row q) (hfixed : t.fixed = s.fixed) : s.OthersStand t c :=
  ⟨hctxs, hrows, by simpa [State.fixed] using hfixed⟩

theorem State.OthersStand.fixed {s t : State} {c : CtxId} (h : s.OthersStand t c) : t.fixed = s.fixed := by
  simpa [State.fixed] using h.rest

theorem State.OthersStand.trans {s t u : State} {c : CtxId} (a : s.OthersStand t c) (b : t.OthersStand u c) : s.OthersStand u c :=
  .of_fixed (fun d hd => (b.ctxs d hd).trans (a.ctxs d hd)) (fun q hq => (b.rows q hq).trans (a.rows q hq)) (b.fixed.trans a.fixed)

theorem State.Inside.stands {c : CtxId} {s t : State} (h : State.Inside c s t) : s.OthersStand t c :=
  .of_fixed h.ctxs (fun q _ => h.rows q) h.fixed

/-! ### The row of a commit -/

/-- The slot is the row's LAST with this VERSION and PRIOR_VALID, and the slot that was LAST before folds. -/
def State.Lasts (s u : State) (r : Fin 17) (k : Fin 8) (version : BitVec 64) (prior : Bool) : Prop :=
  u.slot r k = .last ∧ (u.row r).lastSlot = k ∧ (u.row r).version = version ∧ (u.row r).priorValid = prior
    ∧ ∀ j, s.slotIn r .last = some j → j ≠ k → u.slot r j = .folding

theorem State.commitGroup_lasts (s : State) (r : Fin 17) (k : Fin 8) (version : BitVec 64) (prior : Bool) :
    s.Lasts (s.commitGroup r k version prior) r k version prior := by
  obtain ⟨hlast, hversion, hprior⟩ := s.commitGroup_row r k version prior
  refine ⟨hlast, ?slot, hversion, hprior, fun j hj hne => ?folding⟩
  case slot =>
    obtain ⟨d, hd⟩ := s.commitGroup_rows r k version prior
    rw [State.row_of_rows hd, State.writeRow_row, if_pos rfl]
  case folding =>
    have hrows : (s.commitGroup r k version prior).weir.rows = (s.writeRow r fun d =>
        { (d.setSlot j .folding).setSlot k .last with version := version, lastSlot := k, priorValid := prior }).weir.rows := by
      unfold State.commitGroup
      rw [hj]
      rfl
    have hkj : k.val ≠ j.val := fun e => hne (Fin.ext e.symm)
    unfold State.slot
    rw [State.row_of_rows hrows, State.writeRow_row, if_pos rfl]
    simp [RowData.setSlot, hkj]

theorem State.Lasts.of_row {s u v : State} {r : Fin 17} {k : Fin 8} {version : BitVec 64} {prior : Bool} (h : s.Lasts u r k version prior)
    (e : v.row r = u.row r) : s.Lasts v r k version prior := by
  unfold State.Lasts State.slot
  rw [e]
  exact h

/-! ### The commit of any step -/

theorem State.commitStep_stands (s : State) (c : CtxId) {t : Step} {k : Fin 8} (hk : t.slot = some k) (version : BitVec 64) (prior : Bool) :
    s.OthersStand (s.commitStep c t version prior) c := by
  obtain ⟨hrows, -, hothers⟩ := s.commitStep_commits c hk version prior
  exact .of_fixed (fun d hd => by rw [hothers d hd]) (fun q hq => by rw [hrows, State.commitGroup_row_other s hq])
    (State.fixed_of_outer (s.commitStep_outer c t version prior))

theorem State.commitStep_lasts (s : State) (c : CtxId) {t : Step} {k : Fin 8} (hk : t.slot = some k) (version : BitVec 64) (prior : Bool) :
    s.Lasts (s.commitStep c t version prior) (rowOf c) k version prior :=
  (s.commitGroup_lasts (rowOf c) k version prior).of_row ((s.commitStep_commits c hk version prior).rows _)

/-- Of its context a commit changes what a commit of the step changes, the result entry and the ring. -/
theorem State.commitStep_ctx (s : State) (c : CtxId) {t : Step} {k : Fin 8} (hk : t.slot = some k) (version : BitVec 64) (prior : Bool) :
    ∃ regs rings, (s.commitStep c t version prior).ctx c = { (s.ctx c).committedStep t with regs := regs, rings := rings }
      ∧ regs.gen = (s.ctx c).regs.gen := by
  unfold State.commitStep
  split
  · rename_i hnone
    rw [hnone] at hk
    cases hk
  extract_lets r s1 dropped s2 s3 s4
  have h1 : ∀ d, (s1.zeroRanges dropped).ctx d = s.ctx d := fun d => by
    unfold s1
    rw [State.commitGroup_rest]
    rfl
  have h4 : s4.ctx c = (s.ctx c).committedStep t := by
    have hctxs : s4.ctxs = s2.ctxs := State.trace_ctxs ..
    rw [State.ctx_of_ctxs hctxs, State.modCtx_ctx, if_pos rfl, h1]
  clear_value s4
  split
  · exact ⟨_, _, h4, rfl⟩
  · have hentry : ∀ e, (s4.putEntry c e).ctx c = ((s.ctx c).committedStep t).entered e := fun e => by
      rw [State.putEntry_ctx, if_pos rfl, h4]
    exact ⟨_, _, hentry _, rfl⟩

end Sys2Proof.Machine
end

section
/-! PROOFS. The commit of each kind of step (R37, R202, R241, R297, R306, R378). -/

namespace Sys2Proof.Machine

/-! ### What follows a period's commit -/

/-- Inside context `c` the history stands and the pattern stands or has ended. -/
structure State.Tidies (c : CtxId) (s t : State) : Prop where
  inside  : State.Inside c s t
  history : (t.ctx c).history = (s.ctx c).history
  pattern : ∀ q, (t.ctx c).pattern = some q → (s.ctx c).pattern = some q

theorem State.Tidies.trans {c : CtxId} {s t u : State} (a : State.Tidies c s t) (b : State.Tidies c t u) : State.Tidies c s u :=
  ⟨a.inside.trans b.inside, b.history.trans a.history, fun q h => a.pattern q (b.pattern q h)⟩

theorem State.Tidies.of_ctxs {c : CtxId} {s t : State} (hctxs : t.ctxs = s.ctxs) (hrows : t.weir.rows = s.weir.rows)
    (hfixed : t.fixed = s.fixed) : State.Tidies c s t :=
  ⟨.of_ctxs hctxs hrows hfixed, by rw [State.ctx_of_ctxs hctxs], fun q h => by rw [← State.ctx_of_ctxs hctxs]; exact h⟩

theorem State.Tidies.refl (c : CtxId) (s : State) : State.Tidies c s s := .of_ctxs rfl rfl rfl

theorem State.Tidies.foldl {α : Type} {c : CtxId} (f : State → α → State) (h : ∀ u a, State.Tidies c u (f u a)) (l : List α) (s : State) :
    State.Tidies c s (l.foldl f s) := by
  induction l generalizing s with
  | nil => exact .refl ..
  | cons a l ih => exact (h s a).trans (ih _)

theorem State.Tidies.modCtx (c : CtxId) (s : State) (f : Ctx → Ctx) (hhistory : ∀ x, (f x).history = x.history)
    (hpattern : ∀ x q, (f x).pattern = some q → x.pattern = some q) : State.Tidies c s (s.modCtx c f) :=
  ⟨.modCtx .., by rw [State.modCtx_ctx, if_pos rfl, hhistory], fun q h => by
    rw [State.modCtx_ctx, if_pos rfl] at h
    exact hpattern _ q h⟩

theorem State.Tidies.dispatch (c : CtxId) (s : State) : State.Tidies c s s.dispatch :=
  ⟨.dispatch .., by rw [State.dispatch_ctx_history], fun q h => by rw [← State.dispatch_ctx_pattern]; exact h⟩

theorem State.Tidies.deliver (c : CtxId) (s : State) (ds : List Delivery) : State.Tidies c s (s.deliver c ds) := by
  unfold State.deliver
  split
  · exact .refl ..
  · extract_lets r all kept s1
    have h1 : State.Tidies c s s1 := .modCtx _ _ _ (fun _ => by rfl) fun _ _ h => h
    clear_value s1
    split
    · exact h1
    · refine h1.trans (.of_ctxs ?_ ?_ ?_) <;> (unfold State.msixOwner; split <;> rfl)

theorem State.Tidies.releaseModel (c : CtxId) (s : State) (m : Model) : State.Tidies c s (s.releaseModel c m) := by
  unfold State.releaseModel
  extract_lets rs s1
  have h1 : State.Tidies c s s1 := .of_ctxs rfl rfl rfl
  exact h1.trans (.modCtx _ _ _ (fun _ => by rfl) fun _ _ h => h)

theorem State.Tidies.dropOldModels (c : CtxId) (s : State) : State.Tidies c s (s.dropOldModels c) := by
  unfold State.dropOldModels
  dsimp only
  exact .foldl _ (fun u m => .releaseModel c u m) _ _

theorem State.Tidies.endPattern (c : CtxId) (s : State) : State.Tidies c s (s.endPattern c) := by
  unfold State.endPattern
  extract_lets s1
  have h1 : State.Tidies c s s1 := .modCtx _ _ _ (fun _ => by rfl) fun _ _ h => by cases h
  clear_value s1
  split
  · exact h1.trans (.of_ctxs rfl rfl rfl)
  · exact h1

/-- The context after a period's commit: its models, table and history (R302 to R307). -/
def Ctx.periodDone (x : Ctx) (p : Pattern) (e : PeriodEnd) (n : Nat) : Ctx :=
  { x with models := e.models, pattern := some { p with seqs := e.seqs }, history := ((n, e.served) :: x.history).take 128 }

/-- The state once a period has drawn its samples (R302). -/
def State.nextDraw (s : State) : State := { s with mem := { s.mem with draws := s.mem.draws + 1 } }

/-- A period's commit is the step's own, then its table and history, and what follows. -/
theorem State.commitPeriod_parts {s : State} {c : CtxId} {p : Pattern} (hp : (s.ctx c).pattern = some p) (t : Step) :
    State.Tidies c ((s.nextDraw.commitStep c t (s.version (rowOf c) + 1#64) true).modCtx c
        fun x => x.periodDone p (periodEnd p (s.ctx c).models s.mem.draws t.hdr.step.toNat) t.hdr.step.toNat)
      (s.commitPeriod c t) := by
  unfold State.commitPeriod
  split
  · rename_i hnone
    rw [hnone] at hp
    cases hp
  rename_i q hq
  obtain rfl : p = q := Option.some.inj (hp.symm.trans hq)
  extract_lets n draw e m s0 s1 s2
  have h2 : State.Tidies c s1 s2 := by
    have htaken : State.Tidies c s1 (s1.takeUp c t false) := .of_ctxs rfl rfl rfl
    exact (htaken.trans (.deliver ..)).trans (.dropOldModels ..)
  refine (h2.trans ?_).trans (.dispatch ..)
  split
  · exact .endPattern ..
  · exact .refl ..

/-! ### What the commits of a period, a load part and a restore leave -/

theorem State.Lasts.inside {s u v : State} {c : CtxId} {k : Fin 8} {version : BitVec 64} {prior : Bool}
    (h : s.Lasts u (rowOf c) k version prior) (hin : State.Inside c u v) : s.Lasts v (rowOf c) k version prior :=
  h.of_row (hin.rows _)

section
variable (s : State) (c : CtxId) {t : Step} {k : Fin 8} (hk : t.slot = some k)
include hk

theorem State.commitPeriod_leaves {p : Pattern} (hp : (s.ctx c).pattern = some p) :
    let u := s.commitPeriod c t
    let e := periodEnd p (s.ctx c).models s.mem.draws t.hdr.step.toNat
    s.Lasts u (rowOf c) k ((s.row (rowOf c)).version + 1#64) true ∧ (∀ q, (u.ctx c).pattern = some q → q = { p with seqs := e.seqs })
      ∧ (u.ctx c).history = ((t.hdr.step.toNat, e.served) :: (s.ctx c).history).take 128 ∧ s.OthersStand u c := by
  obtain ⟨hinside, hhistory, hpattern⟩ := State.commitPeriod_parts hp t
  obtain ⟨regs, rings, hctx, -⟩ := s.nextDraw.commitStep_ctx c hk (s.version (rowOf c) + 1#64) true
  have hdraw : State.Inside c s s.nextDraw := .of_ctxs rfl rfl rfl
  have hstands := hdraw.stands.trans (s.nextDraw.commitStep_stands c hk (s.version (rowOf c) + 1#64) true)
  have hlasts : s.Lasts (s.nextDraw.commitStep c t (s.version (rowOf c) + 1#64) true) (rowOf c) k (s.version (rowOf c) + 1#64) true :=
    s.nextDraw.commitStep_lasts c hk (s.version (rowOf c) + 1#64) true
  have hdone : ∀ f : Ctx → Ctx, ((s.nextDraw.commitStep c t (s.version (rowOf c) + 1#64) true).modCtx c f).ctx c = f _ := fun f =>
    ((State.modCtx_ctx ..).trans (if_pos rfl)).trans (congrArg f hctx)
  refine ⟨(hlasts.inside (.modCtx ..)).inside hinside, fun q hq => ?_, ?_, hstands.trans ((State.Inside.modCtx ..).trans hinside).stands⟩
  · have hq := hpattern q hq
    rw [hdone] at hq
    exact (Option.some.inj hq).symm
  · rw [hhistory, hdone]
    rfl

theorem State.commitLoad_leaves (l : LoadPart) :
    let u := s.commitLoad c t l
    s.Lasts u (rowOf c) k ((s.row (rowOf c)).version + 1#64) true ∧ (u.ctx c).load = none
      ∧ (∀ m ∈ (u.ctx c).models, m.version = l.version → m.resident = l.lastPart) ∧ s.OthersStand u c := by
  have hafter : State.Inside c (s.commitStep c t (s.version (rowOf c) + 1#64) true) (s.commitLoad c t l) :=
    (State.Inside.modCtx ..).trans (.dispatch ..)
  refine ⟨(s.commitStep_lasts c hk _ true).inside hafter, ?load, ?models, (s.commitStep_stands c hk _ true).trans hafter.stands⟩
  all_goals unfold State.commitLoad
  case load => rw [State.dispatch_ctx_load, State.modCtx_ctx, if_pos rfl]
  case models =>
    rw [State.dispatch_ctx_models, State.modCtx_ctx, if_pos rfl]
    intro m hm hv
    obtain ⟨m0, -, rfl⟩ := List.mem_map.1 hm
    by_cases h : m0.version = l.version
    · rw [if_pos h]
    · rw [if_neg h] at hv
      exact absurd hv h

theorem State.restoreCommit_leaves (v : BitVec 64) :
    let u := s.restoreCommit c t v
    s.Lasts u (rowOf c) k v false ∧ (u.ctx c).restore = none ∧ (u.ctx c).wcFlag = false ∧ u.rcv.restores = satInc s.rcv.restores
      ∧ s.OthersStand u c := by
  unfold State.restoreCommit
  extract_lets s1
  have hctx : s1.ctx c = { (s.commitStep c t v false).ctx c with restore := none, wcFlag := false } :=
    (State.modCtx_ctx ..).trans (if_pos rfl)
  have h1 : State.Inside c (s.commitStep c t v false) s1 := .modCtx ..
  have hafter : State.Inside c (s.commitStep c t v false)
      (State.dispatch { s1 with rcv := { s1.rcv with restores := satInc s1.rcv.restores } }) := by
    refine (h1.trans ?_).trans (.dispatch ..)
    exact .of_ctxs rfl rfl rfl
  refine ⟨(s.commitStep_lasts c hk v false).inside hafter, ?_, ?_, ?_, (s.commitStep_stands c hk v false).trans hafter.stands⟩
  · rw [State.dispatch_ctx_restore]
    exact congrArg (·.restore) hctx
  · rw [State.dispatch_ctx_wcFlag]
    exact congrArg (·.wcFlag) hctx
  · rw [State.dispatch_rcv]
    have houter := s.commitStep_outer c t v false
    have hcount : (s.commitStep c t v false).rcv.restores = s.rcv.restores := congrArg (·.rcv.restores) houter
    exact congrArg satInc hcount

end

/-! ### A replay -/

/-- A replay has ended between two states (R241): its step is gone, its allocation and carried memory hold, rows and memory stand. -/
structure State.Replays (c : CtxId) (t : Step) (s u : State) : Prop where
  weir   : u.weir = s.weir
  mem    : u.mem = s.mem
  gone   : t.uid ∉ (u.ctx c).steps.map (·.uid)
  alloc  : (u.ctx c).alloc = t.alloc
  carry  : (u.ctx c).carryOk = true
  inside : State.Inside c s u

theorem State.Replays.of_ctxs {c : CtxId} {t : Step} {s u v : State} (h : State.Replays c t s u) (hctxs : v.ctxs = u.ctxs)
    (hweir : v.weir = u.weir) (hmem : v.mem = u.mem) (hfixed : v.fixed = u.fixed) : State.Replays c t s v := by
  have hctx : v.ctx c = u.ctx c := State.ctx_of_ctxs hctxs c
  refine ⟨hweir.trans h.weir, hmem.trans h.mem, ?_, ?_, ?_, h.inside.trans (.of_ctxs hctxs (congrArg (·.rows) hweir) hfixed)⟩
  · rw [hctx]; exact h.gone
  · rw [hctx]; exact h.alloc
  · rw [hctx]; exact h.carry

theorem State.Replays.putEntry {c : CtxId} {t : Step} {s u : State} (h : State.Replays c t s u) (e : Entry64) :
    State.Replays c t s (u.putEntry c e) := by
  have hctx : (u.putEntry c e).ctx c = (u.ctx c).entered e := (State.putEntry_ctx ..).trans (if_pos rfl)
  refine ⟨(State.putEntry_weir ..).trans h.weir, ?_, ?_, ?_, ?_, h.inside.trans (.putEntry ..)⟩
  · rw [State.putEntry_rest]; exact h.mem
  · rw [hctx]; exact h.gone
  · rw [hctx]; exact h.alloc
  · rw [hctx]; exact h.carry

theorem State.Replays.dispatch {c : CtxId} {t : Step} {s u : State} (h : State.Replays c t s u) : State.Replays c t s u.dispatch :=
  ⟨(State.dispatch_weir u).trans h.weir, (State.dispatch_mem u).trans h.mem, by
    rw [State.uids_of_still u.dispatch_still]
    exact h.gone, (State.dispatch_ctx_alloc u c).trans h.alloc, (State.dispatch_ctx_carryOk u c).trans h.carry, h.inside.trans (.dispatch ..)⟩

theorem State.putEntry_lastCode (s : State) (c : CtxId) (e : Entry64) : ((s.putEntry c e).ctx c).regs.lastCode = e.code.value := by
  rw [State.putEntry_ctx, if_pos rfl]
  rfl

theorem State.endReplay_replays (s : State) (c : CtxId) (t : Step) :
    State.Replays c t s (s.endReplay c t) ∧ ((s.endReplay c t).ctx c).regs.lastCode = Code.committed.value := by
  unfold State.endReplay
  extract_lets s0 s1 s2 v e s3
  have h0 : State.Inside c s s0 := .of_ctxs rfl rfl rfl
  have hctx : s1.ctx c = _ := (State.modCtx_ctx ..).trans (if_pos rfl)
  have h1 : State.Replays c t s s1 := by
    refine ⟨rfl, rfl, ?_, ?_, ?_, h0.trans (.modCtx ..)⟩ <;> rw [hctx]
    simp
  have h2 : State.Replays c t s s2 := by
    refine h1.of_ctxs ((State.trace_ctxs ..).trans rfl) ((State.trace_weir ..).trans rfl) ?_ ?_ <;> (unfold s2; rw [State.trace_rest]; rfl)
  have h3 : State.Replays c t s s3 := h2.putEntry _
  have hcode : (s3.ctx c).regs.lastCode = Code.committed.value := State.putEntry_lastCode ..
  split
  · exact ⟨(h3.putEntry _).dispatch, by rw [State.dispatch_ctx_regs]; exact State.putEntry_lastCode ..⟩
  · exact ⟨h3.dispatch, by rw [State.dispatch_ctx_regs]; exact hcode⟩

/-! ### The obligation -/

/-- A host step's commit leaves in its context what the commit of the step made of it, beside mirroring. -/
theorem State.hostCommit_ctx (s : State) (c : CtxId) {t : Step} {k : Fin 8} (hk : t.slot = some k) (hhost : t.kind = .host) :
    ((s.hostCommit c t).ctx c).wcFlag = true ∧ ((s.hostCommit c t).ctx c).carryOk = true ∧ ((s.hostCommit c t).ctx c).alloc = t.alloc
      ∧ ((s.hostCommit c t).ctx c).regs.gen = (s.ctx c).regs.gen := by
  obtain ⟨u, r, hm, he⟩ := s.hostCommit_parts c t
  obtain ⟨regs, rings, hctx, hgen⟩ := s.commitStep_ctx c hk (s.version (rowOf c) + 1#64) true
  have hself := hm.self
  have hu : ∀ r, ({ u with intg := { u.intg with pending := r } } : State).ctx c = u.ctx c := fun _ => rfl
  rw [he, State.dispatch_ctx_wcFlag, State.dispatch_ctx_carryOk, State.dispatch_ctx_alloc, State.dispatch_ctx_regs, hu, hself, hctx]
  exact ⟨rfl, rfl, if_pos hhost, hgen⟩

theorem State.hostCommit_lasts (s : State) (c : CtxId) {t : Step} {k : Fin 8} (hk : t.slot = some k) :
    s.Lasts (s.hostCommit c t) (rowOf c) k (s.version (rowOf c) + 1#64) true := by
  obtain ⟨u, r, hm, he⟩ := s.hostCommit_parts c t
  refine (s.commitStep_lasts c hk (s.version (rowOf c) + 1#64) true).of_row ?_
  rw [he, ← hm.row]
  exact State.row_of_rows (by rw [State.dispatch_weir]) _

/-- A running step of a context that is up takes its kind's commit. -/
theorem execCommit_of_running {s : State} {c : CtxId} {t : Step} (hup : s.up = true) (ht : (s.ctx c).step? t.uid = some t)
    (hrun : t.state = .running) : (t.kind = .host → execCommit c t.uid s = .next (s.commitHost c t))
      ∧ (t.kind = .period → execCommit c t.uid s = .next (if t.t0 + t.hdr.commitDl < s.clk.now then s.missedCommit c t
          else if t.gateDone then s.commitPeriod c t else s))
      ∧ (∀ l, t.kind = .load → (s.ctx c).load = some l → l.uid = t.uid → l.fetches.all (·.done) = true →
          execCommit c t.uid s = .next (s.commitLoad c t l))
      ∧ (∀ q, t.kind = .restore → (s.ctx c).restore = some q → q.uid = t.uid → q.done = true →
          execCommit c t.uid s = .next (s.restoreCommit c t q.version)) := by
  simp only [execCommit, State.whenUp_of_up hup, ht, hrun, ne_eq, not_true_eq_false, if_false]
  refine ⟨fun h => ?_, fun h => ?_, fun l h hl hu hd => ?_, fun q h hq hu hd => ?_⟩
  · rw [h]
  · rw [h]
  · simp only [h, hl, hu, hd, and_self, if_true]
  · simp only [h, hq, hu, hd, and_self, if_true]

/-- Settles O49: each kind's commit is the commit of the step, which writes the row, and then changes its own context only. -/
theorem groupsCommit : Obligations.GroupsCommit := by
  intro s c t hup ht hrun late last
  obtain ⟨hhost, hperiod, hload, hrestore⟩ := execCommit_of_running hup ht hrun
  have hmissed : s.EndsStep (s.missedCommit c t) c t.uid .abortedFault :=
    (State.EndsStep.abortStep ht (by rw [hrun]; exact fun e => by cases e) .abortedFault .fault 0 true).dispatch
  have hlast : ∀ {k : Fin 8} (u : State) (version : BitVec 64) (prior : Bool), t.slot = some k → s.Lasts u (rowOf c) k version prior →
      last u version prior := fun u version prior hk h j hj => by
    obtain rfl := Option.some.inj (hk.symm.trans hj)
    exact h
  refine ⟨?host, ?replay, ?late, ?period, ?load, ?restore⟩
  case host =>
    intro hk hmode hjob hslot hlate hgate
    obtain ⟨k, hk'⟩ := Option.isSome_iff_exists.1 hslot
    have hcommit : s.commitHost c t = s.hostCommit c t := by
      simp only [State.commitHost, hrun, hmode, hjob, hgate, ne_eq, not_true_eq_false, if_false, Bool.false_eq_true, if_true]
      exact if_neg hlate
    obtain ⟨hwc, hcarry, halloc, hgen⟩ := s.hostCommit_ctx c hk' hk
    obtain ⟨-, -, -, hsteps, hothers⟩ := s.hostCommit_commits c hk'
    exact ⟨_, (exec_commit ..).trans ((hhost hk).trans (congrArg _ hcommit)), hlast _ _ _ hk' (s.hostCommit_lasts c hk'),
      hwc, hcarry, halloc, hgen, hsteps, hothers⟩
  case replay =>
    intro hk hmode hgate htail
    have hcommit : s.commitHost c t = s.endReplay c t := by
      simp only [State.commitHost, hrun, hmode, hgate, htail, ne_eq, not_true_eq_false, if_false, Bool.and_self, if_true]
    obtain ⟨⟨hweir, hmem, hgone, halloc, hcarry, hinside⟩, hcode⟩ := s.endReplay_replays c t
    exact ⟨_, (exec_commit ..).trans ((hhost hk).trans (congrArg _ hcommit)), hweir, hmem,
      fun v hv hu => hgone (hu ▸ List.mem_map_of_mem hv), halloc, hcarry, hcode, hinside.stands⟩
  case late =>
    intro hkind hlate
    obtain ⟨hk, hmode, hjob⟩ | hk := hkind
    · have hcommit : s.commitHost c t = s.missedCommit c t := by
        simp only [State.commitHost, hrun, hmode, hjob, ne_eq, not_true_eq_false, if_false, Bool.false_eq_true]
        exact if_pos hlate
      exact ⟨_, (exec_commit ..).trans ((hhost hk).trans (congrArg _ hcommit)), hmissed⟩
    · exact ⟨_, (exec_commit ..).trans ((hperiod hk).trans (congrArg _ (if_pos hlate))), hmissed⟩
  case period =>
    intro p hk hslot hlate hgate hp
    obtain ⟨k, hk'⟩ := Option.isSome_iff_exists.1 hslot
    obtain ⟨hlasts, hpattern, hhistory, hothers⟩ := s.commitPeriod_leaves c hk' hp
    have hcommit : execCommit c t.uid s = .next (s.commitPeriod c t) := by rw [hperiod hk, if_neg hlate, if_pos hgate]
    exact ⟨_, (exec_commit ..).trans hcommit, hlast _ _ _ hk' hlasts, hpattern, hhistory, hothers⟩
  case load =>
    intro l hk hslot hl hu hdone
    obtain ⟨k, hk'⟩ := Option.isSome_iff_exists.1 hslot
    obtain ⟨hlasts, hnone, hmodels, hothers⟩ := s.commitLoad_leaves c hk' l
    exact ⟨_, (exec_commit ..).trans (hload l hk hl hu hdone), hlast _ _ _ hk' hlasts, hnone, hmodels, hothers⟩
  case restore =>
    intro q hk hslot hq hu hdone
    obtain ⟨k, hk'⟩ := Option.isSome_iff_exists.1 hslot
    obtain ⟨hlasts, hnone, hflag, hcount, hothers⟩ := s.restoreCommit_leaves c hk' q.version
    exact ⟨_, (exec_commit ..).trans (hrestore q hk hq hu hdone), hlast _ _ _ hk' hlasts, hnone, hflag, hcount, hothers⟩

end Sys2Proof.Machine
end

section
/-! PROOFS. The start of a step at its T0 (R41, R196, R205, R219, R241). -/

namespace Sys2Proof.Machine

theorem exec_stepStart (c : CtxId) (s : State) : exec (.stepStart c) s = execStepStart c s := rfl

/-! ### What goes on beside the step -/

/-- Inside context `c` the steps and the working-copy flag stand. -/
structure State.Quiet (c : CtxId) (s t : State) : Prop where
  inside : State.Inside c s t
  steps  : (t.ctx c).steps = (s.ctx c).steps
  flag   : (t.ctx c).wcFlag = (s.ctx c).wcFlag

theorem State.Quiet.trans {c : CtxId} {s t u : State} (a : State.Quiet c s t) (b : State.Quiet c t u) : State.Quiet c s u :=
  ⟨a.inside.trans b.inside, b.steps.trans a.steps, b.flag.trans a.flag⟩

theorem State.Quiet.of_ctxs {c : CtxId} {s t : State} (hctxs : t.ctxs = s.ctxs) (hrows : t.weir.rows = s.weir.rows)
    (hfixed : t.fixed = s.fixed) : State.Quiet c s t :=
  ⟨.of_ctxs hctxs hrows hfixed, by rw [State.ctx_of_ctxs hctxs], by rw [State.ctx_of_ctxs hctxs]⟩

theorem State.Quiet.refl (c : CtxId) (s : State) : State.Quiet c s s := .of_ctxs rfl rfl rfl

theorem State.Quiet.foldl {α : Type} {c : CtxId} (f : State → α → State) (h : ∀ u a, State.Quiet c u (f u a)) (l : List α) (s : State) :
    State.Quiet c s (l.foldl f s) := by
  induction l generalizing s with
  | nil => exact .refl ..
  | cons a l ih => exact (h s a).trans (ih _)

theorem State.Quiet.modCtx (c : CtxId) (s : State) (f : Ctx → Ctx) (hsteps : ∀ x, (f x).steps = x.steps)
    (hflag : ∀ x, (f x).wcFlag = x.wcFlag) : State.Quiet c s (s.modCtx c f) :=
  ⟨.modCtx .., by rw [State.modCtx_ctx, if_pos rfl, hsteps], by rw [State.modCtx_ctx, if_pos rfl, hflag]⟩

theorem State.Quiet.of_mirrors {c : CtxId} {s t : State} (h : State.Mirrors c s t) : State.Quiet c s t :=
  ⟨.of_mirrors h, h.steps, congrArg (·.wcFlag) h.self⟩

theorem State.Quiet.sendData (c d : CtxId) (s : State) (peer : Nat) (f : Fin 8) (cls : Nat) (tweak : OxtPkt → OxtPkt) :
    State.Quiet c s (s.sendData d peer f cls tweak) := by
  rw [State.sendData_rest]
  exact .of_ctxs rfl rfl rfl

theorem State.Quiet.markHalfRate (c : CtxId) (s : State) : State.Quiet c s (s.markHalfRate c) := by
  unfold State.markHalfRate
  split
  · exact .modCtx _ _ _ (fun _ => by rfl) fun _ => by rfl
  · exact .refl ..

theorem State.markHalfRate_groups (s : State) (c : CtxId) : (s.markHalfRate c).weir.groups = s.weir.groups := by
  unfold State.markHalfRate
  split <;> rfl

theorem State.Quiet.askMore (c : CtxId) (s : State) : State.Quiet c s (s.askMore c) := by
  unfold State.askMore
  split
  · exact .refl ..
  · refine .foldl _ (fun u q => ?_) _ _
    split
    · split
      · dsimp only
        have hfetch : State.Quiet c u (u.modFetch c q.chunk fun f => { f with tries := 1, asked := u.clk.now }) :=
          .modCtx _ _ _ (fun _ => by rfl) fun _ => by rfl
        exact hfetch.trans (.sendData ..)
      · exact .refl ..
    · exact .refl ..

theorem State.askMore_groups (s : State) (c : CtxId) : (s.askMore c).weir.groups = s.weir.groups := by
  unfold State.askMore
  split
  · rfl
  · refine State.keeps_foldl (·.weir.groups) _ (fun u q => ?_) _ _
    split
    · split
      · dsimp only [State.askChunk]
        rw [State.sendData_rest]
        rfl
      · rfl
    · rfl

theorem State.layAside_ctxs_weir (s : State) (fresh : List Range) : ((s.layAside fresh).ctxs, (s.layAside fresh).weir, (s.layAside fresh).fixed)
    = (s.ctxs, s.weir, s.fixed) := by
  refine State.keeps_foldl (fun u => (u.ctxs, u.weir, u.fixed)) _ (fun u r => ?_) _ _
  dsimp only
  split <;> rfl

theorem State.Quiet.allocate (c : CtxId) (s : State) (new : List Range) : State.Quiet c s (s.allocate c new) := by
  unfold State.allocate
  extract_lets fresh hbm s1 s2
  have h1 := State.layAside_ctxs_weir (s.zeroRanges hbm) fresh
  have h2 : State.Quiet c s s2 := .of_ctxs (congrArg (·.1) h1) (congrArg (·.2.1.rows) h1) (congrArg (·.2.2) h1)
  exact h2.trans (.modCtx _ _ _ (fun _ => by rfl) fun _ => by rfl)

/-! ### A step runs -/

/-- Step `t` has started between two states: it runs as `n`, its row is `d`, and nothing beside its context has changed. -/
structure State.Runs (s u : State) (c : CtxId) (t n : Step) (d : RowData) : Prop where
  stands : s.OthersStand u c
  row    : u.row (rowOf c) = d
  step   : (u.ctx c).step? t.uid = some n

theorem State.Runs.inside {s u v : State} {c : CtxId} {t n : Step} {d : RowData} (h : s.Runs u c t n d) (hin : State.Inside c u v)
    (hsteps : (v.ctx c).steps = (u.ctx c).steps) : s.Runs v c t n d :=
  ⟨h.stands.trans hin.stands, (hin.rows _).trans h.row, by
    unfold Ctx.step?
    rw [hsteps]
    exact h.step⟩

theorem State.Runs.quiet {s u v : State} {c : CtxId} {t n : Step} {d : RowData} (h : s.Runs u c t n d) (q : State.Quiet c u v) :
    s.Runs v c t n d := h.inside q.inside q.steps

theorem State.Runs.modStep {s u : State} {c : CtxId} {t n : Step} {d : RowData} (h : s.Runs u c t n d) (f : Step → Step)
    (hf : ∀ v, (f v).uid = v.uid) : s.Runs (u.modStep c t.uid f) c t (f n) d := by
  refine ⟨h.stands.trans (State.Inside.modCtx ..).stands, h.row, ?_⟩
  have hn : n.uid = t.uid := by simpa using List.find?_some h.step
  unfold State.modStep
  rw [State.modCtx_ctx, if_pos rfl, Ctx.step?_modStep _ _ _ _ hf, h.step, Option.map_some, if_pos (beq_iff_eq.2 hn)]

theorem State.Runs.setCond {s u : State} {c : CtxId} {t n : Step} {d : RowData} (h : s.Runs u c t n d) :
    s.Runs (u.setCond c t.uid) c t { n with condFlag := (u.ctx c).wcFlag } d :=
  h.modStep _ fun _ => rfl

/-- The step as the started commands leave it. -/
theorem State.Runs.dispatch {s u : State} {c : CtxId} {t n : Step} {d : RowData} (h : s.Runs u c t n d) :
    u.dispatch.row (rowOf c) = d ∧ (∃ v ∈ (u.dispatch.ctx c).steps, v.still = n.still) ∧ s.OthersStand u.dispatch c := by
  refine ⟨((State.Inside.dispatch c u).rows _).trans h.row, ?_, h.stands.trans (State.Inside.dispatch c u).stands⟩
  have hmem : n.still ∈ (u.ctx c).still.steps := List.mem_map_of_mem (List.mem_of_find?_eq_some h.step)
  rw [← State.dispatch_ctx] at hmem
  exact List.mem_map.1 hmem

/-! ### A group opens -/

theorem State.freeSlot_of_row {s u : State} {r : Fin 17} (h : u.row r = s.row r) : u.freeSlot r = s.freeSlot r := by
  unfold State.freeSlot State.slot
  rw [h]

theorem State.openStep_of_free {s : State} {c : CtxId} {t : Step} {k : Fin 8} (hk : s.freeSlot (rowOf c) = some k) :
    s.openStep c t = (s.openGroup (t.group c k)).modStep c t.uid fun u => { u with state := .running, slot := some k } := by
  simp only [State.openStep, hk]

theorem State.openGroup_row (s : State) (g : Group) (q : Fin 17) :
    (s.openGroup g).row q = if g.row = q then (s.row g.row).setSlot g.slot .open else s.row q := by
  have hrows : (s.openGroup g).weir.rows = (s.writeRow g.row fun d => d.setSlot g.slot .open).weir.rows := rfl
  rw [State.row_of_rows hrows, State.writeRow_row]

theorem State.Runs.openStep {s u : State} {c : CtxId} {t n : Step} {d : RowData} {k : Fin 8} (h : s.Runs u c t n d)
    (hk : u.freeSlot (rowOf c) = some k) :
    s.Runs (u.openStep c t) c t { n with state := .running, slot := some k } (d.setSlot k .open) := by
  rw [State.openStep_of_free hk]
  refine State.Runs.modStep (u := u.openGroup (t.group c k)) ⟨h.stands.trans ?_, ?_, h.step⟩ _ fun _ => rfl
  · refine .of_fixed (fun _ _ => rfl) (fun q hq => ?_) rfl
    exact (State.openGroup_row ..).trans (if_neg hq.symm)
  · exact ((State.openGroup_row ..).trans (if_pos rfl)).trans (congrArg (RowData.setSlot · k .open) h.row)

/-- The group of a step does not say whether it reverts. -/
theorem State.openStep_reverted (s : State) (c : CtxId) (t : Step) : s.openStep c { t with reverted := true } = s.openStep c t := rfl

theorem State.openStep_group {s : State} {c : CtxId} {t : Step} {k : Fin 8} (hk : s.freeSlot (rowOf c) = some k) :
    t.group c k ∈ (s.openStep c t).weir.groups := by
  rw [State.openStep_of_free hk]
  exact List.mem_append_right _ (List.mem_singleton_self _)

/-- A step's ranges join the allocation and its group opens in a free slot. -/
theorem State.Runs.openAllocated {s u : State} {c : CtxId} {t n : Step} {d : RowData} {k : Fin 8} (h : s.Runs u c t n d)
    (hk : u.freeSlot (rowOf c) = some k) (new : List Range) :
    s.Runs ((u.allocate c new).openStep c t) c t { n with state := .running, slot := some k } (d.setSlot k .open)
      ∧ t.group c k ∈ ((u.allocate c new).openStep c t).weir.groups
      ∧ (((u.allocate c new).openStep c t).ctx c).wcFlag = (u.ctx c).wcFlag := by
  have halloc := State.Quiet.allocate c u new
  have hfree : (u.allocate c new).freeSlot (rowOf c) = some k := (State.freeSlot_of_row (halloc.inside.rows _)).trans hk
  refine ⟨(h.quiet halloc).openStep hfree, State.openStep_group hfree, ?_⟩
  rw [State.openStep_of_free hfree, ← halloc.flag]
  exact congrArg (·.wcFlag) ((State.modCtx_ctx ..).trans (if_pos rfl))

/-- A host step that opens a group sees the working-copy flag (R219). -/
theorem State.Runs.openHost {s u : State} {c : CtxId} {t n : Step} {d : RowData} {k : Fin 8} (h : s.Runs u c t n d)
    (hk : u.freeSlot (rowOf c) = some k) :
    s.Runs ((((u.allocate c t.alloc).openStep c t).markHalfRate c).setCond c t.uid) c t
        { n with state := .running, slot := some k, condFlag := (u.ctx c).wcFlag } (d.setSlot k .open)
      ∧ t.group c k ∈ ((((u.allocate c t.alloc).openStep c t).markHalfRate c).setCond c t.uid).weir.groups := by
  obtain ⟨hopen, hgroup, hflag⟩ := h.openAllocated hk t.alloc
  generalize (u.allocate c t.alloc).openStep c t = v at hopen hgroup hflag ⊢
  have hmark := State.Quiet.markHalfRate c v
  rw [← hflag, ← hmark.flag]
  have hgroups : ((v.markHalfRate c).setCond c t.uid).weir.groups = v.weir.groups := State.markHalfRate_groups v c
  exact ⟨(hopen.quiet hmark).setCond, by rw [hgroups]; exact hgroup⟩

/-! ### A revert -/

theorem State.revertGroup_ctxs (s : State) (r : Fin 17) (version : BitVec 64) : (s.revertGroup r version).ctxs = s.ctxs := by
  unfold State.revertGroup
  split <;> rfl

theorem State.revertGroup_fixed (s : State) (r : Fin 17) (version : BitVec 64) : (s.revertGroup r version).fixed = s.fixed := by
  unfold State.revertGroup
  split <;> rfl

theorem State.revertGroup_of_none {s : State} {r : Fin 17} (h : s.slotIn r .last = none) (version : BitVec 64) :
    s.revertGroup r version = s := by
  simp only [State.revertGroup, h]

theorem State.revertGroup_row {s : State} {r : Fin 17} {j : Fin 8} (h : s.slotIn r .last = some j) (version : BitVec 64) (q : Fin 17) :
    (s.revertGroup r version).row q
      = if r = q then { (s.row r).setSlot j .aborting with version := version, priorValid := false } else s.row q := by
  have hrows : (s.revertGroup r version).weir.rows
      = (s.writeRow r fun d => { d.setSlot j .aborting with version := version, priorValid := false }).weir.rows := by
    unfold State.revertGroup
    rw [h]
    rfl
  rw [State.row_of_rows hrows, State.writeRow_row]

theorem State.revertGroup_stands (s : State) (c : CtxId) (version : BitVec 64) : s.OthersStand (s.revertGroup (rowOf c) version) c := by
  refine .of_fixed (fun d _ => by rw [State.ctx_of_ctxs (State.revertGroup_ctxs ..)]) (fun q hq => ?_) (State.revertGroup_fixed ..)
  cases h : s.slotIn (rowOf c) .last with
  | none => rw [State.revertGroup_of_none h]
  | some j => rw [State.revertGroup_row h, if_neg hq.symm]

/-- A revert frees no slot and takes none. -/
theorem State.revertGroup_freeSlot (s : State) (r : Fin 17) (version : BitVec 64) : (s.revertGroup r version).freeSlot r = s.freeSlot r := by
  cases h : s.slotIn r .last with
  | none => rw [State.revertGroup_of_none h]
  | some j =>
    have hlast : s.slot r j = .last := by simpa using List.find?_some h
    have hj : (s.row r).slots[j] = .last := hlast
    unfold State.freeSlot State.slot
    rw [State.revertGroup_row h, if_pos rfl]
    congr 1
    funext k
    by_cases hk : j = k
    · subst hk
      simp [RowData.setSlot, hj]
    · have hk' : j.val ≠ k.val := fun e => hk (Fin.ext e)
      simp [RowData.setSlot, hk']

/-! ### Which step starts -/

/-- A due step is admitted and has not started. -/
theorem State.state_of_due {s : State} {c : CtxId} {t : Step} {later : List Step} (h : s.dueSteps c = t :: later) : t.state = .admitted := by
  have hmem : t ∈ s.dueSteps c := h ▸ List.mem_cons_self ..
  have hfilter := (List.mem_filter.1 (List.mem_mergeSort.1 hmem)).2
  simp only [Step.started, Bool.and_eq_true, Bool.not_eq_true', bne_eq_false_iff_eq] at hfilter
  exact hfilter.1.1

/-- What a due step does at its T0, by its kind. -/
def State.startDue (s : State) (c : CtxId) (t : Step) : State :=
  match t.kind with
  | .host => s.startHost c t
  | .load => s.startLoad c t
  | .restore => s.startRestore c t
  | .period => s

theorem execStepStart_of_due {s : State} {c : CtxId} {t : Step} {later : List Step} (hup : s.up = true) (hdue : s.dueSteps c = t :: later)
    (hmig : s.hbm.migration = .none) : execStepStart c s = .next (s.startDue c t).dispatch := by
  unfold execStepStart
  rw [State.whenUp_of_up hup, hdue, hmig]
  rfl

/-- The state in which a step starts that reverts the last commit first (R205, R219). -/
def State.revertedFor (s : State) (c : CtxId) (t : Step) : State :=
  (((s.revertGroup (rowOf c) t.hdr.base).dropStream c true).modCtx c fun x => { x with wcFlag := false }).modStep c t.uid
    fun u => { u with reverted := true }

/-- A replay takes the sweep that waits for its context (R350). -/
def State.takeCover (s : State) (c : CtxId) : State :=
  if s.intg.cover == some c then { s with intg := { s.intg with cover := none } } else s

/-- The state in which a replay starts (R241). -/
def State.replayFrom (s : State) (c : CtxId) (t : Step) : State :=
  ((s.takeCover c).modCtx c fun x => { x with wcFlag := false }).allocate c t.alloc

/-! ### The starts -/

section
variable {s : State} {c : CtxId} {t : Step} (ht : (s.ctx c).step? t.uid = some t)
include ht

theorem State.Runs.refl : s.Runs s c t t (s.row (rowOf c)) := ⟨(State.Inside.refl c s).stands, rfl, ht⟩

theorem State.startHost_runs {k : Fin 8} (hmode : t.hdr.mode ≠ 4) (hbase : (s.row (rowOf c)).version = t.hdr.base)
    (hk : s.freeSlot (rowOf c) = some k) :
    s.Runs (s.startHost c t) c t { t with state := .running, slot := some k, condFlag := (s.ctx c).wcFlag }
      ((s.row (rowOf c)).setSlot k .open) ∧ t.group c k ∈ (s.startHost c t).weir.groups := by
  have hstart : s.startHost c t = (((s.allocate c t.alloc).openStep c t).markHalfRate c).setCond c t.uid := by
    simp only [State.startHost, hmode, if_false]
    exact if_pos hbase
  rw [hstart]
  exact (State.Runs.refl ht).openHost hk

theorem State.startHost_reverts {k : Fin 8} (hmode : t.hdr.mode ≠ 4) (hbase : (s.row (rowOf c)).version = t.hdr.base + 1#64)
    (hprior : (s.row (rowOf c)).priorValid = true) (hopen : s.openIn (rowOf c) = 0) (hk : s.freeSlot (rowOf c) = some k) :
    s.Runs (s.startHost c t) c t { t with state := .running, slot := some k, reverted := true, condFlag := false }
      (((s.revertGroup (rowOf c) t.hdr.base).row (rowOf c)).setSlot k .open) ∧ t.group c k ∈ (s.startHost c t).weir.groups := by
  have hne : s.version (rowOf c) ≠ t.hdr.base := fun e => by
    have : t.hdr.base + 1#64 = t.hdr.base := hbase.symm.trans e
    simp at this
  have hstart : s.startHost c t
      = ((((s.revertedFor c t).allocate c t.alloc).openStep c t).markHalfRate c).setCond c t.uid := by
    rw [← State.openStep_reverted]
    simp only [State.startHost, hmode, if_false]
    rw [if_neg hne]
    exact if_pos ⟨hbase, hprior, hopen⟩
  have hrevert : s.Runs (s.revertGroup (rowOf c) t.hdr.base) c t t ((s.revertGroup (rowOf c) t.hdr.base).row (rowOf c)) :=
    ⟨s.revertGroup_stands c _, rfl, by rw [State.ctx_of_ctxs (State.revertGroup_ctxs ..)]; exact ht⟩
  have hdrop := State.Quiet.of_mirrors (State.Mirrors.dropStream c (s.revertGroup (rowOf c) t.hdr.base) true)
  have hflag := (hrevert.quiet hdrop).inside (.modCtx c _ fun x => { x with wcFlag := false })
    (congrArg (·.steps) ((State.modCtx_ctx ..).trans (if_pos rfl)))
  have hrun : s.Runs (s.revertedFor c t) c t { t with reverted := true } _ := hflag.modStep (fun u => { u with reverted := true }) fun _ => rfl
  have hwc : ((s.revertedFor c t).ctx c).wcFlag = false := by
    simp [State.revertedFor, State.modStep, Ctx.modStep]
  have hfree : (s.revertedFor c t).freeSlot (rowOf c) = some k := by
    rw [← hk, ← s.revertGroup_freeSlot (rowOf c) t.hdr.base]
    exact State.freeSlot_of_row hrun.row
  rw [hstart, ← hwc]
  exact hrun.openHost hfree

theorem State.replayFrom_runs : s.Runs (s.replayFrom c t) c t t (s.row (rowOf c)) ∧ ((s.replayFrom c t).ctx c).wcFlag = false := by
  have hcover : State.Quiet c s (s.takeCover c) := by
    unfold State.takeCover
    split
    · exact .of_ctxs rfl rfl rfl
    · exact .refl ..
  have hctx : ((s.takeCover c).modCtx c fun x => { x with wcFlag := false }).ctx c = { (s.takeCover c).ctx c with wcFlag := false } :=
    (State.modCtx_ctx ..).trans (if_pos rfl)
  have hrun := ((State.Runs.refl ht).quiet hcover).inside (.modCtx ..) (congrArg (·.steps) hctx)
  have halloc := State.Quiet.allocate c ((s.takeCover c).modCtx c fun x => { x with wcFlag := false }) t.alloc
  exact ⟨hrun.quiet halloc, halloc.flag.trans (congrArg (·.wcFlag) hctx)⟩

theorem State.startHost_replays (hmode : t.hdr.mode = 4) (hbase : (s.row (rowOf c)).version = t.hdr.base) :
    s.Runs (s.startHost c t) c t { t with state := .running, sweep := decide (s.intg.cover = some c), condFlag := false }
      (s.row (rowOf c)) := by
  have hstart : s.startHost c t
      = ((s.replayFrom c t).modStep c t.uid fun u => { u with state := .running, sweep := s.intg.cover == some c }).setCond c t.uid := by
    simp only [State.startHost, hmode, if_true]
    exact if_pos hbase
  obtain ⟨hrun, hwc⟩ := State.replayFrom_runs ht
  generalize s.replayFrom c t = u at hstart hrun hwc
  have hflag : ((u.modStep c t.uid fun v => { v with state := .running, sweep := s.intg.cover == some c }).ctx c).wcFlag = false :=
    (congrArg (·.wcFlag) ((State.modCtx_ctx ..).trans (if_pos rfl))).trans hwc
  rw [hstart, ← beq_eq_decide, ← hflag]
  exact (hrun.modStep (fun v => { v with state := .running, sweep := s.intg.cover == some c }) fun _ => rfl).setCond

theorem State.startLoad_runs {k : Fin 8} (hload : (s.ctx c).load.isSome = true) (hk : s.freeSlot (rowOf c) = some k) :
    s.Runs (s.startLoad c t) c t { t with state := .running, slot := some k } ((s.row (rowOf c)).setSlot k .open)
      ∧ t.group c k ∈ (s.startLoad c t).weir.groups := by
  obtain ⟨l, hl⟩ := Option.isSome_iff_exists.1 hload
  simp only [State.startLoad, hl]
  obtain ⟨hopen, hgroup, -⟩ := (State.Runs.refl ht).openAllocated hk (pageRanges (chunkRanges l.base _ (l.fetches.map (·.chunk))) .committed)
  exact ⟨hopen.quiet (.askMore ..), by rw [State.askMore_groups]; exact hgroup⟩

theorem State.startRestore_runs {k : Fin 8} (hrestore : (s.ctx c).restore.isSome = true) (hk : s.freeSlot (rowOf c) = some k) :
    s.Runs (s.startRestore c t) c t { t with state := .running, slot := some k } ((s.row (rowOf c)).setSlot k .open)
      ∧ t.group c k ∈ (s.startRestore c t).weir.groups := by
  obtain ⟨r, hr⟩ := Option.isSome_iff_exists.1 hrestore
  simp only [State.startRestore, hr]
  obtain ⟨hopen, hgroup, -⟩ := (State.Runs.refl ht).openAllocated hk (pageRanges r.ranges .committed)
  generalize (s.allocate c (pageRanges r.ranges .committed)).openStep c t = u at hopen hgroup ⊢
  have hsince : State.Quiet c u (u.modRestore c fun r => { r with since := s.clk.now }) := .modCtx _ _ _ (fun _ => by rfl) fun _ => by rfl
  refine ⟨(hopen.quiet hsince).quiet (.of_mirrors (.sendMirror ..)), ?_⟩
  have hgroups : ∀ (v : State) (peer : Nat) (bs : List Byte), (v.sendMirror c peer 7 0 r.step 0 bs).weir = v.weir := fun v peer bs => by
    unfold State.sendMirror
    rw [State.sendData_rest]
  rw [hgroups]
  exact hgroup

/-- Another base version ends the step. -/
theorem State.startHost_ends (hlive : t.state ≠ .committed) (hbase : (s.row (rowOf c)).version ≠ t.hdr.base)
    (hother : t.hdr.mode = 4 ∨ (s.row (rowOf c)).version ≠ t.hdr.base + 1#64 ∨ (s.row (rowOf c)).priorValid = false
      ∨ s.openIn (rowOf c) ≠ 0) : s.EndsStep (s.startHost c t) c t.uid .abortedFault := by
  have hstart : s.startHost c t = s.abortStep c t.uid .abortedFault .baseVersion 0 := by
    have hbase' : s.version (rowOf c) ≠ t.hdr.base := hbase
    by_cases hmode : t.hdr.mode = 4
    · simp only [State.startHost, hmode, if_true]
      exact if_neg hbase
    · simp only [State.startHost, hmode, if_false]
      rw [if_neg hbase', if_neg]
      rintro ⟨hnext, hprior, hopen⟩
      obtain hm | hv | hp | ho := hother
      · exact hmode hm
      · exact hv hnext
      · rw [hprior] at hp
        cases hp
      · exact ho hopen
  rw [hstart]
  exact .abortStep ht hlive ..

end

/-- Settles O44: a step's start changes its own context and row only, and each kind's start is an allocation, a group and the step's state. -/
theorem stepsStartAtOrigin : Obligations.StepsStartAtOrigin := by
  intro s c t later hup hdue hmig ht row runs opens
  have hexec : exec (.stepStart c) s = .next (s.startDue c t).dispatch :=
    (exec_stepStart ..).trans (execStepStart_of_due hup hdue hmig)
  have hhost : t.kind = .host → s.startDue c t = s.startHost c t := fun h => by simp only [State.startDue, h]
  have hopens : ∀ {u : State} {n : Step} {d : RowData} {k : Fin 8}, s.Runs u c t n (d.setSlot k .open) → t.group c k ∈ u.weir.groups →
      opens u.dispatch k := fun {u n d k} h hgroup => by
    refine ⟨?_, by rw [State.dispatch_weir]; exact hgroup⟩
    unfold State.slot
    rw [h.dispatch.1]
    simp [RowData.setSlot]
  refine ⟨?committed, ?reverts, ?replay, ?other, ?serves⟩
  case committed =>
    intro k hk hmode hbase hfree
    obtain ⟨hrun, hgroup⟩ := State.startHost_runs ht hmode hbase hfree
    obtain ⟨hrow, hstep⟩ := hrun.dispatch
    refine ⟨_, hexec, ?_⟩
    rw [hhost hk]
    exact ⟨hopens hrun hgroup, by rw [hrow]; rfl, hstep⟩
  case reverts =>
    intro k hk hmode hbase hprior hopen hfree
    obtain ⟨hrun, hgroup⟩ := State.startHost_reverts ht hmode hbase hprior hopen hfree
    obtain ⟨hrow, hstep⟩ := hrun.dispatch
    refine ⟨_, hexec, ?_⟩
    rw [hhost hk]
    refine ⟨hopens hrun hgroup, fun j hj => ?_, hstep⟩
    have hlast : s.slot (rowOf c) j = .last := by simpa using List.find?_some hj
    have hne : k.val ≠ j.val := fun e => by
      have hk' : s.slot (rowOf c) k = .free := by simpa using List.find?_some hfree
      rw [Fin.ext e, hlast] at hk'
      cases hk'
    unfold State.slot
    rw [hrow, State.revertGroup_row hj, if_pos rfl]
    exact ⟨rfl, rfl, by simp [RowData.setSlot, hne]⟩
  case replay =>
    intro hk hmode hbase
    obtain ⟨hrow, hstep⟩ := (State.startHost_replays ht hmode hbase).dispatch
    refine ⟨_, hexec, ?_⟩
    rw [hhost hk]
    exact ⟨hrow, hstep⟩
  case other =>
    intro hk hbase hother
    refine ⟨_, hexec, ?_⟩
    rw [hhost hk]
    have hlive : t.state ≠ .committed := by rw [State.state_of_due hdue]; exact fun e => by cases e
    exact (State.startHost_ends ht hlive hbase hother).dispatch
  case serves =>
    intro k hkind hfree
    have hrun : s.Runs (s.startDue c t) c t { t with state := .running, slot := some k } ((s.row (rowOf c)).setSlot k .open)
        ∧ t.group c k ∈ (s.startDue c t).weir.groups := by
      obtain ⟨hk, hload⟩ | ⟨hk, hrestore⟩ := hkind
      · have hstart : s.startDue c t = s.startLoad c t := by simp only [State.startDue, hk]
        rw [hstart]
        exact State.startLoad_runs ht hload hfree
      · have hstart : s.startDue c t = s.startRestore c t := by simp only [State.startDue, hk]
        rw [hstart]
        exact State.startRestore_runs ht hrestore hfree
    obtain ⟨hrun, hgroup⟩ := hrun
    obtain ⟨hrow, hstep⟩ := hrun.dispatch
    exact ⟨_, hexec, hopens hrun hgroup, by rw [hrow]; rfl, hstep⟩

end Sys2Proof.Machine
end

section
/-! PROOFS. A judged step's admission, and the records of mirroring and restores (R41, R43, R54, R230, R324, R327, R376). -/

namespace Sys2Proof.Machine

theorem exec_stepHead (r : RecordIn) (s : State) : exec (.stepHead r) s = .next (s.recordIn 0x10 r) := rfl
theorem exec_commands (r : RecordIn) (s : State) : exec (.commands r) s = .next (s.recordIn 0x11 r) := rfl
theorem exec_mirrorConfiguration (r : RecordIn) (s : State) : exec (.mirrorConfiguration r) s = .next (s.recordIn 0x24 r) := rfl
theorem exec_restore (r : RecordIn) (s : State) : exec (.restore r) s = .next (s.recordIn 0x25 r) := rfl

/-! ### Admission -/

/-- Step `n` has joined the admitted steps of context `c` between two states, with its ACCEPTED entry (R43, R327, R329). -/
structure State.Admits (u w : State) (c : CtxId) (n : Step) : Prop where
  steps   : (w.ctx c).steps.map Step.still = (u.ctx c).steps.map Step.still ++ [n.still]
  nextUid : w.slu.nextUid = u.slu.nextUid + 1
  pred    : (w.ctx c).pred.map (·.uid) = some n.uid
  regs    : (w.ctx c).regs = { (u.ctx c).regs with results := (u.ctx c).regs.results + 1, lastCode := 0x01#8, lastSeq := n.seq }
  asm     : (w.ctx c).asm = (u.ctx c).asm
  mirror  : (w.ctx c).mirror = (u.ctx c).mirror
  mem     : w.mem = u.mem
  weir    : w.weir = u.weir

/-- The context that a step joins, with the step as the new predecessor (R43). -/
def Ctx.joined (x : Ctx) (t : Step) (folds : List Fold) : Ctx :=
  { x with steps := x.steps ++ [t], folds := x.folds ++ folds
           pred := some { uid := t.uid, commitDl := t.t0 + t.hdr.commitDl, p := t.hdr.p, c := t.hdr.c
                          copyBack := (t.cmds.map (·.copyBack)).sum, ended := none } }

theorem State.applyRaised_still (s : State) (is : List Item) : (s.applyRaised is).still = s.still :=
  State.still_foldl _ (fun u i => by
    split
    · exact State.modCmd_still ..
    · rfl) _ _

theorem State.addStep_leaves (s : State) (c : CtxId) (t : Step) (folds : List Fold) (raised : List Item) :
    let w := s.addStep c t folds raised
    (w.ctx c).still = ((s.ctx c).joined t folds).still ∧ w.slu.nextUid = s.slu.nextUid + 1 ∧ w.mem = s.mem ∧ w.weir = s.weir := by
  unfold State.addStep
  extract_lets s1 slu s2 w
  have hstill := s2.applyRaised_still raised
  obtain ⟨hmem, hweir, -, hctx⟩ := State.parts_of_still hstill
  have hslu : (s2.applyRaised raised).slu = s2.slu := congrArg (·.slu) hstill
  have hjoin : s2.ctx c = (s.ctx c).joined t folds := (State.modCtx_ctx s c c (·.joined t folds)).trans (if_pos rfl)
  refine ⟨(hctx c).trans (congrArg Ctx.still hjoin), ?_, hmem, hweir⟩
  exact congrArg (·.nextUid) hslu

theorem State.acceptStep_leaves (s : State) (c : CtxId) (t : Step) :
    let w := s.acceptStep c t
    (∃ e : Entry64, w.ctx c = (s.ctx c).entered e ∧ e.code = .accepted ∧ e.seq = t.seq.toNat)
      ∧ w.slu.nextUid = s.slu.nextUid ∧ w.mem = s.mem ∧ w.weir = s.weir := by
  unfold State.acceptStep
  extract_lets s1 w
  have hrest : w = { s with slu := { s.slu with admits := satInc s.slu.admits }, ctxs := s1.ctxs, out := s1.out, tel := w.tel } := by
    have htrace : w = { s1 with tel := w.tel } := State.trace_rest ..
    have haccept : s1 = { s with slu := { s.slu with admits := satInc s.slu.admits }, ctxs := s1.ctxs, out := s1.out } :=
      State.accept_rest ..
    rw [htrace, haccept]
  have hctx : w.ctx c = s1.ctx c := State.ctx_of_ctxs (State.trace_ctxs ..) c
  refine ⟨⟨_, hctx.trans ((State.accept_ctx ..).trans (if_pos rfl)), rfl, rfl⟩, ?_, ?_, ?_⟩ <;> rw [hrest]

theorem State.Admits.addStep (s : State) (c : CtxId) (t : Step) (folds : List Fold) (raised : List Item) :
    State.Admits s ((s.addStep c t folds raised).acceptStep c t) c t := by
  obtain ⟨hctx, huid, hmem, hweir⟩ := s.addStep_leaves c t folds raised
  generalize s.addStep c t folds raised = v at hctx huid hmem hweir ⊢
  obtain ⟨⟨e, hentered, hcode, hseq⟩, huid', hmem', hweir'⟩ := v.acceptStep_leaves c t
  have hsteps : (v.ctx c).steps.map Step.still = ((s.ctx c).steps ++ [t]).map Step.still := congrArg (·.steps) hctx
  have hregs : (v.ctx c).regs = (s.ctx c).regs := congrArg (·.regs) hctx
  have hpred : (v.ctx c).pred = ((s.ctx c).joined t folds).pred := congrArg (·.pred) hctx
  refine ⟨?_, huid'.trans huid, ?_, ?_, ?_, ?_, hmem'.trans hmem, hweir'.trans hweir⟩ <;> rw [hentered]
  · exact hsteps.trans (List.map_append ..)
  · exact congrArg (Option.map (·.uid)) hpred
  · simp only [Ctx.entered, hregs, hcode, hseq, Code.value, BitVec.ofNat_toNat, BitVec.setWidth_eq]
  · exact congrArg (·.asm) hctx
  · exact congrArg (·.mirror) hctx

theorem State.Admits.modCtx {u w : State} {c : CtxId} {n : Step} (h : State.Admits u w c n) (f : Ctx → Ctx)
    (hf : ∀ x, (f x).steps = x.steps ∧ (f x).pred = x.pred ∧ (f x).regs = x.regs ∧ (f x).asm = x.asm ∧ (f x).mirror = x.mirror) :
    State.Admits u (w.modCtx c f) c n := by
  have hctx : (w.modCtx c f).ctx c = f (w.ctx c) := (State.modCtx_ctx ..).trans (if_pos rfl)
  obtain ⟨hsteps, hpred, hregs, hasm, hmirror⟩ := hf (w.ctx c)
  refine ⟨?_, h.nextUid, ?_, ?_, ?_, ?_, h.mem, h.weir⟩ <;> rw [hctx]
  · rw [hsteps, h.steps]
  · rw [hpred, h.pred]
  · rw [hregs, h.regs]
  · rw [hasm, h.asm]
  · rw [hmirror, h.mirror]

theorem State.Admits.of_same {u v w : State} {c : CtxId} {n : Step} (h : State.Admits u v c n) (hctxs : w.ctxs = v.ctxs)
    (hslu : w.slu = v.slu) (hmem : w.mem = v.mem) (hweir : w.weir = v.weir) : State.Admits u w c n := by
  have hctx := State.ctx_of_ctxs hctxs c
  exact ⟨hctx ▸ h.steps, hslu ▸ h.nextUid, hctx ▸ h.pred, hctx ▸ h.regs, hctx ▸ h.asm, hctx ▸ h.mirror, hmem.trans h.mem,
    hweir.trans h.weir⟩

theorem State.Admits.programChange {u w : State} {c : CtxId} {n : Step} (h : State.Admits u w c n) :
    State.Admits u (w.programChange c) c n := by
  unfold State.programChange
  extract_lets x
  split
  · exact h
  · split
    · exact h.modCtx _ fun _ => by exact ⟨rfl, rfl, rfl, rfl, rfl⟩
    · extract_lets s1
      have h1 : State.Admits u s1 c n := h.modCtx _ fun _ => by exact ⟨rfl, rfl, rfl, rfl, rfl⟩
      exact h1.of_same rfl rfl rfl rfl

theorem State.Admits.admitProgram {u w : State} {c : CtxId} {n : Step} (h : State.Admits u w c n) (digest : BitVec 256) (step : BitVec 64)
    (replay : Bool) : State.Admits u (w.admitProgram c digest step replay) c n := by
  unfold State.admitProgram
  dsimp only
  split
  · split
    · exact h
    · exact h.modCtx _ fun _ => by exact ⟨rfl, rfl, rfl, rfl, rfl⟩
  · exact h.programChange.modCtx _ fun _ => by exact ⟨rfl, rfl, rfl, rfl, rfl⟩

theorem State.Admits.dispatch {u w : State} {c : CtxId} {n : Step} (h : State.Admits u w c n) : State.Admits u w.dispatch c n := by
  have hsteps : (w.dispatch.ctx c).steps.map Step.still = (w.ctx c).steps.map Step.still := congrArg (·.steps) (w.dispatch_ctx c)
  exact ⟨hsteps.trans h.steps, by rw [State.dispatch_slu]; exact h.nextUid, by rw [State.dispatch_ctx_pred]; exact h.pred,
    by rw [State.dispatch_ctx_regs]; exact h.regs, by rw [State.dispatch_ctx_asm]; exact h.asm,
    by rw [State.dispatch_ctx_mirror]; exact h.mirror, (State.dispatch_mem w).trans h.mem, (State.dispatch_weir w).trans h.weir⟩

/-! ### The judgement of a step -/

/-- A step whose predecessor has not aborted follows nothing into an abort (R43). -/
theorem State.followEnded_of_live {ended : Option Code} (h : ended = none ∨ ended = some .committed) (s : State) (c : CtxId) (t : Step) :
    s.followEnded c ended t = s := by
  obtain rfl | rfl := h
  · rfl
  · simp [State.followEnded]

/-- A step that passes the five tests of R327 is admitted. -/
theorem State.Admits.judgeStep {u : State} {c : CtxId} {header entries : List Byte} {w : Who} {p : Plan} {n : Step} {folds : List Fold}
    {all : List Item} (hn : n = u.stepOf p (u.originOf c p.hdr p.entries.length) w) (hrole : (u.ctx c).role = .training)
    (hfinal : (u.ctx c).final = false) (hshape : u.shapeStep c header entries = .ok p)
    (hgrade : u.gradeStep p.hdr.allowance p.entries = none) (hmemory : u.memoryStep c p (u.originOf c p.hdr p.entries.length) = none)
    (hfolds : (if p.hdr.mode = 4 then [] else u.newFold c n.uid (u.originOf c p.hdr p.entries.length)
      (u.originOf c p.hdr p.entries.length + p.hdr.commitDl)) = folds) (hdeadline : u.deadlineStep c n folds = .ok all)
    (hpred : (u.ctx c).pred.bind (·.ended) = none ∨ (u.ctx c).pred.bind (·.ended) = some .committed) :
    State.Admits u (u.judgeStep c header entries w) c n := by
  have hjudge : u.judgeStep c header entries w
      = ((((u.addStep c n folds all).acceptStep c n).admitProgram c n.digest n.hdr.step (p.hdr.mode == 4)).followEnded c
          ((u.ctx c).pred.bind (·.ended)) n) := by
    unfold State.judgeStep
    rw [hshape]
    dsimp only
    rw [if_neg (not_not_intro hrole), if_neg (by rw [hfinal]; exact Bool.false_ne_true), hgrade, hmemory]
    dsimp only [Option.orElse]
    rw [← hn, hfolds, hdeadline]
  rw [hjudge, State.followEnded_of_live hpred]
  exact (State.Admits.addStep ..).admitProgram ..

/-! ### The records of a step -/

/-- A STEP_HEAD with END is judged with the entries behind its header (R324). -/
theorem State.judgeStepRecord_of_head {s : State} {c : CtxId} {bs : List Byte} (hasm : (s.ctx c).asm = none) (hsize : 64 ≤ bs.length)
    (hwhole : bs.length % 64 = 0) (w : Who) : s.judgeStepRecord c 0x10 bs true w
      = (s.modCtx c fun x => { x with asm := none }).judgeStep c (bs.take 64) (bs.drop 64) w := by
  unfold State.judgeStepRecord
  rw [hasm]
  exact (if_pos ⟨rfl, hsize, hwhole⟩).trans (if_pos rfl)

/-- A COMMANDS record with END is judged with the entries gathered so far and its own (R324). -/
theorem State.judgeStepRecord_of_commands {s : State} {c : CtxId} {a : Assembly} {bs : List Byte} (hasm : (s.ctx c).asm = some a)
    (hwhole : bs.length % 64 = 0) (w : Who) : s.judgeStepRecord c 0x11 bs true w
      = (s.modCtx c fun x => { x with asm := none }).judgeStep c a.header (a.entries ++ bs) w := by
  unfold State.judgeStepRecord
  rw [hasm]
  exact (if_pos ⟨rfl, hwhole⟩).trans (if_pos rfl)

theorem State.taken_asm_ctx (s : State) (r : RecordIn) : ((s.taken r).modCtx r.ctx fun x => { x with asm := none }).ctx r.ctx
    = { s.ctx r.ctx with regs := ((s.taken r).ctx r.ctx).regs, asm := none } := by
  rw [State.modCtx_ctx, if_pos rfl, State.taken_ctx, if_pos rfl]

theorem State.taken_results (s : State) (r : RecordIn) : ((s.taken r).ctx r.ctx).regs.results = (s.ctx r.ctx).regs.results := by
  rw [State.taken_ctx, if_pos rfl]

/-- Settles O12: the tests that pass leave the accepting branch, which adds the step and then touches neither steps nor registers. -/
theorem judgedStepIsAdmitted : Obligations.JudgedStepIsAdmitted := by
  intro s r a p all c u entries t0 n hactive hrole hfinal hend hwhole hform hshape hgrade hmemory hdeadline hpred
  have hctx : u.ctx c = { s.ctx c with regs := ((s.taken r).ctx c).regs, asm := none } := s.taken_asm_ctx r
  have hadmits : State.Admits u (u.judgeStep c a.header entries (whoOf r)) c n :=
    .judgeStep rfl (by rw [hctx]; exact hrole) (by rw [hctx]; exact hfinal) hshape hgrade hmemory rfl hdeadline (by rw [hctx]; exact hpred)
  have hflag : (r.flags.toNat % 2 == 1) = true := beq_iff_eq.2 hend
  have hasm : ((s.taken r).ctx c).asm = (s.ctx c).asm := by rw [State.taken_ctx, if_pos rfl]
  have hleaves : ∀ t, State.Admits u t c n → (t.ctx c).steps.map Step.still = (s.ctx c).steps.map Step.still ++ [n.still]
      ∧ t.slu.nextUid = s.slu.nextUid + 1 ∧ (t.ctx c).asm = none ∧ (t.ctx c).pred.map (·.uid) = some s.slu.nextUid
      ∧ (t.ctx c).regs = { ((s.taken r).ctx c).regs with results := (s.ctx c).regs.results + 1, lastCode := 0x01#8, lastSeq := r.seq }
      ∧ t.mem = s.mem ∧ t.weir = s.weir := fun t h => by
    refine ⟨h.steps.trans (by rw [hctx]), h.nextUid, h.asm.trans (by rw [hctx]), h.pred, h.regs.trans ?_, h.mem, h.weir⟩
    rw [hctx]
    exact congrArg (fun k => { ((s.taken r).ctx c).regs with results := k + 1, lastCode := 0x01#8, lastSeq := r.seq }) (s.taken_results r)
  constructor
  · intro htakes hnone
    obtain ⟨-, hsize, ha⟩ | hsome := hform
    · have hentries : entries = r.payload.drop 64 := by rw [show entries = a.entries ++ [] from congrArg _ (if_pos hnone), ha, List.append_nil]
      have hrun : exec (.stepHead r) s = .next (u.judgeStep c a.header entries (whoOf r)).dispatch := by
        rw [exec_stepHead, State.recordIn_judged htakes (by decide) (.inl hactive) (.inl hnone), hflag, State.judgeType,
          State.judgeStepRecord_of_head (hasm.trans hnone) hsize hwhole, hentries, ha]
      exact ⟨_, hrun, hleaves _ hadmits.dispatch⟩
    · rw [hnone] at hsome
      cases hsome
  · intro htakes hsome
    have hentries : entries = a.entries ++ r.payload := congrArg _ (if_neg (by rw [hsome]; exact fun e => by cases e))
    have hrun : exec (.commands r) s = .next (u.judgeStep c a.header entries (whoOf r)).dispatch := by
      rw [exec_commands, State.recordIn_judged htakes (by decide) (.inl hactive) (.inr (.inr rfl)), hflag, State.judgeType,
        State.judgeStepRecord_of_commands (hasm.trans hsome) hwhole, hentries]
    exact ⟨_, hrun, hleaves _ hadmits.dispatch⟩

end Sys2Proof.Machine
end

section
/-! PROOFS. The records that configure mirroring and that restore a checkpoint (R54, R230, R376). -/

namespace Sys2Proof.Machine

/-! ### Mirroring is configured anew -/

theorem State.sendVerdict_ctxs (s : State) (c : CtxId) (kind : Nat) (step : BitVec 64) : (s.sendVerdict c kind step).ctxs = s.ctxs := by
  unfold State.sendVerdict
  split
  · exact State.sendData_ctxs ..
  · rfl

/-- No stream is left, whether the partner is told or not. -/
theorem State.dropStream_ends (s : State) (c : CtxId) (tell : Bool) : ((s.dropStream c tell).ctx c).stream = none := by
  unfold State.dropStream
  split
  · assumption
  · extract_lets s1
    have hcount : ∀ u : State, u.countMiss.ctx c = u.ctx c := fun _ => rfl
    have h1 : (s1.ctx c).stream = none := by
      unfold s1
      rw [hcount, State.modCtx_ctx, if_pos rfl]
    split
    · rw [State.ctx_of_ctxs (State.sendVerdict_ctxs ..)]
      exact h1
    · exact h1

/-- The end of a receive configuration touches receive slots and their row only. -/
theorem State.dropReceiver_leaves (s : State) (c : CtxId) :
    (s.dropReceiver c).ctxs = s.ctxs ∧ (s.dropReceiver c).mem = s.mem ∧ (s.dropReceiver c).hbm = s.hbm := by
  have habort : ∀ (u : State) (i : Nat), ((u.abortReceive i).ctxs, (u.abortReceive i).mem, (u.abortReceive i).hbm) = (u.ctxs, u.mem, u.hbm) :=
    fun u i => by
      unfold State.abortReceive
      split
      · rfl
      · dsimp only
        split <;> rfl
  have hfold := State.keeps_foldl (fun u : State => (u.ctxs, u.mem, u.hbm)) (fun t i =>
    if (t.recv.slots[i]?.map (·.state)) = some .receiving then t.abortReceive i else t) (fun u i => by
      split
      · exact habort u i
      · rfl) (List.range s.recv.slots.length) s
  unfold State.dropReceiver
  split
  · exact ⟨congrArg (·.1) hfold, congrArg (·.2.1) hfold, congrArg (·.2.2) hfold⟩
  · exact ⟨rfl, rfl, rfl⟩

/-- The receive slots that a mirror configuration asks for (R230). -/
def MirrorCfg.receiver (m : MirrorCfg) (c : CtxId) (old : Recv) : Recv :=
  match m.recv with
  | some k => { ctx := some c, rank := k, gib := m.slotGib, slots := List.replicate m.slots RecvSlot.empty, refused := none }
  | none => if old.ctx = some c then { ctx := none, rank := 0, gib := 0, slots := [], refused := none } else old

/-- The state in which a configuration's receive slots and ranges take force: the earlier stream and receiver are gone. -/
def State.unmirrored (s : State) (c : CtxId) (m : MirrorCfg) (w : Who) : State :=
  let s1 := (s.accept c w id).dropStream c true
  if s.recv.ctx == some c || m.recv.isSome then State.dropReceiver { s1 with recv := { s1.recv with ctx := some c } } c else s1

theorem State.unmirrored_leaves (s : State) (c : CtxId) (m : MirrorCfg) (w : Who) :
    let u := s.unmirrored c m w
    (u.ctx c).stream = none ∧ (∃ e : Entry64, e.code = .accepted ∧ e.seq = w.seq.toNat ∧ u.ctx c = { (s.ctx c).entered e with
        stream := (u.ctx c).stream, ckpts := (u.ctx c).ckpts })
      ∧ (∀ d : CtxId, d ≠ c → u.ctx d = s.ctx d) ∧ u.mem = s.mem ∧ u.hbm = s.hbm := by
  unfold State.unmirrored
  extract_lets s1 recv u
  have hdrop : State.Mirrors c (s.accept c w id) s1 := .dropStream ..
  have hstream : (s1.ctx c).stream = none := State.dropStream_ends ..
  have hu : u.ctxs = s1.ctxs ∧ u.mem = s1.mem ∧ u.hbm = s1.hbm := by
    unfold u
    split
    · exact State.dropReceiver_leaves ..
    · exact ⟨rfl, rfl, rfl⟩
  obtain ⟨hctxs, hmem, hhbm⟩ := hu
  have hctx : ∀ d, u.ctx d = s1.ctx d := State.ctx_of_ctxs hctxs
  refine ⟨?stream, ⟨s.acceptedEntry c w, rfl, rfl, ?self⟩, fun d hd => ?others, ?mem, ?hbm⟩
  case stream => rw [hctx]; exact hstream
  case self =>
    rw [hctx, hdrop.self, State.accept_ctx, if_pos rfl]
    rfl
  case others => rw [hctx, hdrop.others d hd, State.accept_ctx, if_neg hd.symm]
  case mem => rw [hmem, hdrop.rest, State.accept_rest]
  case hbm => rw [hhbm, hdrop.rest, State.accept_rest]

/-- A configuration that fits takes force. -/
theorem State.judgeMirror_of_fits {s : State} {c : CtxId} {bs : List Byte} {w : Who} {m : MirrorCfg} (hjob : (s.ctx c).job.tag ≠ 0#32)
    (hparse : parseMirror bs (s.ctx c).job.count = some m) (hranges : s.stateRanges c m.ranges = true)
    (hfits : rangesLen m.ranges ≤ 16 * m.interval * m.minPeriod)
    (hroom : m.recv = none ∨ State.capacityShort { s with recv := m.receiver c s.recv } c [] = 0) :
    s.judgeMirror c bs w
      = State.modCtx { s.unmirrored c m w with recv := m.receiver c s.recv } c fun x => { x with mirror := some m } := by
  have hmine : s.recv.ctx == some c ↔ s.recv.ctx = some c := beq_iff_eq
  unfold State.judgeMirror State.unmirrored
  simp only [hjob, if_false, hparse]
  cases hm : m.recv with
  | none =>
    have hrecv : m.receiver c s.recv = if s.recv.ctx = some c then { ctx := none, rank := 0, gib := 0, slots := [], refused := none }
      else s.recv := by simp only [MirrorCfg.receiver, hm]
    simp only [hrecv, hranges, hmine, Bool.not_true, Bool.false_eq_true, if_false, Option.isSome_none, false_and, Nat.not_lt.2 hfits]
  | some k =>
    have hrecv : m.receiver c s.recv
        = { ctx := some c, rank := k, gib := m.slotGib, slots := List.replicate m.slots RecvSlot.empty, refused := none } := by
      simp only [MirrorCfg.receiver, hm]
    have hzero := hroom.resolve_left (by rw [hm]; exact Option.some_ne_none k)
    rw [hrecv] at hzero
    simp only [hrecv, hranges, hzero, Bool.not_true, Bool.false_eq_true, if_false, Nat.lt_irrefl, and_false, Nat.not_lt.2 hfits]

/-! ### A restore is admitted -/

/-- A RESTORE that fits joins the steps of its context (R376). -/
theorem State.judgeRestore_of_fits {s : State} {c : CtxId} {bs : List Byte} {w : Who} {q : Restore} {n : Step}
    (hn : n = s.innerStep .restore q.step (writeSet (pageRanges q.ranges .committed) q.ranges).1
      (writeSet (pageRanges q.ranges .committed) q.ranges).2 w)
    (hjob : (s.ctx c).job.tag ≠ 0#32) (hparse : parseRestore bs = some q) (hrole : (s.ctx c).role = .training)
    (hranges : s.stateRanges c q.ranges = true) (hroom : s.capacityShort c (pageRanges q.ranges .committed) = 0)
    (hsteps : ∀ u ∈ (s.ctx c).steps, u.state = .committed) (hgroup : s.groupShort c n.wholeSpan = none) :
    s.judgeRestore c bs w
      = ((s.addStep c n [] []).acceptStep c n).modCtx c fun x => { x with restore := some { q with uid := n.uid } } := by
  have hidle : ((s.ctx c).steps.any fun u => u.state != .committed) = false :=
    List.any_eq_false.2 fun u hu => by simp [hsteps u hu]
  unfold State.judgeRestore
  simp only [hparse, ← hn, hranges, hrole, hroom, hidle, hgroup, beq_eq_false_iff_ne.2 hjob, Bool.not_true, Bool.or_self, Bool.false_eq_true,
    ne_eq, not_true_eq_false, Nat.lt_irrefl, if_false]

/-! ### The obligation -/

theorem State.taken_ctx_other (s : State) (r : RecordIn) {d : CtxId} (hd : d ≠ r.ctx) : (s.taken r).ctx d = s.ctx d := by
  rw [State.taken_ctx, if_neg hd.symm]

/-- Settles O14: the accepting branches, whose later parts keep the registers and steps that the ACCEPTED entry leaves. -/
theorem mirrorAndRestoreRecords : Obligations.MirrorAndRestoreRecords := by
  intro s r hactive hasm hjob
  have hctx : (s.taken r).ctx r.ctx = { s.ctx r.ctx with regs := ((s.taken r).ctx r.ctx).regs } := by
    rw [State.taken_ctx, if_pos rfl]
  have hjob' : ((s.taken r).ctx r.ctx).job = (s.ctx r.ctx).job := by rw [hctx]
  constructor
  · intro m htakes hparse hranges hfits recv hroom
    have hjudge := State.judgeMirror_of_fits (w := whoOf r) (by rw [hjob']; exact hjob) (by rw [hjob']; exact hparse) hranges hfits hroom
    have hrun : exec (.mirrorConfiguration r) s = .next (State.dispatch <| State.modCtx { (s.taken r).unmirrored r.ctx m (whoOf r) with
        recv := recv } r.ctx fun x => { x with mirror := some m }) := by
      rw [exec_mirrorConfiguration, State.recordIn_judged htakes (by decide) (.inl hactive) (.inl hasm)]
      exact congrArg (fun u : State => Host.Outcome.next u.dispatch) hjudge
    obtain ⟨hstream, ⟨e, hcode, hseq, hself⟩, hothers, hmem, hhbm⟩ := (s.taken r).unmirrored_leaves r.ctx m (whoOf r)
    generalize (s.taken r).unmirrored r.ctx m (whoOf r) = u at hrun hstream hself hothers hmem hhbm
    have hset : ∀ d, (State.modCtx { u with recv := recv } r.ctx fun x => { x with mirror := some m }).ctx d
        = if r.ctx = d then { u.ctx r.ctx with mirror := some m } else u.ctx d := fun d => State.modCtx_ctx ..
    have hregs : (u.ctx r.ctx).regs = { ((s.taken r).ctx r.ctx).regs with
        results := (s.ctx r.ctx).regs.results + 1, lastCode := 0x01#8, lastSeq := r.seq } := by
      rw [hself, ← s.taken_results r]
      simp only [Ctx.entered, hcode, hseq, whoOf, Code.value, BitVec.ofNat_toNat, BitVec.setWidth_eq]
    have hsteps : (u.ctx r.ctx).steps = (s.ctx r.ctx).steps := by rw [hself, hctx]; rfl
    have hjobs : (u.ctx r.ctx).job = (s.ctx r.ctx).job := by rw [hself, hctx]; rfl
    refine ⟨_, hrun, ?mirror, State.dispatch_recv _, ?stream, ?regs, ?job, ?steps, fun d hd => ?others, ?mem, ?hbm⟩
    case mirror => rw [State.dispatch_ctx_mirror, hset, if_pos rfl]
    case stream => rw [State.dispatch_ctx_stream, hset, if_pos rfl]; exact hstream
    case regs => rw [State.dispatch_ctx_regs, hset, if_pos rfl]; exact hregs
    case job => rw [State.dispatch_ctx_job, hset, if_pos rfl]; exact hjobs
    case steps =>
      have hmap := congrArg (fun x : Ctx => x.steps) (State.dispatch_ctx (State.modCtx { u with recv := recv } r.ctx
        fun x => { x with mirror := some m }) r.ctx)
      rw [hset, if_pos rfl] at hmap
      exact hmap.trans (congrArg (List.map Step.still) hsteps)
    case others => rw [State.dispatch_ctx, hset, if_neg hd.symm, hothers d hd, State.taken_ctx_other s r hd]
    case mem => rw [State.dispatch_mem]; exact hmem
    case hbm => rw [State.dispatch_hbm]; exact hhbm
  · intro q htakes hparse hrole hranges hroom hsteps ps n hgroup
    have hjudge := State.judgeRestore_of_fits (w := whoOf r) (n := n) rfl (by rw [hjob']; exact hjob) hparse (by rw [hctx]; exact hrole) hranges
      hroom (by rw [hctx]; exact hsteps) hgroup
    have hrun : exec (.restore r) s = .next (State.dispatch <| (((s.taken r).addStep r.ctx n [] []).acceptStep r.ctx n).modCtx r.ctx
        fun x => { x with restore := some { q with uid := n.uid } }) := by
      rw [exec_restore, State.recordIn_judged htakes (by decide) (.inl hactive) (.inl hasm)]
      exact congrArg (fun u : State => Host.Outcome.next u.dispatch) hjudge
    have hadmits := ((State.Admits.addStep (s.taken r) r.ctx n [] []).modCtx (fun x => { x with restore := some { q with uid := n.uid } })
      fun _ => by exact ⟨rfl, rfl, rfl, rfl, rfl⟩).dispatch
    refine ⟨_, hrun, ?restore, ?steps, hadmits.nextUid, ?mirror, hadmits.mem, hadmits.weir, ?regs⟩
    case restore =>
      rw [State.dispatch_ctx_restore, State.modCtx_ctx, if_pos rfl]
      rfl
    case steps => rw [hadmits.steps, hctx]
    case mirror => rw [hadmits.mirror, hctx]
    case regs =>
      rw [hadmits.regs, ← s.taken_results r]
      rfl

end Sys2Proof.Machine
end

section
/-! PROOFS. What the start of a rung leaves of the device (R125, R209, R367 to R371, R382). -/

namespace Sys2Proof.Machine

/-! ### A rung is noted -/

/-- RCV_ once a rung is counted, named and runs (R382, R383). -/
def Rcv.noted (r : Rcv) (g : Rung) : Rcv :=
  let i : Fin 6 := ⟨(RungScope.code g.scope - 1) % 6, Nat.mod_lt _ (by decide)⟩
  { r with rungs := r.rungs ++ [g], counts := r.counts.set i (satInc r.counts[i]), last := BitVec.ofNat 32 (g.word false) }

theorem Rcv.noted_rungs (r : Rcv) (g : Rung) : (r.noted g).rungs = r.rungs ++ [g] := rfl

theorem State.noteRung_eq (s : State) (g : Rung) :
    ∃ tel out, s.noteRung g = { s with rcv := s.rcv.noted g, tel := tel, out := out } := by
  unfold State.noteRung
  extract_lets i rcv s1
  rw [State.freezeTrace_rest, State.trace_rest]
  exact ⟨_, _, rfl⟩

theorem State.noteRung_plant (s : State) (g : Rung) : (s.noteRung g).plant = State.plant { s with rcv := s.rcv.noted g } := by
  obtain ⟨tel, out, h⟩ := s.noteRung_eq g
  rw [h]
  rfl

/-! ### Rungs below the device rungs -/

/-- The complex of a region is not ready from the start of its rung. -/
def Dma.stopped (d : Dma) : RungScope → Dma
  | .region r => { d with ready := d.ready.set r.val false }
  | _ => d

/-- Such a rung takes over the rungs within its scope and ends what the contexts run there. -/
def State.rungTakesOver (s : State) (g : Rung) : State :=
  let s1 : State := { s with rcv := { s.rcv with rungs := s.rcv.rungs.filter fun r => !(s.holdsScope g.scope r.scope) } }
  ((s1.noteRung g).forCtx (State.rungCtx g.scope)).forgetKills g.scope

/-- A region's rung stops its complex, and its evidence areas are lost. -/
def State.stopRegion (s : State) : RungScope → State
  | .region r => State.loseEvidence { s with dma := { s.dma with ready := s.dma.ready.set r.val false } } fun a => a / 2 == r.val
  | _ => s

theorem State.stopRegion_engine (s : State) (e : Engine) : s.stopRegion (.engine e) = s := rfl

/-- Ready commands take the engine that its rung has freed, or admitted work is tested against what is left. -/
def State.afterRung (s : State) : RungScope → State
  | .engine _ => s.dispatch
  | _ => s.retestAll .capacityLost

theorem State.startRung_absorbed {s : State} {scope : RungScope} (h : (s.rcv.rungs.any fun g => s.holdsScope g.scope scope) = true)
    (missed : Bool) (engine : Option Engine) (todo : List CtxId) : s.startRung scope missed engine todo = s := by
  unfold State.startRung
  rw [if_pos h]

section
variable {s : State} {scope : RungScope} (missed : Bool) (engine : Option Engine) (todo : List CtxId)
  (hfree : (s.rcv.rungs.any fun g => s.holdsScope g.scope scope) = false)
include hfree

theorem State.startRung_lower (hwarm : scope ≠ .warm) (hcold : scope ≠ .cold) :
    s.startRung scope missed engine todo =
      ((s.rungTakesOver { scope := scope, start := s.clk.now, missed := missed, engine := engine, todo := todo }).stopRegion scope).afterRung
        scope := by
  unfold State.startRung
  rw [if_neg (Bool.eq_false_iff.1 hfree)]
  cases scope with
  | warm => exact absurd rfl hwarm
  | cold => exact absurd rfl hcold
  | _ =>
    dsimp only [State.afterRung, State.stopRegion, State.rungTakesOver]

theorem State.startRung_warm (h : scope = .warm) : s.startRung scope missed engine todo =
    s.warmStart.noteRung { scope := .warm, start := s.clk.now, missed := missed, engine := engine, todo := todo } := by
  subst h
  unfold State.startRung
  rw [if_neg (Bool.eq_false_iff.1 hfree)]

theorem State.startRung_cold (h : scope = .cold) : s.startRung scope missed engine todo =
    (s.coldStart { s.clk with now := 0 } s.boot.strap s.waitingMiss).noteRung
      { scope := .cold, start := 0, missed := missed, engine := engine, todo := todo } := by
  subst h
  unfold State.startRung
  rw [if_neg (Bool.eq_false_iff.1 hfree)]

end

theorem State.rungTakesOver_plant (s : State) (g : Rung) : (s.rungTakesOver g).plant = State.plant { s with
    rcv := Rcv.noted { s.rcv with rungs := s.rcv.rungs.filter fun r => !(s.holdsScope g.scope r.scope) } g } := by
  unfold State.rungTakesOver State.forCtx
  dsimp only
  rw [State.forgetKills_plant, State.plant_foldl _ (State.rungCtx_plant g.scope), State.noteRung_plant]

theorem State.stopRegion_plant (s : State) (scope : RungScope) :
    (s.stopRegion scope).plant = { s.plant with dma := s.plant.dma.stopped scope } := by
  cases scope <;> rfl

/-- Such a rung, where no running rung absorbs it, changes RCV_ and what is ready in the rest of the device. -/
theorem State.startRung_lower_plant {s : State} {scope : RungScope} (missed : Bool) (engine : Option Engine) (todo : List CtxId)
    (hfree : (s.rcv.rungs.any fun g => s.holdsScope g.scope scope) = false) (hwarm : scope ≠ .warm) (hcold : scope ≠ .cold) :
    (s.startRung scope missed engine todo).plant = State.plant { s with
      rcv := Rcv.noted { s.rcv with rungs := s.rcv.rungs.filter fun r => !(s.holdsScope scope r.scope) }
        { scope := scope, start := s.clk.now, missed := missed, engine := engine, todo := todo }
      dma := s.dma.stopped scope } := by
  have hbegun := (s.rungTakesOver { scope := scope, start := s.clk.now, missed := missed, engine := engine, todo := todo }).stopRegion_plant
    scope
  rw [State.rungTakesOver_plant] at hbegun
  rw [State.startRung_lower missed engine todo hfree hwarm hcold]
  generalize State.stopRegion _ scope = t at hbegun ⊢
  refine Eq.trans ?_ hbegun
  cases scope with
  | engine e => exact State.dispatch_plant t
  | _ => exact State.retestAll_plant t _

theorem State.forgetKills_kills {s : State} {scope : RungScope} {o : Kill} (h : o ∈ (s.forgetKills scope).rcv.kills) :
    s.inScope scope o.engine = false := by
  simpa using (List.mem_filter.1 h).2

/-- After the engine rung no earlier kill waits for its engine. -/
theorem State.startRung_engine_kills {s : State} {e : Engine} (missed : Bool) (engine : Option Engine) (todo : List CtxId)
    (hfree : (s.rcv.rungs.any fun g => s.holdsScope g.scope (.engine e)) = false) :
    ∀ o ∈ (s.startRung (.engine e) missed engine todo).rcv.kills, o.engine ≠ e := by
  rw [State.startRung_lower missed engine todo hfree (by simp) (by simp)]
  intro o ho
  rw [State.afterRung, State.dispatch_rcv, State.stopRegion_engine, State.rungTakesOver] at ho
  have hout := State.forgetKills_kills ho
  simpa [State.inScope] using hout

/-! ### The warm device reset (R209, R412) -/

@[simp] theorem State.abandonUpdate_own (s : State) : s.abandonUpdate.own = s.own := by
  unfold State.abandonUpdate
  (repeat' split) <;> rfl

@[simp] theorem State.warmCtx_plant (s : State) (c : CtxId) : (s.warmCtx c).plant = s.plant := by
  unfold State.warmCtx
  split
  · rfl
  · extract_lets s1 lost s2
    have h1 : s1.plant = s.plant := (State.advanceGen_plant ..).trans
      ((State.plant_of_mirrors (State.Mirrors.dropStream ..)).trans (State.rungAborts_plant ..))
    exact h1

@[simp] theorem State.dropReceives_plant (s : State) : s.dropReceives.plant = s.plant := by
  refine State.plant_foldl _ (fun u i => ?_) _ s
  split
  · exact State.abortReceive_plant ..
  · rfl

@[simp] theorem State.dropDeviceGroups_plant (s : State) : s.dropDeviceGroups.plant = s.plant := by
  refine State.plant_foldl _ (fun u k => ?_) _ s
  split <;> rfl

/-- Levels computed afresh change stacks' levels, zones, the alert and the outputs. -/
theorem State.recomputeLevels_rest (s : State) : ∃ hbm pwr out, s.recomputeLevels = { s with hbm := hbm, pwr := pwr, out := out } := by
  unfold State.recomputeLevels State.driveAlert
  dsimp only
  split
  · exact ⟨_, _, s.out, rfl⟩
  · exact ⟨_, _, _, rfl⟩

@[simp] theorem State.recomputeLevels_own (s : State) : s.recomputeLevels.own = s.own := by
  obtain ⟨hbm, pwr, out, h⟩ := s.recomputeLevels_rest
  rw [h]
@[simp] theorem State.recomputeLevels_cfg (s : State) : s.recomputeLevels.cfg = s.cfg := by
  obtain ⟨hbm, pwr, out, h⟩ := s.recomputeLevels_rest
  rw [h]
@[simp] theorem State.recomputeLevels_slu (s : State) : s.recomputeLevels.slu = s.slu := by
  obtain ⟨hbm, pwr, out, h⟩ := s.recomputeLevels_rest
  rw [h]
@[simp] theorem State.recomputeLevels_rcv (s : State) : s.recomputeLevels.rcv = s.rcv := by
  obtain ⟨hbm, pwr, out, h⟩ := s.recomputeLevels_rest
  rw [h]
@[simp] theorem State.recomputeLevels_boot (s : State) : s.recomputeLevels.boot = s.boot := by
  obtain ⟨hbm, pwr, out, h⟩ := s.recomputeLevels_rest
  rw [h]

/-- Contexts, receive groups and the device row on the way into a warm device reset. -/
def State.warmCleared (s : State) : State :=
  ((s.abandonUpdate.loseEvidence fun _ => true).forCtx State.warmCtx).dropReceives.dropDeviceGroups

theorem State.warmCleared_plant (s : State) : s.warmCleared.plant = s.abandonUpdate.plant := by
  unfold State.warmCleared State.forCtx
  rw [State.dropDeviceGroups_plant, State.dropReceives_plant, State.plant_foldl _ State.warmCtx_plant, State.loseEvidence_plant]

/-- Settings and ownership outlast a warm device reset, no rung outlasts its start, and nothing is admitted. -/
theorem State.warmStart_leaves (s : State) : s.warmStart.own = s.own ∧ s.warmStart.cfg = s.cfg ∧ s.warmStart.rcv.rungs = []
    ∧ s.warmStart.boot.warm = true ∧ s.warmStart.slu.admitting = false := by
  have hplant := s.warmCleared_plant
  have hown : s.warmCleared.clearCounters.own = s.own := (congrArg (·.own) hplant).trans s.abandonUpdate_own
  have hcfg : s.warmCleared.clearCounters.cfg = s.cfg := (congrArg (·.cfg) hplant).trans (kept_cfg s.abandonUpdate_kept)
  unfold State.warmStart
  extract_lets s1
  have hs1 : s1 = s.warmCleared.clearCounters := rfl
  rw [← hs1] at hown hcfg
  clear_value s1
  simp only [State.recomputeLevels_own, State.recomputeLevels_cfg, State.recomputeLevels_slu, State.recomputeLevels_rcv,
    State.recomputeLevels_boot, and_true]
  exact ⟨hown, hcfg⟩

end Sys2Proof.Machine
end

section
/-! PROOFS. What the loss of a unit leaves: what was bad stays bad, and no record is lost (R11, R12, R76, R158 to R161, R185, R347, R372). -/

namespace Sys2Proof.Machine

/-- The parts of the device that no unit's loss reaches: settings, ownership, fuses, counter, SRAM repair, and the units that wait. -/
def State.unworn (s : State) : Cfg × Own × Fuse × Clk × Sram × List HwUnit := (s.cfg, s.own, s.fuse, s.clk, s.sram, s.hw.pendingOut)

/-- Units may have left service between two states: what was bad is bad, and no record is lost. -/
structure State.Wears (s t : State) : Prop where
  rest    : t.unworn = s.unworn
  bad     : ∀ u, s.knownBad u = true → t.knownBad u = true
  records : ∀ g ∈ s.intg.records, g ∈ t.intg.records

theorem State.Wears.refl (s : State) : State.Wears s s := ⟨rfl, fun _ h => h, fun _ h => h⟩

theorem State.Wears.trans {s t u : State} (a : State.Wears s t) (b : State.Wears t u) : State.Wears s u :=
  ⟨b.rest.trans a.rest, fun v h => b.bad v (a.bad v h), fun g h => b.records g (a.records g h)⟩

theorem State.Wears.foldl {α : Type} (f : State → α → State) (h : ∀ u a, State.Wears u (f u a)) (l : List α) (s : State) :
    State.Wears s (l.foldl f s) := by
  induction l generalizing s with
  | nil => exact .refl s
  | cons a l ih => exact (h s a).trans (ih _)

theorem State.parts_of_unworn {s t : State} (h : t.unworn = s.unworn) :
    t.cfg = s.cfg ∧ t.own = s.own ∧ t.fuse = s.fuse ∧ t.clk = s.clk ∧ t.sram = s.sram ∧ t.hw.pendingOut = s.hw.pendingOut := by
  simpa [State.unworn] using h

/-- The units are as the arrays, bridges and channels say. -/
theorem State.knownBad_congr {s t : State} (hhw : t.hw = s.hw) (hd2d : t.dma.d2d = s.dma.d2d) (hford : t.dma.ford = s.dma.ford)
    (hhbm : t.hbm.chans = s.hbm.chans) (u : HwUnit) : t.knownBad u = s.knownBad u := by
  cases u <;> simp only [State.knownBad, hhw, hd2d, hford, hhbm]

theorem State.Wears.of_units {s t : State} (hrest : t.unworn = s.unworn) (hhw : t.hw = s.hw) (hd2d : t.dma.d2d = s.dma.d2d)
    (hford : t.dma.ford = s.dma.ford) (hhbm : t.hbm.chans = s.hbm.chans) (hr : ∀ g ∈ s.intg.records, g ∈ t.intg.records) :
    State.Wears s t := ⟨hrest, fun u hu => (State.knownBad_congr hhw hd2d hford hhbm u).trans hu, hr⟩

theorem State.Wears.of_plant {s t : State} (h : t.plant = s.plant) (hr : ∀ g ∈ s.intg.records, g ∈ t.intg.records) : State.Wears s t := by
  have hrest : t.plant.unworn = s.plant.unworn := by rw [h]
  exact .of_units hrest (congrArg (·.hw) h) (congrArg (·.dma.d2d) h) (congrArg (·.dma.ford) h) (congrArg (·.hbm.chans) h) hr

theorem State.Wears.of_outer {s t : State} (h : t.outer = s.outer) : State.Wears s t :=
  .of_plant (State.plant_of_outer h) (fun _ hg => (congrArg (·.intg.records) h : t.intg.records = s.intg.records) ▸ hg)

theorem State.Wears.abortStep (s : State) (c : CtxId) (uid : Nat) (code : Code) (reason : Reason) (index : Nat) (tell : Bool) :
    State.Wears s (s.abortStep c uid code reason index tell) := .of_outer (State.Ended.abortStep ..).outer

theorem State.Wears.dispatch (s : State) : State.Wears s s.dispatch :=
  .of_plant s.dispatch_plant (fun _ h => by rwa [State.dispatch_intg])

theorem State.Wears.record (s : State) (g : Sig) : State.Wears s (s.record g) :=
  .of_plant rfl fun _ h => List.mem_append_left _ h

theorem State.Wears.journal (s : State) (b : JBody) : State.Wears s (s.journal b) :=
  .of_units rfl rfl rfl rfl rfl fun _ h => h

/-! ### Testing admitted work again (R55, R315) -/

theorem State.Wears.deliver (s : State) (c : CtxId) (ds : List Delivery) : State.Wears s (s.deliver c ds) := by
  refine .of_plant (s.deliver_plant c ds) fun g hg => ?_
  unfold State.deliver State.msixOwner
  dsimp only
  (repeat' split) <;> exact hg

theorem State.Wears.endPattern (s : State) (c : CtxId) : State.Wears s (s.endPattern c) := by
  refine .of_plant (s.endPattern_plant c) fun g hg => ?_
  unfold State.endPattern
  dsimp only
  split
  · exact List.mem_append_left _ hg
  · exact hg

theorem State.Wears.retestPattern (s : State) (c : CtxId) (reason : Reason) : State.Wears s (s.retestPattern c reason) := by
  unfold State.retestPattern
  split
  · exact .refl s
  · split
    · exact ((State.Wears.foldl _ (fun _ _ => .abortStep ..) _ s).trans (.deliver ..)).trans (.endPattern ..)
    · exact .of_plant rfl fun _ h => h

theorem State.Wears.retestFrom (reason : Reason) (ts : List (CtxId × Step)) (kept : List Item) (s : State) :
    State.Wears s (State.retestFrom reason ts kept s) := by
  induction ts generalizing kept s with
  | nil => exact .refl s
  | cons p ts ih =>
    unfold State.retestFrom
    split
    · exact ih ..
    · extract_lets new ok
      split
      · exact ih ..
      · exact (State.Wears.abortStep ..).trans (ih ..)

theorem State.Wears.retestAll (s : State) (reason : Reason) : State.Wears s (s.retestAll reason) :=
  ((State.Wears.foldl _ (fun u c => .retestPattern u c reason) allCtx s).trans (.retestFrom ..)).trans (.dispatch _)

/-! ### One unit out of service (R347, R372) -/

/-- A change of the clusters' use wears units when no cluster that is out comes back. -/
theorem State.Wears.of_use {s t : State} {new : Vector ClusterUse 28} (hrest : t.unworn = s.unworn)
    (hhw : t.hw = { s.hw with use := new }) (hd2d : t.dma.d2d = s.dma.d2d) (hford : t.dma.ford = s.dma.ford)
    (hhbm : t.hbm.chans = s.hbm.chans) (hrec : t.intg.records = s.intg.records)
    (hout : ∀ c : Fin 28, s.hw.use[c] = .out → new[c] = .out) : State.Wears s t := by
  refine ⟨hrest, fun u hu => ?_, fun _ h => hrec ▸ h⟩
  rw [State.knownBad_congr (s := { s with hw := { s.hw with use := new } }) hhw hd2d hford hhbm]
  cases u with
  | array c k i =>
    refine Bool.or_eq_true_iff.2 ((Bool.or_eq_true_iff.1 hu).imp_left fun h => ?_)
    exact beq_iff_eq.2 (hout c (beq_iff_eq.1 h))
  | cluster c => exact beq_iff_eq.2 (hout c (beq_iff_eq.1 hu))
  | region r => exact List.all_eq_true.2 fun c hc => beq_iff_eq.2 (hout c (beq_iff_eq.1 (List.all_eq_true.1 hu c hc)))
  | die d =>
    refine List.all_eq_true.2 fun c hc => Bool.or_eq_true_iff.2 ((Bool.or_eq_true_iff.1 (List.all_eq_true.1 hu c hc)).imp_right fun h => ?_)
    exact beq_iff_eq.2 (hout c (beq_iff_eq.1 h))
  | _ => exact hu

/-- Changes of contexts change contexts only. -/
theorem State.forCtx_modCtx_rest (s : State) (f : State → CtxId → Ctx → Ctx) :
    (s.forCtx fun t c => t.modCtx c (f t c)) = { s with ctxs := (s.forCtx fun t c => t.modCtx c (f t c)).ctxs } := by
  generalize ht : (s.forCtx fun t c => t.modCtx c (f t c)) = t
  have h : ({ t with ctxs := State.reset.ctxs } : State) = { s with ctxs := State.reset.ctxs } := by
    rw [← ht]
    exact State.keeps_foldl (fun u : State => ({ u with ctxs := State.reset.ctxs } : State)) (fun t c => t.modCtx c (f t c))
      (fun _ _ => rfl) allCtx s
  calc t = { ({ t with ctxs := State.reset.ctxs } : State) with ctxs := t.ctxs } := rfl
    _ = { s with ctxs := t.ctxs } := by rw [h]

/-- A new use of the clusters changes them, memory and contexts. -/
theorem State.adoptUse_rest (s : State) (new : Vector ClusterUse 28) :
    ∃ mem ctxs, s.adoptUse new = { s with mem := mem, hw := { s.hw with use := new }, ctxs := ctxs } := by
  unfold State.adoptUse
  extract_lets old f moved fresh m1 m2 u1 s1
  exact ⟨_, _, State.forCtx_modCtx_rest s1 _⟩

theorem State.Wears.adoptUse (s : State) {new : Vector ClusterUse 28} (hout : ∀ c : Fin 28, s.hw.use[c] = .out → new[c] = .out) :
    State.Wears s (s.adoptUse new) := by
  obtain ⟨mem, ctxs, h⟩ := s.adoptUse_rest new
  rw [h]
  exact .of_use rfl rfl rfl rfl rfl rfl hout

@[simp] theorem State.adoptUse_use (s : State) (new : Vector ClusterUse 28) : (s.adoptUse new).hw.use = new := by
  obtain ⟨mem, ctxs, h⟩ := s.adoptUse_rest new
  rw [h]

/-- A retirement that the journal takes, or has. -/
theorem State.journalRetire_rest (s : State) (u : HwUnit) :
    ∃ queue, s.journalRetire u = { s with boot := { s.boot with queue := queue } } ∧ ∀ b ∈ s.boot.queue, b ∈ queue := by
  unfold State.journalRetire
  dsimp only
  split
  · exact ⟨s.boot.queue, rfl, fun _ h => h⟩
  · exact ⟨_, rfl, fun _ h => List.mem_append_left _ h⟩

theorem State.Wears.journalRetire (s : State) (u : HwUnit) : State.Wears s (s.journalRetire u) := by
  obtain ⟨queue, h, -⟩ := s.journalRetire_rest u
  rw [h]
  exact .of_units rfl rfl rfl rfl rfl fun _ h => h

@[simp] theorem State.journalRetire_hw (s : State) (u : HwUnit) : (s.journalRetire u).hw = s.hw := by
  obtain ⟨queue, h, -⟩ := s.journalRetire_rest u
  rw [h]

/-! ### Clusters, arrays and regions (R11, R12, R76, R372) -/

theorem State.use_of_oxbows {s : State} {d : Fin 2} {o : Fin 28} (h : o ∈ s.oxbows d) : s.hw.use[o] = .checker := by
  have hboth := (List.mem_filter.1 h).2
  exact beq_iff_eq.1 (Bool.and_eq_true_iff.1 hboth).1

/-- What takes a failed cluster's place is an Oxbow. -/
theorem State.spareFor_checker {s : State} {c o : Fin 28} (h : s.spareFor c = some o) : s.hw.use[o] = .checker := by
  unfold State.spareFor at h
  dsimp only at h
  split at h
  · cases h
  · obtain h | ⟨-, h⟩ := (Option.orElse_eq_some ..).1 h
    · exact State.use_of_oxbows (List.mem_of_find?_eq_some h)
    · exact State.use_of_oxbows (List.mem_of_head? h)

/-- Numbering leaves every cluster that is out of use where it is. -/
theorem renumber_out {use : Vector ClusterUse 28} {c : Fin 28} (h : use[c] = .out) (place : Fin 28 → Nat) :
    (renumber use place)[c] = .out := by
  have hval : use[c.val] = .out := h
  simp [renumber, hval]

theorem use_set (use : Vector ClusterUse 28) (c d : Fin 28) (x : ClusterUse) : (use.set c x)[d] = if c = d then x else use[d] := by
  simp [Vector.getElem_set, Fin.ext_iff]

/-- A failed cluster is out of use, and none comes back. -/
theorem State.failCluster_wears (s : State) (c : Fin 28) : State.Wears s (s.failCluster c) ∧ (s.failCluster c).hw.use[c] = .out := by
  have hset : ∀ d : Fin 28, s.hw.use[d] = .out → (s.hw.use.set c .out)[d] = .out := fun d hd => by
    rw [use_set, hd, ite_self]
  have hself : (s.hw.use.set c .out)[c] = .out := by rw [use_set, if_pos rfl]
  unfold State.failCluster
  split
  case h_1 hout => exact ⟨.refl s, hout⟩
  case h_2 hchecker =>
    refine ⟨.trans ?_ (.journalRetire ..), ?_⟩
    · exact .of_use rfl rfl rfl rfl rfl rfl hset
    · rw [State.journalRetire_hw]
      exact hself
  case h_3 n hlogical =>
    split
    case h_1 o ho =>
      have hchecker := State.spareFor_checker ho
      have hne : o ≠ c := by
        rintro rfl
        rw [hlogical] at hchecker
        cases hchecker
      have hkeep : ∀ d : Fin 28, (s.hw.use.set c .out)[d] = .out → d ≠ o → ((s.hw.use.set c .out).set o (.logical n))[d] = .out :=
        fun d hd hdo => by rw [use_set, if_neg hdo.symm, hd]
      refine ⟨.trans (.adoptUse s fun d hd => hkeep d (hset d hd) ?_) (.journal ..), ?_⟩
      · rintro rfl
        rw [hd] at hchecker
        cases hchecker
      · rw [State.journal_hw, State.adoptUse_use]
        exact hkeep c hself hne.symm
    case h_2 =>
      refine ⟨.trans (.adoptUse s fun d hd => renumber_out (hset d hd) _) (.journalRetire ..), ?_⟩
      rw [State.journalRetire_hw, State.adoptUse_use]
      exact renumber_out hself _

/-- What every application makes, and every later one keeps, a fold leaves of each of its arguments. -/
theorem foldl_reaches {α σ : Type} {P : α → σ → Prop} (f : σ → α → σ) (hmake : ∀ u a, P a (f u a))
    (hkeep : ∀ u a b, P b u → P b (f u a)) (l : List α) (s : σ) : ∀ a ∈ l, P a (l.foldl f s) := by
  have hfold : ∀ (l : List α) (u : σ) (b : α), P b u → P b (l.foldl f u) := fun l => by
    induction l with
    | nil => exact fun _ _ h => h
    | cons a l ih => exact fun u b h => ih _ b (hkeep u a b h)
  induction l generalizing s with
  | nil => exact fun _ h => absurd h List.not_mem_nil
  | cons a l ih =>
    intro b hb
    obtain rfl | hb := List.mem_cons.1 hb
    · exact hfold l _ b (hmake s b)
    · exact ih _ b hb

theorem foldl_set_out (l : List (Fin 28)) (use : Vector ClusterUse 28) (d : Fin 28) (h : d ∈ l ∨ use[d] = .out) :
    (l.foldl (fun u c => u.set c .out) use)[d] = .out := by
  induction l generalizing use with
  | nil => exact h.resolve_left List.not_mem_nil
  | cons c l ih =>
    refine ih (use.set c .out) ?_
    rw [use_set]
    by_cases hcd : c = d
    · exact .inr (if_pos hcd)
    · rw [if_neg hcd]
      exact h.imp_left fun hd => (List.mem_cons.1 hd).resolve_left (Ne.symm hcd)

theorem State.failRegion_wears (s : State) (r : Fin 4) : State.Wears s (s.failRegion r) ∧ (s.failRegion r).knownBad (.region r) = true := by
  unfold State.failRegion
  dsimp only
  refine ⟨.trans (.adoptUse s fun d hd => renumber_out (foldl_set_out _ _ _ (.inr hd)) _) (.journalRetire ..), ?_⟩
  refine List.all_eq_true.2 fun c hc => beq_iff_eq.2 ?_
  rw [State.journalRetire_hw, State.adoptUse_use]
  exact renumber_out (foldl_set_out _ _ _ (.inl hc)) _

theorem State.failDie_wears (s : State) (d : Fin 2) :
    State.Wears s (s.takeOut (.die d)) ∧ (s.takeOut (.die d)).knownBad (.die d) = true := by
  refine ⟨.foldl _ (fun u r => (u.failRegion_wears r).1) _ s, List.all_eq_true.2 fun c _ => ?_⟩
  have hregions := foldl_reaches (P := fun r u => u.knownBad (.region r) = true) State.failRegion (fun u r => (u.failRegion_wears r).2)
    (fun u r q hq => (u.failRegion_wears r).1.bad (.region q) hq) ((List.finRange 4).filter fun r => dieOf r == d) s
  by_cases hc : dieOf (regionOf c) = d
  · have hbad := hregions (regionOf c) (List.mem_filter.2 ⟨List.mem_finRange _, beq_iff_eq.2 hc⟩)
    have hout := List.all_eq_true.1 hbad c (List.mem_filter.2 ⟨List.mem_finRange _, beq_self_eq_true _⟩)
    exact Bool.or_eq_true_iff.2 (.inr hout)
  · exact Bool.or_eq_true_iff.2 (.inl (bne_iff_ne.2 hc))

/-- A change of the units that leaves those that wait, and makes no bad one good. -/
theorem State.Wears.of_hw {s : State} {hw : Hw} (hwait : hw.pendingOut = s.hw.pendingOut)
    (hbad : ∀ u, s.knownBad u = true → State.knownBad { s with hw := hw } u = true) : State.Wears s { s with hw := hw } :=
  ⟨by simp only [State.unworn, hwait], hbad, fun _ h => h⟩

/-- A bit that is taken out of a mask is 0, and one that was 0 is 0. -/
theorem getLsbD_maskOut {w : Nat} (x : BitVec w) (i j : Nat) (h : i = j ∨ x.getLsbD j = false) :
    (x &&& ~~~(1#w <<< i)).getLsbD j = false := by
  rw [BitVec.getLsbD_and, BitVec.getLsbD_not, BitVec.getLsbD_shiftLeft]
  obtain rfl | h := h
  · by_cases hw : i < w
    · simp [hw]; omega
    · simp [hw]
  · rw [h, Bool.false_and]

theorem State.dropArray_wears (s : State) (core : Fin 56) (i : Fin 4) :
    let t : State := { s with hw := { s.hw with live := s.hw.live.set core (s.hw.live[core] &&& ~~~(1#4 <<< i.val)) } }
    State.Wears s t ∧ ∀ c k, 2 * c.val + k.val = core.val → t.knownBad (.array c k i) = true := by
  have hlive : ∀ (n : Nat) (j : Fin 4), n = core.val ∧ i = j ∨ (s.hw.live[n]?.getD 0#4).getLsbD j.val = false →
      ((s.hw.live.set core (s.hw.live[core] &&& ~~~(1#4 <<< i.val)))[n]?.getD 0#4).getLsbD j.val = false := fun n j h => by
    by_cases hn : core.val = n
    · subst hn
      rw [Vector.getElem?_set_self, Option.getD_some]
      refine getLsbD_maskOut _ _ _ (h.imp (fun e => congrArg Fin.val e.2) fun e => ?_)
      simpa using e
    · rw [Vector.getElem?_set_ne _ hn]
      exact h.resolve_left fun e => hn e.1.symm
  refine ⟨.of_hw rfl fun u hu => ?_, fun c k hc => ?_⟩
  · cases u with
    | array c k j =>
      refine Bool.or_eq_true_iff.2 ((Bool.or_eq_true_iff.1 hu).imp_right fun h => ?_)
      exact congrArg (!·) (hlive _ j (.inr (by simpa using h)))
    | _ => exact hu
  · exact Bool.or_eq_true_iff.2 (.inr (congrArg (!·) (hlive _ i (.inl ⟨hc, rfl⟩))))

theorem State.failArray_wears (s : State) (c : Fin 28) (k : Fin 2) (i : Fin 4) :
    State.Wears s (s.failArray c k i) ∧ (s.failArray c k i).knownBad (.array c k i) = true := by
  unfold State.failArray
  extract_lets core other hw s1 s2
  obtain ⟨hwears, hbad⟩ := s.dropArray_wears core i
  have h2 : State.Wears s s2 := hwears.trans (.journalRetire ..)
  have hbad2 : s2.knownBad (.array c k i) = true := (State.Wears.journalRetire ..).bad _ (hbad c k rfl)
  have hcluster := s2.failCluster_wears c
  clear_value s2
  have hmore : ∀ t : State, State.Wears s2 t → State.Wears s t ∧ t.knownBad (.array c k i) = true :=
    fun t h => ⟨h2.trans h, h.bad _ hbad2⟩
  (repeat' split) <;> apply hmore
  · exact hcluster.1
  · exact .refl s2
  · exact hcluster.1
  · exact .refl s2
  · exact .refl s2

/-! ### Channels and modules (R158, R160, R161, R185) -/

theorem State.Wears.haltAdmission (s : State) : State.Wears s s.haltAdmission := by
  unfold State.haltAdmission
  refine State.Wears.trans (t := { s with slu := { s.slu with admitting := false } }) (.of_units rfl rfl rfl rfl rfl fun _ h => h) ?_
  refine .foldl _ (fun u p => ?_) _ _
  split
  · exact .abortStep ..
  · exact .refl u

theorem State.loseChannel_wears (s : State) (c : Fin 256) :
    State.Wears s (s.loseChannel c) ∧ (s.loseChannel c).knownBad (.hbmChannel c) = true := by
  unfold State.loseChannel
  split
  case isTrue hlost => exact ⟨.refl s, hlost⟩
  case isFalse =>
    extract_lets hbm chan s1 set sig s2 slu hbm2 s3 m
    have h1 : State.Wears s s1 := ⟨rfl, fun u hu => by
      cases u with
      | hbmChannel d =>
        show ((s.hbm.chans.set c { s.hbm.chans[c] with lost := true, suspect := false })[d.val]).lost = true
        rw [Vector.getElem_set]
        split
        · rfl
        · exact hu
      | _ => exact hu, fun _ h => h⟩
    have hbad1 : s1.knownBad (.hbmChannel c) = true := by
      show ((s.hbm.chans.set c { s.hbm.chans[c] with lost := true, suspect := false })[c.val]).lost = true
      rw [Vector.getElem_set_self]
    have h2 : State.Wears s1 s2 := (State.Wears.journal ..).trans (.record ..)
    have h3 : State.Wears s2 s3 := by
      unfold s3
      split
      · exact .of_units rfl rfl rfl rfl rfl fun _ h => h
      · exact .refl s2
    have hmore : ∀ t : State, State.Wears s2 t → State.Wears s t ∧ t.knownBad (.hbmChannel c) = true :=
      fun t h => ⟨(h1.trans h2).trans h, h.bad _ (h2.bad _ hbad1)⟩
    clear_value s1 s2 s3
    split
    · exact hmore _ (h3.trans (.retestAll ..))
    · exact hmore _ (State.Wears.trans (t := { s2 with hbm := { s2.hbm with migration := m } })
        (.of_units rfl rfl rfl rfl rfl fun _ h => h) (.haltAdmission _))

/-- A unit that is a module of a bridge. -/
def moduleUnit : Module → HwUnit
  | .d2d i => .d2dModule i
  | .ford d i => .fordModule d i

theorem State.knownBad_moduleUnit (s : State) (m : Module) : s.knownBad (moduleUnit m) = (s.module m == .lost) := by
  cases m <;> rfl

theorem State.loseModule_wears (s : State) (m : Module) :
    State.Wears s (s.loseModule m) ∧ (s.loseModule m).knownBad (moduleUnit m) = true := by
  unfold State.loseModule
  split
  case isTrue hlost => exact ⟨.refl s, by rw [State.knownBad_moduleUnit, hlost]; rfl⟩
  case isFalse =>
    have hset : State.Wears s (s.setModule m .lost) := by
      rw [State.setModule_rest]
      refine ⟨rfl, fun u hu => ?_, fun _ h => h⟩
      have hmod : ∀ n, s.module n = .lost → (s.setModule m .lost).module n = .lost := fun n hn => by
        rw [State.setModule_module, hn, ite_self]
      cases u with
      | d2dModule i => exact beq_iff_eq.2 (hmod (.d2d i) (beq_iff_eq.1 hu))
      | fordModule d i => exact beq_iff_eq.2 (hmod (.ford d i) (beq_iff_eq.1 hu))
      | _ => exact hu
    have hbad : (s.setModule m .lost).knownBad (moduleUnit m) = true := by
      rw [State.knownBad_moduleUnit, State.setModule_module, if_pos rfl]
      rfl
    have hafter := (State.Wears.journal (s.setModule m .lost) (.modLost m)).trans (.retestAll _ .bridgeLost)
    exact ⟨hset.trans hafter, hafter.bad _ hbad⟩

/-! ### Any unit -/

/-- The loss of a unit takes effect. -/
theorem State.takeOut_wears (s : State) (u : HwUnit) : State.Wears s (s.takeOut u) ∧ (s.takeOut u).knownBad u = true := by
  have hjournal : ∀ {t : State} {v : HwUnit}, State.Wears s t → t.knownBad v = true →
      State.Wears s (t.journalRetire v) ∧ (t.journalRetire v).knownBad v = true :=
    fun hw hb => ⟨hw.trans (.journalRetire ..), (State.Wears.journalRetire ..).bad _ hb⟩
  cases u with
  | array c k i => exact s.failArray_wears c k i
  | cluster c =>
    obtain ⟨hwears, hout⟩ := s.failCluster_wears c
    exact ⟨hwears, beq_iff_eq.2 hout⟩
  | region r => exact s.failRegion_wears r
  | die d => exact s.failDie_wears d
  | dmaChannel x ch =>
    refine hjournal (.of_hw rfl fun v hv => ?_) (List.contains_iff_mem.2 (List.mem_cons_self ..))
    cases v with
    | dmaChannel y k => exact List.contains_iff_mem.2 (List.mem_cons_of_mem _ (List.contains_iff_mem.1 hv))
    | _ => exact hv
  | requestLine x l =>
    refine ⟨.of_hw rfl fun v hv => ?_, List.contains_iff_mem.2 (List.mem_cons_self ..)⟩
    cases v with
    | requestLine y k => exact List.contains_iff_mem.2 (List.mem_cons_of_mem _ (List.contains_iff_mem.1 hv))
    | _ => exact hv
  | agent r =>
    refine hjournal (.of_hw rfl fun v hv => ?_) (List.contains_iff_mem.2 (List.mem_cons_self ..))
    cases v with
    | agent q => exact List.contains_iff_mem.2 (List.mem_cons_of_mem _ (List.contains_iff_mem.1 hv))
    | _ => exact hv
  | laneGroup g =>
    refine hjournal (.of_hw rfl fun v hv => ?_) (congrArg (!·) (getLsbD_maskOut _ _ _ (.inl rfl)))
    cases v with
    | laneGroup k => exact congrArg (!·) (getLsbD_maskOut _ _ _ (.inr (by simpa [State.knownBad] using hv)))
    | _ => exact hv
  | shaEngine e =>
    refine hjournal (.of_hw rfl fun v hv => ?_) (congrArg (!·) (getLsbD_maskOut _ _ _ (.inl rfl)))
    cases v with
    | shaEngine k => exact congrArg (!·) (getLsbD_maskOut _ _ _ (.inr (by simpa [State.knownBad] using hv)))
    | _ => exact hv
  | d2dModule m => exact s.loseModule_wears (.d2d m)
  | fordModule d m => exact s.loseModule_wears (.ford d m)
  | hbmChannel c => exact s.loseChannel_wears c
  | device =>
    refine hjournal (.of_hw rfl fun v hv => ?_) rfl
    cases v with
    | device => rfl
    | _ => exact hv

/-- A unit is out of service, and its record of KIND 5 stands. -/
def State.Retired (u : HwUnit) (s : State) : Prop := s.knownBad u = true ∧ ∃ g ∈ s.intg.records, g.kind = 5 ∧ g.unit = unitName u

theorem State.Retired.wears {u : HwUnit} {s t : State} (h : s.Retired u) (hw : State.Wears s t) : t.Retired u := by
  obtain ⟨hbad, g, hg, hkind⟩ := h
  exact ⟨hw.bad u hbad, g, hw.records g hg, hkind⟩

theorem State.retireUnit_wears (s : State) (u : HwUnit) : State.Wears s (s.retireUnit u) := by
  unfold State.retireUnit
  exact (s.takeOut_wears u).1.trans (.record ..)

theorem State.retireUnit_retired (s : State) (u : HwUnit) : (s.retireUnit u).Retired u := by
  unfold State.retireUnit
  exact ⟨(State.Wears.record ..).bad u (s.takeOut_wears u).2, _, List.mem_append_right _ (List.mem_singleton_self _), rfl, rfl⟩

/-- A change of the effective grade reaches the boot status, records, a measurement and the outputs. -/
theorem State.gradeChanged_rest (s : State) : ∃ boot intg sec out, s.gradeChanged = { s with boot := boot, intg := intg, sec := sec, out := out }
    ∧ boot.lastGrade = s.gradeNow ∧ (∀ b ∈ s.boot.queue, b ∈ boot.queue) ∧ ∀ g ∈ s.intg.records, g ∈ intg.records := by
  unfold State.gradeChanged
  split
  case isTrue h => exact ⟨s.boot, s.intg, s.sec, s.out, rfl, h, fun _ h => h, fun _ h => h⟩
  case isFalse => exact ⟨_, _, _, _, rfl, rfl, fun _ h => List.mem_append_left _ h, fun _ h => List.mem_append_left _ h⟩

theorem State.gradeNow_of_hw {s t : State} (h : t.hw = s.hw) : t.gradeNow = s.gradeNow := by
  have hcores : t.coreArrays = s.coreArrays := funext fun n => by simp only [State.coreArrays, State.physCluster?, h]
  simp only [State.gradeNow, State.grade, State.oxbows, hcores, h]

theorem State.Wears.gradeChanged (s : State) : State.Wears s s.gradeChanged := by
  obtain ⟨boot, intg, sec, out, h, -, -, hrecords⟩ := s.gradeChanged_rest
  rw [h]
  exact .of_units rfl rfl rfl rfl rfl hrecords

/-- What follows the loss of units: the grade as it is now, and admitted work tested against it. -/
theorem State.regraded_leaves (s : State) (reason : Reason) :
    let t := s.gradeChanged.retestAll reason
    State.Wears s t ∧ t.hw = s.hw ∧ t.boot.lastGrade = t.gradeNow ∧ ∀ b ∈ s.boot.queue, b ∈ t.boot.queue := by
  have hwears : State.Wears s (s.gradeChanged.retestAll reason) := (State.Wears.gradeChanged s).trans (.retestAll ..)
  have hplant := s.gradeChanged.retestAll_plant reason
  have hhw : (s.gradeChanged.retestAll reason).hw = s.gradeChanged.hw := congrArg (·.hw) hplant
  have hboot : (s.gradeChanged.retestAll reason).boot = s.gradeChanged.boot := congrArg (·.boot) hplant
  obtain ⟨boot, intg, sec, out, h, hgrade, hqueue, -⟩ := s.gradeChanged_rest
  have hhw' : s.gradeChanged.hw = s.hw := by rw [h]
  have hboot' : s.gradeChanged.boot = boot := by rw [h]
  refine ⟨hwears, hhw.trans hhw', ?_, fun b hb => ?_⟩
  · rw [State.gradeNow_of_hw (hhw.trans hhw'), hboot, hboot', hgrade]
  · rw [hboot, hboot']
    exact hqueue b hb

end Sys2Proof.Machine
end

section
/-! PROOFS. Scrub, spare rows and retirement at a step boundary (R138 to R141, R347). -/

namespace Sys2Proof.Machine

theorem exec_sramScrub (bank : SramBank) (words : List ScrubWord) (s : State) :
    exec (.sramScrub bank words) s = execSramScrub bank words s := rfl
theorem exec_spareRowReplace (s : State) : exec .spareRowReplace s = execSpareRowReplace s := rfl
theorem exec_stepBoundaryRetirement (s : State) : exec .stepBoundaryRetirement s = execStepBoundaryRetirement s := rfl

/-! ### Scrub (R138, R140) -/

theorem satAdd_satAdd (r : Reg) (m n : Nat) : satAdd (satAdd r m) n = satAdd r (m + n) := by
  have h : r.toNat < 2 ^ 32 := r.isLt
  apply BitVec.eq_of_toNat_eq
  simp only [satAdd, BitVec.toNat_ofNat]
  omega

/-- A word that the scrub corrects. -/
def scrubFixes (w : ScrubWord) : Bool := w.weight == 1 || w.weight == 2

/-- `t` is `s` after the scrub of some words: counts, fixes and waiting rows aside, only poison, records and outputs differ. -/
structure State.Scrubbed (words : List ScrubWord) (s t : State) : Prop where
  rest  : t = { s with mem := { s.mem with poison := t.mem.poison }, sram := t.sram, intg := t.intg, out := t.out }
  corr  : t.sram.corr = satAdd s.sram.corr (words.filter scrubFixes).length
  marks : ∀ w ∈ words, w.weight = 3 → w.addr / 8 * 8 ∈ t.mem.poison
  keeps : ∀ a ∈ s.mem.poison, a ∈ t.mem.poison
  only  : ∀ a ∈ t.mem.poison, a ∈ s.mem.poison ∨ ∃ w ∈ words, w.weight = 3 ∧ a = w.addr / 8 * 8
  waits : ∀ r ∈ s.sram.replace, r ∈ t.sram.replace

theorem State.Scrubbed.nil (s : State) : State.Scrubbed [] s s where
  rest := rfl
  corr := (satAdd_zero _).symm
  marks := fun _ h => absurd h List.not_mem_nil
  keeps := fun _ h => h
  only := fun _ h => .inl h
  waits := fun _ h => h

theorem State.Scrubbed.append {ws vs : List ScrubWord} {s t u : State} (a : State.Scrubbed ws s t) (b : State.Scrubbed vs t u) :
    State.Scrubbed (ws ++ vs) s u where
  rest := by
    rw [b.rest, a.rest]
  corr := by rw [b.corr, a.corr, satAdd_satAdd, List.filter_append, List.length_append]
  marks := fun w hw h3 => (List.mem_append.1 hw).elim (fun h => b.keeps _ (a.marks w h h3)) fun h => b.marks w h h3
  keeps := fun x h => b.keeps x (a.keeps x h)
  only := fun x h => by
    obtain h | ⟨w, hw, h3⟩ := b.only x h
    · obtain h | ⟨w, hw, h3⟩ := a.only x h
      · exact .inl h
      · exact .inr ⟨w, List.mem_append_left _ hw, h3⟩
    · exact .inr ⟨w, List.mem_append_right _ hw, h3⟩
  waits := fun r h => b.waits r (a.waits r h)

/-- One word: corrected, poisoned, or left as it is. -/
theorem State.scrubWord_scrubbed (bank : SramBank) (s : State) (w : ScrubWord) : State.Scrubbed [w] s (s.scrubWord bank w) := by
  unfold State.scrubWord
  split
  case isTrue hlow =>
    have hfix : scrubFixes w = true := by simpa [scrubFixes] using hlow
    refine ⟨rfl, by simp [hfix, satInc], fun v hv h3 => ?_, fun _ h => h, fun _ h => .inl h, fun r hr => ?_⟩
    · rw [List.mem_singleton.1 hv] at h3
      omega
    · dsimp only
      split
      · exact List.mem_append_left _ hr
      · exact hr
  case isFalse hlow =>
    have hfix : scrubFixes w = false := by simpa [scrubFixes] using hlow
    have hcorr : satAdd s.sram.corr ([w].filter scrubFixes).length = s.sram.corr := by simp [hfix, satAdd_zero]
    split
    case isTrue h3 =>
      dsimp only
      split
      case isTrue hthere =>
        exact ⟨rfl, hcorr.symm, fun v hv _ => by rw [List.mem_singleton.1 hv]; simpa using hthere, fun _ h => h, fun _ h => .inl h,
          fun _ h => h⟩
      case isFalse hnew =>
        refine ⟨rfl, hcorr.symm, fun v hv _ => ?_, fun a ha => List.mem_append_left _ ha, fun a ha => ?_, fun _ h => h⟩
        · rw [List.mem_singleton.1 hv]
          exact List.mem_append_right _ (List.mem_singleton_self _)
        · obtain h | h := List.mem_append.1 ha
          · exact .inl h
          · exact .inr ⟨w, List.mem_singleton_self _, h3, List.mem_singleton.1 h⟩
    case isFalse h3 =>
      exact ⟨rfl, hcorr.symm, fun v hv h => absurd (List.mem_singleton.1 hv ▸ h) h3, fun _ h => h, fun _ h => .inl h, fun _ h => h⟩

theorem State.scrub_scrubbed (bank : SramBank) (words : List ScrubWord) (s : State) :
    State.Scrubbed words s (words.foldl (State.scrubWord bank) s) := by
  induction words generalizing s with
  | nil => exact .nil s
  | cons w words ih => exact (s.scrubWord_scrubbed bank w).append (ih _)

theorem execSramScrub_of_on {s : State} (hp : s.powered = true) (bank : SramBank) (words : List ScrubWord) :
    execSramScrub bank words s = .next (words.foldl (State.scrubWord bank) s) := by
  unfold execSramScrub
  rw [State.whenPowered_of_on hp]

/-! ### A step boundary -/

/-- The rows whose unit no running step uses, and the others. -/
def State.rowsDue (s : State) : List (SramBank × Nat × Nat) := s.sram.replace.filter fun r => !s.unitBusy (bankUnit r.1)
def State.rowsHeld (s : State) : State :=
  { s with sram := { s.sram with replace := s.sram.replace.filter fun r => s.unitBusy (bankUnit r.1) } }

/-- The units whose loss waits and that no running step uses, and the others. -/
def State.unitsDue (s : State) : List HwUnit := s.hw.pendingOut.filter fun u => !s.unitBusy u
def State.unitsHeld (s : State) : State := { s with hw := { s.hw with pendingOut := s.hw.pendingOut.filter fun u => s.unitBusy u } }

theorem execSpareRowReplace_of_due {s : State} (hu : s.up = true) (hd : s.rowsDue ≠ []) :
    execSpareRowReplace s = .next ((s.rowsDue.foldl State.replaceRow s.rowsHeld).gradeChanged.retestAll .capacityLost) := by
  unfold execSpareRowReplace
  rw [State.whenUp_of_up hu]
  exact congrArg _ (if_neg (by simpa [State.rowsDue] using hd))

theorem execStepBoundaryRetirement_of_due {s : State} (hu : s.up = true) (hd : s.unitsDue ≠ []) :
    execStepBoundaryRetirement s = .next ((s.unitsDue.foldl State.retireUnit s.unitsHeld).gradeChanged.retestAll .capacityLost) := by
  unfold execStepBoundaryRetirement
  rw [State.whenUp_of_up hu]
  exact congrArg _ (if_neg (by simpa [State.unitsDue] using hd))

/-- Units that take leave are out with their records, and the grade is what remains. -/
theorem State.retireUnits_leaves (s : State) (us : List HwUnit) :
    let t := (us.foldl State.retireUnit s).gradeChanged.retestAll .capacityLost
    State.Wears s t ∧ (∀ u ∈ us, t.Retired u) ∧ t.boot.lastGrade = t.gradeNow := by
  obtain ⟨hwears, -, hgrade, -⟩ := (us.foldl State.retireUnit s).regraded_leaves .capacityLost
  have hretired := foldl_reaches (P := State.Retired) State.retireUnit State.retireUnit_retired
    (fun u a b hb => hb.wears (u.retireUnit_wears a)) us s
  exact ⟨(State.Wears.foldl _ State.retireUnit_wears us s).trans hwears, fun u hu => (hretired u hu).wears hwears, hgrade⟩

/-- With a spare row left the row is replaced and recorded, and that is all. -/
theorem State.replaceRow_of_spare {s : State} {r : SramBank × Nat × Nat} (h : s.sparesUsed r.1 r.2.1 < spareLimit r.1) :
    s.replaceRow r = State.journal { s with sram := { s.sram with spares := s.sram.spares ++ [r] } } (.spare r.1 r.2.1 r.2.2) :=
  if_pos h

/-- Without one, the bank's unit leaves service; a region's rung follows (R141, R368). -/
theorem State.replaceRow_of_full {s : State} {r : SramBank × Nat × Nat} (h : spareLimit r.1 ≤ s.sparesUsed r.1 r.2.1) :
    s.replaceRow r = match r.1 with
      | .regionBank g => (s.retireUnit (.region g)).startRung (.region g) false none []
      | b => s.retireUnit (bankUnit b) := if_neg (Nat.not_lt.2 h)

/-- A region's rung leaves the units and the parts that no unit's loss reaches. -/
theorem State.startRung_region_unworn (s : State) (q : Fin 4) (u : HwUnit) :
    (s.startRung (.region q) false none []).unworn = s.unworn
      ∧ (s.startRung (.region q) false none []).knownBad u = s.knownBad u := by
  cases hfree : s.rcv.rungs.any fun g => s.holdsScope g.scope (.region q) with
  | true =>
    rw [State.startRung_absorbed hfree]
    exact ⟨rfl, rfl⟩
  | false =>
    have hplant := State.startRung_lower_plant false none [] hfree nofun nofun
    generalize s.startRung (.region q) false none [] = t at hplant ⊢
    have hunworn : t.plant.unworn = s.unworn := by
      rw [hplant]
      rfl
    exact ⟨hunworn, State.knownBad_congr (congrArg (·.hw) hplant) (congrArg (·.dma.d2d) hplant) (congrArg (·.dma.ford) hplant)
      (congrArg (·.hbm.chans) hplant) u⟩

theorem State.replaceRow_full_leaves {s : State} {r : SramBank × Nat × Nat} (h : spareLimit r.1 ≤ s.sparesUsed r.1 r.2.1) :
    (s.replaceRow r).unworn = s.unworn ∧ (s.replaceRow r).knownBad (bankUnit r.1) = true := by
  have hwears := s.retireUnit_wears (bankUnit r.1)
  obtain ⟨hbad, -⟩ := s.retireUnit_retired (bankUnit r.1)
  rw [State.replaceRow_of_full h]
  obtain ⟨bank, sub, row⟩ := r
  cases bank with
  | regionBank g =>
    obtain ⟨hunworn, hknown⟩ := (s.retireUnit (.region g)).startRung_region_unworn g (.region g)
    exact ⟨hunworn.trans hwears.rest, hknown.trans hbad⟩
  | _ => exact ⟨hwears.rest, hbad⟩

/-- Settles O43: a scrub is a fold of single words; at a step boundary a due row takes a spare row or its unit leaves service, units whose
loss waits leave with their records, and each unit that left stays out through the losses and tests that follow. -/
theorem repairsAtBoundaries : Obligations.RepairsAtBoundaries := by
  intro s
  simp only [exec_sramScrub, exec_spareRowReplace, exec_stepBoundaryRetirement]
  refine ⟨fun bank words hp => ?scrub, fun bank sub row hu hdue => ?rows, fun hu hdue => ?boundary⟩
  case scrub =>
    have h := s.scrub_scrubbed bank words
    exact ⟨_, execSramScrub_of_on hp bank words, h.rest, h.corr, h.marks, h.keeps, h.only, h.waits⟩
  case rows =>
    have hrows : s.rowsDue = [(bank, sub, row)] := hdue
    have hrun := execSpareRowReplace_of_due hu (by rw [hrows]; exact List.cons_ne_nil _ _)
    rw [hrows, List.foldl_cons, List.foldl_nil] at hrun
    refine ⟨fun hspare => ?spare, fun hfull => ?full⟩
    case spare =>
      rw [State.replaceRow_of_spare (s := s.rowsHeld) (r := (bank, sub, row)) hspare] at hrun
      refine ⟨_, hrun, ?_⟩
      generalize hu : State.journal _ _ = u
      obtain ⟨hwears, hhw, -, hqueue⟩ := u.regraded_leaves .capacityLost
      obtain ⟨hcfg, hown, hfuse, -, hsram, -⟩ := State.parts_of_unworn hwears.rest
      subst hu
      exact ⟨hsram, hqueue _ (List.mem_append_right _ (List.mem_singleton_self _)), hhw, hcfg, hown, hfuse⟩
    case full =>
      obtain ⟨hunworn, hbad⟩ := State.replaceRow_full_leaves (s := s.rowsHeld) (r := (bank, sub, row)) hfull
      generalize s.rowsHeld.replaceRow (bank, sub, row) = u at hrun hunworn hbad
      obtain ⟨hwears, -⟩ := u.regraded_leaves .capacityLost
      obtain ⟨hcfg, hown, hfuse, -, hsram, -⟩ := State.parts_of_unworn (hwears.rest.trans hunworn)
      exact ⟨_, hrun, congrArg (·.spares) hsram, hwears.bad _ hbad, hcfg, hown, hfuse⟩
  case boundary =>
    obtain ⟨hwears, hretired, hgrade⟩ := s.unitsHeld.retireUnits_leaves s.unitsDue
    obtain ⟨hcfg, hown, hfuse, hclk, -, hwait⟩ := State.parts_of_unworn hwears.rest
    exact ⟨_, execStepBoundaryRetirement_of_due hu hdue, hwait, fun u hu hidle => hretired u (List.mem_filter.2 ⟨hu, by simp [hidle]⟩), hgrade,
      hcfg, hown, hfuse, hclk⟩

end Sys2Proof.Machine
end

section
/-! PROOFS. Memory that a rung clears reads zero (R125). -/

namespace Sys2Proof.Machine

/-- The byte at an address is defined, and zero. -/
def Mem.ZeroAt (m : Mem) (x : Nat) : Prop := (∀ u ∈ m.undef, ¬ (u.1 ≤ x ∧ x < u.1 + u.2.1)) ∧ readCell m.cells x = 0#8

theorem Mem.ZeroAt.base {m : Mem} {x : Nat} (h : m.ZeroAt x) : m.base x = 0#8 := by
  have hdefined : m.undef.find? (fun u => decide (u.1 ≤ x ∧ x < u.1 + u.2.1)) = none :=
    List.find?_eq_none.2 fun u hu => by simpa using h.1 u hu
  unfold Mem.base
  rw [hdefined]
  exact h.2

/-- What is still undefined was undefined, and lies outside the range taken out. -/
theorem carve_covers {start len x : Nat} {us : List (Nat × Nat × Nat)} {u : Nat × Nat × Nat} (hu : u ∈ carve start len us)
    (hx : u.1 ≤ x ∧ x < u.1 + u.2.1) : (∃ v ∈ us, v.1 ≤ x ∧ x < v.1 + v.2.1) ∧ ¬ (start ≤ x ∧ x < start + len) := by
  induction us with
  | nil => exact absurd hu List.not_mem_nil
  | cons v us ih =>
    obtain ⟨a, n, d⟩ := v
    rw [carve] at hu
    obtain hu | hu := List.mem_append.1 hu
    · have hhead : (a ≤ x ∧ x < a + n) ∧ ¬ (start ≤ x ∧ x < start + len) := by
        split at hu
        · obtain hu | hu := List.mem_append.1 hu
          all_goals
            obtain ⟨-, hu⟩ := List.mem_ite_nil_right.1 hu
            obtain rfl := List.mem_singleton.1 hu
            dsimp only at hx
            omega
        · obtain rfl := List.mem_singleton.1 hu
          dsimp only at hx
          omega
      exact ⟨⟨_, List.mem_cons_self .., hhead.1⟩, hhead.2⟩
    · obtain ⟨⟨w, hw, hcovers⟩, hout⟩ := ih hu
      exact ⟨⟨w, List.mem_cons_of_mem _ hw, hcovers⟩, hout⟩

theorem readCell_clearCells (cs : List Host.Cell) (start len x : Nat) :
    readCell (clearCells cs start len) x = if start ≤ x ∧ x < start + len then 0#8 else readCell cs x := by
  induction cs with
  | nil => simp [clearCells, readCell]
  | cons c cs ih =>
    obtain ⟨a, v⟩ := c
    unfold clearCells at ih ⊢
    by_cases hin : start ≤ a ∧ a < start + len
    · rw [List.filter_cons_of_neg (by simpa using hin), ih]
      by_cases hx : a = x
      · rw [if_pos (hx ▸ hin), if_pos (hx ▸ hin)]
      · rw [readCell, if_neg hx]
    · rw [List.filter_cons_of_pos (by simp; omega), readCell, readCell, ih]
      by_cases hx : a = x
      · rw [if_pos hx, if_pos hx, if_neg (hx ▸ hin)]
      · rw [if_neg hx, if_neg hx]

theorem Mem.clear_zeroAt {m : Mem} {start len x : Nat} (h : start ≤ x ∧ x < start + len ∨ m.ZeroAt x) : (m.clear start len).ZeroAt x := by
  refine ⟨fun u hu hx => ?_, ?_⟩
  · obtain ⟨⟨v, hv, hcovers⟩, hout⟩ := carve_covers hu hx
    exact h.elim hout fun hz => hz.1 v hv hcovers
  · show readCell (clearCells m.cells start len) x = 0#8
    rw [readCell_clearCells]
    split
    · rfl
    · exact (h.resolve_left ‹_›).2

/-- Every address of ranges cleared one after the other reads zero. -/
theorem Mem.foldl_clear_base (rs : List (Nat × Nat)) (m : Mem) (a len : Nat) (h : (a, len) ∈ rs) (x : Nat) (ha : a ≤ x) (hx : x < a + len) :
    (rs.foldl (fun m r => m.clear r.1 r.2) m).base x = 0#8 := by
  have hzero := foldl_reaches (P := fun (r : Nat × Nat) (m : Mem) => ∀ x, r.1 ≤ x ∧ x < r.1 + r.2 → m.ZeroAt x) (fun m r => m.clear r.1 r.2)
    (fun m r x hin => Mem.clear_zeroAt (.inl hin)) (fun m r q hq x hin => Mem.clear_zeroAt (.inr (hq x hin))) rs m
  exact (hzero (a, len) h x ⟨ha, hx⟩).base

end Sys2Proof.Machine
end

section
/-! PROOFS. Watchdogs, heartbeats and unit bounds start rungs, and a rung that misses its bound gives way (R365 to R368, R372, R373). -/

namespace Sys2Proof.Machine

theorem exec_watchdogExpiry (e : Engine) (s : State) : exec (.watchdogExpiry e) s = execWatchdogExpiry e s := rfl
theorem exec_heartbeatMiss (w : Steward) (s : State) : exec (.heartbeatMiss w) s = execHeartbeatMiss w s := rfl
theorem exec_unitBoundMiss (b : BoundUnit) (s : State) : exec (.unitBoundMiss b) s = execUnitBoundMiss b s := rfl
theorem exec_rungBoundMiss (scope : RungScope) (s : State) : exec (.rungBoundMiss scope) s = execRungBoundMiss scope s := rfl

/-! ### The start of a rung while none runs -/

section
variable {s : State} (hnone : s.rcv.rungs = [])
include hnone

theorem State.startRung_free (scope : RungScope) : (s.rcv.rungs.any fun g => s.holdsScope g.scope scope) = false := by
  rw [hnone]
  rfl

/-- The rung that starts runs alone, from now on; a cold reset begins its own time. -/
theorem State.startRung_runs (scope : RungScope) (missed : Bool) (engine : Option Engine) (todo : List CtxId) :
    (s.startRung scope missed engine todo).rcv.rungs
      = [{ scope := scope, start := if scope = .cold then 0 else s.clk.now, missed := missed, engine := engine, todo := todo }] := by
  have hfree := State.startRung_free hnone scope
  by_cases hcold : scope = .cold
  · rw [State.startRung_cold missed engine todo hfree hcold, if_pos hcold, hcold]
    obtain ⟨tel, out, h⟩ := State.noteRung_eq (s.coldStart { s.clk with now := 0 } s.boot.strap s.waitingMiss)
      { scope := .cold, start := 0, missed := missed, engine := engine, todo := todo }
    rw [h]
    rfl
  rw [if_neg hcold]
  by_cases hwarm : scope = .warm
  · rw [State.startRung_warm missed engine todo hfree hwarm, hwarm]
    obtain ⟨tel, out, h⟩ := s.warmStart.noteRung_eq { scope := .warm, start := s.clk.now, missed := missed, engine := engine, todo := todo }
    obtain ⟨-, -, hrungs, -⟩ := s.warmStart_leaves
    rw [h]
    dsimp only
    rw [Rcv.noted_rungs, hrungs, List.nil_append]
  · refine (congrArg (fun t : State => t.rcv.rungs) (State.startRung_lower_plant missed engine todo hfree hwarm hcold)).trans ?_
    show s.rcv.rungs.filter _ ++ [_] = _
    rw [hnone, List.filter_nil, List.nil_append]

/-- A rung below the device rungs leaves settings, ownership and fuses, and what RCV_ counts but the rung itself. -/
theorem State.startRung_lower_leaves {scope : RungScope} (hwarm : scope ≠ .warm) (hcold : scope ≠ .cold) (missed : Bool)
    (engine : Option Engine) (todo : List CtxId) :
    let t := s.startRung scope missed engine todo
    t.cfg = s.cfg ∧ t.own = s.own ∧ t.fuse = s.fuse ∧ t.rcv.watchdogs = s.rcv.watchdogs ∧ t.rcv.misses = s.rcv.misses
      ∧ t.dma = s.dma.stopped scope := by
  have hplant := State.startRung_lower_plant missed engine todo (State.startRung_free hnone scope) hwarm hcold
  generalize s.startRung scope missed engine todo = t at hplant ⊢
  exact ⟨congrArg (·.cfg) hplant, congrArg (·.own) hplant, congrArg (·.fuse) hplant, congrArg (·.rcv.watchdogs) hplant,
    congrArg (·.rcv.misses) hplant, congrArg (·.dma) hplant⟩

/-- A warm device reset runs, and nothing is admitted; settings and ownership stand. -/
theorem State.startRung_warm_leaves (missed : Bool) (engine : Option Engine) (todo : List CtxId) :
    let t := s.startRung .warm missed engine todo
    t.warming = true ∧ t.boot.warm = true ∧ t.slu.admitting = false ∧ t.cfg = s.cfg ∧ t.own = s.own := by
  have hruns := State.startRung_runs hnone .warm missed engine todo
  rw [State.startRung_warm missed engine todo (State.startRung_free hnone .warm) rfl] at hruns ⊢
  obtain ⟨tel, out, h⟩ := s.warmStart.noteRung_eq { scope := .warm, start := s.clk.now, missed := missed, engine := engine, todo := todo }
  obtain ⟨hown, hcfg, -, hboot, hslu⟩ := s.warmStart_leaves
  have hwarming : (s.warmStart.noteRung { scope := .warm, start := s.clk.now, missed := missed, engine := engine, todo := todo }).warming
      = true := by
    rw [State.warming, hruns]
    rfl
  refine ⟨hwarming, ?_⟩
  rw [h]
  dsimp only
  exact ⟨hboot, hslu, hcfg, hown⟩

/-- A watchdog's expiry is counted and starts rung 1 on its engine. -/
theorem State.expireWatchdog_leaves (e : Engine) (todo : List CtxId) :
    let t := s.expireWatchdog e todo
    t.rcv.watchdogs = satInc s.rcv.watchdogs
      ∧ t.rcv.rungs = [{ scope := .engine e, start := s.clk.now, missed := false, engine := some e, todo := todo }]
      ∧ t.rcv.counts = s.rcv.counts.set 0 (satInc s.rcv.counts[0]) ∧ (∀ o ∈ t.rcv.kills, o.engine ≠ e)
      ∧ t.cfg = s.cfg ∧ t.own = s.own ∧ t.fuse = s.fuse := by
  unfold State.expireWatchdog
  generalize hu : ({ s with rcv := { s.rcv with watchdogs := satInc s.rcv.watchdogs } } : State) = u
  have hnone' : u.rcv.rungs = [] := by
    rw [← hu]
    exact hnone
  have hfree := State.startRung_free hnone' (.engine e)
  have hplant := State.startRung_lower_plant false (some e) todo hfree nofun nofun
  obtain ⟨hcfg, hown, hfuse, hdogs, -, -⟩ := State.startRung_lower_leaves hnone' (scope := .engine e) nofun nofun false (some e) todo
  refine ⟨hdogs.trans ?_, (State.startRung_runs hnone' (.engine e) false (some e) todo).trans ?_, (congrArg (·.rcv.counts) hplant).trans ?_,
    State.startRung_engine_kills false (some e) todo hfree, hcfg.trans ?_, hown.trans ?_, hfuse.trans ?_⟩
  all_goals
    subst hu
    rfl

end

/-! ### Watchdogs, heartbeats and unit bounds -/

theorem execWatchdogExpiry_of_overdue {s : State} {e : Engine} {r : CmdRef} {k : Cmd} (hu : s.up = true)
    (hrun : s.running? e = some (r, k)) (hwait : k.waitSince = none) (hdue : 5 * k.entry.w + 80000 ≤ 4 * k.runTime s.clk.now) :
    execWatchdogExpiry e s = .next (s.expireWatchdog e (s.suspects e)) := by
  unfold execWatchdogExpiry
  rw [State.whenUp_of_up hu, hrun]
  exact congrArg _ (if_pos ⟨hwait, hdue⟩)

theorem execWatchdogExpiry_of_disobeyed {s : State} {e : Engine} {k : Kill} (hu : s.up = true) (hrun : s.running? e = none)
    (hkill : (s.rcv.kills.find? fun o => o.engine == e) = some k) (hdue : k.due ≤ s.clk.now) :
    execWatchdogExpiry e s = .next (s.expireWatchdog e (s.killSuspects k)) := by
  unfold execWatchdogExpiry
  rw [State.whenUp_of_up hu, hrun]
  dsimp only
  rw [hkill]
  exact congrArg _ (if_pos hdue)

theorem execHeartbeatMiss_of_region {s : State} (hu : s.up = true) (r : Fin 4) :
    execHeartbeatMiss (.region r) s = .next (s.startRung (.region r) false none []) := by
  unfold execHeartbeatMiss
  rw [State.whenUp_of_up hu]

theorem execHeartbeatMiss_of_other {s : State} (hu : s.up = true) {w : Steward} (hw : ∀ r, w ≠ .region r) :
    execHeartbeatMiss w s = .next (s.startRung .warm false none []) := by
  unfold execHeartbeatMiss
  rw [State.whenUp_of_up hu]
  cases w with
  | region r => exact absurd rfl (hw r)
  | _ => rfl

theorem execUnitBoundMiss_of_up {s : State} (hu : s.up = true) (b : BoundUnit) :
    execUnitBoundMiss b s = .next (s.startRung .warm false none []) := by
  unfold execUnitBoundMiss
  rw [State.whenUp_of_up hu]

/-! ### A bound missed (R368, R372) -/

/-- A unit's retirement is counted and journalled, and it leaves service at the next step boundary (R372, R374). -/
def State.retireNext (s : State) (u : HwUnit) : State :=
  (State.journalRetire { s with rcv := { s.rcv with retires := satInc s.rcv.retires } } u).retireSoon u

theorem State.retireNext_rest (s : State) (u : HwUnit) : ∃ retires queue wait, s.retireNext u = { s with
      rcv := { s.rcv with retires := retires }
      boot := { s.boot with queue := queue }
      hw := { s.hw with pendingOut := wait } } ∧ ∀ b ∈ s.boot.queue, b ∈ queue := by
  obtain ⟨queue, h, hqueue⟩ := State.journalRetire_rest { s with rcv := { s.rcv with retires := satInc s.rcv.retires } } u
  unfold State.retireNext State.retireSoon
  rw [h]
  dsimp only
  split
  · exact ⟨_, queue, s.hw.pendingOut, rfl, hqueue⟩
  · exact ⟨_, queue, _, rfl, hqueue⟩

/-- A miss reaches the miss log, the journal, the count of retirements and the units that wait to leave service. -/
theorem State.missUnit_rest (s : State) (name : List Nat) (u : HwUnit) (rung : Nat) : ∃ missLog retires queue wait,
    s.missUnit name u rung = { s with
      rcv := { s.rcv with missLog := missLog, retires := retires }
      boot := { s.boot with queue := queue }
      hw := { s.hw with pendingOut := wait } } ∧ .miss name rung s.jnow ∈ queue := by
  unfold State.missUnit
  extract_lets recent rcv s1
  have hmiss : JBody.miss name rung s.jnow ∈ s1.boot.queue := List.mem_append_right _ (List.mem_singleton_self _)
  split
  · obtain ⟨retires, queue, wait, h, hqueue⟩ := s1.retireNext_rest u
    exact ⟨_, retires, queue, wait, h, hqueue _ hmiss⟩
  · exact ⟨_, s.rcv.retires, _, s.hw.pendingOut, rfl, hmiss⟩

/-- RCV_ once a miss of a rung is counted and named, and the rung no longer runs. -/
def Rcv.missed (r : Rcv) (g : Rung) : Rcv :=
  { r with misses := satInc r.misses, last := BitVec.ofNat 32 (g.word true), rungs := r.rungs.filter fun o => o.scope != g.scope }

/-- A rung has missed its bound: that is traced, and a miss of its unit. -/
def State.missedRung (s : State) (g : Rung) : State :=
  let s1 := State.trace { s with rcv := s.rcv.missed g } 2 0x21 0 (g.word true)
  match s1.scopeHwUnit g.scope with
  | some u => s1.missUnit u.1 u.2 (RungScope.code g.scope)
  | none => s1

theorem execRungBoundMiss_of_due {s : State} {g : Rung} (hp : s.powered = true)
    (hfind : (s.rcv.rungs.find? fun r => r.scope == g.scope) = some g) (hdue : g.start + rungBound g.scope ≤ s.clk.now)
    (hcold : g.scope ≠ .cold) :
    execRungBoundMiss g.scope s = .next ((s.missedRung g).startRung ((s.missedRung g).nextScope g) true g.engine g.todo) := by
  unfold execRungBoundMiss
  rw [State.whenPowered_of_on hp, hfind]
  dsimp only
  rw [if_neg (Nat.not_lt.2 hdue), if_neg hcold]
  rfl

theorem State.missedRung_rest (s : State) (g : Rung) : ∃ missLog retires queue wait tel, s.missedRung g = { s with
    rcv := { s.rcv.missed g with missLog := missLog, retires := retires }
    boot := { s.boot with queue := queue }
    hw := { s.hw with pendingOut := wait }
    tel := tel } := by
  obtain ⟨tel, htel⟩ : ∃ tel, State.trace { s with rcv := s.rcv.missed g } 2 0x21 0 (g.word true) = { s with rcv := s.rcv.missed g, tel := tel } :=
    ⟨_, State.trace_rest ..⟩
  unfold State.missedRung
  rw [htel]
  dsimp only
  split
  · obtain ⟨missLog, retires, queue, wait, h, -⟩ := State.missUnit_rest { s with rcv := s.rcv.missed g, tel := tel } _ _ _
    exact ⟨missLog, retires, queue, wait, tel, h⟩
  · exact ⟨_, _, s.boot.queue, s.hw.pendingOut, tel, rfl⟩

/-- The next rung depends on where the logical clusters are. -/
theorem State.nextScope_of_use {s t : State} (h : t.hw.use = s.hw.use) (g : Rung) : t.nextScope g = s.nextScope g := by
  have hregion : ∀ e, t.engineRegion e = s.engineRegion e := fun e => by
    cases e <;> simp only [State.engineRegion, State.physCluster?, h]
  simp only [State.nextScope, hregion]

theorem State.nextScope_cold_iff (s : State) {g : Rung} (h : g.scope ≠ .cold) : s.nextScope g = .cold ↔ g.scope = .warm := by
  cases hscope : g.scope with
  | engine e =>
    cases e with
    | dma x ch => cases hregion : s.engineRegion (.dma x ch) <;> simp [State.nextScope, hscope, hregion]
    | coll a => cases hregion : s.engineRegion (.coll a) <;> simp [State.nextScope, hscope, hregion]
    | _ => simp [State.nextScope, hscope]
  | cluster n => cases hregion : s.engineRegion (.update n) <;> simp [State.nextScope, hscope, hregion]
  | cold => exact absurd hscope h
  | _ => simp [State.nextScope, hscope]

/-- The only rung that runs misses its bound: the next one runs in its place, for the same engine and suspects. -/
theorem State.missedRung_climbs {s : State} {g : Rung} (hrungs : s.rcv.rungs = [g]) (hcold : g.scope ≠ .cold) :
    let t := (s.missedRung g).startRung ((s.missedRung g).nextScope g) true g.engine g.todo
    t.rcv.rungs = [{ scope := s.nextScope g, start := if g.scope = .warm then 0 else s.clk.now, missed := true, engine := g.engine
                     todo := g.todo }]
      ∧ (s.nextScope g ≠ .warm → s.nextScope g ≠ .cold → t.rcv.misses = satInc s.rcv.misses ∧ t.own = s.own ∧ t.cfg = s.cfg) := by
  obtain ⟨missLog, retires, queue, wait, tel, h⟩ := s.missedRung_rest g
  generalize s.missedRung g = u at h ⊢
  have hnone : u.rcv.rungs = [] := by
    rw [h]
    show s.rcv.rungs.filter _ = []
    rw [hrungs, List.filter_singleton]
    simp
  rw [State.nextScope_of_use (s := s) (by rw [h])]
  refine ⟨?_, fun hwarm hdevice => ?_⟩
  · rw [State.startRung_runs hnone]
    simp only [s.nextScope_cold_iff hcold]
    rw [h]
  · obtain ⟨hcfg, hown, -, -, hmisses, -⟩ := State.startRung_lower_leaves hnone hwarm hdevice true g.engine g.todo
    refine ⟨hmisses.trans ?_, hown.trans ?_, hcfg.trans ?_⟩
    · rw [h]
      rfl
    · rw [h]
    · rw [h]

end Sys2Proof.Machine
end

section
/-! PROOFS. A rung that completes, and the replay of suspects on a quarantined engine (R125, R367, R374, R391, R393). -/

namespace Sys2Proof.Machine

theorem exec_rungComplete (scope : RungScope) (s : State) : exec (.rungComplete scope) s = execRungComplete scope s := rfl
theorem exec_suspectReplayComplete (e : Engine) (c : CtxId) (hung elsewhere : Bool) (s : State) :
    exec (.suspectReplayComplete e c hung elsewhere) s = execSuspectReplayComplete e c hung elsewhere s := rfl
theorem exec_quarantineLimit (e : Engine) (s : State) : exec (.quarantineLimit e) s = execQuarantineLimit e s := rfl

/-! ### A rung below the region rung completes (R125, R368, R374) -/

/-- A rung's engine with suspects is quarantined from now on. -/
theorem State.quarantine_rest (s : State) (g : Rung) : ∃ qs, s.quarantine g = { s with rcv := { s.rcv with quarantines := qs } }
    ∧ ∀ e, g.engine = some e → g.todo ≠ [] → ∃ q ∈ qs, q.engine = e ∧ q.todo = g.todo ∧ q.since = s.clk.now := by
  unfold State.quarantine
  split
  case h_1 e he =>
    split
    case isTrue hempty => exact ⟨s.rcv.quarantines, rfl, fun _ _ h => absurd (List.isEmpty_iff.1 hempty) h⟩
    case isFalse =>
      refine ⟨_, rfl, fun e' he' _ => ⟨_, List.mem_append_right _ (List.mem_singleton_self _), ?_, rfl, rfl⟩⟩
      exact Option.some.inj (he.symm.trans he')
  case h_2 hnone =>
    refine ⟨s.rcv.quarantines, rfl, fun e he => ?_⟩
    rw [hnone] at he
    cases he

/-- What a rung clears reads zero, and the rung no longer runs. -/
def State.rungCleared (s : State) (g : Rung) : State :=
  { s with
    mem := (s.scopeSram g.scope).foldl (fun m r => m.clear r.1 r.2) s.mem
    rcv := { s.rcv with rungs := s.rcv.rungs.filter fun r => r.scope != g.scope } }

theorem State.endRung_of_lower (s : State) {g : Rung} (hregion : ∀ r, g.scope ≠ .region r) :
    s.endRung g = (((s.rungCleared g).linesBack g.scope).trace 2 0x21 0 (g.word false)).quarantine g := by
  obtain ⟨scope, start, missed, engine, todo⟩ := g
  cases scope with
  | region r => exact absurd rfl (hregion r)
  | _ => rfl

/-- Such a rung leaves the rest of the device but request lines, the trace and quarantines. -/
theorem State.endRung_rest (s : State) {g : Rung} (hregion : ∀ r, g.scope ≠ .region r) : ∃ hw tel qs,
    s.endRung g = { s.rungCleared g with rcv := { (s.rungCleared g).rcv with quarantines := qs }, hw := hw, tel := tel }
    ∧ ∀ e, g.engine = some e → g.todo ≠ [] → ∃ q ∈ qs, q.engine = e ∧ q.todo = g.todo ∧ q.since = s.clk.now := by
  rw [s.endRung_of_lower hregion]
  have hclk : (s.rungCleared g).clk = s.clk := rfl
  generalize s.rungCleared g = u at hclk ⊢
  obtain ⟨hw, tel, h⟩ : ∃ hw tel, (u.linesBack g.scope).trace 2 0x21 0 (g.word false) = { u with hw := hw, tel := tel } :=
    ⟨_, _, State.trace_rest ..⟩
  rw [h]
  obtain ⟨qs, hq, hsuspects⟩ := State.quarantine_rest { u with hw := hw, tel := tel } g
  exact ⟨hw, tel, qs, hq, hclk ▸ hsuspects⟩

theorem execRungComplete_of_lower {s : State} {g : Rung} (hp : s.powered = true)
    (hfind : (s.rcv.rungs.find? fun r => r.scope == g.scope) = some g) (hwarm : g.scope ≠ .warm) (hcold : g.scope ≠ .cold) :
    execRungComplete g.scope s = .next (s.endRung g).dispatch := by
  unfold execRungComplete
  rw [State.whenPowered_of_on hp, hfind]
  cases hscope : g.scope with
  | warm => exact absurd hscope hwarm
  | cold => exact absurd hscope hcold
  | _ => rfl

theorem execRungComplete_of_device {s : State} {g : Rung} (hp : s.powered = true)
    (hfind : (s.rcv.rungs.find? fun r => r.scope == g.scope) = some g) (hdevice : g.scope = .warm ∨ g.scope = .cold)
    (hphase : s.boot.phase = .ready ∨ s.boot.phase = .retired) (hready : s.weir.ready = true) :
    execRungComplete g.scope s = .next (s.endDevice g) := by
  unfold execRungComplete
  rw [State.whenPowered_of_on hp, hfind]
  obtain h | h := hdevice
  · rw [h]
    exact congrArg _ (if_pos ⟨hphase, hready⟩)
  · rw [h]
    exact congrArg _ (if_pos ⟨hphase, hready⟩)

/-! ### A device rung completes (R367, R391, R393) -/

/-- An empty window holds no record to judge. -/
theorem State.evalWindow_of_empty {s : State} {c : CtxId} (h : (s.ctx c).regs.window = []) (n : Nat) : State.evalWindow c n s = s := by
  have hread : windowRead (s.ctx c).regs.window (s.ctx c).regs.consumed.toNat 16 = none := by
    rw [h]
    rfl
  have hone : s.evalOne c = none := by
    unfold State.evalOne
    dsimp only
    rw [hread, ite_self]
  cases n with
  | zero => rfl
  | succ n => rw [State.evalWindow, hone]

theorem State.evalAll_of_empty {s : State} (h : ∀ c, (s.ctx c).regs.window = []) : s.evalAll = s := by
  have hall : ∀ n, allCtx.foldl (fun t c => State.evalWindow c n t) s = s := fun n =>
    List.foldl_fixed' (fun c => State.evalWindow_of_empty (h c) n) allCtx
  unfold State.evalAll State.forCtx
  exact hall 2048

/-- The rung no longer runs, a trip is over, and an owner's lease starts in full (R391). -/
def State.deviceFreed (s : State) (g : Rung) : State :=
  { s with
    rcv := { s.rcv with rungs := s.rcv.rungs.filter fun r => r.scope != g.scope, tripping := false }
    pwr := { s.pwr with trip := false }
    own := { s.own with leaseEnd := if s.own.owner.isSome then s.clk.now + s.cfg.leaseCfg * 1000000000 else s.own.leaseEnd } }

/-- Every pattern's periods that passed are used up. -/
def State.periodsSkipped (s : State) : State := s.forCtx fun t c => t.modCtx c fun x => x.skipPeriods t.clk.now

theorem State.periodsSkipped_rest (s : State) : ∃ ctxs, s.periodsSkipped = { s with ctxs := ctxs } :=
  ⟨_, s.forCtx_modCtx_rest fun t _ x => x.skipPeriods t.clk.now⟩

theorem State.periodsSkipped_window (s : State) (c : CtxId) : (s.periodsSkipped.ctx c).regs.window = (s.ctx c).regs.window := by
  unfold State.periodsSkipped State.forCtx
  refine State.keeps_foldl (fun u : State => (u.ctx c).regs.window) (fun t c => t.modCtx c fun x => x.skipPeriods t.clk.now)
    (fun u d => ?_) allCtx s
  rw [State.modCtx_ctx]
  split
  case isTrue h => rw [← h]; rfl
  case isFalse => rfl

theorem State.endDevice_eq (s : State) (g : Rung) : s.endDevice g =
    let t := (s.deviceFreed g).periodsSkipped.trace 2 0x21 0 (g.word false)
    (if g.scope = .warm then t.msixBoth 0 else t).evalAll := rfl

/-- With nothing in the windows, contexts, the trace and the outputs differ otherwise. -/
theorem State.endDevice_rest (s : State) (g : Rung) (h : ∀ c, (s.ctx c).regs.window = []) :
    ∃ ctxs tel out, s.endDevice g = { s.deviceFreed g with ctxs := ctxs, tel := tel, out := out } := by
  rw [State.endDevice_eq]
  generalize hu : s.deviceFreed g = u
  have hwindow : ∀ c, (u.periodsSkipped.ctx c).regs.window = [] := fun c => (u.periodsSkipped_window c).trans (by rw [← hu]; exact h c)
  obtain ⟨ctxs, hskip⟩ := u.periodsSkipped_rest
  rw [hskip] at hwindow ⊢
  obtain ⟨tel, htrace⟩ : ∃ tel, State.trace { u with ctxs := ctxs } 2 0x21 0 (g.word false) = { u with ctxs := ctxs, tel := tel } :=
    ⟨_, State.trace_rest ..⟩
  rw [htrace]
  dsimp only
  split
  · exact ⟨ctxs, tel, _, State.evalAll_of_empty hwindow⟩
  · exact ⟨ctxs, tel, u.out, State.evalAll_of_empty hwindow⟩

/-! ### Suspect replay (R374) -/

/-- Records change INTG_ registers and outputs only. -/
theorem State.foldl_record_rest {α : Type} (f : State → α → Sig) (l : List α) (s : State) :
    ∃ intg out, l.foldl (fun u a => u.record (f u a)) s = { s with intg := intg, out := out } := by
  induction l generalizing s with
  | nil => exact ⟨s.intg, s.out, rfl⟩
  | cons a l ih =>
    obtain ⟨intg, out, h⟩ := ih (s.record (f s a))
    exact ⟨intg, out, h⟩

/-- A quarantine that ends makes records and frees its engine, for which ready commands may start. -/
theorem State.endQuarantine_still (s : State) (q : Quarantine) (outcome : Nat) : ∃ intg, (s.endQuarantine q outcome).still = State.still { s with
    intg := intg
    rcv := { s.rcv with quarantines := s.rcv.quarantines.filter fun r => r.engine != q.engine } } := by
  obtain ⟨intg, out, h⟩ := State.foldl_record_rest (fun (u : State) (c : CtxId) => { Sig.empty 1 with
    cls := some 5, unit := u.engineName q.engine, ctx := some (c.val, (u.ctx c).regs.gen.toNat), outcome := some outcome
    evstate := some 0 }) q.suspects s
  unfold State.endQuarantine
  rw [State.dispatch_still, h]
  exact ⟨intg, rfl⟩

/-- Its engine serves again; the journal, settings, ownership and contexts stand. -/
theorem State.endQuarantine_leaves (s : State) (q : Quarantine) (outcome : Nat) :
    let t := s.endQuarantine q outcome
    t.rcv = { s.rcv with quarantines := s.rcv.quarantines.filter fun r => r.engine != q.engine } ∧ t.boot = s.boot ∧ t.cfg = s.cfg
      ∧ t.own = s.own ∧ ∀ c, (t.ctx c).state = (s.ctx c).state := by
  obtain ⟨intg, h⟩ := s.endQuarantine_still q outcome
  generalize s.endQuarantine q outcome = t at h ⊢
  obtain ⟨-, -, -, hctx⟩ := State.parts_of_still h
  exact ⟨congrArg (·.rcv) h, congrArg (·.boot) h, congrArg (·.cfg) h, congrArg (·.own) h, fun c => congrArg (·.state) (hctx c)⟩

theorem mem_otherQuarantines {qs : List Quarantine} {e : Engine} : ∀ r ∈ (qs.filter fun r => r.engine != e), r.engine ≠ e :=
  fun _ hr => by simpa using (List.mem_filter.1 hr).2

/-- A case that stays unresolved is counted, and its quarantine ends. -/
theorem State.unresolved_leaves (s : State) (q : Quarantine) :
    let t := s.unresolved q
    (∀ r ∈ t.rcv.quarantines, r.engine ≠ q.engine) ∧ t.rcv.unresolved = (q.engine, s.clk.now) :: s.rcv.unresolved
      ∧ t.cfg = s.cfg ∧ t.own = s.own := by
  unfold State.unresolved
  extract_lets day before rcv s1 rcv1 s2
  have h2 : ∃ retires queue wait, s2 = { s1 with
      rcv := { s1.rcv with retires := retires }, boot := { s1.boot with queue := queue }, hw := { s1.hw with pendingOut := wait } } := by
    unfold s2
    split
    · split
      · obtain ⟨retires, queue, wait, h, -⟩ := s1.retireNext_rest _
        exact ⟨retires, queue, wait, h⟩
      · exact ⟨s1.rcv.retires, s1.boot.queue, s1.hw.pendingOut, rfl⟩
    · exact ⟨s1.rcv.retires, s1.boot.queue, s1.hw.pendingOut, rfl⟩
  clear_value s2
  obtain ⟨retires, queue, wait, h⟩ := h2
  obtain ⟨hrcv, -, hcfg, hown, -⟩ := s2.endQuarantine_leaves q 0
  refine ⟨?_, ?_, hcfg.trans ?_, hown.trans ?_⟩
  · rw [hrcv]
    exact mem_otherQuarantines
  · rw [hrcv, h]
  · rw [h]
  · rw [h]

/-- An active context is torn down from now on. -/
theorem State.startTeardown_state {s : State} {c : CtxId} (ha : (s.ctx c).state = .active) (code : Code) (reason : Reason) (w : Who) :
    ((s.startTeardown c code reason w).ctx c).state = .tearing := by
  unfold State.startTeardown
  extract_lets x hold s1 s2 intg sec s3
  rw [if_neg (not_not_intro ha), State.dispatch_ctx_state]
  have h3 : (s3.ctx c).state = .tearing := by
    show (s2.ctx c).state = .tearing
    unfold s2
    rw [State.modCtx_ctx, if_pos rfl]
  split
  · rw [State.tearRow_ctx, if_pos rfl]
    exact h3
  · exact h3

/-- A replay is counted, and once more where it hung. -/
def State.replayed (s : State) (hung : Bool) : State := { s with rcv := { s.rcv with replays := satAdd s.rcv.replays (1 + b2n hung) } }

/-- A suspect whose command hangs elsewhere too is counted as guilty and torn down. -/
def State.guiltySuspect (s : State) (c : CtxId) : State :=
  State.startTeardown { s with rcv := { s.rcv with guilty := satInc s.rcv.guilty } } c .abortedFault .fault Who.device

theorem State.guiltySuspect_leaves {s : State} {c : CtxId} (ha : (s.ctx c).state = .active) :
    let t := s.guiltySuspect c
    (t.ctx c).state = .tearing ∧ t.rcv.guilty = satInc s.rcv.guilty ∧ t.rcv.replays = s.rcv.replays ∧ t.cfg = s.cfg ∧ t.own = s.own := by
  have hplant := State.startTeardown_plant { s with rcv := { s.rcv with guilty := satInc s.rcv.guilty } } c .abortedFault .fault Who.device
  exact ⟨State.startTeardown_state (s := { s with rcv := { s.rcv with guilty := satInc s.rcv.guilty } }) ha .abortedFault .fault Who.device,
    congrArg (·.rcv.guilty) hplant, congrArg (·.rcv.replays) hplant, congrArg (·.cfg) hplant, congrArg (·.own) hplant⟩

/-- An engine on which a command hangs that does not hang elsewhere: a miss of its unit, where it names one. -/
def State.engineMissed (s : State) (e : Engine) : State :=
  match s.engineUnit e with
  | some u => s.missUnit (s.engineName e) u 1
  | none => s

theorem State.engineMissed_leaves (s : State) (e : Engine) :
    let t := s.engineMissed e
    t.rcv.guilty = s.rcv.guilty ∧ t.cfg = s.cfg ∧ t.own = s.own
      ∧ ∀ u, s.engineUnit e = some u → .miss (s.engineName e) 1 s.jnow ∈ t.boot.queue := by
  unfold State.engineMissed
  cases hunit : s.engineUnit e with
  | none => exact ⟨rfl, rfl, rfl, nofun⟩
  | some u =>
    obtain ⟨missLog, retires, queue, wait, h, hmiss⟩ := s.missUnit_rest (s.engineName e) u 1
    dsimp only
    rw [h]
    exact ⟨rfl, rfl, rfl, fun _ _ => hmiss⟩

/-- The suspect on trial has been replayed: the next one is to follow. -/
def Quarantine.onward (e : Engine) (r : Quarantine) : Quarantine := { r with todo := if r.engine = e then r.todo.drop 1 else r.todo }

section
variable {s : State} {q : Quarantine} {c : CtxId} (hu : s.up = true)
  (hfind : (s.rcv.quarantines.find? fun r => r.engine == q.engine) = some q)
include hu hfind

theorem execQuarantineLimit_of_over (hdue : q.since + 200000000 ≤ s.clk.now) : execQuarantineLimit q.engine s = .next (s.unresolved q) := by
  unfold execQuarantineLimit
  rw [State.whenUp_of_up hu, hfind]
  exact congrArg _ (if_neg (Nat.not_lt.2 hdue))

variable (hhead : q.todo.head? = some c)
include hhead

theorem execSuspectReplayComplete_of_guilty : execSuspectReplayComplete q.engine c true true s
    = .next (((s.replayed true).guiltySuspect c).endQuarantine q 5) := by
  unfold execSuspectReplayComplete
  rw [State.whenUp_of_up hu, hfind]
  exact congrArg _ (if_neg (not_not_intro hhead))

theorem execSuspectReplayComplete_of_faulty : execSuspectReplayComplete q.engine c true false s
    = .next (((s.replayed true).engineMissed q.engine).endQuarantine q 2) := by
  unfold execSuspectReplayComplete
  rw [State.whenUp_of_up hu, hfind]
  exact congrArg _ (if_neg (not_not_intro hhead))

theorem execSuspectReplayComplete_of_next (hmore : 1 < q.todo.length) (elsewhere : Bool) :
    execSuspectReplayComplete q.engine c false elsewhere s = .next { s.replayed false with
      rcv := { (s.replayed false).rcv with quarantines := s.rcv.quarantines.map (Quarantine.onward q.engine) } } := by
  unfold execSuspectReplayComplete
  rw [State.whenUp_of_up hu, hfind]
  refine congrArg _ ((if_neg (not_not_intro hhead)).trans ?_)
  exact if_neg (Nat.not_le.2 hmore)

end

/-- Settles O58: each event selects one branch, in which a rung starts alone, gives way to the one above it, or ends with its memory cleared;
a suspect's replay ends its context, or counts against the engine, or passes to the next suspect. -/
theorem ladderClimbs : Obligations.LadderClimbs := by
  intro s
  simp only [exec_watchdogExpiry, exec_heartbeatMiss, exec_unitBoundMiss, exec_rungBoundMiss, exec_rungComplete, exec_suspectReplayComplete,
    exec_quarantineLimit]
  refine ⟨fun e r k hu hrun hwait hdue hnone => ?overdue, fun e k hu hrun hkill hdue hnone => ?disobeyed,
    fun hu hnone => ⟨fun r => ?region, fun w hw => ?steward, fun b => ?bound⟩, fun g hp hrungs hdue hcold => ?missed,
    fun g hp hfind => ⟨fun hwarm hcold hregion => ?lower, fun hdevice hphase hready hwindow => ?device⟩,
    fun q c hu hfind hhead => ⟨fun hactive => ?guilty, ?faulty, fun hmore elsewhere => ?next, fun hdue => ?limit⟩⟩
  case overdue =>
    obtain ⟨hdogs, hruns, hcounts, -, hkept⟩ := State.expireWatchdog_leaves hnone e (s.suspects e)
    exact ⟨_, execWatchdogExpiry_of_overdue hu hrun hwait hdue, hdogs, hruns, hcounts, hkept⟩
  case disobeyed =>
    obtain ⟨hdogs, hruns, -, hkept⟩ := State.expireWatchdog_leaves hnone e (s.killSuspects k)
    exact ⟨_, execWatchdogExpiry_of_disobeyed hu hrun hkill hdue, hdogs, hruns, hkept⟩
  case region =>
    obtain ⟨hcfg, hown, -, -, -, hdma⟩ := State.startRung_lower_leaves hnone (scope := .region r) nofun nofun false none []
    exact ⟨_, execHeartbeatMiss_of_region hu r, State.startRung_runs hnone (.region r) false none [], congrArg (·.ready) hdma, hcfg, hown⟩
  case steward => exact ⟨_, execHeartbeatMiss_of_other hu hw, State.startRung_warm_leaves hnone false none []⟩
  case bound => exact ⟨_, execUnitBoundMiss_of_up hu b, State.startRung_warm_leaves hnone false none []⟩
  case missed =>
    have hfind : (s.rcv.rungs.find? fun r => r.scope == g.scope) = some g := by
      rw [hrungs]
      simp
    obtain ⟨hruns, hlower⟩ := State.missedRung_climbs hrungs hcold
    exact ⟨_, _, execRungBoundMiss_of_due hp hfind hdue hcold, hruns, rfl, rfl, rfl, rfl, rfl, hlower⟩
  case lower =>
    obtain ⟨hw, tel, qs, h, hsuspects⟩ := s.endRung_rest hregion
    refine ⟨_, execRungComplete_of_lower hp hfind hwarm hcold, ?_⟩
    rw [h]
    simp only [State.dispatch_rcv, State.dispatch_mem, State.dispatch_cfg, State.dispatch_own, State.dispatch_hbm]
    exact ⟨rfl, hsuspects, fun a len hrange x ha hx => Mem.foldl_clear_base _ s.mem a len hrange x ha hx, rfl, rfl, rfl⟩
  case device =>
    obtain ⟨ctxs, tel, out, h⟩ := s.endDevice_rest g hwindow
    refine ⟨_, execRungComplete_of_device hp hfind hdevice hphase hready, ?_⟩
    rw [h]
    refine ⟨rfl, rfl, rfl, fun howner => ?_, rfl, rfl, rfl⟩
    simp only [State.deviceFreed, if_pos howner]
  case guilty =>
    obtain ⟨htearing, hguilty, hreplays, hcfg, hown⟩ := State.guiltySuspect_leaves (s := s.replayed true) hactive
    obtain ⟨hrcv, -, hcfg', hown', hstate⟩ := ((s.replayed true).guiltySuspect c).endQuarantine_leaves q 5
    refine ⟨_, execSuspectReplayComplete_of_guilty hu hfind hhead, (hstate c).trans htearing, ?_, ?_, ?_, hcfg'.trans hcfg, hown'.trans hown⟩
    · rw [hrcv]
      exact hguilty
    · rw [hrcv]
      exact hreplays
    · rw [hrcv]
      exact mem_otherQuarantines
  case faulty =>
    obtain ⟨hguilty, hcfg, hown, hmiss⟩ := (s.replayed true).engineMissed_leaves q.engine
    obtain ⟨hrcv, hboot, hcfg', hown', -⟩ := ((s.replayed true).engineMissed q.engine).endQuarantine_leaves q 2
    refine ⟨_, execSuspectReplayComplete_of_faulty hu hfind hhead, ?_, ?_, fun u hunit => ?_, hcfg'.trans hcfg, hown'.trans hown⟩
    · rw [hrcv]
      exact hguilty
    · rw [hrcv]
      exact mem_otherQuarantines
    · rw [hboot]
      exact hmiss u hunit
  case next =>
    refine ⟨_, execSuspectReplayComplete_of_next hu hfind hhead hmore elsewhere, rfl, fun r hr he => ?_⟩
    obtain ⟨o, ho, rfl⟩ := List.mem_map.1 hr
    have hengine : o.engine = q.engine := he
    refine ⟨o, ho, ?_⟩
    rw [Quarantine.onward, if_pos hengine]
  case limit => exact ⟨_, execQuarantineLimit_of_over hu hfind hdue, s.unresolved_leaves q⟩

end Sys2Proof.Machine
end

section
/-! PROOFS. What the loss of a channel changes, and the retraining that may lose one (R150, R151, R158, R159, R443). -/

namespace Sys2Proof.Machine

theorem exec_retrainSlot (s : State) : exec .retrainSlot s = execRetrainSlot s := rfl
theorem exec_retrainResult (failed : BitVec 8) (s : State) : exec (.retrainResult failed) s = execRetrainResult failed s := rfl

/-! ### The loss of a channel -/

/-- A channel that is lost for good. -/
def Channel.lose (ch : Channel) : Channel := { ch with lost := true, suspect := false }

theorem State.haltAdmission_plant (s : State) : s.haltAdmission.plant = s.plant := by
  unfold State.haltAdmission
  refine State.plant_foldl _ (fun u p => ?_) _ _
  split
  · exact State.abortStep_plant ..
  · rfl

/-- A lost channel leaves its mark in the channels, the journal's queue and the migration; the rest that units and settings are made of
stands. -/
theorem State.loseChannel_plant {s : State} {c : Fin 256} (h : s.hbm.chans[c].lost = false) :
    ∃ (last : Nat) (migration : Migration) (set : List Nat), (s.loseChannel c).plant = State.plant { s with
      hbm := { s.hbm with chans := s.hbm.chans.set c s.hbm.chans[c].lose, lastFailed := last, migration := migration }
      boot := { s.boot with queue := s.boot.queue ++ [.chanLost c.val set] } } := by
  unfold State.loseChannel
  rw [if_neg (Bool.eq_false_iff.1 h)]
  extract_lets hbm chan s1 set sig s2 slu hbm2 s3 m
  split
  · refine ⟨c.val, s3.hbm.migration, set, (State.retestAll_plant ..).trans ?_⟩
    unfold s3
    split <;> rfl
  · exact ⟨c.val, m, set, State.haltAdmission_plant _⟩

theorem State.loseChannel_of_lost {s : State} {c : Fin 256} (h : s.hbm.chans[c].lost = true) : s.loseChannel c = s := by
  unfold State.loseChannel
  exact if_pos h

/-- What a channel's loss leaves, whether or not it was lost before. -/
theorem State.loseChannel_leaves (s : State) (c : Fin 256) :
    let t := s.loseChannel c
    (t.hbm.retry = s.hbm.retry ∧ t.hbm.retryFail = s.hbm.retryFail) ∧ t.hbm.chans[c].lost = true ∧ t.hbm.chans[c].fails = s.hbm.chans[c].fails
      ∧ (∀ d : Fin 256, d ≠ c → t.hbm.chans[d] = s.hbm.chans[d]) ∧ (∀ b ∈ s.boot.queue, b ∈ t.boot.queue)
      ∧ t.cfg = s.cfg ∧ t.own = s.own ∧ t.fuse = s.fuse ∧ t.flash = s.flash := by
  dsimp only
  cases h : s.hbm.chans[c].lost with
  | true =>
    rw [State.loseChannel_of_lost h]
    exact ⟨⟨rfl, rfl⟩, h, rfl, fun _ _ => rfl, fun _ hb => hb, rfl, rfl, rfl, rfl⟩
  | false =>
    obtain ⟨last, migration, set, hplant⟩ := State.loseChannel_plant h
    have hchans : (s.loseChannel c).hbm.chans = s.hbm.chans.set c s.hbm.chans[c].lose := congrArg (·.hbm.chans) hplant
    have hqueue : (s.loseChannel c).boot.queue = s.boot.queue ++ [.chanLost c.val set] := congrArg (·.boot.queue) hplant
    refine ⟨⟨congrArg (·.hbm.retry) hplant, congrArg (·.hbm.retryFail) hplant⟩, ?_, ?_, fun d hd => ?_, fun b hb => ?_,
      congrArg (·.cfg) hplant, congrArg (·.own) hplant, congrArg (·.fuse) hplant, congrArg (·.flash) hplant⟩
    · simp [hchans, Channel.lose]
    · simp [hchans, Channel.lose]
    · have hne : c.val ≠ d.val := fun e => hd (Fin.ext e.symm)
      simp [hchans, hne]
    · rw [hqueue]
      exact List.mem_append_left _ hb

/-! ### Retraining -/

/-- What a retrain leaves of a channel (R151). -/
def Channel.retrained (ch : Channel) (bad : Bool) : Channel :=
  if ch.lost = true then ch
  else if bad = false then { ch with suspect := false }
  else if ch.suspect = true then ch.lose
  else { ch with suspect := true }

/-- The parts of the state that a retrain leaves alone. -/
def State.untrained (s : State) : Option Nat × List Nat × Cfg × Own × Fuse × Clk × Pwr :=
  (s.hbm.slotGroup, s.hbm.mapped, s.cfg, s.own, s.fuse, s.clk, s.pwr)

theorem State.parts_of_untrained {s t : State} (h : t.untrained = s.untrained) :
    t.hbm.slotGroup = s.hbm.slotGroup ∧ t.hbm.mapped = s.hbm.mapped ∧ t.cfg = s.cfg ∧ t.own = s.own ∧ t.fuse = s.fuse ∧ t.clk = s.clk
      ∧ t.pwr = s.pwr := by
  simpa [State.untrained] using h

theorem State.retrained_leaves (s : State) (c : Fin 256) (bad : Bool) :
    (s.retrained c bad).hbm.chans = s.hbm.chans.set c (s.hbm.chans[c].retrained bad)
      ∧ (s.retrained c bad).untrained = s.untrained := by
  unfold State.retrained Channel.retrained
  dsimp only
  split
  case isTrue => exact ⟨(Vector.set_getElem_self _).symm, rfl⟩
  case isFalse hlost =>
    cases bad with
    | false => exact ⟨rfl, rfl⟩
    | true =>
      simp only [if_true, Bool.true_eq_false, if_false]
      split
      · obtain ⟨last, migration, set, h⟩ := State.loseChannel_plant
          (s := { s with hbm := { s.hbm with retrainFail := satInc s.hbm.retrainFail } }) (c := c) (Bool.eq_false_iff.2 hlost)
        exact ⟨congrArg (·.hbm.chans) h, (congrArg State.untrained h :)⟩
      · exact ⟨rfl, rfl⟩

/-- A fold that sets one element after another, seen at an element that it does not set. -/
theorem foldl_set_other {α κ : Type} {n : Nat} (i : κ → Fin n) (g : κ → α → α) (l : List κ) (v : Vector α n) (c : Fin n)
    (hc : ∀ k ∈ l, i k ≠ c) : (l.foldl (fun v k => v.set (i k) (g k v[i k])) v)[c] = v[c] := by
  induction l generalizing v with
  | nil => rfl
  | cons k l ih =>
    rw [List.foldl_cons, ih _ fun j hj => hc j (List.mem_cons_of_mem k hj)]
    exact Vector.getElem_set_ne _ _ fun e => hc k List.mem_cons_self (Fin.ext e)

/-- The same fold at an element that it sets once. -/
theorem foldl_set_self {α κ : Type} {n : Nat} {i : κ → Fin n} (hi : Function.Injective i) (g : κ → α → α) {l : List κ} (hl : l.Nodup)
    (v : Vector α n) {k : κ} (hk : k ∈ l) : (l.foldl (fun v k => v.set (i k) (g k v[i k])) v)[i k] = g k v[i k] := by
  induction l generalizing v with
  | nil => cases hk
  | cons j l ih =>
    obtain ⟨hj, hl'⟩ := List.nodup_cons.1 hl
    rw [List.foldl_cons]
    obtain rfl | hk' := List.mem_cons.1 hk
    · rw [foldl_set_other i g l _ _ fun m hm e => hj ((hi e : m = k) ▸ hm)]
      exact Vector.getElem_set_self _
    · rw [ih hl' _ hk']
      congr 1
      exact Vector.getElem_set_ne _ _ fun e => hj (hi (Fin.ext e) ▸ hk')

/-- The channel that slot group `g` retrains in stack `k`. -/
def slotChan (g : Nat) (k : Fin 8) : Fin 256 := ⟨(32 * k.val + g) % 256, Nat.mod_lt _ (by decide)⟩

theorem slotChan_val {g : Nat} (hg : g < 32) (k : Fin 8) : (slotChan g k).val = 32 * k.val + g :=
  Nat.mod_eq_of_lt (by omega)

theorem slotChan_injective {g : Nat} (hg : g < 32) : Function.Injective (slotChan g) := fun j k h => by
  have hval := congrArg Fin.val h
  rw [slotChan_val hg, slotChan_val hg] at hval
  omega

/-- What the results of a slot say of a stack's channel (R443). -/
def State.retrainBad (s : State) (failed : BitVec 8) (k : Fin 8) : Bool := failed.getLsbD k.val || s.pwr.lostClk.contains (.hbm k)

theorem State.retrainBad_of_pwr {s t : State} (h : t.pwr = s.pwr) (failed : BitVec 8) : t.retrainBad failed = s.retrainBad failed := by
  unfold State.retrainBad
  rw [h]

/-- The results of a slot, stack by stack. -/
def State.retrainStacks (s : State) (g : Nat) (failed : BitVec 8) (l : List (Fin 8)) : State :=
  l.foldl (fun u k => u.retrained (slotChan g k) (u.retrainBad failed k)) s

theorem State.retrainStacks_leaves (g : Nat) (failed : BitVec 8) (l : List (Fin 8)) (s : State) :
    (s.retrainStacks g failed l).hbm.chans
        = l.foldl (fun v k => v.set (slotChan g k) (v[slotChan g k].retrained (s.retrainBad failed k))) s.hbm.chans
      ∧ (s.retrainStacks g failed l).untrained = s.untrained := by
  induction l generalizing s with
  | nil => exact ⟨rfl, rfl⟩
  | cons k l ih =>
    obtain ⟨hchans, hrest⟩ := s.retrained_leaves (slotChan g k) (s.retrainBad failed k)
    obtain ⟨hchans', hrest'⟩ := ih (s.retrained (slotChan g k) (s.retrainBad failed k))
    have hbad : (s.retrained (slotChan g k) (s.retrainBad failed k)).retrainBad failed = s.retrainBad failed := by
      obtain ⟨-, -, -, -, -, -, hpwr⟩ := State.parts_of_untrained hrest
      exact State.retrainBad_of_pwr hpwr failed
    rw [hbad, hchans] at hchans'
    exact ⟨hchans', hrest'.trans hrest⟩

theorem State.retrainStacks_chan (s : State) {g : Nat} (hg : g < 32) (failed : BitVec 8) (k : Fin 8) :
    (s.retrainStacks g failed (List.finRange 8)).hbm.chans[slotChan g k] = s.hbm.chans[slotChan g k].retrained (s.retrainBad failed k) := by
  simp only [State.retrainStacks_leaves]
  exact foldl_set_self (slotChan_injective hg) (fun k ch => Channel.retrained ch (s.retrainBad failed k)) (List.nodup_finRange 8) _
    (List.mem_finRange k)

theorem State.retrainStacks_chan_other (s : State) {g : Nat} (hg : g < 32) (failed : BitVec 8) {c : Fin 256} (hc : c.val % 32 ≠ g) :
    (s.retrainStacks g failed (List.finRange 8)).hbm.chans[c] = s.hbm.chans[c] := by
  simp only [State.retrainStacks_leaves]
  refine foldl_set_other (slotChan g) (fun k ch => Channel.retrained ch (s.retrainBad failed k)) _ _ c fun k _ e => hc ?_
  rw [← e, slotChan_val hg]
  omega

theorem execRetrainSlot_of_start {s : State} (hu : s.up = true) (hnow : s.clk.now % 32000 = 0) (hready : s.hbm.ready = true)
    (hslot : s.hbm.slotGroup = none) :
    execRetrainSlot s = .next { s with hbm := { s.hbm with slotGroup := some (s.clk.now / 32000 % 32) } } := by
  unfold execRetrainSlot
  rw [State.whenUp_of_up hu, if_pos ⟨hnow, hready, hslot⟩]

/-- The slot whose results are in is over. -/
def State.slotClosed (s : State) : State := { s with hbm := { s.hbm with slotGroup := none } }

theorem execRetrainResult_of_over {s : State} {g : Nat} (hu : s.up = true) (hslot : s.hbm.slotGroup = some g)
    (hover : 1300 ≤ s.clk.now % 32000) (failed : BitVec 8) : execRetrainResult failed s
      = .next (s.slotClosed.retrainStacks g failed (List.finRange 8)).dispatch := by
  unfold execRetrainResult
  rw [State.whenUp_of_up hu]
  dsimp only
  rw [hslot]
  dsimp only
  rw [if_neg (Nat.not_lt.2 hover)]
  rfl

/-- Settles O39: the slot's eight channels are distinct, so that each one is set once, to what its own result makes of it. -/
theorem retrainingSuspectsChannels : Obligations.RetrainingSuspectsChannels := by
  intro s hu
  rw [exec_retrainSlot]
  refine ⟨execRetrainSlot_of_start hu, fun failed g hslot hg hover => ?_⟩
  rw [exec_retrainResult]
  refine ⟨_, execRetrainResult_of_over hu hslot hover failed, ?_⟩
  simp only [State.dispatch_hbm, State.dispatch_cfg, State.dispatch_own, State.dispatch_fuse, State.dispatch_clk, State.dispatch_pwr]
  obtain ⟨hgroup, hmapped, hrest⟩ := State.parts_of_untrained
    (State.retrainStacks_leaves g failed (List.finRange 8) s.slotClosed).2
  refine ⟨hgroup, hmapped, fun c k hc => ?_, fun c hc => s.slotClosed.retrainStacks_chan_other hg failed hc, hrest⟩
  obtain rfl : c = slotChan g k := Fin.ext (hc.trans (slotChan_val hg k).symm)
  exact s.slotClosed.retrainStacks_chan hg failed k

end Sys2Proof.Machine
end

section
/-! PROOFS. Writes of the owner's settings (R162, R213, R289, R360, R391, R424, R432, R453). -/

namespace Sys2Proof.Machine

/-- A register of the owner takes a whole write by the owner. -/
theorem exec_ownerWrite {s : State} {p : Port} (hw : s.Writable p) (ho : s.own.owner = some p) {off : Nat} (ha : accessOf off = .owner)
    (v : Reg) : exec (.registerWrite off (whole p v)) s = .next (s.applyReg p off v) := by
  have hformed : writeFormed off (whole p v) = true := by
    have haligned : off % 4 = 0 := by
      by_contra h
      rw [accessOf, if_pos h] at ha
      cases ha
    simp [writeFormed, whole, haligned]
  have hport : (whole p v).port = p := rfl
  have hvalue : (whole p v).value = v := rfl
  simp [exec_registerWrite, State.writeReg, hport, hw.powered, State.linked_of_linkUp hw.link, hformed, hw.serving, hw.link, ha, ho, hvalue]

theorem State.anyCtx_iff (s : State) : s.anyCtx = true ↔ ∃ c, (s.ctx c).state ≠ .free := by
  simp [State.anyCtx, allCtx, Ctx.resident]

theorem State.anyJob_iff (s : State) : s.anyJob = true ↔ ∃ c, (s.ctx c).state ≠ .free ∧ (s.ctx c).job.tag ≠ 0#32 := by
  simp [State.anyJob, allCtx, Ctx.resident]

theorem State.writeFab_of_job {s : State} (h : s.anyJob = true) (f : Cfg → Cfg) : s.writeFab f = s := if_pos h
theorem State.writeFab_of_noJob {s : State} (h : s.anyJob = false) (f : Cfg → Cfg) : s.writeFab f = s.modCfg f :=
  if_neg (Bool.eq_false_iff.1 h)

/-! ### The registers of arrays -/

theorem accessOf_keyData (k : Fin 16) : accessOf (0xA0100 + 4 * k.val) = .owner := by
  revert k
  decide

theorem accessOf_fabAddr (k : Fin 4) : accessOf (0x70010 + 4 * k.val) = .owner := by
  revert k
  decide

theorem State.applyReg_keyData (s : State) (p : Port) (v : Reg) (k : Fin 16) :
    s.applyReg p (0xA0100 + 4 * k.val) v = s.modCfg fun c => { c with keyData := c.keyData.set k v } := by
  fin_cases k <;> rfl

theorem State.applyReg_fabAddr (s : State) (p : Port) (v : Reg) (k : Fin 4) :
    s.applyReg p (0x70010 + 4 * k.val) v = s.writeFab fun c => { c with fabAddr := c.fabAddr.set k v } := by
  fin_cases k <;> rfl

/-! ### The settings -/

/-- While a job holds a context, a write of a fabric setting changes nothing (R289). -/
theorem State.applyReg_fab_of_job {s : State} (h : s.anyJob = true) (p : Port) (v : Reg) {off : Nat}
    (hoff : off = 0x70004 ∨ off = 0x70008 ∨ off = 0x70020 ∨ off = 0x70024 ∨ off = 0x70028 ∨ off = 0x7002C
      ∨ (∃ k : Fin 4, off = 0x70010 + 4 * k.val)) : accessOf off = .owner ∧ s.applyReg p off v = s := by
  have hheld := State.writeFab_of_job h
  obtain rfl | rfl | rfl | rfl | rfl | rfl | ⟨k, rfl⟩ := hoff
  · exact ⟨rfl, hheld _⟩
  · exact ⟨rfl, hheld _⟩
  · refine ⟨rfl, ?_⟩
    show (if v.toNat % 8 = 0 then s.writeFab _ else s) = s
    rw [hheld, ite_self]
  · exact ⟨rfl, hheld _⟩
  · exact ⟨rfl, hheld _⟩
  · exact ⟨rfl, hheld _⟩
  · exact ⟨accessOf_fabAddr k, (s.applyReg_fabAddr p v k).trans (hheld _)⟩

/-- A write that sets a value when it is admitted. -/
theorem next_ite {c : Prop} [Decidable c] (s t : State) :
    (.next (if c then t else s) : Host.Outcome State Fault Refusal) = if c then .next t else .next s := apply_ite Host.Outcome.next c t s

/-- Settles O19: the owner's write reaches the arm of its register in `State.applyReg`, whose test is the clause's condition. -/
theorem ownerSettingsTakeValues : Obligations.OwnerSettingsTakeValues := by
  intro s p v hw ho
  have hwrite : ∀ {off : Nat} {t : State}, accessOf off = .owner → s.applyReg p off v = t →
      exec (.registerWrite off (whole p v)) s = .next t := fun ha ht => by rw [exec_ownerWrite hw ho ha, ht]
  refine ⟨fun h => ?lease, fun h => ?noLease, fun hlo hhi hfree => ?pool, fun h => ?noPool, ?ringLo, ?ringHi, fun h => ?ring, ?tailLo, ?tailHi,
    fun hlo hhi => ?power, fun h => ?noPower, ?updLo, ?updHi, ?updLen, fun k => ?key, fun hfree => ?fab, fun hjob off hoff => ?noFab⟩
  case lease => exact hwrite rfl (if_pos h)
  case noLease => exact hwrite rfl (if_neg (by omega))
  case pool =>
    have hctx : s.anyCtx = false := Bool.eq_false_iff.2 fun h => by
      obtain ⟨c, hc⟩ := s.anyCtx_iff.1 h
      exact hc (hfree c)
    exact hwrite rfl (if_pos ⟨hlo, hhi, by rw [hctx]; rfl⟩)
  case noPool =>
    refine hwrite rfl (if_neg ?_)
    rintro ⟨hlo, hhi, hctx⟩
    obtain h | h | h := h
    · omega
    · omega
    · rw [s.anyCtx_iff.2 h] at hctx
      cases hctx
  case ringLo => exact (hwrite rfl rfl).trans (next_ite ..)
  case ringHi => exact hwrite rfl rfl
  case ring => exact hwrite rfl (if_pos h)
  case tailLo => exact hwrite rfl rfl
  case tailHi => exact hwrite rfl rfl
  case power => exact hwrite rfl (if_pos ⟨hlo, hhi⟩)
  case noPower => exact hwrite rfl (if_neg (by omega))
  case updLo => exact (hwrite rfl rfl).trans (next_ite ..)
  case updHi => exact hwrite rfl rfl
  case updLen => exact (hwrite rfl rfl).trans (next_ite ..)
  case key => exact hwrite (accessOf_keyData k) (s.applyReg_keyData p v k)
  case fab =>
    have hset : ∀ f, s.writeFab f = s.modCfg f := State.writeFab_of_noJob (Bool.eq_false_iff.2 fun h => by
      obtain ⟨c, hstate, htag⟩ := s.anyJob_iff.1 h
      exact (hfree c).elim hstate htag)
    refine ⟨hwrite rfl (hset _), hwrite rfl (hset _), fun k => hwrite (accessOf_fabAddr k) ((s.applyReg_fabAddr p v k).trans (hset _)), ?_,
      hwrite rfl (hset _), hwrite rfl (hset _), hwrite rfl (hset _)⟩
    exact (hwrite (off := 0x70020) rfl (congrArg (ite (v.toNat % 8 = 0) · s) (hset _))).trans (next_ite ..)
  case noFab =>
    obtain ⟨ha, hsame⟩ := State.applyReg_fab_of_job (s.anyJob_iff.2 hjob) p v hoff
    exact hwrite ha hsame

end Sys2Proof.Machine
end

section
/-! PROOFS. Temperatures: what the levels, the alert and a trip make of a reading (R153, R154, R449, R451). -/

namespace Sys2Proof.Machine

theorem exec_hbmTemperatureRead (k : Fin 8) (temp : Nat) (s : State) :
    exec (.hbmTemperatureRead k temp) s = execHbmTemperatureRead k temp s := rfl

/-! ### What following the levels leaves alone -/

/-- Power without its levels, their counters and the alert. -/
def Pwr.calm (p : Pwr) : Pwr := { p with zones := p.zones.map fun z => { z with level := 0 }, levels := 0#32, aborts := 0#32, alert := false }

/-- The parts of the state that the levels neither are nor change when they follow the temperatures: settings, ownership, fuses, HBM,
temperatures, the trip, and admission. -/
def State.climate (s : State) : Cfg × Own × Fuse × Hbm × Pwr × Bool :=
  (s.cfg, s.own, s.fuse, s.hbm, s.pwr.calm, s.slu.admitting)

theorem State.parts_of_climate {s t : State} (h : t.climate = s.climate) : t.cfg = s.cfg ∧ t.own = s.own ∧ t.fuse = s.fuse ∧ t.hbm = s.hbm
    ∧ t.pwr.trip = s.pwr.trip ∧ t.pwr.power = s.pwr.power ∧ t.slu.admitting = s.slu.admitting :=
  ⟨congrArg (·.1) h, congrArg (·.2.1) h, congrArg (·.2.2.1) h, congrArg (·.2.2.2.1) h, congrArg (·.2.2.2.2.1.trip) h,
    congrArg (·.2.2.2.2.1.power) h, congrArg (·.2.2.2.2.2) h⟩

theorem State.zone_of_climate {s t : State} (h : t.climate = s.climate) (y : Fin 7) :
    t.pwr.zones[y].temp = s.pwr.zones[y].temp ∧ t.pwr.zones[y].thermal = s.pwr.zones[y].thermal := by
  have hzone : (t.pwr.zones.map fun z => { z with level := 0 })[y] = (s.pwr.zones.map fun z => { z with level := 0 })[y] :=
    congrArg (·.2.2.2.2.1.zones[y]) h
  simp only [Fin.getElem_fin, Vector.getElem_map, Zone.mk.injEq] at hzone
  exact ⟨hzone.1, hzone.2.1⟩

/-- The level that a zone needs follows from its temperature and the power level. -/
theorem State.required_of_climate {s t : State} (h : t.climate = s.climate) (y : Fin 7) : t.required y = s.required y := by
  obtain ⟨-, -, -, -, -, hpower, -⟩ := State.parts_of_climate h
  rw [State.required, State.required, hpower, (State.zone_of_climate h y).2]

theorem State.climate_of_ended {c : CtxId} {s t : State} (h : State.Ended c s t) : t.climate = s.climate := by
  have houter : ∀ u : State, u.climate = (u.cfg, u.outer.own, u.outer.fuse, u.outer.hbm, u.outer.pwr.calm, u.slu.admitting) := fun _ => rfl
  have hcfg : t.cfg = s.cfg := congrArg (·.cfg) h.outer
  have hadmit : t.slu.admitting = s.slu.admitting := congrArg (·.admitting) h.slu
  rw [houter, houter s, h.outer, hcfg, hadmit]

theorem State.thermalAbort_climate (s : State) (c : CtxId) (t : Step) : (s.thermalAbort c t).climate = s.climate := by
  unfold State.thermalAbort
  dsimp only
  rw [State.climate_of_ended (State.Ended.abortStep ..)]
  split <;> rfl

theorem State.thermalAborts_climate (s : State) (ts : List (CtxId × Step)) : (s.thermalAborts ts).climate = s.climate := by
  refine State.keeps_foldl State.climate _ (fun u p => ?_) ts s
  split
  · exact State.thermalAbort_climate ..
  · rfl

/-- A zone's level is set; changes are counted and traced. -/
theorem State.setLevel_rest (s : State) (z : Fin 7) (l : Nat) : ∃ levels tel, s.setLevel z l = { s with
    pwr := { s.pwr with zones := s.pwr.zones.set z { s.pwr.zones[z] with level := l }, levels := levels }, tel := tel } := by
  unfold State.setLevel
  dsimp only
  split
  case isTrue h =>
    subst h
    exact ⟨s.pwr.levels, s.tel, by rw [show s.pwr.zones.set z s.pwr.zones[z] = s.pwr.zones from Vector.set_getElem_self _]⟩
  case isFalse =>
    rw [State.trace_rest]
    exact ⟨_, _, rfl⟩

theorem Pwr.calm_setLevel (p : Pwr) (z : Fin 7) (l : Nat) (levels : Reg) :
    Pwr.calm { p with zones := p.zones.set z { p.zones[z] with level := l }, levels := levels } = p.calm := by
  have hzones : (p.zones.set z { p.zones[z] with level := l }).map (fun y => { y with level := 0 })
      = p.zones.map fun y => { y with level := 0 } := by
    ext i hi : 1
    simp only [Vector.getElem_map, Vector.getElem_set]
    split
    case isTrue e => subst e; rfl
    case isFalse => rfl
  exact congrArg (fun zones : Vector Zone 7 => ({ p with zones := zones, levels := 0#32, aborts := 0#32, alert := false } : Pwr)) hzones

theorem State.setLevel_climate (s : State) (z : Fin 7) (l : Nat) : (s.setLevel z l).climate = s.climate := by
  obtain ⟨levels, tel, h⟩ := s.setLevel_rest z l
  rw [h]
  exact congrArg (fun p : Pwr => (s.cfg, s.own, s.fuse, s.hbm, p, s.slu.admitting)) (s.pwr.calm_setLevel z l levels)

theorem State.setLevel_level (s : State) (z y : Fin 7) (l : Nat) :
    (s.setLevel z l).pwr.zones[y].level = if z = y then l else s.pwr.zones[y].level := by
  obtain ⟨levels, tel, h⟩ := s.setLevel_rest z l
  rw [h]
  simp only [Fin.getElem_fin, Vector.getElem_set, Fin.ext_iff]
  split <;> rfl

/-- Every zone takes the level that it needs. -/
def State.setLevels (s : State) : State := (List.finRange 7).foldl (fun u z => u.setLevel z (u.required z)) s

theorem State.setLevels_climate (s : State) : s.setLevels.climate = s.climate :=
  State.keeps_foldl State.climate _ (fun u z => u.setLevel_climate z (u.required z)) _ s

theorem State.setLevels_level (s : State) (y : Fin 7) : s.setLevels.pwr.zones[y].level = s.setLevels.required y := by
  have hreach := foldl_reaches (P := fun z (u : State) => u.pwr.zones[z].level = u.required z)
    (fun u z => u.setLevel z (u.required z)) (fun u z => ?_) (fun u z b hb => ?_) (List.finRange 7) s
  · unfold State.setLevels
    exact hreach y (List.mem_finRange y)
  · rw [State.required_of_climate (State.setLevel_climate ..), State.setLevel_level, if_pos rfl]
  · rw [State.required_of_climate (State.setLevel_climate ..), State.setLevel_level]
    split
    case isTrue e => rw [e]
    case isFalse => exact hb

/-- Aborts, levels and the alert follow the zones; only a trip changes more. -/
def State.followLevels (s : State) : State := (s.thermalAborts s.overheated).setLevels.driveAlert.dispatch

theorem State.driveAlert_leaves (s : State) : s.driveAlert.climate = s.climate ∧ s.driveAlert.pwr.zones = s.pwr.zones
    ∧ s.driveAlert.pwr.alert = s.driveAlert.alertNow := by
  unfold State.driveAlert
  split
  case isTrue h => exact ⟨rfl, rfl, h.symm⟩
  case isFalse => exact ⟨rfl, rfl, rfl⟩

theorem State.climate_of_still {s t : State} (h : t.still = s.still) : t.climate = s.climate := by
  have hstill : ∀ u : State, u.climate = u.still.climate := fun _ => rfl
  rw [hstill, h, ← hstill]

theorem State.alertNow_of_pwr {s t : State} (h : t.pwr = s.pwr) : t.alertNow = s.alertNow := by
  rw [State.alertNow, State.alertNow, h]

theorem State.followLevels_leaves (s : State) : s.followLevels.climate = s.climate
    ∧ (∀ y : Fin 7, s.followLevels.pwr.zones[y].level = s.followLevels.required y) ∧ s.followLevels.pwr.alert = s.followLevels.alertNow := by
  have hlevels := (s.thermalAborts s.overheated).setLevels_level
  have hset := ((s.thermalAborts s.overheated).setLevels_climate).trans (s.thermalAborts_climate s.overheated)
  obtain ⟨hclimate, hzones, halert⟩ := (s.thermalAborts s.overheated).setLevels.driveAlert_leaves
  unfold State.followLevels
  generalize (s.thermalAborts s.overheated).setLevels = u at *
  have hdispatch : u.driveAlert.dispatch.climate = u.climate := (State.climate_of_still (State.dispatch_still _)).trans hclimate
  refine ⟨hdispatch.trans hset, fun y => ?_, ?_⟩
  · rw [State.required_of_climate hdispatch, State.dispatch_pwr, hzones, hlevels]
  · rw [State.alertNow_of_pwr (State.dispatch_pwr _), State.dispatch_pwr, halert]

/-! ### The trip -/

theorem State.applyLevels_of_cool {s : State} (h : ∀ z, s.required z < 4) : s.applyLevels = s.followLevels := by
  have hcool : (List.finRange 7).any (fun z => decide (4 ≤ s.required z)) = false :=
    List.any_eq_false.2 fun z _ => by simpa using h z
  unfold State.applyLevels
  rw [hcool]
  rfl

theorem State.applyLevels_of_hot {s : State} {z : Fin 7} (h : 4 ≤ s.required z) : s.applyLevels = s.tripNow.followLevels := by
  have hhot : (List.finRange 7).any (fun z => decide (4 ≤ s.required z)) = true :=
    List.any_eq_true.2 ⟨z, List.mem_finRange z, decide_eq_true h⟩
  unfold State.applyLevels
  rw [hhot]
  rfl

/-- A device that has tripped admits nothing. -/
def State.tripped (s : State) : State := { s with pwr := { s.pwr with trip := true }, slu := { s.slu with admitting := false } }

theorem State.tripNow_climate {s : State} (h : s.pwr.trip = false) :
    s.tripNow.climate = s.tripped.climate := by
  unfold State.tripNow
  rw [if_neg (Bool.eq_false_iff.1 h)]
  extract_lets ts s1
  have hclimate : s1.climate = s.climate := s.thermalAborts_climate ts
  have htripped : ∀ u : State, u.climate = s.climate → u.tripped.climate = s.tripped.climate := fun u hu =>
    congrArg (fun x : Cfg × Own × Fuse × Hbm × Pwr × Bool =>
      (x.1, x.2.1, x.2.2.1, x.2.2.2.1, ({ x.2.2.2.2.1 with trip := true } : Pwr), false)) hu
  exact htripped s1 hclimate

theorem State.endTrip_of_calm {s : State} (h : s.pwr.trip = false ∨ s.cooled = false) : s.endTrip = s := by
  unfold State.endTrip
  obtain h | h := h
  · rw [h]; rfl
  · rw [h, Bool.and_false]; rfl

theorem State.cooled_of_warm {s : State} {k : Fin 8} (h : 95 ≤ s.hbm.temps[k]) : s.cooled = false := by
  refine Bool.and_eq_false_iff.2 (.inl (List.all_eq_false.2 ⟨s.hbm.temps[k], ?_, ?_⟩))
  · exact Vector.mem_toList_iff.2 (Vector.getElem_mem _)
  · simpa using h

/-! ### A stack's reading -/

/-- At 108 °C and above a stack is at level 4, whatever it was (R153). -/
theorem levelAfter_hot {temp : Nat} (h : 108 ≤ temp) (cur : Nat) : levelAfter [85, 95, 102, 108] cur temp = 4 := by
  have h85 : 85 ≤ temp := by omega
  have h95 : 95 ≤ temp := by omega
  have h102 : 102 ≤ temp := by omega
  simp [levelAfter, List.zipIdx, h, h85, h95, h102]

theorem zoneOfStacks_of_four {l : Nat} (h : 4 ≤ l) : zoneOfStacks l = 4 := by
  unfold zoneOfStacks
  split <;> omega

theorem le_foldl_max {l : List Nat} {n : Nat} (h : n ∈ l) (m : Nat) : n ≤ l.foldl max m := by
  have hgrow : ∀ (l : List Nat) (m : Nat), m ≤ l.foldl max m := fun l => by
    induction l with
    | nil => exact fun m => Nat.le_refl m
    | cons a l ih => exact fun m => (Nat.le_max_left m a).trans (ih _)
  induction l generalizing m with
  | nil => cases h
  | cons a l ih =>
    obtain rfl | h := List.mem_cons.1 h
    · exact (Nat.le_max_right m n).trans (hgrow l _)
    · exact ih h _

/-- The die of a stack, and its zone H (R451). -/
def stackZone (k : Fin 8) : Fin 7 := if k.val < 4 then 2 else 5

/-- The highest of the values of the stacks on a stack's die. -/
def dieMost (k : Fin 8) (v : Vector Nat 8) : Nat :=
  (((List.finRange 8).filter fun j => j.val / 4 == k.val / 4).map fun j => v[j]).foldl max 0

theorem le_dieMost (k : Fin 8) (v : Vector Nat 8) : v[k] ≤ dieMost k v :=
  have hmem : k ∈ (List.finRange 8).filter fun j => j.val / 4 == k.val / 4 :=
    List.mem_filter.2 ⟨List.mem_finRange k, beq_self_eq_true _⟩
  le_foldl_max (List.mem_map_of_mem (f := fun j : Fin 8 => v[j]) hmem) 0

/-- The state with a stack's reading in its place, before the levels follow. -/
def State.stackRead (s : State) (k : Fin 8) (temp : Nat) : State :=
  let temps := s.hbm.temps.set k temp
  let levels := s.hbm.levels.set k (levelAfter [85, 95, 102, 108] s.hbm.levels[k] temp)
  let zone := { s.pwr.zones[stackZone k] with temp := dieMost k temps, thermal := zoneOfStacks (dieMost k levels) }
  { s with hbm := { s.hbm with temps := temps, levels := levels }, pwr := { s.pwr with zones := s.pwr.zones.set (stackZone k) zone } }

theorem State.stackRead_zone (s : State) (k : Fin 8) (temp : Nat) :
    (s.stackRead k temp).pwr.zones[stackZone k].temp = dieMost k (s.stackRead k temp).hbm.temps
      ∧ (s.stackRead k temp).pwr.zones[stackZone k].thermal = zoneOfStacks (dieMost k (s.stackRead k temp).hbm.levels) := by
  simp [State.stackRead]

theorem State.stackRead_zone_other (s : State) {k : Fin 8} (temp : Nat) {y : Fin 7} (h : y ≠ stackZone k) :
    (s.stackRead k temp).pwr.zones[y] = s.pwr.zones[y] :=
  Vector.getElem_set_ne (stackZone k).isLt y.isLt fun e => h (Fin.ext e.symm)

theorem execHbmTemperatureRead_of_on {s : State} (hp : s.powered = true) (k : Fin 8) (temp : Nat) :
    execHbmTemperatureRead k temp s = .next (s.stackRead k temp).applyLevels.endTrip := by
  unfold execHbmTemperatureRead
  rw [State.whenPowered_of_on hp]
  refine congrArg (fun u : State => Host.Outcome.next u.applyLevels.endTrip) ?_
  rfl

/-- What a reading shows, once the levels have followed it. -/
theorem State.stackRead_shown {s t : State} {k : Fin 8} {temp : Nat}
    (h : t.climate = (s.stackRead k temp).climate ∨ t.climate = (s.stackRead k temp).tripped.climate) :
    t.hbm = (s.stackRead k temp).hbm
      ∧ (∀ y : Fin 7, t.pwr.zones[y].temp = (s.stackRead k temp).pwr.zones[y].temp
          ∧ t.pwr.zones[y].thermal = (s.stackRead k temp).pwr.zones[y].thermal)
      ∧ t.cfg = s.cfg ∧ t.own = s.own ∧ t.fuse = s.fuse := by
  obtain h | h := h
  · obtain ⟨hcfg, hown, hfuse, hhbm, -⟩ := State.parts_of_climate h
    exact ⟨hhbm, State.zone_of_climate h, hcfg, hown, hfuse⟩
  · obtain ⟨hcfg, hown, hfuse, hhbm, -⟩ := State.parts_of_climate h
    exact ⟨hhbm, fun y => (State.zone_of_climate h y :), hcfg, hown, hfuse⟩

theorem State.thermal_le_required (s : State) (y : Fin 7) : s.pwr.zones[y].thermal ≤ s.required y := by
  unfold State.required
  split
  · exact Nat.le_max_left ..
  · exact Nat.le_refl _

theorem State.required_lt_four {s : State} {y : Fin 7} (hthermal : s.pwr.zones[y].thermal < 4) (hpower : s.pwr.power < 4) :
    s.required y < 4 := by
  unfold State.required
  split
  · exact Nat.max_lt.2 ⟨hthermal, hpower⟩
  · exact hthermal

/-- Settles O41: a reading below level 4 makes the levels follow, and one at level 4 trips first; neither ends a trip. -/
theorem stackTemperaturesAct : Obligations.StackTemperaturesAct := by
  intro s k temp hp htrip temps levels z most shown
  have hshown : ∀ u : State, u.climate = (s.stackRead k temp).climate ∨ u.climate = (s.stackRead k temp).tripped.climate →
      shown u.followLevels := fun u hu => by
    obtain ⟨hclimate, hlevel, halert⟩ := u.followLevels_leaves
    obtain ⟨hhbm, hzones, hrest⟩ := State.stackRead_shown (t := u.followLevels) (by rwa [hclimate])
    obtain ⟨htemp, hthermal⟩ := s.stackRead_zone k temp
    refine ⟨hhbm, (hzones z).1.trans htemp, (hzones z).2.trans hthermal, fun y hy => ?_, hlevel, halert, hrest⟩
    rw [(hzones y).1, (hzones y).2, s.stackRead_zone_other temp hy]
    exact ⟨rfl, rfl⟩
  rw [exec_hbmTemperatureRead, execHbmTemperatureRead_of_on hp]
  refine ⟨fun hpower hothers hmost => ?cool, fun hhot => ?hot⟩
  case cool =>
    have hcool : ∀ y, (s.stackRead k temp).required y < 4 := fun y => by
      refine State.required_lt_four ?_ hpower
      by_cases hy : y = stackZone k
      · subst hy
        exact (s.stackRead_zone k temp).2.trans_lt hmost
      · rw [s.stackRead_zone_other temp hy]
        exact hothers y hy
    have htripped : (s.stackRead k temp).followLevels.pwr.trip = false := by
      obtain ⟨hclimate, -⟩ := (s.stackRead k temp).followLevels_leaves
      obtain ⟨-, -, -, -, h, -⟩ := State.parts_of_climate hclimate
      exact h.trans htrip
    rw [State.applyLevels_of_cool hcool, State.endTrip_of_calm (.inl htripped)]
    exact ⟨_, rfl, hshown _ (.inl rfl), htripped⟩
  case hot =>
    have hfour : 4 ≤ (s.stackRead k temp).required (stackZone k) := by
      have hlevel : 4 ≤ dieMost k levels := by
        refine Nat.le_trans (Nat.le_of_eq ?_) (le_dieMost k levels)
        exact ((Vector.getElem_set_self _).trans (levelAfter_hot hhot _)).symm
      refine Nat.le_trans (Nat.le_of_eq ?_) (State.thermal_le_required ..)
      exact ((s.stackRead_zone k temp).2.trans (zoneOfStacks_of_four hlevel)).symm
    have hclimate := State.tripNow_climate (s := s.stackRead k temp) htrip
    obtain ⟨hkeeps, -⟩ := (s.stackRead k temp).tripNow.followLevels_leaves
    obtain ⟨-, -, -, hhbm, htripped, -, hadmit⟩ := State.parts_of_climate (hkeeps.trans hclimate)
    have hwarm : (s.stackRead k temp).tripNow.followLevels.cooled = false := by
      have hread : (s.stackRead k temp).hbm.temps[k] = temp := Vector.getElem_set_self _
      refine State.cooled_of_warm (k := k) ?_
      simp only [hhbm, State.tripped, hread]
      omega
    rw [State.applyLevels_of_hot hfour, State.endTrip_of_calm (.inr hwarm)]
    refine ⟨_, rfl, hshown _ (.inr hclimate), htripped, ?_, hadmit⟩
    unfold State.faultOut
    rw [htripped]
    simp [State.tripped]

end Sys2Proof.Machine
end

section
/-! PROOFS. The owner's triggers: fences, closing sweeps, clients' counts, injections (R162, R286, R338, R355, R362, R435). -/

namespace Sys2Proof.Machine

theorem exec_fabFence (w : RegWrite) (s : State) : exec (.fabFence w) s = exec (.registerWrite 0x70034 w) s := rfl
theorem exec_intgCover (w : RegWrite) (s : State) : exec (.intgCover w) s = exec (.registerWrite 0x40004 w) s := rfl
theorem exec_sluClientClear (w : RegWrite) (s : State) : exec (.sluClientClear w) s = exec (.registerWrite 0x10010 w) s := rfl
theorem exec_hbmInject (w : RegWrite) (s : State) : exec (.hbmInject w) s = exec (.registerWrite 0x60090 w) s := rfl
theorem exec_intgInject (w : RegWrite) (s : State) : exec (.intgInject w) s = exec (.registerWrite 0x40080 w) s := rfl

/-! ### FAB_FENCE -/

theorem State.fence_plant (s : State) (c : CtxId) (w : Who) : (s.fence c w).plant = s.plant := by
  unfold State.fence
  split
  · exact State.startTeardown_plant ..
  · rfl

theorem State.writeFence_go (s : State) {v : Reg} {c : CtxId} (hgo : v.getLsbD 31 = true) (hc : v.toNat % 16 = c.val) :
    s.writeFence v = if (s.ctx c).job.tag = 0#32 then s else s.fence c Who.device := by
  have hctx : (⟨v.toNat % 16, Nat.mod_lt _ (by decide)⟩ : CtxId) = c := Fin.ext hc
  rw [State.writeFence, if_pos hgo, hctx]

/-! ### SLU_CLIENT_CLEAR -/

theorem State.client_id (s : State) (id : Byte) : (s.client id).id = id := by
  unfold State.client
  cases h : s.slu.clients.find? fun k => k.id == id with
  | none => rfl
  | some k =>
    have hk := List.find?_some h
    exact beq_iff_eq.1 hk

theorem State.modClient_client (s : State) (id other : Byte) {f : Client → Client} (hf : ∀ k, (f k).id = k.id) :
    (s.modClient id f).client other = if other = id then f (s.client id) else s.client other := by
  have hclients : (s.modClient id f).slu.clients = f (s.client id) :: s.slu.clients.filter fun k => k.id != id := rfl
  have hid : (f (s.client id)).id = id := (hf _).trans (s.client_id id)
  rw [State.client, hclients, List.find?_cons, hid]
  by_cases h : other = id
  · subst h
    rw [if_pos rfl, beq_self_eq_true]
    rfl
  · have hrest : (s.slu.clients.filter fun k => k.id != id).find? (fun k => k.id == other) = s.slu.clients.find? fun k => k.id == other := by
      rw [List.find?_filter]
      congr 1
      funext k
      by_cases hk : k.id = other
      · simp [hk, h]
      · simp [hk]
    rw [if_neg h, beq_eq_false_iff_ne.2 (Ne.symm h)]
    exact congrArg (fun o : Option Client => o.getD _) hrest

/-- Settles O27: each trigger's write reaches its own arm of `State.applyReg`. -/
theorem triggersTakeEffect : Obligations.TriggersTakeEffect := by
  intro s p v hw ho
  simp only [exec_fabFence, exec_intgCover, exec_sluClientClear, exec_hbmInject, exec_intgInject]
  have hwrite : ∀ {off : Nat} {t : State}, accessOf off = .owner → s.applyReg p off v = t →
      exec (.registerWrite off (whole p v)) s = .next t := fun ha ht => by rw [exec_ownerWrite hw ho ha, ht]
  refine ⟨fun c hgo hc => ⟨fun htag => ?noJob, fun htag ha hsteps hstream hrecv => ?fence⟩, fun c hc => ?cover, fun hgo => ?clear, ?hbmInject,
    fun hsite => ?intgInject⟩
  case noJob => exact hwrite rfl ((s.writeFence_go hgo hc).trans (if_pos htag))
  case fence =>
    have hctx := State.fence_ctx_of_idle ha hsteps hstream hrecv Who.device
    have hc' := (hctx c).trans (congrArg Ctx.still (if_pos rfl))
    have hplant := s.fence_plant c Who.device
    refine ⟨_, hwrite rfl ((s.writeFence_go hgo hc).trans (if_neg htag)), congrArg (·.state) hc', congrArg (·.fenced) hc',
      congrArg (·.regs) hc', congrArg (·.alloc) hc', congrArg (·.tearing) hc', fun d hd => ?_, congrArg (·.hbm) hplant, congrArg (·.own) hplant⟩
    rw [hctx, if_neg hd.symm]
  case cover =>
    have hctx : (⟨v.toNat % 16, Nat.mod_lt _ (by decide)⟩ : CtxId) = c := Fin.ext hc
    refine hwrite rfl ?_
    show s.writeCover v = _
    rw [State.writeCover, hctx]
  case clear =>
    refine ⟨_, hwrite rfl (if_pos hgo), rfl, ?_, fun other h => ?_⟩
    · rw [State.modClient_client, if_pos rfl]
      exact fun _ => rfl
    · rw [State.modClient_client, if_neg h]
      exact fun _ => rfl
  case hbmInject => exact hwrite rfl rfl
  case intgInject => exact hwrite rfl (if_neg (Nat.not_le.2 hsite))

end Sys2Proof.Machine
end

section
/-! PROOFS. What tests of admitted work and the loss of a channel leave of the steps: none is new (R55, R159, R315). -/

namespace Sys2Proof.Machine

/-- Between two states, no context has a step that it did not have. -/
structure State.Sheds (s t : State) : Prop where
  steps : ∀ c, ∀ u ∈ (t.ctx c).steps, ∃ v ∈ (s.ctx c).steps, u.uid = v.uid

theorem State.Sheds.refl (s : State) : s.Sheds s := ⟨fun _ u hu => ⟨u, hu, rfl⟩⟩

theorem State.Sheds.trans {s t u : State} (a : s.Sheds t) (b : t.Sheds u) : s.Sheds u where
  steps c w hw := by
    obtain ⟨v, hv, e⟩ := b.steps c w hw
    obtain ⟨x, hx, e'⟩ := a.steps c v hv
    exact ⟨x, hx, e.trans e'⟩

theorem State.Sheds.foldl {α : Type} (f : State → α → State) (h : ∀ u a, State.Sheds u (f u a)) (l : List α) (s : State) :
    s.Sheds (l.foldl f s) := by
  induction l generalizing s with
  | nil => exact .refl s
  | cons a l ih => exact (h s a).trans (ih _)

theorem State.Sheds.of_ctxs {s t : State} (h : t.ctxs = s.ctxs) : s.Sheds t where
  steps c u hu := by
    rw [State.ctx_of_ctxs h] at hu
    exact ⟨u, hu, rfl⟩

theorem State.Sheds.of_still {s t : State} (h : t.still = s.still) : s.Sheds t where
  steps c u hu := by
    have huid : u.uid ∈ (s.ctx c).steps.map (·.uid) := State.uids_of_still h c ▸ List.mem_map_of_mem hu
    obtain ⟨v, hv, e⟩ := List.mem_map.1 huid
    exact ⟨v, hv, e.symm⟩

theorem State.Sheds.of_ended {c : CtxId} {s t : State} (h : State.Ended c s t) : s.Sheds t where
  steps d u hu := by
    by_cases hd : d = c
    · subst hd
      exact ⟨u, h.steps u hu, rfl⟩
    · exact ⟨u, h.others d hd ▸ hu, rfl⟩

theorem State.Sheds.modCtx (s : State) (c : CtxId) (f : Ctx → Ctx) (hf : ∀ x, (f x).steps = x.steps) : s.Sheds (s.modCtx c f) where
  steps d u hu := by
    rw [State.modCtx_ctx] at hu
    split at hu
    case isTrue e =>
      subst e
      rw [hf] at hu
      exact ⟨u, hu, rfl⟩
    case isFalse => exact ⟨u, hu, rfl⟩

theorem State.Sheds.abortStep (s : State) (c : CtxId) (uid : Nat) (code : Code) (reason : Reason) (index : Nat) (tell : Bool) :
    s.Sheds (s.abortStep c uid code reason index tell) := .of_ended (.abortStep ..)

theorem State.Sheds.deliver (s : State) (c : CtxId) (ds : List Delivery) : s.Sheds (s.deliver c ds) := by
  unfold State.deliver
  split
  · exact .refl s
  · extract_lets r all kept s1
    have h1 : s.Sheds s1 := .modCtx _ _ _ fun _ => rfl
    clear_value s1
    split
    · exact h1
    · refine h1.trans (.of_ctxs ?_)
      unfold State.msixOwner
      split <;> rfl

theorem State.Sheds.endPattern (s : State) (c : CtxId) : s.Sheds (s.endPattern c) := by
  have h1 : s.Sheds (s.modCtx c fun x => { x with pattern := none }) := .modCtx _ _ _ fun _ => rfl
  unfold State.endPattern
  dsimp only
  split
  · exact h1.trans (.of_ctxs rfl)
  · exact h1

theorem State.Sheds.retestPattern (s : State) (c : CtxId) (reason : Reason) : s.Sheds (s.retestPattern c reason) := by
  unfold State.retestPattern
  split
  · exact .refl s
  · split
    · exact (State.Sheds.foldl _ (fun _ _ => .abortStep ..) _ s).trans ((State.Sheds.deliver ..).trans (.endPattern ..))
    · exact .modCtx _ _ _ fun _ => rfl

theorem State.Sheds.retestFrom (reason : Reason) (ts : List (CtxId × Step)) (kept : List Item) (s : State) :
    s.Sheds (State.retestFrom reason ts kept s) := by
  induction ts generalizing kept s with
  | nil => exact .refl s
  | cons p ts ih =>
    unfold State.retestFrom
    split
    · exact ih ..
    · extract_lets new ok
      clear_value ok
      split
      · exact ih ..
      · exact (State.Sheds.abortStep ..).trans (ih ..)

theorem State.Sheds.retestAll (s : State) (reason : Reason) : s.Sheds (s.retestAll reason) := by
  unfold State.retestAll State.retest State.forCtx
  dsimp only
  exact ((State.Sheds.foldl _ (fun u c => .retestPattern u c reason) _ s).trans (.retestFrom ..)).trans (.of_still (State.dispatch_still _))

theorem State.Sheds.haltAdmission (s : State) : s.Sheds s.haltAdmission := by
  unfold State.haltAdmission
  refine State.Sheds.trans (t := { s with slu := { s.slu with admitting := false } }) (.of_ctxs rfl) (.foldl _ (fun u p => ?_) _ _)
  split
  · exact .abortStep ..
  · exact .refl u

theorem State.Sheds.loseChannel (s : State) (c : Fin 256) : s.Sheds (s.loseChannel c) := by
  unfold State.loseChannel
  split
  · exact .refl s
  · extract_lets hbm chan s1 set sig s2 slu hbm2 s3 m
    have h2 : s.Sheds s2 := .of_ctxs rfl
    split
    · have h3 : s2.Sheds s3 := .of_ctxs (by unfold s3; split <;> rfl)
      exact (h2.trans h3).trans (.retestAll ..)
    · exact h2.trans (State.Sheds.trans (t := { s2 with hbm := { s2.hbm with migration := m } }) (.of_ctxs rfl) (.haltAdmission _))

/-! ### The command that read -/

theorem State.ReaderEnds.of_ctxs {s t u : State} {reader : Option CmdRef} (h : t.ctxs = s.ctxs) (hends : t.ReaderEnds u reader) :
    s.ReaderEnds u reader := fun r v hreader hv hlive hcmd =>
  hends r v hreader ((State.step?_of_ctxs h r).trans hv) hlive ((congrArg Option.isSome (State.cmd?_of_ctxs h r)).trans hcmd)

theorem State.ReaderEnds.sheds {s t u : State} {reader : Option CmdRef} (hends : s.ReaderEnds t reader) (h : t.Sheds u) :
    s.ReaderEnds u reader := fun r v hreader hv hlive hcmd w hw => by
  obtain ⟨x, hx, e⟩ := h.steps r.ctx w hw
  exact e ▸ hends r v hreader hv hlive hcmd x hx

theorem State.faultReader_ends (s : State) (reader : Option CmdRef) : s.ReaderEnds (s.faultReader reader) reader :=
  fun r v hreader hv hlive hcmd => by
    subst hreader
    have hfault : s.faultReader (some r) = s.faultCmd r .fault := if_pos hcmd
    rw [hfault]
    exact (State.EndsStep.faultCmd hv hlive .fault).gone

theorem State.faultCmd_plant (s : State) (r : CmdRef) (reason : Reason) : (s.faultCmd r reason).plant = s.plant :=
  (State.dispatch_plant _).trans ((State.dropTail_plant ..).trans (State.abortStep_plant ..))

theorem State.faultReader_plant (s : State) (reader : Option CmdRef) : (s.faultReader reader).plant = s.plant := by
  unfold State.faultReader
  split
  · split
    · exact State.faultCmd_plant ..
    · rfl
  · rfl

theorem State.faultReader_intg (s : State) (reader : Option CmdRef) : (s.faultReader reader).intg = s.intg := by
  unfold State.faultReader
  split
  · split
    · exact (State.dispatch_intg _).trans (congrArg (·.intg) (State.Ended.abortStep ..).outer)
    · rfl
  · rfl

end Sys2Proof.Machine
end

section
/-! PROOFS. Parity errors, group checks and the scrub of HBM (R147, R149, R156 to R158). -/

namespace Sys2Proof.Machine

theorem exec_hbmParityError (chan : Fin 256) (n : Nat) (reader : Option CmdRef) (s : State) :
    exec (.hbmParityError chan n reader) s = execHbmParityError chan n reader s := rfl
theorem exec_hbmGroupRead (g : Nat) (reader : Option CmdRef) (f : GroupFinding) (s : State) :
    exec (.hbmGroupRead g reader f) s = execHbmGroupRead g reader f s := rfl
theorem exec_hbmScrubGroup (f : GroupFinding) (s : State) : exec (.hbmScrubGroup f) s = execHbmScrubGroup f s := rfl

/-! ### Parity errors -/

/-- The failures of a channel after one more: those of the last 24 h of journal time before it, and itself (R158). -/
def State.failsWith (s : State) (chan : Fin 256) : List Nat := s.jnow :: s.hbm.chans[chan].fails.filter fun t => decide (s.jnow < t + 86400)

/-- A burst that failed four times: counted, noted with its channel, and journalled. -/
def State.burstFailed (s : State) (chan : Fin 256) : State := { s with
  hbm := { s.hbm with
    retry := satAdd s.hbm.retry 3, retryFail := satInc s.hbm.retryFail
    chans := s.hbm.chans.set chan { s.hbm.chans[chan] with fails := s.failsWith chan } }
  boot := { s.boot with queue := s.boot.queue ++ [.miss (unitName (.hbmChannel chan)) 0 s.jnow] } }

/-- The burst has failed for good, its record is made and its reader's step has ended; the channel may still be lost. -/
def State.burstReported (s : State) (chan : Fin 256) (reader : Option CmdRef) : State :=
  ((s.burstFailed chan).memoryRecord (.hbmChannel chan) 7 0 0).faultReader reader

theorem execHbmParityError_of_retried {s : State} (hu : s.up = true) (hready : s.hbm.ready = true) (chan : Fin 256) {n : Nat} (hn : 1 ≤ n)
    (hn' : n ≤ 3) (reader : Option CmdRef) : execHbmParityError chan n reader s
      = .next { s with hbm := { s.hbm with retry := satAdd s.hbm.retry n } } := by
  unfold execHbmParityError
  rw [State.whenUp_of_up hu, if_neg (by simp [hready]; omega)]
  dsimp only
  rw [if_pos (by omega), Nat.min_eq_right hn']

theorem execHbmParityError_of_failed {s : State} (hu : s.up = true) (hready : s.hbm.ready = true) (chan : Fin 256)
    (reader : Option CmdRef) :
    execHbmParityError chan 4 reader s = .next (if 3 ≤ (s.failsWith chan).length then (s.burstReported chan reader).loseChannel chan
      else s.burstReported chan reader) := by
  unfold execHbmParityError
  rw [State.whenUp_of_up hu, if_neg (by simp [hready])]
  rfl

theorem State.burstReported_plant (s : State) (chan : Fin 256) (reader : Option CmdRef) :
    (s.burstReported chan reader).plant = (s.burstFailed chan).plant := State.faultReader_plant ..

theorem State.burstReported_ends (s : State) (chan : Fin 256) (reader : Option CmdRef) :
    s.ReaderEnds (s.burstReported chan reader) reader :=
  State.ReaderEnds.of_ctxs (t := (s.burstFailed chan).memoryRecord (.hbmChannel chan) 7 0 0) rfl (State.faultReader_ends _ reader)

/-- What a failed burst leaves, where the channel is lost and where it is not. -/
theorem State.burstFailed_leaves (s : State) (chan : Fin 256) (reader : Option CmdRef) (lose : Prop) [Decidable lose] :
    let t := if lose then (s.burstReported chan reader).loseChannel chan else s.burstReported chan reader
    (t.hbm.retry = satAdd s.hbm.retry 3 ∧ t.hbm.retryFail = satInc s.hbm.retryFail) ∧ t.hbm.chans[chan].fails = s.failsWith chan
      ∧ (t.hbm.chans[chan].lost = true ↔ s.hbm.chans[chan].lost = true ∨ lose)
      ∧ (∀ c : Fin 256, c ≠ chan → t.hbm.chans[c] = s.hbm.chans[c])
      ∧ .miss (unitName (.hbmChannel chan)) 0 s.jnow ∈ t.boot.queue ∧ s.ReaderEnds t reader
      ∧ t.cfg = s.cfg ∧ t.own = s.own ∧ t.fuse = s.fuse ∧ t.flash = s.flash := by
  have hplant := s.burstReported_plant chan reader
  have hends := s.burstReported_ends chan reader
  generalize s.burstReported chan reader = u at *
  have hchans : u.hbm.chans = (s.burstFailed chan).hbm.chans := congrArg (·.hbm.chans) hplant
  have hcounts : u.hbm.retry = satAdd s.hbm.retry 3 ∧ u.hbm.retryFail = satInc s.hbm.retryFail :=
    ⟨congrArg (·.hbm.retry) hplant, congrArg (·.hbm.retryFail) hplant⟩
  have hself : u.hbm.chans[chan] = { s.hbm.chans[chan] with fails := s.failsWith chan } := by simp [hchans, State.burstFailed]
  have hother : ∀ c : Fin 256, c ≠ chan → u.hbm.chans[c] = s.hbm.chans[c] := fun c hc => by
    have hne : chan.val ≠ c.val := fun e => hc (Fin.ext e.symm)
    simp [hchans, State.burstFailed, hne]
  have hqueue : .miss (unitName (.hbmChannel chan)) 0 s.jnow ∈ u.boot.queue := by
    have h : u.boot.queue = (s.burstFailed chan).boot.queue := congrArg (·.boot.queue) hplant
    rw [h]
    exact List.mem_append_right _ (List.mem_singleton_self _)
  have hrest : u.cfg = s.cfg ∧ u.own = s.own ∧ u.fuse = s.fuse ∧ u.flash = s.flash :=
    ⟨congrArg (·.cfg) hplant, congrArg (·.own) hplant, congrArg (·.fuse) hplant, congrArg (·.flash) hplant⟩
  by_cases hlose : lose
  case neg =>
    simp only [if_neg hlose]
    exact ⟨hcounts, congrArg Channel.fails hself, by simp [hself, hlose], hother, hqueue, hends, hrest⟩
  case pos =>
    simp only [if_pos hlose]
    obtain ⟨hcounts', hlost, hfails, hothers, hkeep, hcfg, hown, hfuse, hflash⟩ := u.loseChannel_leaves chan
    obtain ⟨hcfg', hown', hfuse', hflash'⟩ := hrest
    exact ⟨⟨hcounts'.1.trans hcounts.1, hcounts'.2.trans hcounts.2⟩, hfails.trans (congrArg Channel.fails hself), iff_of_true hlost (.inr hlose),
      fun c hc => (hothers c hc).trans (hother c hc), hkeep _ hqueue, hends.sheds (.loseChannel u chan), hcfg.trans hcfg',
      hown.trans hown', hfuse.trans hfuse', hflash.trans hflash'⟩

/-! ### Corrections -/

/-- The state with `n` more corrections, whose times, rows to be repaired and flips left are given. -/
def State.withFixes (s : State) (n : Nat) (fixes : List (Nat × Nat)) (queue : List JBody) (flips : List (Nat × Nat)) : State := { s with
  hbm := { s.hbm with corr := satAdd s.hbm.corr n, lineFixes := fixes }
  boot := { s.boot with queue := queue }, mem := { s.mem with flips := flips } }

theorem State.fixLine_rest (s : State) (line : Nat) : ∃ fixes queue, s.fixLine line = s.withFixes 1 fixes queue s.mem.flips := by
  unfold State.fixLine
  dsimp only
  split
  · exact ⟨_, _, rfl⟩
  · exact ⟨_, _, rfl⟩

theorem State.fixLines_rest (line : Nat → Nat) (ns : List Nat) (s : State) : ∃ fixes queue,
    ns.foldl (fun (u : State) n => u.fixLine (line n)) s = s.withFixes ns.length fixes queue s.mem.flips := by
  induction ns generalizing s with
  | nil => exact ⟨s.hbm.lineFixes, s.boot.queue, by rw [List.length_nil, State.withFixes, satAdd_zero]; rfl⟩
  | cons n ns ih =>
    obtain ⟨fixes, queue, h⟩ := s.fixLine_rest (line n)
    obtain ⟨fixes', queue', h'⟩ := ih (s.fixLine (line n))
    refine ⟨fixes', queue', h'.trans ?_⟩
    rw [h]
    unfold State.withFixes
    dsimp only
    rw [satAdd_satAdd, List.length_cons, Nat.add_comm 1]

/-- The lines of a group that a reading corrects. -/
def State.fixedLines (s : State) (g : Nat) (measured : List Nat) : List Nat :=
  (List.range 15).filter fun n => s.lineWeight g n measured == 1 || s.lineWeight g n measured == 2

theorem State.correctLines_rest (s : State) (g : Nat) (measured : List Nat) : ∃ fixes queue flips,
    s.correctLines g measured = s.withFixes (s.fixedLines g measured).length fixes queue flips ∧ ∀ x ∈ flips, x ∈ s.mem.flips := by
  obtain ⟨fixes, queue, h⟩ := State.fixLines_rest (fun n => g * 15 + n) (s.fixedLines g measured) s
  have hcorrect : s.correctLines g measured = State.withFixes s (s.fixedLines g measured).length fixes queue
      (s.mem.flips.filter fun f => !(f.1 / 16 == g && (s.fixedLines g measured).contains (f.1 % 16))) :=
    congrArg (fun u : State => { u with mem := { u.mem with
      flips := u.mem.flips.filter fun f => !(f.1 / 16 == g && (s.fixedLines g measured).contains (f.1 % 16)) } }) h
  exact ⟨fixes, queue, _, hcorrect, fun x hx => (List.mem_filter.1 hx).1⟩

/-- A group whose lines are all right is left as it is. -/
theorem State.correctLines_of_right {s : State} {g : Nat} {measured : List Nat} (h : ∀ n < 15, s.lineWeight g n measured = 0) :
    s.correctLines g measured = s := by
  have hnone : s.fixedLines g measured = [] := List.filter_eq_nil_iff.2 fun n hn => by simp [h n (List.mem_range.1 hn)]
  have hempty : ((List.range 15).filter fun n => let w := s.lineWeight g n measured; w == 1 || w == 2) = [] := hnone
  unfold State.correctLines
  rw [hempty]
  simp

/-! ### A group's checks -/

/-- The lines of a group that a reading finds beyond correction. -/
def State.badLines (s : State) (g : Nat) (measured : List Nat) : List Nat :=
  (List.range 15).filter fun n => decide (3 ≤ s.lineWeight g n measured)

theorem State.mem_badLines {s : State} {g n : Nat} {measured : List Nat} :
    n ∈ s.badLines g measured ↔ n < 15 ∧ 3 ≤ s.lineWeight g n measured := by
  simp [State.badLines]

theorem State.badLines_isEmpty {s : State} {g : Nat} {measured : List Nat} :
    (s.badLines g measured).isEmpty = true ↔ ∀ n < 15, s.lineWeight g n measured ≤ 2 := by
  rw [List.isEmpty_iff, List.eq_nil_iff_forall_not_mem]
  refine forall_congr' fun n => ?_
  rw [State.mem_badLines]
  omega

theorem State.checkGroup_of_right {s : State} {g : Nat} {f : GroupFinding} (h : ∀ n < 15, s.lineWeight g n f.first ≤ 2)
    (hcrc : s.groupCrcBad g f.crcFirst = false) : s.checkGroup g f = (s.correctLines g f.first, false) := by
  have hright : (s.badLines g f.first).isEmpty = true := State.badLines_isEmpty.2 h
  unfold State.checkGroup
  dsimp only
  rw [if_neg (by simpa [State.badLines] using hright), hcrc]
  rfl

/-- The group is corrected where it can be, and its lines beyond correction are poisoned. -/
def State.groupPoisoned (s : State) (g : Nat) (f : GroupFinding) : State :=
  ((s.correctLines g f.first).correctLines g f.again).poisonLines g (s.badLines g f.again)

theorem State.checkGroup_of_bad {s : State} {g : Nat} {f : GroupFinding} (h : ∃ n < 15, 3 ≤ s.lineWeight g n f.first)
    (h' : ∃ n < 15, 3 ≤ s.lineWeight g n f.again) : ∃ unit poisoned,
      s.checkGroup g f = ((s.groupPoisoned g f).memoryRecord unit 7 0 poisoned, true) := by
  have hbad : ∀ {m : List Nat}, (∃ n < 15, 3 ≤ s.lineWeight g n m) →
      (!((List.range 15).filter fun n => decide (3 ≤ s.lineWeight g n m)).isEmpty) = true := fun {m} ⟨n, hn, hw⟩ => by
    show (!(s.badLines g m).isEmpty) = true
    rw [Bool.not_eq_true', Bool.eq_false_iff, ne_eq, State.badLines_isEmpty]
    exact fun hright => absurd (hright n hn) (by omega)
  unfold State.checkGroup
  dsimp only
  rw [if_pos (hbad h), if_pos (hbad h')]
  exact ⟨_, _, rfl⟩

theorem State.mem_poisonLines {s : State} {g n : Nat} {lines : List Nat} (h : n ∈ lines) : (g * 15 + n) * 64 ∈ (s.poisonLines g lines).mem.poison := by
  by_cases hold : (g * 15 + n) * 64 ∈ s.mem.poison
  · exact List.mem_append_left _ hold
  · refine List.mem_append_right _ (List.mem_filter.2 ⟨List.mem_map.2 ⟨n, h, rfl⟩, ?_⟩)
    simpa using hold

theorem State.groupPoisoned_leaves (s : State) (g : Nat) (f : GroupFinding) :
    let t := s.groupPoisoned g f
    t.mem.cells = s.mem.cells ∧ t.intg = s.intg ∧ t.ctxs = s.ctxs ∧ t.cfg = s.cfg ∧ t.own = s.own ∧ t.fuse = s.fuse := by
  obtain ⟨fixes, queue, flips, h, -⟩ := s.correctLines_rest g f.first
  obtain ⟨fixes', queue', flips', h', -⟩ := (s.correctLines g f.first).correctLines_rest g f.again
  unfold State.groupPoisoned
  rw [h', h]
  exact ⟨rfl, rfl, rfl, rfl, rfl, rfl⟩

theorem execHbmGroupRead_of_valid {s : State} (hu : s.up = true) (hready : s.hbm.ready = true) {g : Nat} (hg : s.groupValid g = true)
    (reader : Option CmdRef) (f : GroupFinding) : execHbmGroupRead g reader f s
      = .next (if (s.checkGroup g f).2 then (s.checkGroup g f).1.faultReader reader else (s.checkGroup g f).1) := by
  unfold execHbmGroupRead
  rw [State.whenUp_of_up hu, hready, hg]
  rfl

/-- A group with lines beyond correction on both readings: poisoned, with its record, before the reader's step ends. -/
theorem execHbmGroupRead_of_bad {s : State} (hu : s.up = true) (hready : s.hbm.ready = true) {g : Nat} (hg : s.groupValid g = true)
    {f : GroupFinding} (h : ∃ n < 15, 3 ≤ s.lineWeight g n f.first) (h' : ∃ n < 15, 3 ≤ s.lineWeight g n f.again)
    (reader : Option CmdRef) : ∃ w : State, execHbmGroupRead g reader f s = .next (w.faultReader reader)
      ∧ (∀ n < 15, 3 ≤ s.lineWeight g n f.again → (g * 15 + n) * 64 ∈ w.mem.poison) ∧ w.mem.cells = s.mem.cells
      ∧ w.intg.recSeq = s.intg.recSeq + 1 ∧ w.ctxs = s.ctxs ∧ w.cfg = s.cfg ∧ w.own = s.own ∧ w.fuse = s.fuse := by
  obtain ⟨unit, poisoned, hcheck⟩ := State.checkGroup_of_bad h h'
  obtain ⟨hcells, hintg, hctxs, hcfg, hown, hfuse⟩ := s.groupPoisoned_leaves g f
  have hpoison : ∀ n < 15, 3 ≤ s.lineWeight g n f.again → (g * 15 + n) * 64 ∈ (s.groupPoisoned g f).mem.poison :=
    fun n hn hw => State.mem_poisonLines (State.mem_badLines.2 ⟨hn, hw⟩)
  have hrec := congrArg (·.recSeq + 1) hintg
  have hread : execHbmGroupRead g reader f s
      = .next (((s.groupPoisoned g f).memoryRecord unit 7 0 poisoned).faultReader reader) := by
    rw [execHbmGroupRead_of_valid hu hready hg, hcheck, if_pos rfl]
  generalize s.groupPoisoned g f = w at *
  exact ⟨_, hread, hpoison, hcells, hrec, hctxs, hcfg, hown, hfuse⟩

/-- HBM with the scrub at the group after this one, or at the first of a new sweep (R156). -/
def State.scrubNext (s : State) : Hbm :=
  if s.groupValid (s.hbm.scrubPos + 1) then { s.hbm with scrubPos := s.hbm.scrubPos + 1 }
  else { s.hbm with scrubPos := 0, sweeps := s.hbm.sweeps + 1 }

/-- The state after the scrub of a group that is right once corrected. -/
def State.scrubbedGroup (s : State) (n : Nat) (fixes : List (Nat × Nat)) (queue : List JBody) (flips : List (Nat × Nat)) : State :=
  { s with
    hbm := { s.scrubNext with corr := satAdd s.hbm.corr n, lineFixes := fixes }
    boot := { s.boot with queue := queue }, mem := { s.mem with flips := flips } }

theorem execHbmScrubGroup_of_right {s : State} (hu : s.up = true) (hready : s.hbm.ready = true) (hg : s.groupValid s.hbm.scrubPos = true)
    {f : GroupFinding} (h : ∀ n < 15, s.lineWeight s.hbm.scrubPos n f.first ≤ 2)
    (hcrc : s.groupCrcBad s.hbm.scrubPos f.crcFirst = false) : ∃ fixes queue flips, execHbmScrubGroup f s
      = .next (s.scrubbedGroup (s.fixedLines s.hbm.scrubPos f.first).length fixes queue flips) ∧ ∀ x ∈ flips, x ∈ s.mem.flips := by
  obtain ⟨fixes, queue, flips, hfix, hflips⟩ := s.correctLines_rest s.hbm.scrubPos f.first
  refine ⟨fixes, queue, flips, ?_, hflips⟩
  have hvalid : ∀ n, (s.withFixes (s.fixedLines s.hbm.scrubPos f.first).length fixes queue flips).groupValid n = s.groupValid n :=
    fun _ => rfl
  have hpos : (s.withFixes (s.fixedLines s.hbm.scrubPos f.first).length fixes queue flips).hbm.scrubPos = s.hbm.scrubPos := rfl
  unfold execHbmScrubGroup State.scrubbedGroup State.scrubNext
  rw [State.whenUp_of_up hu, hready, hg, State.checkGroup_of_right h hcrc, hfix]
  dsimp only
  rw [hvalid, hpos]
  cases s.groupValid (s.hbm.scrubPos + 1) <;> rfl

/-- Settles O40: a finding selects one branch of `State.checkGroup`, in which the group is corrected or its lines are poisoned. -/
theorem hbmChecksAct : Obligations.HbmChecksAct := by
  refine ⟨fun s chan reader hu hready => ⟨fun n hn hn' => ?retried, ?failed⟩, fun s g f hu hready hg => ?group⟩
  case retried => exact execHbmParityError_of_retried hu hready chan hn hn' reader
  case failed =>
    obtain ⟨⟨hretry, hfail⟩, hfails, hlost, hrest⟩ := s.burstFailed_leaves chan reader (3 ≤ (s.failsWith chan).length)
    refine ⟨_, execHbmParityError_of_failed hu hready chan reader, hretry, hfail, hfails, hlost.trans (or_congr_right ?_), hrest⟩
    exact Nat.succ_le_succ_iff
  case group =>
    intro first again fixes right corrected
    refine ⟨fun reader => ⟨fun h hcrc => ?same, fun ⟨h, hcrc⟩ => ?right, fun h h' => ?bad⟩, fun hpos ⟨h, hcrc⟩ => ?scrub⟩
    case same =>
      rw [exec_hbmGroupRead, execHbmGroupRead_of_valid hu hready hg,
        State.checkGroup_of_right (fun n hn => Nat.le_trans (Nat.le_of_eq (h n hn)) (by omega)) hcrc, State.correctLines_of_right h]
      rfl
    case right =>
      obtain ⟨fixes', queue, flips, hfix, hflips⟩ := s.correctLines_rest g f.first
      rw [exec_hbmGroupRead, execHbmGroupRead_of_valid hu hready hg, State.checkGroup_of_right h hcrc, hfix]
      exact ⟨_, rfl, rfl, rfl, hflips⟩
    case bad =>
      obtain ⟨w, hread, hpoison, hcells, hrec, hctxs, hcfg, hown, hfuse⟩ := execHbmGroupRead_of_bad hu hready hg h h' reader
      have hplant := w.faultReader_plant reader
      refine ⟨_, hread, ?_, ?_, State.ReaderEnds.of_ctxs hctxs (w.faultReader_ends reader), (congrArg (·.cfg) hplant).trans hcfg,
        (congrArg (·.own) hplant).trans hown, (congrArg (·.fuse) hplant).trans hfuse⟩
      · rintro rfl
        exact ⟨hpoison, hcells⟩
      · rw [State.faultReader_intg, hrec]
    case scrub =>
      subst hpos
      obtain ⟨fixes', queue, flips, hscrub, hflips⟩ := execHbmScrubGroup_of_right hu hready hg h hcrc
      exact ⟨_, hscrub, rfl, rfl, hflips⟩

end Sys2Proof.Machine
end

section
/-! PROOFS. Clearing a range of memory leaves the bytes outside it (R14, R160). -/

namespace Sys2Proof.Machine

/-- Does an undefined range hold an address? -/
def drawCovers (x : Nat) (u : Nat × Nat × Nat) : Bool := decide (u.1 ≤ x ∧ x < u.1 + u.2.1)

theorem find_ite_single (c : Prop) [Decidable c] (x a n d : Nat) :
    ((if c then [(a, n, d)] else []).find? (drawCovers x)).map (·.2.2) = if c ∧ a ≤ x ∧ x < a + n then some d else none := by
  by_cases hc : c
  · by_cases hx : a ≤ x ∧ x < a + n
    · simp [hc, hx, drawCovers]
    · simp [hc, hx, drawCovers]
  · simp [hc]

/-- Outside the range taken out, the same draw defines an address as before. -/
theorem carve_find_outside {start len x : Nat} (hx : x < start ∨ start + len ≤ x) (us : List (Nat × Nat × Nat)) :
    ((carve start len us).find? (drawCovers x)).map (·.2.2) = (us.find? (drawCovers x)).map (·.2.2) := by
  induction us with
  | nil => rfl
  | cons u us ih =>
    obtain ⟨a, n, d⟩ := u
    have hhead : ∀ l : List (Nat × Nat × Nat), (l.find? (drawCovers x)).map (·.2.2) = (if a ≤ x ∧ x < a + n then some d else none) →
        ((l ++ carve start len us).find? (drawCovers x)).map (·.2.2) = (((a, n, d) :: us).find? (drawCovers x)).map (·.2.2) := fun l hl => by
      rw [List.find?_append, Option.map_or, hl, ih, List.find?_cons, drawCovers]
      by_cases hc : a ≤ x ∧ x < a + n
      · simp [hc]
      · simp [hc]
    rw [carve]
    apply hhead
    split
    case isTrue h =>
      rw [List.find?_append, Option.map_or, find_ite_single, find_ite_single]
      obtain hx | hx := hx
      · rw [if_neg (c := start + len < a + n ∧ _) (by omega), Option.or_none]
        exact if_congr (by omega) rfl rfl
      · rw [if_neg (by omega), Option.none_or]
        exact if_congr (by omega) rfl rfl
    case isFalse =>
      exact (find_ite_single True x a n d).trans (if_congr (by simp) rfl rfl)

theorem Mem.base_eq (m : Mem) (x : Nat) : m.base x = match (m.undef.find? (drawCovers x)).map (·.2.2) with
    | some d => Config.freeByte d x
    | none => readCell m.cells x := by
  unfold Mem.base drawCovers
  cases m.undef.find? fun u => decide (u.1 ≤ x ∧ x < u.1 + u.2.1) <;> rfl

theorem Mem.clear_base_outside (m : Mem) {start len x : Nat} (hx : x < start ∨ start + len ≤ x) : (m.clear start len).base x = m.base x := by
  have hcells : readCell (m.clear start len).cells x = readCell m.cells x :=
    (readCell_clearCells ..).trans (if_neg (by omega))
  have hundef : ((m.clear start len).undef.find? (drawCovers x)).map (·.2.2) = (m.undef.find? (drawCovers x)).map (·.2.2) :=
    carve_find_outside hx m.undef
  rw [Mem.base_eq, Mem.base_eq, hundef, hcells]

end Sys2Proof.Machine
end

section
/-! PROOFS. Bring-up before the start-up test: training, zeroing, firmware and the identity key (R160, R409 to R414, R431). -/

namespace Sys2Proof.Machine

theorem exec_hbmTrainingDone (failed : List (Fin 256)) (s : State) : exec (.hbmTrainingDone failed) s = execHbmTrainingDone failed s := rfl
theorem exec_hbmInitialised (s : State) : exec .hbmInitialised s = execHbmInitialised s := rfl
theorem exec_firmwareFetchDone (f : Fetcher) (ok : Bool) (s : State) : exec (.firmwareFetchDone f ok) s = .next (s.fetchEnd f ok) := rfl
theorem exec_firmwareFetchTimeout (f : Fetcher) (s : State) : exec (.firmwareFetchTimeout f) s = .next (s.fetchEnd f false) := rfl
theorem exec_identityKeyDerived (s : State) : exec .identityKeyDerived s = execIdentityKeyDerived s := rfl

/-! ### The next phase -/

theorem State.nextPhase_rest (s : State) : s.nextPhase = { s with boot := { s.boot with phase := s.nextPhase.boot.phase } } := rfl

/-- The firmware phase begins with the end of training and ends when every fetcher has its section. -/
theorem State.nextPhase_phase {s : State} (h : s.boot.phase = .training ∨ s.boot.phase = .firmware) : s.nextPhase.boot.phase =
    if s.boot.phase = .training ∧ s.boot.trained = false then .training
    else if s.fetchers.all s.boot.fetched.contains then .test else .firmware := by
  have hphase : s.nextPhase.boot.phase = if (match s.boot.phase, s.boot.trained with
      | .training, true => .firmware
      | q, _ => q) = Phase.firmware ∧ s.fetchers.all s.boot.fetched.contains then .test else (match s.boot.phase, s.boot.trained with
      | .training, true => .firmware
      | q, _ => q) := rfl
  rw [hphase]
  obtain h | h := h
  · cases ht : s.boot.trained <;> simp [h]
  · simp [h]

/-! ### Training -/

/-- What the loss of channels leaves of the boot and the settings: all but the journal's queue. -/
def State.unjournaled (s : State) : Boot × Flash × Fuse × Cfg × Own × Clk := ({ s.boot with queue := [] }, s.flash, s.fuse, s.cfg, s.own, s.clk)

theorem State.loseChannel_unjournaled (s : State) (c : Fin 256) : (s.loseChannel c).unjournaled = s.unjournaled := by
  cases h : s.hbm.chans[c].lost with
  | true => rw [State.loseChannel_of_lost h]
  | false =>
    obtain ⟨last, migration, set, hplant⟩ := State.loseChannel_plant h
    exact (congrArg State.unjournaled hplant :)

theorem State.loseChannels_lost (l : List (Fin 256)) (s : State) (c : Fin 256) :
    (l.foldl State.loseChannel s).hbm.chans[c].lost = true ↔ s.hbm.chans[c].lost = true ∨ c ∈ l := by
  induction l generalizing s with
  | nil => simp
  | cons d l ih =>
    obtain ⟨-, hlost, -, hother, -⟩ := s.loseChannel_leaves d
    rw [List.foldl_cons, ih]
    by_cases hc : c = d
    · subst hc
      simp [-Fin.getElem_fin, hlost]
    · simp [-Fin.getElem_fin, hother c hc, hc]

/-- The channels have trained; on a cold boot those that failed are lost at once. -/
def State.channelsTrained (s : State) (failed : List (Fin 256)) : State :=
  let u := failed.foldl State.loseChannel s
  if u.boot.warm then u else { u with hbm := { u.hbm with mapped := u.lostSet, migration := .none } }

/-- HBM serves reads, and Sluice admits nothing. -/
def State.hbmServes (s : State) : State := { s with
  hbm := { s.hbm with ready := true, chans := s.hbm.chans.map fun c => { c with suspect := false } }
  slu := { s.slu with admitting := false }
  boot := { s.boot with trained := true } }

theorem execHbmTrainingDone_of_untrained {s : State} (hb : s.bootable = true) (ht : s.boot.trained = false) (failed : List (Fin 256)) :
    execHbmTrainingDone failed s = .next (s.channelsTrained failed).hbmServes.nextPhase := by
  unfold execHbmTrainingDone
  rw [hb, ht]
  rfl

theorem State.channelsTrained_unjournaled (s : State) (failed : List (Fin 256)) :
    (s.channelsTrained failed).unjournaled = s.unjournaled := by
  have h := State.keeps_foldl State.unjournaled State.loseChannel State.loseChannel_unjournaled failed s
  unfold State.channelsTrained
  dsimp only
  split
  · exact h
  · exact h

theorem State.channelsTrained_chans (s : State) (failed : List (Fin 256)) :
    (s.channelsTrained failed).hbm.chans = (failed.foldl State.loseChannel s).hbm.chans := by
  unfold State.channelsTrained
  dsimp only
  split <;> rfl

theorem State.lostSet_congr {s t : State} (h : ∀ c : Fin 256, t.hbm.chans[c].lost = s.hbm.chans[c].lost) : t.lostSet = s.lostSet := by
  unfold State.lostSet
  simp only [h]

theorem State.hbmServes_lost (s : State) (c : Fin 256) : s.hbmServes.hbm.chans[c].lost = s.hbm.chans[c].lost := by
  simp [State.hbmServes]

theorem State.channelsTrained_mapped {s : State} (hw : s.boot.warm = false) (failed : List (Fin 256)) :
    (s.channelsTrained failed).hbm.mapped = (s.channelsTrained failed).lostSet ∧ (s.channelsTrained failed).hbm.migration = .none := by
  have h := State.keeps_foldl State.unjournaled State.loseChannel State.loseChannel_unjournaled failed s
  have hwarm : (failed.foldl State.loseChannel s).boot.warm = false := (congrArg (·.1.warm) h :).trans hw
  have heq : s.channelsTrained failed = { failed.foldl State.loseChannel s with hbm := { (failed.foldl State.loseChannel s).hbm with
      mapped := (failed.foldl State.loseChannel s).lostSet, migration := .none } } := if_neg (by simp [hwarm])
  rw [heq]
  exact ⟨rfl, rfl⟩

theorem State.hbmServes_lostSet (s : State) : s.hbmServes.lostSet = s.lostSet := State.lostSet_congr s.hbmServes_lost

/-- Training in one statement: what it makes of the channels, the mapped set, the phase and the settings. -/
theorem trainingDone_serves (s : State) (failed : List (Fin 256)) :
    let t := (s.channelsTrained failed).hbmServes.nextPhase
    t.boot.trained = true ∧ t.hbm.ready = true ∧ t.slu.admitting = false
      ∧ (∀ c : Fin 256, t.hbm.chans[c].lost = true ↔ s.hbm.chans[c].lost = true ∨ c ∈ failed)
      ∧ (∀ c : Fin 256, t.hbm.chans[c].suspect = false)
      ∧ (s.boot.warm = false → t.hbm.mapped = t.lostSet ∧ t.hbm.migration = .none)
      ∧ (s.boot.phase = .training → t.boot.phase = if s.fetchers.all s.boot.fetched.contains then .test else .firmware)
      ∧ t.flash = s.flash ∧ t.fuse = s.fuse ∧ t.cfg = s.cfg ∧ t.own = s.own ∧ t.clk = s.clk := by
  have hrest := s.channelsTrained_unjournaled failed
  have hmapped := fun hw => State.channelsTrained_mapped (s := s) hw failed
  have hlost : ∀ c : Fin 256, (s.channelsTrained failed).hbm.chans[c].lost = true ↔ s.hbm.chans[c].lost = true ∨ c ∈ failed := by
    intro c
    rw [s.channelsTrained_chans failed]
    exact State.loseChannels_lost failed s c
  generalize s.channelsTrained failed = u at *
  have hboot : ({ u.boot with queue := [] } : Boot) = { s.boot with queue := [] } := (congrArg (·.1) hrest :)
  have hphase : u.boot.phase = s.boot.phase := (congrArg Boot.phase hboot :)
  have hfetched : u.boot.fetched = s.boot.fetched := (congrArg Boot.fetched hboot :)
  have hfuse : u.fuse = s.fuse := (congrArg (·.2.2.1) hrest :)
  have hall : u.hbmServes.fetchers = s.fetchers := (congrArg (fun f => State.fetchers { u with fuse := f }) hfuse :)
  refine ⟨rfl, rfl, rfl, fun c => ?_, fun c => ?_, fun hw => ?_, fun hp => ?_, (congrArg (·.2.1) hrest :), hfuse,
    (congrArg (·.2.2.2.1) hrest :), (congrArg (·.2.2.2.2.1) hrest :), (congrArg (·.2.2.2.2.2) hrest :)⟩
  · exact (iff_of_eq (congrArg (· = true) (u.hbmServes_lost c))).trans (hlost c)
  · simp [State.nextPhase, State.hbmServes]
  · obtain ⟨hset, hnone⟩ := hmapped hw
    exact ⟨hset.trans u.hbmServes_lostSet.symm, hnone⟩
  · have hboots : u.hbmServes.boot.phase = .training := hphase.trans hp
    rw [State.nextPhase_phase (.inl hboots), hall, show u.hbmServes.boot.fetched = s.boot.fetched from hfetched]
    simp [State.hbmServes]

/-- Zeroing writes zeros to all of HBM, poisons none of it and leaves every other byte. -/
theorem Mem.clear_hbm (m : Mem) :
    (∀ a, a < 960 * 2 ^ 30 → (m.clear 0 (960 * 2 ^ 30)).base a = 0#8 ∧ a ∉ (m.clear 0 (960 * 2 ^ 30)).poison)
      ∧ ∀ a, 960 * 2 ^ 30 ≤ a → (m.clear 0 (960 * 2 ^ 30)).base a = m.base a := by
  refine ⟨fun a ha => ⟨?_, ?_⟩, fun a ha => ?_⟩
  · exact (Mem.clear_zeroAt (.inl ⟨by omega, by omega⟩)).base
  · simp [Mem.clear]; omega
  · exact Mem.clear_base_outside _ (.inr (by omega))

/-! ### Firmware -/

theorem State.fetchEnd_of_open {s : State} {f : Fetcher} (hb : s.bootable = true)
    (hphase : s.boot.phase = .training ∨ s.boot.phase = .firmware) (hf : f ∈ s.fetchers) (hnew : f ∉ s.boot.fetched) (ok : Bool) :
    s.fetchEnd f ok = State.nextPhase { s with boot := { s.boot with
      fetched := s.boot.fetched ++ [f], fetchBad := if ok then s.boot.fetchBad else s.boot.fetchBad ++ [f] } } := by
  unfold State.fetchEnd
  rw [if_pos (by simpa [hb, hf, hnew] using hphase)]

/-- What a fetcher's fetch leaves: it is counted, with the bad ones given, and the next phase begins when it can. -/
def FetchEnds (s : State) (f : Fetcher) (bad : List Fetcher) (t : State) : Prop :=
  t = { s with boot := { s.boot with fetched := s.boot.fetched ++ [f], fetchBad := bad, phase := t.boot.phase } }
    ∧ t.boot.phase = if s.boot.phase = .training ∧ s.boot.trained = false then .training
        else if s.fetchers.all (s.boot.fetched ++ [f]).contains then .test else .firmware

theorem State.fetchEnd_ends {s : State} {f : Fetcher} (hb : s.bootable = true)
    (hphase : s.boot.phase = .training ∨ s.boot.phase = .firmware) (hf : f ∈ s.fetchers) (hnew : f ∉ s.boot.fetched) (ok : Bool) :
    FetchEnds s f (if ok then s.boot.fetchBad else s.boot.fetchBad ++ [f]) (s.fetchEnd f ok) := by
  rw [State.fetchEnd_of_open hb hphase hf hnew ok]
  exact ⟨rfl, State.nextPhase_phase hphase⟩

theorem execHbmInitialised_of_cold {s : State} (hb : s.bootable = true) (ht : s.boot.trained = true) (hw : s.boot.warm = false)
    (hi : s.hbm.initialised = false) : execHbmInitialised s = .next { s with
      mem := { s.mem.clear 0 (960 * 2 ^ 30) with flips := [] }
      hbm := { s.hbm with initialised := true } } := by
  unfold execHbmInitialised
  rw [if_pos (by simp [hb, ht, hw, hi])]

theorem execIdentityKeyDerived_of_open {s : State} (hb : s.bootable = true) (hid : s.sec.idReady = false) :
    let seed (n : Nat) : List Byte := (digestBytes (sha256 (digestBytes s.fuse.secret ++ leBytes 1 n))).take 16
    execIdentityKeyDerived s = .next { s with sec := { s.sec with
      idReady := true
      idpk := Config.slhPublic (seed 1) (seed 2) (seed 3) } } :=
  congrArg Host.Outcome.next (if_pos (by simp [hb, hid]))

end Sys2Proof.Machine
end

section
/-! PROOFS. The start-up test: every unit that failed leaves service, and the grade is taken (R411, R415, R435). -/

namespace Sys2Proof.Machine

theorem exec_startUpTestDone (failed : List HwUnit) (s : State) : exec (.startUpTestDone failed) s = execStartUpTestDone failed s := rfl

/-! ### What no unit's loss reaches -/

/-- The parts the start-up test hands on untouched: which DMA complexes are ready, the keys and measurements, and the flash. -/
def State.readied (s : State) : Vector Bool 5 × Sec × Flash := (s.dma.ready, s.sec, s.flash)

theorem State.readied_of_outer {s t : State} (h : t.outer = s.outer) : t.readied = s.readied := (congrArg State.readied h :)

theorem State.abortStep_readied (s : State) (c : CtxId) (uid : Nat) (code : Code) (reason : Reason) (index : Nat) (tell : Bool) :
    (s.abortStep c uid code reason index tell).readied = s.readied := State.readied_of_outer (State.Ended.abortStep ..).outer

theorem State.deliver_readied (s : State) (c : CtxId) (ds : List Delivery) : (s.deliver c ds).readied = s.readied := by
  unfold State.deliver State.msixOwner
  dsimp only
  (repeat' split) <;> rfl

theorem State.endPattern_readied (s : State) (c : CtxId) : (s.endPattern c).readied = s.readied := by
  unfold State.endPattern
  dsimp only
  split <;> rfl

theorem State.retestPattern_readied (s : State) (c : CtxId) (reason : Reason) : (s.retestPattern c reason).readied = s.readied := by
  unfold State.retestPattern
  split
  · rfl
  · split
    · exact (State.endPattern_readied ..).trans ((State.deliver_readied ..).trans
        (State.keeps_foldl State.readied _ (fun _ _ => State.abortStep_readied ..) _ s))
    · rfl

theorem State.retestFrom_readied (reason : Reason) (ts : List (CtxId × Step)) (kept : List Item) (s : State) :
    (State.retestFrom reason ts kept s).readied = s.readied := by
  induction ts generalizing kept s with
  | nil => rfl
  | cons p ts ih =>
    unfold State.retestFrom
    split
    · exact ih ..
    · extract_lets new ok
      split
      · exact ih ..
      · exact (ih ..).trans (State.abortStep_readied ..)

theorem State.dispatch_readied (s : State) : s.dispatch.readied = s.readied := (congrArg State.readied s.dispatch_still :)

theorem State.retestAll_readied (s : State) (reason : Reason) : (s.retestAll reason).readied = s.readied :=
  (State.dispatch_readied _).trans ((State.retestFrom_readied ..).trans
    (State.keeps_foldl State.readied _ (fun u c => State.retestPattern_readied u c reason) allCtx s))

theorem State.haltAdmission_readied (s : State) : s.haltAdmission.readied = s.readied := by
  unfold State.haltAdmission
  refine (State.keeps_foldl State.readied _ (fun u p => ?_) _ _).trans rfl
  split
  · exact State.abortStep_readied ..
  · rfl

theorem State.adoptUse_readied (s : State) (new : Vector ClusterUse 28) : (s.adoptUse new).readied = s.readied := by
  obtain ⟨mem, ctxs, h⟩ := s.adoptUse_rest new
  rw [h]
  rfl

theorem State.journal_readied (s : State) (b : JBody) : (s.journal b).readied = s.readied := rfl

theorem State.journalRetire_readied (s : State) (u : HwUnit) : (s.journalRetire u).readied = s.readied := by
  obtain ⟨queue, h, -⟩ := s.journalRetire_rest u
  rw [h]
  rfl

theorem State.failCluster_readied (s : State) (c : Fin 28) : (s.failCluster c).readied = s.readied := by
  unfold State.failCluster
  split
  · rfl
  · exact State.journalRetire_readied ..
  · split
    · rw [State.journal_readied, State.adoptUse_readied]
    · exact (State.journalRetire_readied ..).trans (State.adoptUse_readied ..)

theorem State.failRegion_readied (s : State) (r : Fin 4) : (s.failRegion r).readied = s.readied := by
  unfold State.failRegion
  extract_lets use
  rw [State.journalRetire_readied, State.adoptUse_readied]

theorem State.failArray_readied (s : State) (c : Fin 28) (k : Fin 2) (i : Fin 4) : (s.failArray c k i).readied = s.readied := by
  unfold State.failArray
  extract_lets core other live s1 s2
  have h2 : s2.readied = s.readied := State.journalRetire_readied s1 _
  clear_value s2
  split
  · split
    · exact (State.failCluster_readied ..).trans h2
    · exact h2
  · split
    · exact (State.failCluster_readied ..).trans h2
    · exact h2
  · exact h2

theorem State.loseModule_readied (s : State) (m : Module) : (s.loseModule m).readied = s.readied := by
  unfold State.loseModule
  split
  · rfl
  · refine (State.retestAll_readied ..).trans ?_
    cases m <;> rfl

theorem State.loseChannel_readied (s : State) (c : Fin 256) : (s.loseChannel c).readied = s.readied := by
  unfold State.loseChannel
  split
  · rfl
  · extract_lets hbm chan s1 set sig s2 slu hbm2 s3 m
    have h2 : s2.readied = s.readied := rfl
    have h3 : s3.readied = s2.readied := by
      unfold s3
      split <;> rfl
    clear_value s2 s3
    split
    · exact (State.retestAll_readied ..).trans (h3.trans h2)
    · exact (State.haltAdmission_readied _).trans h2

theorem State.takeOut_readied (s : State) (u : HwUnit) : (s.takeOut u).readied = s.readied := by
  cases u with
  | array c k i => exact s.failArray_readied c k i
  | cluster c => exact s.failCluster_readied c
  | region r => exact s.failRegion_readied r
  | die d => exact State.keeps_foldl State.readied _ State.failRegion_readied _ s
  | requestLine => rfl
  | d2dModule m => exact s.loseModule_readied (.d2d m)
  | fordModule d m => exact s.loseModule_readied (.ford d m)
  | hbmChannel c => exact s.loseChannel_readied c
  | _ => exact State.journalRetire_readied ..

/-! ### The units that failed -/

theorem State.record_readied (s : State) (g : Sig) : (s.record g).readied = s.readied := rfl

theorem State.retireUnit_readied (s : State) (u : HwUnit) : (s.retireUnit u).readied = s.readied := by
  unfold State.retireUnit
  rw [State.record_readied, State.takeOut_readied]

theorem State.testFail_readied (s : State) (u : HwUnit) : (s.testFail u).readied = s.readied := by
  unfold State.testFail
  split
  · rfl
  · rw [State.retireUnit_readied]
    rfl

theorem State.Wears.testFail (s : State) (u : HwUnit) : State.Wears s (s.testFail u) := by
  unfold State.testFail
  split
  · exact .refl s
  · exact State.Wears.trans (t := { s with boot := { s.boot with testFails := satInc s.boot.testFails } })
      (.of_units rfl rfl rfl rfl rfl fun _ h => h) (State.retireUnit_wears ..)

theorem State.testFail_bad (s : State) (u : HwUnit) : (s.testFail u).knownBad u = true := by
  unfold State.testFail
  split
  case isTrue hbad => exact hbad
  case isFalse => exact (State.retireUnit_retired ..).1

/-- Every unit of the list has left service. -/
theorem State.testFails_bad (l : List HwUnit) (s : State) : ∀ u ∈ l, (l.foldl State.testFail s).knownBad u = true :=
  foldl_reaches (P := fun u (t : State) => t.knownBad u = true) State.testFail State.testFail_bad
    (fun t u v hv => (State.Wears.testFail t u).bad v hv) l s

/-! ### The grade at the end of the test -/

theorem State.bootGrade_of_hw {s t : State} (hhw : t.hw = s.hw) (hfuse : t.fuse = s.fuse) (hrec : t.boot.reconciled = s.boot.reconciled) :
    t.bootGrade = s.bootGrade := by
  have hgrade := State.gradeNow_of_hw hhw
  have hsum : t.grade = s.grade := (congrArg (·.1) hgrade :)
  have hox : t.oxbows = s.oxbows := funext fun d => by simp only [State.oxbows, hhw]
  simp only [State.bootGrade, hfuse, hrec, hsum, hox]

/-- The device with its effective grade taken and not yet measured. -/
def State.graded (s : State) : State :=
  let s1 := if s.boot.lastGrade = s.gradeNow then s else s.journal (.grade s.gradeNow.1 s.gradeNow.2.1 s.gradeNow.2.2)
  { s1 with boot := { s1.boot with
    lastGrade := s.gradeNow, below := decide (s.gradeNow.1 < s.fuse.arrays) || decide (s.gradeNow.2.1 + s.gradeNow.2.2 < s.fuse.oxbows)
    reconciled := true, phase := .reconcile } }

theorem State.graded_rest (s : State) : ∃ queue, s.graded = { s with boot := { s.boot with
    queue := queue, lastGrade := s.gradeNow
    below := decide (s.gradeNow.1 < s.fuse.arrays) || decide (s.gradeNow.2.1 + s.gradeNow.2.2 < s.fuse.oxbows)
    reconciled := true, phase := .reconcile } } := by
  unfold State.graded
  dsimp only
  split
  · exact ⟨_, rfl⟩
  · exact ⟨_, rfl⟩

theorem State.setGrade_rest (s : State) : ∃ intg out, s.setGrade =
    { s.graded.measure 2 (sha256 (leBytes 4 s.graded.bootGrade.toNat)) with intg := intg, out := out } := by
  unfold State.setGrade
  extract_lets g below s1 boot s2 s3 sig u
  have hu : u = s3 := rfl
  clear_value u s3
  subst hu
  split
  · exact ⟨_, _, rfl⟩
  · exact ⟨_, _, rfl⟩

/-- The end of the start-up test, of whatever units have failed by then. -/
theorem State.setGrade_leaves (s : State) : s.setGrade.boot.phase = .reconcile ∧ s.setGrade.boot.reconciled = true
    ∧ (∀ u, s.setGrade.knownBad u = s.knownBad u) ∧ s.setGrade.boot.lastGrade = s.setGrade.gradeNow
    ∧ s.setGrade.dma.ready = s.dma.ready
    ∧ s.setGrade.boot.below = (decide (s.setGrade.grade < s.fuse.arrays)
      || decide ((s.setGrade.oxbows 0).length + (s.setGrade.oxbows 1).length < s.fuse.oxbows))
    ∧ s.setGrade.sec.meas = s.sec.meas.set 2 (sha256 (digestBytes s.sec.meas[2]
      ++ digestBytes (sha256 (leBytes 4 s.setGrade.bootGrade.toNat))))
    ∧ s.setGrade.fuse = s.fuse ∧ s.setGrade.flash = s.flash ∧ s.setGrade.cfg = s.cfg ∧ s.setGrade.own = s.own := by
  obtain ⟨intg, out, hset⟩ := s.setGrade_rest
  obtain ⟨queue, hgraded⟩ := s.graded_rest
  have hhw : s.setGrade.hw = s.hw := by rw [hset, hgraded]; rfl
  have hfuse : s.setGrade.fuse = s.fuse := by rw [hset, hgraded]; rfl
  have hboot : s.setGrade.boot = s.graded.boot := by rw [hset]; rfl
  have hgrade : s.setGrade.bootGrade = s.graded.bootGrade :=
    State.bootGrade_of_hw (by rw [hhw, hgraded]) (by rw [hfuse, hgraded]) (by rw [hboot])
  have hnow : s.setGrade.gradeNow = s.gradeNow := State.gradeNow_of_hw hhw
  have hbelow : s.setGrade.boot.below = (decide (s.gradeNow.1 < s.fuse.arrays)
      || decide (s.gradeNow.2.1 + s.gradeNow.2.2 < s.fuse.oxbows)) := by rw [hboot, hgraded]
  have hmeas : s.setGrade.sec.meas = s.sec.meas.set 2 (sha256 (digestBytes s.sec.meas[2]
      ++ digestBytes (sha256 (leBytes 4 s.graded.bootGrade.toNat)))) := by
    have hsec : s.graded.sec = s.sec := by rw [hgraded]
    rw [hset, ← hsec]
    rfl
  have hunits : ∀ u, s.setGrade.knownBad u = s.knownBad u :=
    State.knownBad_congr hhw (by rw [hset, hgraded]; rfl) (by rw [hset, hgraded]; rfl) (by rw [hset, hgraded]; rfl)
  refine ⟨by rw [hboot, hgraded], by rw [hboot, hgraded], hunits, ?_, by rw [hset, hgraded]; rfl, ?_, by rw [hgrade, hmeas], hfuse,
    by rw [hset, hgraded]; rfl, by rw [hset, hgraded]; rfl, by rw [hset, hgraded]; rfl⟩
  · rw [hnow, hboot, hgraded]
  · rw [hbelow, ← hnow]
    rfl

/-- The device when the start-up test ends, before the units that failed leave service: SRAM is clear, the units are as the fuses and
the journal say, and the modules and DMA complexes are up. -/
def State.testing (s : State) : State :=
  let x := (s.boot.journal.map (·.body) ++ s.boot.queue).foldl Standing.apply (standingOf s.fuse)
  State.modulesUp { s.clearSram with hw := { x.hw with use := renumber x.use fun c => x.place[c] } }

/-- The units that failed, by the test or by their firmware, in the order in which they leave service. -/
def State.testUnits (s : State) (failed : List HwUnit) : List HwUnit :=
  (failed ++ s.boot.fetchBad.map fetcherUnit).mergeSort fun a b => decide (testOrder a ≤ testOrder b)

theorem execStartUpTestDone_of_test {s : State} (hb : s.bootable = true) (hphase : s.boot.phase = .test) (ht : s.boot.trained = true)
    (hinit : s.boot.warm = true ∨ s.hbm.initialised = true) (failed : List HwUnit) :
    execStartUpTestDone failed s = .next ((s.testUnits failed).foldl State.testFail s.testing).setGrade := by
  unfold execStartUpTestDone
  rw [if_pos (by simpa [hb, hphase, ht] using hinit)]
  rfl

theorem startUpTest_reconciles {s : State} (hb : s.bootable = true) (hphase : s.boot.phase = .test) (ht : s.boot.trained = true)
    (hinit : s.boot.warm = true ∨ s.hbm.initialised = true) (failed : List HwUnit) :
    ∃ t, exec (.startUpTestDone failed) s = .next t ∧ t.boot.phase = .reconcile ∧ t.boot.reconciled = true
      ∧ (∀ u ∈ failed, t.knownBad u = true) ∧ (∀ f ∈ s.boot.fetchBad, t.knownBad (fetcherUnit f) = true)
      ∧ t.boot.lastGrade = t.gradeNow ∧ t.dma.ready = Vector.replicate 5 true
      ∧ t.boot.below = (decide (t.grade < s.fuse.arrays) || decide ((t.oxbows 0).length + (t.oxbows 1).length < s.fuse.oxbows))
      ∧ t.sec.meas = s.sec.meas.set 2 (sha256 (digestBytes s.sec.meas[2] ++ digestBytes (sha256 (leBytes 4 t.bootGrade.toNat))))
      ∧ t.fuse = s.fuse ∧ t.flash = s.flash ∧ t.cfg = s.cfg ∧ t.own = s.own := by
  rw [exec_startUpTestDone, execStartUpTestDone_of_test hb hphase ht hinit]
  refine ⟨_, rfl, ?_⟩
  have hbad := State.testFails_bad (s.testUnits failed) s.testing
  have hwears := State.Wears.foldl State.testFail State.Wears.testFail (s.testUnits failed) s.testing
  have hready := State.keeps_foldl State.readied State.testFail State.testFail_readied (s.testUnits failed) s.testing
  generalize (s.testUnits failed).foldl State.testFail s.testing = u at *
  simp only [State.testUnits, List.mem_mergeSort, List.mem_append, List.mem_map] at hbad
  obtain ⟨hcfg, hown, hfuse, -, -, -⟩ := State.parts_of_unworn hwears.rest
  have hdma : u.dma.ready = Vector.replicate 5 true := (congrArg (·.1) hready :)
  have hsec : u.sec = s.sec := (congrArg (·.2.1) hready :)
  have hflash : u.flash = s.flash := (congrArg (·.2.2) hready :)
  obtain ⟨hp, hrec, hunits, hlast, hd, hbelow, hmeas, hf, hfl, hc, ho⟩ := u.setGrade_leaves
  rw [show u.fuse = s.fuse from hfuse] at hbelow hf
  rw [hsec] at hmeas
  exact ⟨hp, hrec, fun v hv => (hunits v).trans (hbad v (.inl hv)), fun f hin => (hunits _).trans (hbad _ (.inr ⟨f, hin, rfl⟩)),
    hlast, hd.trans hdma, hbelow, hmeas, hf, hfl.trans hflash, hc.trans hcfg, ho.trans hown⟩

end Sys2Proof.Machine
end

section
/-! PROOFS. Weir's rebuild ends every walk, and the device comes into service (R210, R416). -/

namespace Sys2Proof.Machine

theorem exec_weirRebuildDone (s : State) : exec .weirRebuildDone s = execWeirRebuildDone s := rfl

/-! ### The walks of the groups -/

theorem State.endWalk_rest (s : State) (r : Fin 17) (k : Fin 8) :
    ∃ mem weir, s.endWalk r k = { s with mem := mem, weir := weir } := by
  unfold State.endWalk
  extract_lets s1
  have h1 : ∃ mem, s1 = { s with mem := mem } := by
    unfold s1
    split
    · split
      · exact ⟨_, rfl⟩
      · exact ⟨s.mem, rfl⟩
    · exact ⟨s.mem, rfl⟩
  obtain ⟨mem, h1⟩ := h1
  clear_value s1
  subst h1
  exact ⟨_, _, rfl⟩

/-- A walk that ends frees its slot, and touches no other. -/
theorem State.endWalk_row (s : State) (r q : Fin 17) (k : Fin 8) :
    (s.endWalk r k).row q = if r = q then (s.row r).setSlot k .free else s.row q := by
  unfold State.endWalk
  extract_lets s1 s2
  have h1 : s1.weir = s.weir := by
    unfold s1
    split
    · split <;> rfl
    · rfl
  have hrow : ∀ p, s1.row p = s.row p := fun p => congrArg (fun w : Weir => w.rows[p].a) h1
  have h2 : s2.row q = if r = q then (s1.row r).setSlot k .free else s1.row q := s1.writeRow_row r q _
  rw [hrow, hrow] at h2
  exact h2

/-- The slot holds no walk. -/
def State.WalkFree (s : State) (r : Fin 17) (k : Fin 8) : Prop := s.slot r k ≠ .folding ∧ s.slot r k ≠ .aborting

theorem State.endWalk_slot (s : State) (r q : Fin 17) (k j : Fin 8) :
    (s.endWalk r k).slot q j = if r = q ∧ k = j then .free else s.slot q j := by
  unfold State.slot
  rw [State.endWalk_row]
  by_cases hr : r = q
  · subst hr
    by_cases hk : k = j
    · subst hk
      simp [RowData.setSlot]
    · have hv : k.val ≠ j.val := fun e => hk (Fin.ext e)
      simp [RowData.setSlot, hk, hv]
  · simp [hr]

theorem State.WalkFree.endWalk {s : State} {q : Fin 17} {j : Fin 8} (h : s.WalkFree q j) (r : Fin 17) (k : Fin 8) :
    (s.endWalk r k).WalkFree q j := by
  unfold State.WalkFree
  rw [State.endWalk_slot]
  split
  · simp
  · exact h

theorem State.endWalk_walkFree (s : State) (r : Fin 17) (k : Fin 8) : (s.endWalk r k).WalkFree r k := by
  simp [State.WalkFree, State.endWalk_slot]

/-- Ends the walk of one slot, if it holds one. -/
def State.endWalkOf (r : Fin 17) (s : State) (k : Fin 8) : State :=
  if s.slot r k = .folding ∨ s.slot r k = .aborting then s.endWalk r k else s

theorem State.endWalks_eq (s : State) (r : Fin 17) : s.endWalks r = (List.finRange 8).foldl (State.endWalkOf r) s := rfl

theorem State.endWalkOf_walkFree (r : Fin 17) (s : State) (k : Fin 8) : (s.endWalkOf r k).WalkFree r k := by
  unfold State.endWalkOf
  split
  case isTrue => exact s.endWalk_walkFree r k
  case isFalse h => exact not_or.1 h

theorem State.WalkFree.endWalkOf {s : State} {q : Fin 17} {j : Fin 8} (h : s.WalkFree q j) (r : Fin 17) (k : Fin 8) :
    (s.endWalkOf r k).WalkFree q j := by
  unfold State.endWalkOf
  split
  · exact h.endWalk r k
  · exact h

/-- What the end of walks leaves: all but memory and Weir's rows, and of these the versions. -/
def State.unwalked (s : State) : State × (Fin 17 → BitVec 64) := ({ s with mem := State.reset.mem, weir := Weir.reset }, fun r => (s.row r).version)

theorem State.endWalkOf_unwalked (r : Fin 17) (s : State) (k : Fin 8) : (s.endWalkOf r k).unwalked = s.unwalked := by
  unfold State.endWalkOf
  split
  · refine Prod.ext ?_ (funext fun q => ?_)
    · obtain ⟨mem, weir, h⟩ := s.endWalk_rest r k
      rw [h]
      rfl
    · show ((s.endWalk r k).row q).version = (s.row q).version
      rw [State.endWalk_row]
      split
      case isTrue hq => exact hq ▸ rfl
      case isFalse => rfl
  · rfl

theorem State.endWalks_unwalked (s : State) (r : Fin 17) : (s.endWalks r).unwalked = s.unwalked :=
  State.keeps_foldl State.unwalked (State.endWalkOf r) (State.endWalkOf_unwalked r) _ s

theorem State.endWalks_walkFree (s : State) (r : Fin 17) (k : Fin 8) : (s.endWalks r).WalkFree r k :=
  foldl_reaches (P := fun k (u : State) => u.WalkFree r k) (State.endWalkOf r) (State.endWalkOf_walkFree r)
    (fun _ j _ h => h.endWalkOf r j) _ s k (List.mem_finRange k)

theorem State.WalkFree.endWalks {s : State} {q : Fin 17} {j : Fin 8} (h : s.WalkFree q j) (r : Fin 17) : (s.endWalks r).WalkFree q j := by
  rw [State.endWalks_eq]
  induction List.finRange 8 generalizing s with
  | nil => exact h
  | cons k l ih => exact ih (h.endWalkOf r k)

/-- Every walk has ended. -/
def State.walked (s : State) : State := (List.finRange 17).foldl State.endWalks s

theorem State.walked_walkFree (s : State) (r : Fin 17) (k : Fin 8) : s.walked.WalkFree r k :=
  foldl_reaches (P := fun r (u : State) => ∀ k, u.WalkFree r k) State.endWalks State.endWalks_walkFree (fun _ q _ h k => (h k).endWalks q) _ s r
    (List.mem_finRange r) k

theorem State.walked_unwalked (s : State) : s.walked.unwalked = s.unwalked :=
  State.keeps_foldl State.unwalked State.endWalks State.endWalks_unwalked _ s

/-! ### Into service -/

/-- The contexts read no stale walk. -/
def State.forgetWalking (s : State) : State := s.forCtx fun t c => t.modCtx c fun x => { x with walking := [] }

theorem State.forgetWalking_rest (s : State) : s.forgetWalking = { s with ctxs := s.forgetWalking.ctxs } := s.forCtx_modCtx_rest _

theorem State.forgetWalking_walking (s : State) (c : CtxId) : (s.forgetWalking.ctx c).walking = [] := by
  refine foldl_reaches (P := fun c (u : State) => (u.ctx c).walking = []) (fun t c => t.modCtx c fun x => { x with walking := [] })
    (fun u c => ?_) (fun u d c h => ?_) allCtx s c (List.mem_finRange c)
  · rw [State.modCtx_ctx, if_pos rfl]
  · rw [State.modCtx_ctx]
    split
    · rfl
    · exact h

/-- The windows of every context. -/
def State.windows (s : State) : CtxId → List Host.Cell := fun c => (s.ctx c).regs.window

theorem State.forgetWalking_windows (s : State) : s.forgetWalking.windows = s.windows := by
  unfold State.forgetWalking State.forCtx
  refine State.keeps_foldl State.windows _ (fun u d => funext fun c => ?_) allCtx s
  unfold State.windows
  rw [State.modCtx_ctx]
  split
  case isTrue h => rw [h]
  case isFalse => rfl

/-- Weir has rebuilt its free pages: the device is in service. -/
def State.inService (s : State) : State :=
  { s with
    weir := { s.weir with ready := true, rebuild := false }
    boot := { s.boot with phase := if s.hw.retired then .retired else .ready }
    slu := { s.slu with admitting := s.hbm.migration == .none } }

theorem State.inService_windows (s : State) : s.inService.windows = s.windows := rfl

theorem State.version_of_unwalked {s u : State} (h : u.unwalked = s.unwalked) (r : Fin 17) : (u.row r).version = (s.row r).version :=
  congrFun (congrArg (·.2) h :) r

theorem execWeirRebuildDone_of_reconcile {s : State} (hp : s.powered = true) (hphase : s.boot.phase = .reconcile) (hready : s.hbm.ready = true) :
    execWeirRebuildDone s = .next (if s.walked.forgetWalking.inService.warming then s.walked.forgetWalking.inService
      else s.walked.forgetWalking.inService.evalAll) := by
  unfold execWeirRebuildDone
  rw [State.whenPowered, if_pos hp, if_neg (by simp [hphase, hready])]
  extract_lets s1 s2 weir boot slu s3
  have h1 : s1 = s.walked := rfl
  have h2 : s2 = s1.forgetWalking := rfl
  have h3 : s3 = s2.inService := rfl
  rw [← h1, ← h2, ← h3]

/-- The walks that ended and the contexts' stale copies are all that changed before the device comes into service. -/
theorem State.rebuilt_of_unwalked {s u : State} (h : u.unwalked = s.unwalked) :
    u.forgetWalking.inService = { s with
      mem := u.mem
      ctxs := u.forgetWalking.ctxs
      weir := { u.weir with ready := true, rebuild := false }
      boot := { s.boot with phase := if s.hw.retired then .retired else .ready }
      slu := { s.slu with admitting := s.hbm.migration == .none } } := by
  have hrest : ({ u with mem := State.reset.mem, weir := Weir.reset } : State) = { s with mem := State.reset.mem, weir := Weir.reset } :=
    congrArg (·.1) h
  have hfields : u = { s with mem := u.mem, weir := u.weir } :=
    (congrArg (fun v : State => ({ v with mem := u.mem, weir := u.weir } : State)) hrest :)
  rw [u.forgetWalking_rest]
  generalize u.forgetWalking.ctxs = x
  generalize u.mem = m at *
  generalize u.weir = w at *
  subst hfields
  rfl

/-- With no window to evaluate, the device comes into service as Weir's rebuild leaves it. -/
theorem State.rebuilt_stands {s u : State} (h : u.unwalked = s.unwalked) (hquiet : s.warming = true ∨ ∀ c, (s.ctx c).regs.window = []) :
    (if u.forgetWalking.inService.warming then u.forgetWalking.inService else u.forgetWalking.inService.evalAll)
      = u.forgetWalking.inService := by
  have hrebuilt := State.rebuilt_of_unwalked h
  have hwindows : u.forgetWalking.inService.windows = u.windows := (State.inService_windows _).trans u.forgetWalking_windows
  have hctxs : u.windows = s.windows := (congrArg (fun p : State × (Fin 17 → BitVec 64) => p.1.windows) h :)
  have hrcv : u.forgetWalking.inService.warming = s.warming := by rw [hrebuilt]; rfl
  generalize u.forgetWalking.inService = t at *
  split
  case isTrue => rfl
  case isFalse hcold =>
    refine State.evalAll_of_empty fun c => ?_
    exact (congrFun (hwindows.trans hctxs) c).trans (hquiet.resolve_left (hrcv ▸ hcold) c)

theorem weirRebuild_comesIntoService {s : State} (hp : s.powered = true) (hphase : s.boot.phase = .reconcile) (hready : s.hbm.ready = true)
    (hquiet : s.warming = true ∨ ∀ c, (s.ctx c).regs.window = []) :
    ∃ t, exec .weirRebuildDone s = .next t ∧ t.weir.ready = true ∧ t.weir.rebuild = false
      ∧ t.boot = { s.boot with phase := if s.hw.retired then .retired else .ready }
      ∧ t.slu = { s.slu with admitting := s.hbm.migration == .none }
      ∧ (∀ r k, t.slot r k ≠ .folding ∧ t.slot r k ≠ .aborting) ∧ (∀ c, (t.ctx c).walking = [])
      ∧ (∀ r, (t.row r).version = (s.row r).version)
      ∧ t.hw = s.hw ∧ t.hbm = s.hbm ∧ t.own = s.own ∧ t.cfg = s.cfg ∧ t.intg = s.intg ∧ t.rcv = s.rcv := by
  rw [exec_weirRebuildDone, execWeirRebuildDone_of_reconcile hp hphase hready, State.rebuilt_stands s.walked_unwalked hquiet]
  refine ⟨_, rfl, ?_⟩
  have hversion : ∀ r, (s.walked.row r).version = (s.row r).version := State.version_of_unwalked s.walked_unwalked
  have hslots := s.walked_walkFree
  have hrebuilt := State.rebuilt_of_unwalked s.walked_unwalked
  generalize s.walked = u at *
  have hwalking := u.forgetWalking_walking
  rw [hrebuilt]
  exact ⟨rfl, rfl, rfl, rfl, hslots, hwalking, hversion, rfl, rfl, rfl, rfl, rfl, rfl⟩

/-- Settles O36, a stage at a time: what each one changes is a lemma of its own, about the loss of channels, the clearing of memory, the
fetchers, the units that fail and the groups' walks. -/
theorem bootStages : Obligations.BootStages := by
  unfold Obligations.BootStages
  refine ⟨fun s hb => ⟨fun failed ht => ?_, fun ht hw hi => ?_, fun f hphase hf hnew => ?_, fun hid => ?_⟩,
    fun s => ⟨fun failed hb hphase ht hinit => startUpTest_reconciles hb hphase ht hinit failed,
      fun hp hphase hready hquiet => weirRebuild_comesIntoService hp hphase hready hquiet⟩⟩
  · exact ⟨_, (exec_hbmTrainingDone failed s).trans (execHbmTrainingDone_of_untrained hb ht failed), trainingDone_serves s failed⟩
  · obtain ⟨hinside, houtside⟩ := s.mem.clear_hbm
    exact ⟨_, (exec_hbmInitialised s).trans (execHbmInitialised_of_cold hb ht hw hi), rfl, hinside, houtside, rfl⟩
  · intro ends
    have hends := State.fetchEnd_ends hb hphase hf hnew
    exact ⟨⟨_, exec_firmwareFetchDone f true s, hends true⟩, ⟨_, exec_firmwareFetchDone f false s, hends false⟩,
      ⟨_, exec_firmwareFetchTimeout f s, hends false⟩⟩
  · exact (exec_identityKeyDerived s).trans (execIdentityKeyDerived_of_open hb hid)

end Sys2Proof.Machine
end

section
/-! PROOFS. What no record, abort or teardown moves: ownership, flash, the mapped channels, admission and the device row's version
(R159, R160, R212). -/

namespace Sys2Proof.Machine

/-- What stands while records are judged, steps end and contexts are torn down: ownership, flash, the mapped channels and their migration,
whether Sluice admits, whether Weir is ready, the device row's version, and the records of lost channels. -/
def State.moored (s : State) : Own × Flash × List Nat × Migration × Bool × Bool × BitVec 64 × List Sig :=
  (s.own, s.flash, s.hbm.mapped, s.hbm.migration, s.slu.admitting, s.weir.ready, s.version 16, s.intg.records.filter fun g => g.kind == 7)

@[simp] theorem State.moored_eta (s : State) : (s.own, s.flash, s.hbm.mapped, s.hbm.migration, s.slu.admitting, s.weir.ready,
    s.weir.rows[16].a.version, s.intg.records.filter fun g => g.kind == 7) = s.moored := rfl

@[simp] theorem State.moored_mk (pending clk own cfg lat slu ctxs weir recv mem hbm sram fuse hw fab dma ring intg rcv pwr sec flash boot tel
    out) :
    (State.mk pending clk own cfg lat slu ctxs weir recv mem hbm sram fuse hw fab dma ring intg rcv pwr sec flash boot tel out).moored
      = (own, flash, hbm.mapped, hbm.migration, slu.admitting, weir.ready, weir.rows[16].a.version,
        intg.records.filter fun g => g.kind == 7) := rfl

@[simp] theorem State.moored_ite (c : Prop) [Decidable c] (a b : State) : (if c then a else b).moored = if c then a.moored else b.moored :=
  apply_ite State.moored c a b

theorem State.moored_of_still {s t : State} (h : t.still = s.still) : t.moored = s.moored := (congrArg State.moored h :)

theorem State.moored_foldl {α : Type} (f : State → α → State) (h : ∀ u a, (f u a).moored = u.moored) (l : List α) (s : State) :
    (l.foldl f s).moored = s.moored := State.keeps_foldl State.moored f h l s

/-- A change of parts that are not moored. -/
theorem State.moored_of_fields {s t : State} (hown : t.own = s.own) (hflash : t.flash = s.flash) (hmapped : t.hbm.mapped = s.hbm.mapped)
    (hmig : t.hbm.migration = s.hbm.migration) (hadm : t.slu.admitting = s.slu.admitting) (hready : t.weir.ready = s.weir.ready)
    (hver : t.version 16 = s.version 16) (hrec : t.intg.records = s.intg.records) : t.moored = s.moored := by
  unfold State.moored
  rw [hown, hflash, hmapped, hmig, hadm, hready, hver, hrec]

@[simp] theorem State.emits_moored (s : State) (os : List Output) : (s.emits os).moored = s.moored := rfl

@[simp] theorem State.msixOwner_moored (s : State) (v : Nat) : (s.msixOwner v).moored = s.moored := by
  unfold State.msixOwner
  split <;> rfl

@[simp] theorem State.modCtx_moored (s : State) (c : CtxId) (f : Ctx → Ctx) : (s.modCtx c f).moored = s.moored := rfl

@[simp] theorem State.forCtx_moored (s : State) (f : State → CtxId → State) (h : ∀ u c, (f u c).moored = u.moored) :
    (s.forCtx f).moored = s.moored := State.moored_foldl f h _ s

@[simp] theorem State.trace_moored (s : State) (cls event ctx arg : Nat) : (State.trace s cls event ctx arg).moored = s.moored :=
  State.moored_of_still (State.trace_still ..)

@[simp] theorem State.freezeTrace_moored (s : State) : s.freezeTrace.moored = s.moored := by
  rw [State.freezeTrace_rest]
  rfl

@[simp] theorem State.putEntry_moored (s : State) (c : CtxId) (e : Entry64) : (s.putEntry c e).moored = s.moored := by
  rw [State.putEntry_rest]
  rfl

@[simp] theorem State.deny_moored (s : State) (c : CtxId) (w : Who) (d : Deny) (step : Nat) : (s.deny c w d step).moored = s.moored := by
  unfold State.deny
  exact State.putEntry_moored ..

@[simp] theorem State.modClient_moored (s : State) (id : Byte) (f : Client → Client) : (s.modClient id f).moored = s.moored := rfl

theorem State.record_moored (s : State) (g : Sig) (h : g.kind ≠ 7) : (s.record g).moored = s.moored := by
  have hrecords : (s.record g).intg.records.filter (fun g => g.kind == 7) = s.intg.records.filter fun g => g.kind == 7 := by
    simp [State.record, State.msixBoth, State.emits, List.filter_append, h]
  unfold State.moored
  rw [hrecords]
  rfl

theorem State.moored_of_version {s t : State} {weir : Weir} (ht : t = { s with weir := weir }) (hready : weir.ready = s.weir.ready)
    (hver : t.version 16 = s.version 16) : t.moored = s.moored := by
  subst ht
  exact State.moored_of_fields rfl rfl rfl rfl rfl hready hver rfl

/-- The rows of contexts are not the device row. -/
theorem State.writeRow_moored (s : State) (c : CtxId) (f : RowData → RowData) : (s.writeRow (rowOf c) f).moored = s.moored := by
  refine State.moored_of_version rfl rfl ?_
  have hrow : rowOf c ≠ 16 := fun h => absurd (congrArg Fin.val h) (by simp [rowOf]; omega)
  exact congrArg RowData.version ((s.writeRow_row (rowOf c) 16 f).trans (if_neg hrow))

@[simp] theorem State.abortGroup_moored (s : State) (r : Fin 17) (k : Fin 8) : (s.abortGroup r k).moored = s.moored :=
  State.moored_of_version rfl rfl (s.abortGroup_version r 16 k)

@[simp] theorem State.dropRow_moored (s : State) (c : CtxId) : (s.dropRow (rowOf c)).moored = s.moored := by
  refine Eq.trans ?_ (s.writeRow_moored c fun d => { d with
    version := 0#64, priorValid := false, slots := d.slots.map fun g => if g = .free then .free else .aborting })
  rfl

@[simp] theorem State.sendAborts_moored (s : State) (c : CtxId) (step : BitVec 64) : (s.sendAborts c step).moored = s.moored := by
  refine State.moored_foldl _ (fun u r => ?_) _ s
  split
  · exact State.moored_of_still (State.sendOnFlow_still ..)
  · rfl

@[simp] theorem State.dispatch_moored (s : State) : (State.dispatch s).moored = s.moored :=
  State.moored_of_still (State.dispatch_still ..)

@[simp] theorem State.abortOne_moored (s : State) (c : CtxId) (t : Step) (code : Code) (reason : Reason) (index : Nat) (tell : Bool) :
    (s.abortOne c t code reason index tell).moored = s.moored := by
  unfold State.abortOne
  extract_lets r s1 s2 killed s3 s4 s5 s6 s7 s8 s9 s10
  have h1 : s1.moored = s.moored := by
    unfold s1
    split
    · exact State.abortGroup_moored ..
    · rfl
  have h2 : s2.moored = s1.moored := by
    unfold s2
    split <;> rfl
  have h3 : s3.moored = s2.moored := State.moored_foldl _ (fun _ _ => State.trace_moored ..) killed s2
  have h6 : s6.moored = s3.moored := by
    unfold s6
    split
    · exact State.sendAborts_moored ..
    · rfl
  have h9 : s9.moored = s6.moored := State.trace_moored ..
  have h10 : s10.moored = s9.moored := by
    unfold s10
    split
    · exact State.freezeTrace_moored ..
    · rfl
  exact (State.putEntry_moored ..).trans (h10.trans (h9.trans (h6.trans (h3.trans (h2.trans h1)))))

@[simp] theorem State.abortFollowers_moored (c : CtxId) (code : Code) (tell : Bool) (ts : List Step) (prev : Bool) (s : State) :
    (State.abortFollowers c code tell ts prev s).moored = s.moored := by
  induction ts generalizing prev s with
  | nil => rfl
  | cons t ts ih =>
    unfold State.abortFollowers
    split
    · exact ih ..
    · split
      · exact (ih ..).trans (State.abortOne_moored ..)
      · exact ih ..

@[simp] theorem State.abortStep_moored (s : State) (c : CtxId) (uid : Nat) (code : Code) (reason : Reason) (index : Nat) (tell : Bool) :
    (s.abortStep c uid code reason index tell).moored = s.moored := by
  unfold State.abortStep
  split
  · rfl
  · split
    · rfl
    · exact (State.abortFollowers_moored ..).trans (State.abortOne_moored ..)

@[simp] theorem State.dropTail_moored (s : State) (c : CtxId) (uid : Nat) : (s.dropTail c uid).moored = s.moored := rfl

@[simp] theorem State.applyRaised_moored (s : State) (is : List Item) : (State.applyRaised s is).moored = s.moored :=
  State.moored_of_still (State.applyRaised_still ..)

@[simp] theorem State.accept_moored (s : State) (c : CtxId) (w : Who) (e : Entry64 → Entry64) : (s.accept c w e).moored = s.moored := by
  rw [State.accept_rest]
  rfl

@[simp] theorem State.retestFrom_moored (reason : Reason) (ts : List (CtxId × Step)) (items : List Item) (s : State) :
    (State.retestFrom reason ts items s).moored = s.moored := by
  induction ts generalizing s items with
  | nil => rfl
  | cons t ts ih =>
    unfold State.retestFrom
    (repeat' split) <;> simp [ih]

@[simp] theorem State.retest_moored (s : State) (reason : Reason) : (s.retest reason).moored = s.moored := by
  simp [State.retest]

theorem State.moored_of_mirrors {c : CtxId} {s t : State} (h : State.Mirrors c s t) : t.moored = s.moored := by
  rw [h.rest]
  rfl

@[simp] theorem State.dropStream_moored (s : State) (c : CtxId) (tell : Bool) : (s.dropStream c tell).moored = s.moored :=
  State.moored_of_mirrors (.dropStream ..)

@[simp] theorem State.laterCommit_moored (s : State) (c : CtxId) (pages : List Nat) : (s.laterCommit c pages).moored = s.moored :=
  State.moored_of_mirrors (.laterCommit ..)

@[simp] theorem State.checkpoint_moored (s : State) (c : CtxId) (step version : BitVec 64) (final : Bool) :
    (s.checkpoint c step version final).moored = s.moored := State.moored_of_mirrors (.checkpoint ..)

@[simp] theorem State.countMiss_moored (s : State) : s.countMiss.moored = s.moored := rfl

@[simp] theorem State.modSlot_moored (s : State) (i : Nat) (f : RecvSlot → RecvSlot) : (s.modSlot i f).moored = s.moored := rfl

@[simp] theorem State.abortReceive_moored (s : State) (i : Nat) : (s.abortReceive i).moored = s.moored := by
  unfold State.abortReceive
  (repeat' split) <;> simp

@[simp] theorem State.layAside_moored (s : State) (fresh : List Range) : (s.layAside fresh).moored = s.moored := by
  refine State.moored_foldl _ (fun u r => ?_) _ s
  dsimp only
  split <;> rfl

@[simp] theorem State.allocate_moored (s : State) (c : CtxId) (new : List Range) : (s.allocate c new).moored = s.moored := by
  unfold State.allocate
  extract_lets fresh hbm s1 s2
  have h1 : s1.moored = s.moored := State.layAside_moored ..
  exact h1

@[simp] theorem State.deliver_moored (s : State) (c : CtxId) (ds : List Delivery) : (s.deliver c ds).moored = s.moored := by
  unfold State.deliver
  simp

@[simp] theorem State.endPattern_moored (s : State) (c : CtxId) : (s.endPattern c).moored = s.moored := by
  unfold State.endPattern
  extract_lets s1
  split
  · refine (State.record_moored s1 _ ?_).trans rfl
    show 8 ≠ 7
    decide
  · rfl

@[simp] theorem State.retestPattern_moored (s : State) (c : CtxId) (reason : Reason) : (s.retestPattern c reason).moored = s.moored := by
  unfold State.retestPattern
  split
  · rfl
  · split
    · exact (State.endPattern_moored ..).trans ((State.deliver_moored ..).trans
        (State.moored_foldl _ (fun _ _ => State.abortStep_moored ..) _ s))
    · rfl

@[simp] theorem State.retestAll_moored (s : State) (reason : Reason) : (s.retestAll reason).moored = s.moored := by
  simp [State.retestAll]

@[simp] theorem State.tearRow_moored (s : State) (c : CtxId) : (s.tearRow c).moored = s.moored := s.dropRow_moored c

@[simp] theorem State.dropReceiver_moored (s : State) (c : CtxId) : (s.dropReceiver c).moored = s.moored := by
  unfold State.dropReceiver
  split
  · refine State.moored_foldl _ (fun u i => ?_) _ s
    split
    · exact State.abortReceive_moored ..
    · rfl
  · rfl

@[simp] theorem State.startTeardown_moored (s : State) (c : CtxId) (code : Code) (reason : Reason) (w : Who) :
    (s.startTeardown c code reason w).moored = s.moored := by
  unfold State.startTeardown
  extract_lets x hold s1 s2 intg sec s3
  have h1 : s1.moored = s.moored := by
    refine State.moored_foldl _ (fun u t => ?_) _ s
    split
    · (repeat' split) <;> simp
    · rfl
  have h2 : s2.moored = s1.moored := by simp [s2]
  have h3 : s3.moored = s2.moored := rfl
  clear_value s3 s2
  split
  · rfl
  · rw [State.dispatch_moored]
    split
    · exact (State.tearRow_moored ..).trans (h3.trans (h2.trans h1))
    · exact h3.trans (h2.trans h1)
@[simp] theorem State.shrink_moored (cs : List CtxId) (total : Nat) (s : State) : (State.shrink cs total s).moored = s.moored := by
  induction cs generalizing s total with
  | nil => rfl
  | cons c cs ih =>
    unfold State.shrink
    (repeat' split) <;> simp [ih]

end Sys2Proof.Machine
end

section
/-! PROOFS. No record moves what a migration has settled: the judges of every record, and the evaluation of the windows (R159, R160). -/

namespace Sys2Proof.Machine

@[simp] theorem State.programChange_moored (s : State) (c : CtxId) : (s.programChange c).moored = s.moored := by
  unfold State.programChange
  dsimp only
  (repeat' split) <;> simp

@[simp] theorem State.admitProgram_moored (s : State) (c : CtxId) (digest : BitVec 256) (step : BitVec 64) (replay : Bool) :
    (s.admitProgram c digest step replay).moored = s.moored := by
  unfold State.admitProgram
  simp

@[simp] theorem State.addStep_moored (s : State) (c : CtxId) (t : Step) (folds : List Fold) (raised : List Item) :
    (s.addStep c t folds raised).moored = s.moored := by
  unfold State.addStep
  simp

@[simp] theorem State.acceptStep_moored (s : State) (c : CtxId) (t : Step) : (s.acceptStep c t).moored = s.moored := by
  unfold State.acceptStep
  simp

@[simp] theorem State.followEnded_moored (s : State) (c : CtxId) (ended : Option Code) (t : Step) :
    (s.followEnded c ended t).moored = s.moored := by
  unfold State.followEnded
  (repeat' split) <;> simp

@[simp] theorem State.denyStep_moored (s : State) (c : CtxId) (w : Who) (d : Deny) (step : Nat) :
    (s.denyStep c w d step).moored = s.moored := by
  unfold State.denyStep
  simp

@[simp] theorem State.judgeStep_moored (s : State) (c : CtxId) (header entries : List Byte) (w : Who) :
    (s.judgeStep c header entries w).moored = s.moored := by
  unfold State.judgeStep
  dsimp only
  (repeat' split) <;> simp

@[simp] theorem State.create_moored (s : State) (c : CtxId) (r : CreateRec) (client : Byte) : (s.create c r client).moored = s.moored := by
  unfold State.create
  extract_lets old x s1
  exact (State.modClient_moored ..).trans (State.writeRow_moored ..)

@[simp] theorem State.judgeCreate_moored (s : State) (c : CtxId) (bs : List Byte) (w : Who) : (s.judgeCreate c bs w).moored = s.moored := by
  unfold State.judgeCreate
  (repeat' split) <;> simp

@[simp] theorem State.fence_moored (s : State) (c : CtxId) (w : Who) : (s.fence c w).moored = s.moored := by
  unfold State.fence
  simp

@[simp] theorem State.preempt_moored (s : State) (c : CtxId) (step : Nat) : (s.preempt c step).moored = s.moored := by
  unfold State.preempt
  rw [State.dispatch_moored]
  refine State.moored_foldl _ (fun u t => ?_) _ s
  split
  · split
    · exact State.abortStep_moored ..
    · rfl
  · rfl

@[simp] theorem State.judgePreempt_moored (s : State) (c : CtxId) (bs : List Byte) (w : Who) :
    (s.judgePreempt c bs w).moored = s.moored := by
  unfold State.judgePreempt
  simp

@[simp] theorem State.judgeTeardown_moored (s : State) (c : CtxId) (bs : List Byte) (w : Who) :
    (s.judgeTeardown c bs w).moored = s.moored := by
  unfold State.judgeTeardown
  simp

@[simp] theorem State.judgeRebind_moored (s : State) (c : CtxId) (bs : List Byte) (w : Who) : (s.judgeRebind c bs w).moored = s.moored := by
  unfold State.judgeRebind
  simp

@[simp] theorem State.adoptEpoch_moored (s : State) (c : CtxId) (epoch : BitVec 32) (rank count : Nat) :
    (s.adoptEpoch c epoch rank count).moored = s.moored := by
  unfold State.adoptEpoch
  extract_lets s1 s2 s3 fab s4
  have h1 : s1.moored = s.moored := by
    refine State.moored_foldl _ (fun u t => ?_) _ s
    split
    · split
      · exact State.abortStep_moored ..
      · rfl
    · rfl
  have h2 : s2.moored = s1.moored := State.dropStream_moored ..
  have h3 : s3.moored = s2.moored := by
    unfold s3
    split
    · refine State.moored_foldl _ (fun u i => ?_) _ s2
      split
      · exact (State.countMiss_moored _).trans (State.abortReceive_moored ..)
      · rfl
    · rfl
  rw [State.dispatch_moored]
  exact h3.trans (h2.trans h1)

@[simp] theorem State.judgeEpoch_moored (s : State) (c : CtxId) (bs : List Byte) (w : Who) : (s.judgeEpoch c bs w).moored = s.moored := by
  unfold State.judgeEpoch
  simp

@[simp] theorem State.judgeGroups_moored (s : State) (c : CtxId) (bs : List Byte) (w : Who) : (s.judgeGroups c bs w).moored = s.moored := by
  unfold State.judgeGroups
  simp

@[simp] theorem State.judgePeers_moored (s : State) (c : CtxId) (bs : List Byte) (w : Who) : (s.judgePeers c bs w).moored = s.moored := by
  unfold State.judgePeers
  simp

@[simp] theorem State.judgeTargets_moored (s : State) (c : CtxId) (bs : List Byte) (w : Who) :
    (s.judgeTargets c bs w).moored = s.moored := by
  unfold State.judgeTargets
  simp

@[simp] theorem State.judgeMirror_moored (s : State) (c : CtxId) (bs : List Byte) (w : Who) : (s.judgeMirror c bs w).moored = s.moored := by
  unfold State.judgeMirror
  dsimp only
  (repeat' split) <;> simp

@[simp] theorem State.judgeRestore_moored (s : State) (c : CtxId) (bs : List Byte) (w : Who) :
    (s.judgeRestore c bs w).moored = s.moored := by
  unfold State.judgeRestore
  dsimp only
  (repeat' split) <;> simp

@[simp] theorem State.judgeFinal_moored (s : State) (c : CtxId) (bs : List Byte) (w : Who) : (s.judgeFinal c bs w).moored = s.moored := by
  unfold State.judgeFinal
  dsimp only
  (repeat' split) <;> simp

@[simp] theorem State.adopt_moored (s : State) (c : CtxId) (exts : List (Nat × Nat)) : (s.adopt c exts).moored = s.moored := by
  unfold State.adopt
  simp

@[simp] theorem State.judgePattern_moored (s : State) (c : CtxId) (bs : List Byte) (w : Who) :
    (s.judgePattern c bs w).moored = s.moored := by
  unfold State.judgePattern
  (repeat' first | extract_lets | split) <;> simp +zetaDelta

@[simp] theorem State.judgeJoin_moored (s : State) (c : CtxId) (bs : List Byte) (w : Who) : (s.judgeJoin c bs w).moored = s.moored := by
  unfold State.judgeJoin
  dsimp only
  (repeat' split) <;> simp

@[simp] theorem State.judgeLeave_moored (s : State) (c : CtxId) (bs : List Byte) (w : Who) : (s.judgeLeave c bs w).moored = s.moored := by
  unfold State.judgeLeave
  dsimp only
  (repeat' split) <;> simp

@[simp] theorem State.judgeStop_moored (s : State) (c : CtxId) (bs : List Byte) (w : Who) : (s.judgeStop c bs w).moored = s.moored := by
  unfold State.judgeStop
  dsimp only
  (repeat' split) <;> simp

@[simp] theorem State.failVerify_moored (s : State) : (s.failVerify).moored = s.moored := rfl

@[simp] theorem State.judgeManifest_moored (s : State) (c : CtxId) (bs : List Byte) (w : Who) :
    (s.judgeManifest c bs w).moored = s.moored := by
  unfold State.judgeManifest
  dsimp only
  (repeat' split) <;> simp

@[simp] theorem State.judgeLoad_moored (s : State) (c : CtxId) (bs : List Byte) (w : Who) : (s.judgeLoad c bs w).moored = s.moored := by
  unfold State.judgeLoad
  dsimp only
  (repeat' split) <;> simp

@[simp] theorem State.dropRecord_moored (s : State) (c : CtxId) (d : Drop) (len : Nat) : (s.dropRecord c d len).moored = s.moored := rfl

@[simp] theorem State.assemble_moored (s : State) (c : CtxId) (a : Assembly) (end_ : Bool) (w : Who) :
    (s.assemble c a end_ w).moored = s.moored := by
  unfold State.assemble
  simp

@[simp] theorem State.judgeStepRecord_moored (s : State) (c : CtxId) (typ : Nat) (bs : List Byte) (end_ : Bool) (w : Who) :
    (s.judgeStepRecord c typ bs end_ w).moored = s.moored := by
  unfold State.judgeStepRecord
  (repeat' split) <;> simp

@[simp] theorem State.judgeType_moored (s : State) (c : CtxId) (typ : Nat) (bs : List Byte) (end_ : Bool) (w : Who) :
    (s.judgeType c typ bs end_ w).moored = s.moored := by
  unfold State.judgeType
  (repeat' split) <;> simp

@[simp] theorem State.judgeRecord_moored (s : State) (c : CtxId) (bs : List Byte) : (s.judgeRecord c bs).moored = s.moored := by
  unfold State.judgeRecord
  simp

@[simp] theorem State.advance_moored (s : State) (c : CtxId) (len : Nat) (rest : List Host.Cell) :
    (s.advance c len rest).moored = s.moored := rfl

theorem State.evalOne_moored {s : State} {c : CtxId} {t : State × Bool} (h : s.evalOne c = some t) : t.1.moored = s.moored := by
  unfold State.evalOne at h
  dsimp only at h
  split at h
  · cases h
  · split at h
    · cases h
      exact State.dropRecord_moored ..
    · split at h
      · cases h
      · split at h
        · cases h
          exact State.dropRecord_moored ..
        · cases h
          simp

theorem State.evalWindow_moored (c : CtxId) (n : Nat) (s : State) : (State.evalWindow c n s).moored = s.moored := by
  induction n generalizing s with
  | zero => rfl
  | succ n ih =>
    unfold State.evalWindow
    split
    case h_1 t h =>
      split
      · exact (ih _).trans (State.evalOne_moored h)
      · exact State.evalOne_moored h
    case h_2 => rfl

/-- The evaluation of every window of records. -/
theorem State.evalAll_moored (s : State) : s.evalAll.moored = s.moored :=
  State.moored_foldl _ (fun _ c => State.evalWindow_moored c 2048 _) allCtx s

end Sys2Proof.Machine
end

section
/-! PROOFS. A migration starts in a group of the device row and commits in one write of it (R159, R160, R212). -/

namespace Sys2Proof.Machine

theorem exec_migrationStart (s : State) : exec .migrationStart s = execMigrationStart s := rfl
theorem exec_migrationCommit (unreadable : List Nat) (s : State) : exec (.migrationCommit unreadable) s = execMigrationCommit unreadable s := rfl

/-! ### The start -/

/-- The move of the pages begins, over the channels lost by now. -/
def State.moving (s : State) : State := { s with hbm := { s.hbm with migration := .moving s.clk.now s.lostSet } }

theorem execMigrationStart_of_declared {s : State} {since : Ns} {k : Fin 8} (hup : s.up = true) (hmig : s.hbm.migration = .declared since)
    (hfree : s.freeSlot 16 = some k) (hrun : s.noneRunning = true) (hlost : s.lostCount < 17) :
    execMigrationStart s = .next (s.moving.openGroup (migrationGroup k)) := by
  unfold execMigrationStart
  rw [State.whenUp_of_up hup, hmig, hfree]
  dsimp only
  rw [if_pos (by simp [hrun, hlost])]
  rfl

theorem State.openGroup_slot (s : State) (g : Group) (j : Fin 8) :
    (s.openGroup g).slot g.row j = if g.slot = j then .open else s.slot g.row j := by
  unfold State.slot
  rw [State.openGroup_row, if_pos rfl]
  by_cases h : g.slot = j
  · subst h
    simp [RowData.setSlot]
  · have hv : g.slot.val ≠ j.val := fun e => h (Fin.ext e)
    simp [RowData.setSlot, h, hv]

theorem State.openGroup_version (s : State) (g : Group) (q : Fin 17) : (s.openGroup g).version q = s.version q := by
  show ((s.openGroup g).row q).version = (s.row q).version
  rw [State.openGroup_row]
  split
  case isTrue h => exact h ▸ rfl
  case isFalse => rfl

theorem migrationStart_opens {s : State} {since : Ns} {k : Fin 8} (hup : s.up = true) (hmig : s.hbm.migration = .declared since)
    (hfree : s.freeSlot 16 = some k) (hrun : s.noneRunning = true) (hlost : s.lostCount < 17) :
    ∃ t, exec .migrationStart s = .next t ∧ t = { s with hbm := t.hbm, weir := t.weir }
      ∧ t.hbm = { s.hbm with migration := .moving s.clk.now s.lostSet } ∧ t.slot 16 k = .open
      ∧ (∀ j : Fin 8, j ≠ k → t.slot 16 j = s.slot 16 j) ∧ (∀ r : Fin 17, r ≠ 16 → t.row r = s.row r) ∧ t.version 16 = s.version 16 := by
  have hslot := s.moving.openGroup_slot (migrationGroup k)
  refine ⟨_, (exec_migrationStart s).trans (execMigrationStart_of_declared hup hmig hfree hrun hlost), rfl, rfl,
    (hslot k).trans (if_pos rfl), fun j hj => (hslot j).trans (if_neg hj.symm), fun r hr => ?_, State.openGroup_version ..⟩
  exact (s.moving.openGroup_row (migrationGroup k) r).trans (if_neg hr.symm)

/-! ### The commit -/

/-- The slot of the device row that holds the migration: open, and not one of a receive slot. -/
def State.migrationSlot (s : State) : Option (Fin 8) :=
  (List.finRange 8).find? fun k => s.slot 16 k == .open && !(s.recv.slots.any fun r => r.group == some k)

/-- The one write of the device row. -/
def State.settleMove (s : State) : State :=
  match s.migrationSlot with
  | some k => s.commitGroup 16 k (s.version 16 + 1#64) true
  | none => s

/-- The lost set of a move is in force. -/
def State.remapped (s : State) (set : List Nat) : State := { s with hbm := { s.hbm with
  mapped := set, scrubPos := if s.hbm.scrubPos < (256 - set.length) * 4194304 then s.hbm.scrubPos else 0
  migration := if set.length < s.lostCount ∧ s.lostCount < 17 then .declared s.clk.now else .none } }

/-- The lines that the move could not read are poisoned, and records say so. -/
def State.reportMove (s : State) (bad : List Nat) : State :=
  let s3 := bad.foldl (fun u g => u.poisonLines g (List.range 15)) s
  let s4 := s3.record { Sig.empty 7 with effect := s3.effect }
  if bad.isEmpty then s4 else s4.record { Sig.empty 3 with cls := some 7, counts := [(4, bad.length)] }

/-- What no longer fits ends, and the rest is tested again. -/
def State.refit (s : State) : State := (State.shrink allCtx.reverse (allCtx.map s.ctxBytes).sum s).retestAll .capacityLost

theorem execMigrationCommit_of_moving {s : State} {since : Ns} {set : List Nat} (hup : s.up = true)
    (hmig : s.hbm.migration = .moving since set) (unreadable : List Nat) : execMigrationCommit unreadable s
      = .next ((s.settleMove.remapped set).reportMove (unreadable.filter (s.settleMove.remapped set).groupValid)).refit.resumeAdmission := by
  unfold execMigrationCommit
  rw [State.whenUp_of_up hup, hmig]
  rfl

theorem State.settleMove_rest (s : State) : s.settleMove = { s with weir := s.settleMove.weir } := by
  unfold State.settleMove
  split
  · exact State.commitGroup_rest ..
  · rfl

/-- The device row's version advances when an open group of it is no receive slot's. -/
theorem State.settleMove_version {s : State} {k : Fin 8} (hk : s.slot 16 k = .open)
    (hrecv : ∀ j : Fin 8, s.slot 16 j = .open → ∀ r ∈ s.recv.slots, r.group ≠ some j) :
    s.settleMove.version 16 = s.version 16 + 1#64 := by
  have hfound : s.migrationSlot.isSome = true := by
    refine List.find?_isSome.2 ⟨k, List.mem_finRange k, ?_⟩
    simpa [hk] using hrecv k hk
  obtain ⟨j, hj⟩ := Option.isSome_iff_exists.1 hfound
  unfold State.settleMove
  rw [hj]
  exact (s.commitGroup_row 16 j (s.version 16 + 1#64) true).2.1

/-- What the tests after a remapping leave: what is moored, the power state and the boot. -/
def State.berth (s : State) : (Own × Flash × List Nat × Migration × Bool × Bool × BitVec 64 × List Sig) × Pwr × Boot := (s.moored, s.pwr, s.boot)

theorem State.berth_of_plant {s t : State} (hm : t.moored = s.moored) (hp : t.plant = s.plant) : t.berth = s.berth := by
  have hpwr : t.pwr = s.pwr := congrArg (·.pwr) hp
  have hboot : t.boot = s.boot := congrArg (·.boot) hp
  simp only [State.berth, hm, hpwr, hboot]

theorem State.parts_of_berth {s t : State} (h : t.berth = s.berth) : t.moored = s.moored ∧ t.pwr = s.pwr ∧ t.boot = s.boot :=
  ⟨congrArg (·.1) h, congrArg (·.2.1) h, congrArg (·.2.2) h⟩

theorem State.shrink_plant (cs : List CtxId) (total : Nat) (s : State) : (State.shrink cs total s).plant = s.plant := by
  induction cs generalizing s total with
  | nil => rfl
  | cons c cs ih =>
    unfold State.shrink
    split
    · rfl
    · split
      · exact (ih ..).trans (State.startTeardown_plant ..)
      · exact ih ..

theorem State.refit_berth (s : State) : s.refit.berth = s.berth :=
  State.berth_of_plant ((State.retestAll_moored ..).trans (State.shrink_moored ..)) ((State.retestAll_plant ..).trans (State.shrink_plant ..))

theorem State.parts_of_moored {s t : State} (h : t.moored = s.moored) : t.own = s.own ∧ t.flash = s.flash ∧ t.hbm.mapped = s.hbm.mapped
    ∧ t.hbm.migration = s.hbm.migration ∧ t.slu.admitting = s.slu.admitting ∧ t.weir.ready = s.weir.ready ∧ t.version 16 = s.version 16
    ∧ t.intg.records.filter (fun g => g.kind == 7) = s.intg.records.filter fun g => g.kind == 7 :=
  ⟨(congrArg (·.1) h :), (congrArg (·.2.1) h :), (congrArg (·.2.2.1) h :), (congrArg (·.2.2.2.1) h :), (congrArg (·.2.2.2.2.1) h :),
    (congrArg (·.2.2.2.2.2.1) h :), (congrArg (·.2.2.2.2.2.2.1) h :), (congrArg (·.2.2.2.2.2.2.2) h :)⟩

/-- The records of lost channels are the same, so one stands where one stood. -/
theorem lossRecord_of_moored {s t : State} (h : t.moored = s.moored) (hs : ∃ g ∈ s.intg.records, g.kind = 7) :
    ∃ g ∈ t.intg.records, g.kind = 7 := by
  obtain ⟨-, -, -, -, -, -, -, hrecords⟩ := State.parts_of_moored h
  obtain ⟨g, hg, hkind⟩ := hs
  have hin : g ∈ t.intg.records.filter fun g => g.kind == 7 := hrecords ▸ List.mem_filter.2 ⟨hg, beq_iff_eq.2 hkind⟩
  exact ⟨g, (List.mem_filter.1 hin).1, hkind⟩

/-- The report of a move leaves the berth but for the records, and makes one of KIND 7. -/
theorem State.reportMove_leaves (s : State) (bad : List Nat) :
    ∃ u : State, u.berth = s.berth ∧ ∃ g : Sig, g.kind = 7 ∧ (s.reportMove bad).berth = (u.record g).berth := by
  unfold State.reportMove
  extract_lets s3 sig s4 sig2
  refine ⟨s3, State.keeps_foldl State.berth (fun u g => u.poisonLines g (List.range 15)) (fun _ _ => rfl) bad s,
    { sig with effect := s3.effect }, rfl, ?_⟩
  split
  · rfl
  · exact State.berth_of_plant (State.record_moored s4 _ (by show 3 ≠ 7; decide)) rfl

/-- Sluice admits, or not. -/
def State.admitWhen (s : State) (on : Bool) : State := { s with slu := { s.slu with admitting := on } }

/-- Nothing holds admission: no migration, no trip, Weir ready and the device in service. -/
def State.resumable (s : State) : Bool :=
  match s.hbm.migration with
  | .none => !s.pwr.trip && s.weir.ready && (s.boot.phase == .ready || s.boot.phase == .retired)
  | _ => false

theorem State.resumeAdmission_eq (s : State) : s.resumeAdmission = if s.resumable then (s.admitWhen true).evalAll else s := rfl

/-- Admission resumes when nothing holds it; the records in the windows then judged move nothing else. -/
theorem State.resumeAdmission_leaves (s : State) :
    s.resumeAdmission.moored = (s.admitWhen s.resumeAdmission.slu.admitting).moored ∧ (s.resumable = true → s.resumeAdmission.slu.admitting = true) := by
  rw [State.resumeAdmission_eq]
  split
  case isTrue hfree =>
    have hmoored := (s.admitWhen true).evalAll_moored
    obtain ⟨-, -, -, -, hadm, -, -, -⟩ := State.parts_of_moored hmoored
    have hon : (s.admitWhen true).evalAll.slu.admitting = true := hadm
    exact ⟨by rw [hon, hmoored], fun _ => hon⟩
  case isFalse hheld => exact ⟨rfl, fun hfree => absurd hfree hheld⟩

/-- The parts that admission's return leaves. -/
theorem State.resumed_parts (s : State) : s.resumeAdmission.own = s.own ∧ s.resumeAdmission.flash = s.flash
    ∧ s.resumeAdmission.hbm.mapped = s.hbm.mapped ∧ s.resumeAdmission.hbm.migration = s.hbm.migration
    ∧ s.resumeAdmission.version 16 = s.version 16
    ∧ ((∃ g ∈ s.intg.records, g.kind = 7) → ∃ g ∈ s.resumeAdmission.intg.records, g.kind = 7) := by
  obtain ⟨hmoored, -⟩ := s.resumeAdmission_leaves
  obtain ⟨hown, hflash, hmapped, hmigration, -, -, hversion, -⟩ := State.parts_of_moored hmoored
  exact ⟨hown, hflash, hmapped, hmigration, hversion, fun h => lossRecord_of_moored hmoored h⟩

theorem State.record_mem (s : State) (g : Sig) : ∃ k ∈ (s.record g).intg.records, k.kind = g.kind :=
  ⟨_, List.mem_append_right _ (List.mem_singleton_self _), rfl⟩

theorem State.settleMove_ready (s : State) : s.settleMove.weir.ready = s.weir.ready := by
  unfold State.settleMove
  split
  · unfold State.commitGroup
    cases s.slotIn 16 .last <;> rfl
  · rfl

/-- The remapping in its parts. -/
theorem State.remapped_leaves (s : State) (set : List Nat) :
    let t := s.settleMove.remapped set
    t.own = s.own ∧ t.flash = s.flash ∧ t.hbm.mapped = set
      ∧ t.hbm.migration = (if set.length < s.lostCount ∧ s.lostCount < 17 then .declared s.clk.now else .none)
      ∧ t.weir.ready = s.weir.ready ∧ t.version 16 = s.settleMove.version 16 ∧ t.pwr = s.pwr ∧ t.boot = s.boot := by
  have hready := s.settleMove_ready
  have hrest := s.settleMove_rest
  generalize s.settleMove = u at *
  have hhbm : u.hbm = s.hbm := (congrArg (·.hbm) hrest :)
  have hclk : u.clk = s.clk := (congrArg (·.clk) hrest :)
  refine ⟨(congrArg (·.own) hrest :), (congrArg (·.flash) hrest :), rfl, ?_, hready, rfl, (congrArg (·.pwr) hrest :), (congrArg (·.boot) hrest :)⟩
  have hcount : u.lostCount = s.lostCount := by simp only [State.lostCount, hhbm]
  simp only [State.remapped, hcount, hclk]

/-- What the report and the tests after it leave of the remapping. -/
theorem State.refit_leaves (s : State) (bad : List Nat) :
    let t := (s.reportMove bad).refit
    t.own = s.own ∧ t.flash = s.flash ∧ t.hbm.mapped = s.hbm.mapped ∧ t.hbm.migration = s.hbm.migration ∧ t.weir.ready = s.weir.ready
      ∧ t.version 16 = s.version 16 ∧ t.pwr = s.pwr ∧ t.boot = s.boot ∧ ∃ g ∈ t.intg.records, g.kind = 7 := by
  obtain ⟨u, hu, g, hkind, hreport⟩ := s.reportMove_leaves bad
  have hberth := ((s.reportMove bad).refit_berth).trans hreport
  generalize (s.reportMove bad).refit = t at *
  obtain ⟨ht, htpwr, htboot⟩ := State.parts_of_berth hberth
  obtain ⟨hu, hupwr, huboot⟩ := State.parts_of_berth hu
  obtain ⟨town, tflash, tmapped, tmigration, -, tready, tversion, -⟩ := State.parts_of_moored ht
  obtain ⟨uown, uflash, umapped, umigration, -, uready, uversion, -⟩ := State.parts_of_moored hu
  have hloss : ∃ k ∈ t.intg.records, k.kind = 7 := lossRecord_of_moored ht (hkind ▸ u.record_mem g)
  exact ⟨town.trans uown, tflash.trans uflash, tmapped.trans umapped, tmigration.trans umigration, tready.trans uready, tversion.trans uversion,
    htpwr.trans hupwr, htboot.trans huboot, hloss⟩

/-- The commit of a migration, in the parts that its report and the tests after it leave. -/
theorem migrationCommit_remaps {s : State} {since : Ns} {set : List Nat} (hup : s.up = true) (hmig : s.hbm.migration = .moving since set)
    (unreadable : List Nat) :
    ∃ t, exec (.migrationCommit unreadable) s = .next t ∧ t.hbm.mapped = set
      ∧ t.hbm.migration = (if set.length < s.lostCount ∧ s.lostCount < 17 then .declared s.clk.now else .none)
      ∧ t.version 16 = s.settleMove.version 16 ∧ (∃ g ∈ t.intg.records, g.kind = 7)
      ∧ ((t.hbm.migration = .none ∧ s.pwr.trip = false ∧ s.weir.ready = true) → t.slu.admitting = true)
      ∧ t.own = s.own ∧ t.flash = s.flash := by
  rw [exec_migrationCommit, execMigrationCommit_of_moving hup hmig]
  refine ⟨_, rfl, ?_⟩
  obtain ⟨hown, hflash, hmapped, hmigration, hready, hversion, hpwr, hboot⟩ := s.remapped_leaves set
  generalize s.settleMove.remapped set = v at *
  obtain ⟨xown, xflash, xmapped, xmigration, xready, xversion, xpwr, xboot, hloss⟩ := v.refit_leaves (unreadable.filter v.groupValid)
  generalize (v.reportMove (unreadable.filter v.groupValid)).refit = x at *
  obtain ⟨-, hadmits⟩ := x.resumeAdmission_leaves
  obtain ⟨town, tflash, tmapped, tmigration, tversion, hrecords⟩ := x.resumed_parts
  have hphase : s.boot.phase = .ready ∨ s.boot.phase = .retired := by
    simp only [State.up, Bool.and_eq_true, Bool.or_eq_true, beq_iff_eq] at hup
    exact hup.2
  refine ⟨tmapped.trans (xmapped.trans hmapped), tmigration.trans (xmigration.trans hmigration), tversion.trans (xversion.trans hversion),
    hrecords hloss, fun h => hadmits ?_, town.trans (xown.trans hown), tflash.trans (xflash.trans hflash)⟩
  obtain ⟨hnone, htrip, hweir⟩ := h
  have hxnone : x.hbm.migration = .none := tmigration.symm.trans hnone
  rw [State.resumable, hxnone, xpwr, hpwr, xready, hready, xboot, hboot]
  simpa [htrip, hweir] using hphase

/-- Settles O42: the start is one write of the device row's slot, and the commit one of the row; that the report, the tests of what is admitted
and the records judged when admission resumes move none of it is `State.moored`. -/
theorem migrationRemaps : Obligations.MigrationRemaps := by
  unfold Obligations.MigrationRemaps
  refine fun s hup => ⟨fun since k hmig hfree hrun hlost => migrationStart_opens hup hmig hfree hrun hlost, fun unreadable since set hmig => ?_⟩
  obtain ⟨t, hexec, hmapped, hmigration, hversion, hrecord, hadmits, hown, hflash⟩ := migrationCommit_remaps hup hmig unreadable
  obtain ⟨t', hexec', hkept⟩ := execMigrationCommit_kept unreadable s
  obtain rfl : t = t' := Host.Outcome.next.inj (hexec.symm.trans hexec')
  exact ⟨t, hexec, hmapped, hmigration, fun k hk hrecv => hversion.trans (State.settleMove_version hk hrecv), hrecord, hadmits, kept_cfg hkept, hown,
    kept_fuse hkept, congrArg (·.2.2.2.1) hkept, hflash⟩

end Sys2Proof.Machine
end

section
/-! PROOFS. DMA bursts, the request lines that pace them, and parity faults of a line (R170, R176, R177, R188). -/

namespace Sys2Proof.Machine

theorem exec_dmaBurstComplete (r : CmdRef) (host : List Byte) (s : State) :
    exec (.dmaBurstComplete r host) s = execDmaBurstComplete r host s := rfl
theorem exec_reqRise (x : Fin 5) (l : Fin 64) (s : State) : exec (.reqRise x l) s = execReqRise x l s := rfl
theorem exec_requestLineParityFault (x : Fin 5) (l : Fin 64) (s : State) :
    exec (.requestLineParityFault x l) s = execRequestLineParityFault x l s := rfl

/-! ### Writes of a command touch no line and no count of bursts -/

/-- The request lines, the counts of the DMA complexes and the outputs: what `State.dry` leaves out and writes to device memory keep. -/
def State.wire (s : State) : Dma × List Output := (s.dma, s.out)

@[simp] theorem State.modGroup_wire (s : State) (r : Fin 17) (k : Fin 8) (f : Group → Group) : (s.modGroup r k f).wire = s.wire := rfl
@[simp] theorem State.putCopy_wire (s : State) (c : CtxId) (k : Fin 8) (a : Nat) (bs : List Byte) : (s.putCopy c k a bs).wire = s.wire := rfl

@[simp] theorem State.inlineFold_wire (s : State) (r : Fin 17) (page : Nat) : (s.inlineFold r page).wire = s.wire := by
  unfold State.inlineFold
  (repeat' split) <;> rfl

@[simp] theorem State.inlineFolds_wire (s : State) (r : Fin 17) (pages : List Nat) :
    (pages.foldl (fun t p => t.inlineFold r p) s).wire = s.wire := State.keeps_foldl State.wire _ (fun _ _ => State.inlineFold_wire ..) _ _

@[simp] theorem State.shadowFor_wire (s : State) (c : CtxId) (k : Fin 8) (exts : List (Nat × Nat)) (page : Nat) :
    (s.shadowFor c k exts page).1.wire = s.wire := by
  unfold State.shadowFor
  dsimp only
  split
  case h_1 => rfl
  case h_2 g hg =>
    simp only [apply_ite Prod.fst, apply_ite State.wire, State.modGroup_wire, State.inlineFolds_wire, State.inlineFold_wire, ite_self]
    simp only [State.wire, ite_self]

@[simp] theorem State.writePart_wire (s : State) (c : CtxId) (k : Fin 8) (exts : List (Nat × Nat)) (part : Nat × List Byte) :
    (s.writePart c k exts part).1.wire = s.wire := by
  unfold State.writePart
  dsimp only
  split
  case isTrue => split <;> rfl
  case isFalse =>
    split
    case h_1 =>
      split
      · exact State.shadowFor_wire ..
      · exact (State.putCopy_wire ..).trans (State.shadowFor_wire ..)
    all_goals rfl

@[simp] theorem State.writeParts_wire (c : CtxId) (k : Fin 8) (exts ws) (s : State) : (State.writeParts c k exts ws s).1.wire = s.wire := by
  induction ws generalizing s with
  | nil => rfl
  | cons w ws ih => simp only [State.writeParts, apply_ite Prod.fst, apply_ite State.wire, ih, State.writePart_wire, ite_self]

@[simp] theorem State.replayPart_wire (s : State) (c : CtxId) (w : Nat × List Byte) : (s.replayPart c w).1.wire = s.wire := by
  unfold State.replayPart
  dsimp only
  (repeat' split) <;> rfl

@[simp] theorem State.replayParts_wire (c : CtxId) (ws : List (Nat × List Byte)) (s : State) : (State.replayParts c ws s).1.wire = s.wire := by
  induction ws generalizing s with
  | nil => rfl
  | cons w ws ih => simp only [State.replayParts, apply_ite Prod.fst, apply_ite State.wire, ih, State.replayPart_wire, ite_self]

@[simp] theorem State.injectWrite_wire (s : State) (exts : List (Nat × Nat)) : (s.injectWrite exts).wire = s.wire := by
  unfold State.injectWrite
  dsimp only
  (repeat' split) <;> rfl

@[simp] theorem State.cmdWrite_wire (s : State) (c : CtxId) (t : Step) (ws : List (Nat × List Byte)) : (s.cmdWrite c t ws).1.wire = s.wire := by
  refine (State.injectWrite_wire ..).trans ?_
  unfold State.cmdPut
  split
  · exact State.replayParts_wire ..
  · split
    · exact State.writeParts_wire ..
    · split <;> rfl

/-- A burst's move of its bytes counts nothing and sends nothing but writes to the host. -/
theorem State.dmaMove_dma_out (s : State) (c : CtxId) (t : Step) (j : DmaJob) (host : List Byte) (pos n : Nat) :
    (s.dmaMove c t j host pos n).1.dma = s.dma ∧ s.out <+: (s.dmaMove c t j host pos n).1.out := by
  have of_wire {u : State} (h : u.wire = s.wire) : u.dma = s.dma ∧ s.out <+: u.out := by
    obtain ⟨hdma, hout⟩ := Prod.ext_iff.1 h
    exact ⟨hdma, [], (List.append_nil _).trans hout.symm⟩
  unfold State.dmaMove
  dsimp only
  split
  · exact of_wire rfl
  · split
    · exact of_wire (State.cmdWrite_wire ..)
    · exact ⟨rfl, List.prefix_append ..⟩
    · exact of_wire rfl

/-! ### One burst -/

/-- A state after the request of a command's next burst has been acknowledged, where one paces it and has not been yet. -/
def State.acked (s : State) (r : CmdRef) (j : DmaJob) (l : Fin 5 × Fin 64) (k : Cmd) : State :=
  if j.d.paced && !k.lineAcked then s.ackLine r j l k.position else s

theorem State.Performs.ackLine (s : State) (r : CmdRef) (j : DmaJob) (l : Fin 5 × Fin 64) (pos : Nat) :
    State.Performs r s (s.ackLine r j l pos) := by
  unfold State.ackLine
  extract_lets dma s1
  have hsent : State.Performs r s (s1.emit (.lineAck l.1 l.2 (j.burst pos))) := .of_dry rfl
  exact hsent.trans (.modCmd _ r _ fun _ => by rfl)

theorem State.ackLine_cmd? (s : State) (r : CmdRef) (j : DmaJob) (l : Fin 5 × Fin 64) (pos : Nat) :
    (s.ackLine r j l pos).cmd? r = (s.cmd? r).map fun k => { k with lineAcked := true } :=
  State.modCmd_cmd?_self ..

section
variable {s : State} {r : CmdRef} {j : DmaJob} {l : Fin 5 × Fin 64} {k : Cmd}

theorem State.acked_performs : State.Performs r s (s.acked r j l k) := by
  unfold State.acked
  split
  · exact .ackLine ..
  · exact .of_dry rfl

theorem State.acked_position (hk : s.cmd? r = some k) : ((s.acked r j l k).cmd? r).map (·.position) = some k.position := by
  unfold State.acked
  split
  · rw [State.ackLine_cmd?, hk]
    rfl
  · rw [hk]
    rfl

theorem State.acked_bursts : (s.acked r j l k).dma.bursts = s.dma.bursts := by
  unfold State.acked
  split <;> rfl

theorem State.lineAck_mem_acked (hp : j.d.paced = true) (ha : k.lineAcked = false) :
    .lineAck l.1 l.2 (j.burst k.position) ∈ (s.acked r j l k).out := by
  rw [State.acked, if_pos (by simp [hp, ha])]
  exact List.mem_append_right _ (List.mem_singleton_self _)

end

/-- What a burst of `n` bytes leaves once they have moved: it is counted, the command stands behind it, and a paced one has its DONE. -/
def State.burstDone (s : State) (r : CmdRef) (j : DmaJob) (l : Fin 5 × Fin 64) (pos n : Nat) : State :=
  let s1 := (s.countBursts j [n] pos).modCmd r fun k => { k with position := k.position + n, lineAcked := false }
  if j.d.paced then s1.emit (.lineDone l.1 l.2 false) else s1

section
variable (s : State) (r : CmdRef) (j : DmaJob) (l : Fin 5 × Fin 64) (pos n : Nat)

theorem State.burstDone_rest : s.burstDone r j l pos n =
    { s with ctxs := (s.burstDone r j l pos n).ctxs, dma := (s.burstDone r j l pos n).dma, out := (s.burstDone r j l pos n).out } := by
  unfold State.burstDone
  dsimp only
  split <;> rfl

theorem State.Performs.burstDone : State.Performs r s (s.burstDone r j l pos n) := by
  have hmod : State.Performs r s ((s.countBursts j [n] pos).modCmd r fun k => { k with position := k.position + n, lineAcked := false }) :=
    (State.Performs.of_dry (State.countBursts_dry ..)).trans (.modCmd _ r _ fun _ => by rfl)
  unfold State.burstDone
  dsimp only
  split
  · exact hmod.trans (.of_dry rfl)
  · exact hmod

theorem State.burstDone_cmd? : (s.burstDone r j l pos n).cmd? r =
    (s.cmd? r).map fun k => { k with position := k.position + n, lineAcked := false } := by
  unfold State.burstDone
  dsimp only
  split
  · exact State.modCmd_cmd?_self ..
  · exact State.modCmd_cmd?_self ..

theorem State.burstDone_bursts : (s.burstDone r j l pos n).dma.bursts = satInc s.dma.bursts := by
  unfold State.burstDone
  dsimp only
  split <;> rfl

theorem State.burstDone_out : (s.burstDone r j l pos n).out = s.out ++ if j.d.paced then [.lineDone l.1 l.2 false] else [] := by
  unfold State.burstDone
  dsimp only
  split
  · rfl
  · exact (List.append_nil _).symm

end

section
variable {s : State} {r : CmdRef} {t : Step} {k : Cmd} {j : DmaJob} {host : List Byte} (hup : s.up = true)
  (ht : s.step? r = some t) (hk : s.cmd? r = some k) (hkind : engineKind k.entry.engine = 3) (hmay : k.mayEnd s.clk.now 0 = true)
  (hj : s.dmaJob r.ctx t k = some j) (hpos : k.position < j.d.total)
include hup ht hk hkind hmay hj hpos

theorem execDmaBurstComplete_of_moved :
    let l := lineOf (dmaPlace k.entry.engine).1 j.d.reqLine
    let n := j.burst k.position
    let m := (s.acked r j l k).dmaMove r.ctx t j host k.position n
    (j.d.paced = true → s.requested k l = true) → m.2 = none →
    execDmaBurstComplete r host s = .next (m.1.burstDone r j l k.position n) := by
  intro l n m hreq hmove
  have hgo : ¬ (j.d.total ≤ k.position ∨ (j.d.paced = true ∧ (!s.requested k l) = true)) := by
    rintro (hle | ⟨hp, hno⟩)
    · omega
    · simp [hreq hp] at hno
  unfold execDmaBurstComplete
  simp only [ht, hk, hup, hkind, hmay, hj, and_self, if_true]
  rw [if_neg hgo]
  change Host.Outcome.next (match m.2 with | some reason => m.1.faultCmd r reason | none => m.1.burstDone r j l k.position n) = _
  rw [hmove]

/-- A burst's end in its parts (R170, R176). -/
theorem dmaBurst_moves :
    let l := lineOf (dmaPlace k.entry.engine).1 j.d.reqLine
    let n := j.burst k.position
    let m := (s.acked r j l k).dmaMove r.ctx t j host k.position n
    (j.d.paced = true → s.requested k l = true) → m.2 = none →
    ∃ u, execDmaBurstComplete r host s = .next u ∧ (u.cmd? r).map (fun q => (q.position, q.lineAcked)) = some (k.position + n, false)
      ∧ u.mem = m.1.mem ∧ u.weir = m.1.weir ∧ u.dma.bursts = satInc s.dma.bursts
      ∧ (j.d.paced = true → .lineDone l.1 l.2 false ∈ u.out ∧ (k.lineAcked = false → .lineAck l.1 l.2 n ∈ u.out))
      ∧ (∀ d, (u.ctx d).still = (s.ctx d).still) ∧ u.cfg = s.cfg ∧ u.own = s.own ∧ u.slu = s.slu ∧ u.intg = s.intg := by
  intro l n m hreq hmove
  have hexec : execDmaBurstComplete r host s = .next (m.1.burstDone r j l k.position n) :=
    execDmaBurstComplete_of_moved hup ht hk hkind hmay hj hpos hreq hmove
  have hdry : m.1.dry = (s.acked r j l k).dry := State.dmaMove_dry ..
  obtain ⟨hdma, hout⟩ : m.1.dma = (s.acked r j l k).dma ∧ (s.acked r j l k).out <+: m.1.out := State.dmaMove_dma_out ..
  have hcmd : (m.1.cmd? r).map (·.position) = some k.position := by
    have hctxs : m.1.ctxs = (s.acked r j l k).ctxs := (congrArg (·.ctxs) hdry :)
    rw [State.cmd?_of_ctxs hctxs]
    exact State.acked_position hk
  generalize m.1 = w at *
  have hdone := (State.acked_performs.trans (.of_dry hdry)).trans (State.Performs.burstDone w r j l k.position n)
  refine ⟨_, hexec, ?_, ?_, ?_, ?_, fun hp => ⟨?_, fun ha => ?_⟩, (State.parts_of_still hdone.dry).2.2.2, (congrArg (·.cfg) hdone.dry :),
    (congrArg (·.own) hdone.dry :), (congrArg (·.slu) hdone.dry :), (congrArg (·.intg) hdone.dry :)⟩
  · obtain ⟨q, hq, hqpos⟩ := Option.map_eq_some_iff.1 hcmd
    rw [State.burstDone_cmd?, hq, ← hqpos]
    rfl
  · rw [State.burstDone_rest]
  · rw [State.burstDone_rest]
  · rw [State.burstDone_bursts, hdma, State.acked_bursts]
  · simp [State.burstDone_out, hp]
  · rw [State.burstDone_out]
    exact List.mem_append_left _ (hout.subset (State.lineAck_mem_acked hp ha))

end

/-! ### Requests -/

section
variable {s : State} {x : Fin 5} {l : Fin 64} (hp : s.powered = true) (hl : s.hw.lineDown.contains (x, l) = false)
include hp hl

/-- A request that no running command waits for stays on its line (R176). -/
theorem execReqRise_of_unawaited
    (hnone : ∀ p ∈ s.allCmds, p.2.line = some (x, l) → p.2.state = .running → p.2.lineAcked = true)
    (hnew : s.dma.reqs.contains (x, l) = false) :
    execReqRise x l s = .next { s with dma := { s.dma with reqs := s.dma.reqs ++ [(x, l)] } } := by
  have hfind : (s.allCmds.find? fun p => p.2.line == some (x, l) && p.2.state == .running && !p.2.lineAcked) = none := by
    refine List.find?_eq_none.2 fun p hmem hwaits => ?_
    simp only [Bool.and_eq_true, beq_iff_eq, Bool.not_eq_true'] at hwaits
    obtain ⟨⟨hline, hrun⟩, hacked⟩ := hwaits
    exact Bool.false_ne_true (hacked.symm.trans (hnone p hmem hline hrun))
  unfold execReqRise
  rw [State.whenPowered_of_on hp]
  dsimp only
  rw [hl, hfind, hnew]
  rfl

/-- A request that a running command waits for is acknowledged (R176). -/
theorem execReqRise_of_awaited {p : CmdRef × Cmd} {t : Step} {j : DmaJob}
    (hfind : (s.allCmds.find? fun p => p.2.line == some (x, l) && p.2.state == .running && !p.2.lineAcked) = some p)
    (ht : s.step? p.1 = some t) (hj : s.dmaJob p.1.ctx t p.2 = some j) (hpos : p.2.position < j.d.total) :
    execReqRise x l s = .next (s.ackLine p.1 j (x, l) p.2.position) := by
  unfold execReqRise
  rw [State.whenPowered_of_on hp]
  simp only [hl, hfind, ht, hj, hpos, if_true, Bool.false_eq_true, if_false]

end

/-! ### Parity faults -/

/-- A line out of service: disabled, its fault counted, and its waiting request gone (R177). -/
def State.lineLost (s : State) (q : Fin 5 × Fin 64) : State :=
  { s with
    hw := { s.hw with lineDown := s.hw.lineDown ++ [q] }
    dma := { s.dma with lineFaults := satInc s.dma.lineFaults, reqs := s.dma.reqs.filter fun p => p != q } }

/-- The command that a line's fault ends. -/
def State.lineUser (s : State) (q : Fin 5 × Fin 64) : Option (CmdRef × Cmd) :=
  s.allCmds.find? fun p => p.2.line == some q && [CmdState.running, CmdState.suspended].contains p.2.state

theorem State.lineUser_eq (s : State) (q : Fin 5 × Fin 64) : s.lineUser q =
    s.allCmds.find? fun p => p.2.line == some q && (p.2.state == .running || p.2.state == .suspended) := by
  simp only [State.lineUser, List.contains_cons, List.contains_nil, Bool.or_false]

section
variable {s : State} {x : Fin 5} {l : Fin 64} (hp : s.powered = true) (hl : s.hw.lineDown.contains (x, l) = false)
include hp hl

theorem execRequestLineParityFault_of_unused (huser : s.lineUser (x, l) = none) :
    execRequestLineParityFault x l s = .next (s.lineLost (x, l)) := by
  rw [State.lineUser_eq] at huser
  unfold execRequestLineParityFault
  rw [State.whenPowered_of_on hp]
  dsimp only
  rw [hl, huser]
  rfl

theorem execRequestLineParityFault_of_used {p : CmdRef × Cmd} (huser : s.lineUser (x, l) = some p) :
    execRequestLineParityFault x l s = .next ((s.lineLost (x, l)).faultCmd p.1 .fault) := by
  rw [State.lineUser_eq] at huser
  unfold execRequestLineParityFault
  rw [State.whenPowered_of_on hp]
  dsimp only
  rw [hl, huser]
  rfl

end

/-- A step that ends after its line was lost. -/
theorem State.EndsStep.of_lineLost {s u : State} {q : Fin 5 × Fin 64} {c : CtxId} {uid : Nat} {code : Code}
    (h : (s.lineLost q).EndsStep u c uid code) : s.EndsStep u c uid code :=
  ⟨h.gone, h.kept, h.others, h.told, h.same, h.version, h.rest⟩

/-! ### The obligation -/

/-- Settles O51: a burst is the acknowledgement where one is due, the move of its bytes, and its count and DONE (`dmaBurst_moves`); a request is
kept or acknowledged by whether a running command waits for it; a parity fault takes the line and faults the command on it. -/
theorem burstsFollowRequests : Obligations.BurstsFollowRequests := by
  unfold Obligations.BurstsFollowRequests
  simp only [exec_dmaBurstComplete, exec_reqRise, exec_requestLineParityFault]
  refine ⟨fun s r t k j host hup ht hk hkind hmay hj hpos hreq hmove => dmaBurst_moves hup ht hk hkind hmay hj hpos hreq hmove,
    fun s x l hp hl => ⟨fun hnone hnew => execReqRise_of_unawaited hp hl hnone hnew, fun p t j hfind ht hk hj hpos => ?acked,
      fun hnone => ?unused, fun p t hfind ht hlive => ?used⟩⟩
  case acked =>
    refine ⟨_, execReqRise_of_awaited hp hl hfind ht hj hpos, rfl, ?_, rfl, rfl,
      (State.parts_of_still (State.Performs.ackLine ..).dry).2.2.2⟩
    rw [State.ackLine_cmd?, hk]
    rfl
  case unused =>
    have huser : s.lineUser (x, l) = none := hnone
    exact execRequestLineParityFault_of_unused hp hl huser
  case used =>
    have huser : s.lineUser (x, l) = some p := hfind
    have ht' : (s.lineLost (x, l)).step? p.1 = some t := ht
    have hplant := (s.lineLost (x, l)).faultCmd_plant p.1 .fault
    exact ⟨_, execRequestLineParityFault_of_used hp hl huser, (State.EndsStep.faultCmd ht' hlive .fault).of_lineLost,
      (congrArg (·.hw) hplant :), (congrArg (·.dma.lineFaults) hplant :)⟩

end Sys2Proof.Machine
end

section
/-! PROOFS. Host reads that latch the high half of a pair (R208, R462). -/

namespace Sys2Proof.Machine

/-- A device that serves answers a read with the register and takes the read's latch. -/
theorem State.hostRead_of_serving {s : State} {p : Port} (hp : s.powered = true) (hl : s.linked p = true) (hs : s.serving = true)
    (off : Nat) : s.hostRead p off = (s.readReg (.port p) off).1.emit (.registerData p (s.readReg (.port p) off).2) := by
  simp [State.hostRead, hp, hl, hs]

/-- Outside the TEL_ block a read is of its own block. -/
theorem State.readReg_outsideTel (s : State) (path : Path) {off : Nat} (h : off / 65536 ≠ 12) :
    s.readReg path off = (s.latchRead path (off / 65536) (off % 65536), s.blockReg path (off / 65536) (off % 65536)) := by
  simp [State.readReg, State.reg, h]

/-- The register of a place in an array of registers. -/
theorem nth_place (base n : Nat) (i : Fin n) : nth (base + 4 * i.val) base n = some i := by
  have hi := i.isLt
  unfold nth
  rw [dif_pos (by omega)]
  exact congrArg some (Fin.ext (by simp))

/-- WEIR_FENCE_LOn reads the low half of its row's VERSION (R208). -/
theorem State.weirReg_fenceLo (s : State) (path : Path) (row : Fin 17) :
    s.weirReg path (0x40 + 4 * row.val) = lo32 (s.row row).version.toNat := by
  have hrow := row.isLt
  unfold State.weirReg
  split
  case h_16 => rw [nth_place]
  all_goals omega

/-- A read of WEIR_FENCE_LOn latches the high half of its row's VERSION (R462). -/
theorem State.latchRead_fenceLo (s : State) (path : Path) (row : Fin 17) :
    s.latchRead path 2 (0x40 + 4 * row.val) =
      { s with lat := { s.lat with fenceHi := s.lat.fenceHi.set path.index (hi32 (s.row row).version.toNat) } } := by
  have hrow := row.isLt
  unfold State.latchRead
  dsimp only
  split
  case h_4 => rw [nth_place]
  case h_5 hweir _ _ _ => exact (hweir rfl).elim
  all_goals omega

theorem State.readReg_fenceLo (s : State) (path : Path) (row : Fin 17) :
    s.readReg path (0x20040 + 4 * row.val) =
      ({ s with lat := { s.lat with fenceHi := s.lat.fenceHi.set path.index (hi32 (s.row row).version.toNat) } },
        lo32 (s.row row).version.toNat) := by
  have hrow := row.isLt
  have hblock : (0x20040 + 4 * row.val) / 65536 = 2 := by omega
  have hoff : (0x20040 + 4 * row.val) % 65536 = 0x40 + 4 * row.val := by omega
  rw [State.readReg_outsideTel s path (by omega), hblock, hoff, State.latchRead_fenceLo]
  exact congrArg _ (s.weirReg_fenceLo path row)

/-- Settles O26: each of the four offsets is outside the TEL_ block, reads the low half of its pair and takes that pair's latch. -/
theorem lowHalvesLatchHighHalves : Obligations.LowHalvesLatchHighHalves := by
  intro s p hp hl hs
  have hread := State.hostRead_of_serving hp hl hs
  refine ⟨fun row => ?fence, ?now, ?clean, ?journal⟩
  case fence =>
    show Host.Outcome.next (s.hostRead p _) = _
    rw [hread, State.readReg_fenceLo]
    rfl
  case now =>
    show Host.Outcome.next (s.hostRead p _) = _
    rw [hread, State.readReg_outsideTel _ _ (by decide)]
    rfl
  case clean =>
    show Host.Outcome.next (s.hostRead p _) = _
    rw [hread, State.readReg_outsideTel _ _ (by decide)]
    rfl
  case journal =>
    show Host.Outcome.next (ite _ _ (s.hostRead p _)) = _
    rw [hread, ite_self, State.readReg_outsideTel _ _ (by decide)]
    rfl

end Sys2Proof.Machine
end

section
/-! PROOFS. A CREATE makes its context anew (R196, R331, R332, R338). -/

namespace Sys2Proof.Machine

theorem exec_create (r : RecordIn) (s : State) : exec (.create r) s = .next (s.recordIn 0x01 r) := rfl

/-- The context that a CREATE makes where another one was: the registers of R320 and the pages of a walk are all that is left of it. -/
def Ctx.created (old : Ctx) (q : CreateRec) (client : Byte) : Ctx :=
  { Ctx.reset with
    state := .active
    role := if q.role = 0 then .training else .serving
    client := client
    regs := { old.regs with gen := genNext old.regs.gen, results := 0 }
    rings := { base := q.base, log2 := q.log2, tail := q.tail, kept := [], dBase := 0, dLog2 := 0, dTail := 0, dCount := 0, dKept := [] }
    job := { Ctx.reset.job with tag := q.job, count := q.count }
    walking := old.walking }

theorem State.create_ctx (s : State) (c d : CtxId) (q : CreateRec) (client : Byte) :
    (s.create c q client).ctx d = if c = d then (s.ctx c).created q client else s.ctx d := State.setCtx_ctx ..

theorem State.create_row (s : State) (c : CtxId) (k : Fin 17) (q : CreateRec) (client : Byte) :
    (s.create c q client).row k
      = if rowOf c = k then { s.row (rowOf c) with version := q.version, priorValid := false } else s.row k :=
  (s.setCtx c ((s.ctx c).created q client)).writeRow_row (rowOf c) k fun d => { d with version := q.version, priorValid := false }

theorem State.create_resident (s : State) (c : CtxId) (q : CreateRec) (client : Byte) :
    ((s.create c q client).client client).resident = satNat 32 ((s.client client).resident + 1) := by
  have hid : ∀ k : Client, { k with resident := satNat 32 (k.resident + 1) }.id = k.id := fun _ => rfl
  rw [State.create, State.modClient_client _ _ _ hid, if_pos rfl]
  rfl

theorem State.judgeCreate_of_free {s : State} {c : CtxId} {bs : List Byte} {q : CreateRec} (hq : parseCreate bs = some q)
    (hr : s.hw.retired = false) (hf : (s.ctx c).state = .free) (w : Who) :
    s.judgeCreate c bs w = (s.create c q w.client).accept c w id := by
  simp [State.judgeCreate, hq, hr, Ctx.resident, hf]

/-- The row of a context and the counts of a client outlive an accepted record's entry and the start of commands. -/
theorem State.accept_dispatch_row (s : State) (c : CtxId) (w : Who) (e : Entry64 → Entry64) (k : Fin 17) :
    (s.accept c w e).dispatch.row k = s.row k :=
  State.row_of_rows (by rw [State.dispatch_weir, State.accept_rest]) k

theorem State.accept_dispatch_client (s : State) (c : CtxId) (w : Who) (e : Entry64 → Entry64) (id : Byte) :
    (s.accept c w e).dispatch.client id = s.client id := by
  unfold State.client
  rw [State.dispatch_slu, State.accept_rest]

/-- Settles O8: the record is judged to `State.create`, whose context, row and client the ACCEPTED entry and the start of commands keep. -/
theorem createMakesContext : Obligations.CreateMakesContext := by
  intro s r q htakes hfree hasm hparse hretired
  have htaken := s.taken_ctx r
  have hself := (htaken r.ctx).trans (if_pos rfl)
  have hjudge : (s.taken r).judgeCreate r.ctx r.payload (whoOf r)
      = ((s.taken r).create r.ctx q r.client).accept r.ctx (whoOf r) id :=
    State.judgeCreate_of_free (s := s.taken r) hparse hretired (by rw [hself]; exact hfree) (whoOf r)
  have hrun : exec (.create r) s = .next (((s.taken r).create r.ctx q r.client).accept r.ctx (whoOf r) id).dispatch := by
    rw [exec_create, State.recordIn_judged htakes (by decide) (.inr ⟨hfree, rfl⟩) (.inl hasm), ← hjudge]
    rfl
  have hctx : ∀ d, ((((s.taken r).create r.ctx q r.client).accept r.ctx (whoOf r) id).dispatch.ctx d).still = _ := fun d =>
    (State.dispatch_ctx _ d).trans (congrArg Ctx.still (State.accept_ctx ..))
  refine ⟨_, hrun, ?made, fun d hd => ?others, ?row, fun k hk => ?rows, ?client, ?rest⟩
  case made =>
    rw [hctx, State.dispatch_ctx_rings, State.accept_ctx, if_pos rfl, State.create_ctx, if_pos rfl, hself]
    simp only [Ctx.still, Ctx.entered, Ctx.created, State.acceptedEntry, whoOf, id_eq, BitVec.ofNat_toNat, BitVec.setWidth_eq]
    rfl
  case others =>
    rw [hctx, if_neg hd.symm, State.create_ctx, if_neg hd.symm, htaken, if_neg hd.symm]
  case row =>
    rw [State.accept_dispatch_row, State.create_row, if_pos rfl]
    rfl
  case rows =>
    rw [State.accept_dispatch_row, State.create_row, if_neg hk.symm]
    rfl
  case client =>
    rw [State.accept_dispatch_client, State.create_resident]
    rfl
  case rest =>
    simp only [State.dispatch_mem, State.dispatch_hbm, State.dispatch_recv, State.dispatch_weir, State.dispatch_own, State.dispatch_cfg]
    rw [State.accept_rest]
    exact ⟨rfl, rfl, rfl, rfl, rfl, rfl⟩

end Sys2Proof.Machine
end

section
/-! PROOFS. A PREEMPT ends the steps it names, and a TEARDOWN of a context without steps ends it at once (R207, R332, R336, R337). -/

namespace Sys2Proof.Machine

theorem exec_preempt (r : RecordIn) (s : State) : exec (.preempt r) s = .next (s.recordIn 0x03 r) := rfl
theorem exec_teardown (r : RecordIn) (s : State) : exec (.teardown r) s = .next (s.recordIn 0x02 r) := rfl

/-! ### The steps that a PREEMPT names -/

/-- One step of the context under a PREEMPT of STEP `n`. -/
def State.preemptStep (c : CtxId) (n : Nat) (u : State) (t : Step) : State :=
  match (u.ctx c).step? t.uid with
  | some v => if (n = 2 ^ 64 - 1 ∨ v.hdr.step.toNat = n) ∧ v.state ≠ .prepared then u.abortStep c v.uid .abortedPreempt .none 0 else u
  | none => u

theorem State.preempt_eq (s : State) (c : CtxId) (n : Nat) :
    s.preempt c n = ((s.ctx c).steps.foldl (State.preemptStep c n) s).dispatch := rfl

theorem State.Ended.preemptStep (c : CtxId) (n : Nat) (u : State) (t : Step) : State.Ended c u (State.preemptStep c n u t) := by
  unfold State.preemptStep
  split
  · split
    · exact .abortStep ..
    · exact .refl ..
  · exact .refl ..

/-- A step that a PREEMPT leaves in its context: one that it does not name, or one that is committed or PREPARED. -/
def Step.OutlivesPreempt (n : Nat) (t : Step) : Prop :=
  n = 2 ^ 64 - 1 ∨ t.hdr.step.toNat = n → t.state = .prepared ∨ t.state = .committed

theorem State.preemptStep_clears {c : CtxId} {n : Nat} {u : State} {v : Step} (hd : (u.ctx c).Distinct)
    (hv : v ∈ ((State.preemptStep c n u v).ctx c).steps) : v.OutlivesPreempt n := by
  have hfind := hd.step? ((State.Ended.preemptStep c n u v).steps v hv)
  intro hnamed
  by_contra hlive
  obtain ⟨hprepared, hcommitted⟩ := not_or.1 hlive
  have hturn : State.preemptStep c n u v = u.abortStep c v.uid .abortedPreempt .none 0 := by
    simp only [State.preemptStep, hfind]
    exact if_pos ⟨hnamed, hprepared⟩
  rw [hturn] at hv
  exact State.abortStep_gone u c v.uid _ _ _ _ hfind hcommitted v hv rfl

/-- Where the turn of each listed step leaves it only if `P` holds of it, `P` holds of every listed step that is left. -/
theorem State.Ended.foldl_clears {c : CtxId} {f : State → Step → State} {P : Step → Prop} (hended : ∀ u t, State.Ended c u (f u t))
    (hclears : ∀ u v, (u.ctx c).Distinct → v ∈ ((f u v).ctx c).steps → P v) (ts : List Step) {u : State} (hd : (u.ctx c).Distinct) :
    ∀ v ∈ ((ts.foldl f u).ctx c).steps, v ∈ ts → P v := by
  induction ts generalizing u with
  | nil => exact fun _ _ h => absurd h List.not_mem_nil
  | cons t ts ih =>
    intro v hv hin
    have hsteps := (hended u t).steps
    obtain rfl | hin := List.mem_cons.1 hin
    · exact hclears u v hd ((State.Ended.foldl f hended ts _).steps v hv)
    · exact ih (fun a ha b hb => hd a (hsteps a ha) b (hsteps b hb)) v hv hin

/-- What a PREEMPT leaves of its context: steps that outlive it, and of these each as it was. -/
theorem State.preempt_steps {s : State} {c : CtxId} (hd : (s.ctx c).Distinct) (n : Nat) :
    ∀ u ∈ ((s.preempt c n).dispatch.ctx c).steps, u.OutlivesPreempt n ∧ ∃ v ∈ (s.ctx c).steps, u.still = v.still := by
  intro u hu
  have hstill : (((s.preempt c n).dispatch).ctx c).still = (((s.ctx c).steps.foldl (State.preemptStep c n) s).ctx c).still := by
    rw [State.dispatch_ctx, State.preempt_eq, State.dispatch_ctx]
  have hmem : u.still ∈ ((s.preempt c n).dispatch.ctx c).still.steps := List.mem_map_of_mem hu
  rw [hstill] at hmem
  obtain ⟨v, hv, e⟩ := List.mem_map.1 hmem
  have hin := (State.Ended.foldl _ (State.Ended.preemptStep c n) (s.ctx c).steps s).steps v hv
  have hout := State.Ended.foldl_clears (State.Ended.preemptStep c n) (fun _ _ => State.preemptStep_clears) (s.ctx c).steps hd v hv hin
  refine ⟨?_, v, hin, e.symm⟩
  unfold Step.OutlivesPreempt at hout ⊢
  rwa [show u.hdr = v.hdr from (congrArg (·.hdr) e).symm, show u.state = v.state from (congrArg (·.state) e).symm]

/-- What a PREEMPT keeps: the face of its context, every other context, and the rest of the device. -/
theorem State.preempt_keeps (s : State) (c : CtxId) (n : Nat) :
    let t := (s.preempt c n).dispatch
    (t.ctx c).face = (s.ctx c).face ∧ (∀ d, d ≠ c → (t.ctx d).still = (s.ctx d).still) ∧ t.outer = s.outer := by
  have he := State.Ended.foldl _ (State.Ended.preemptStep c n) (s.ctx c).steps s
  have hstill : (s.preempt c n).dispatch.still = ((s.ctx c).steps.foldl (State.preemptStep c n) s).still := by
    rw [State.dispatch_still, State.preempt_eq, State.dispatch_still]
  have hctx : ∀ d, ((s.preempt c n).dispatch.ctx d).still = (((s.ctx c).steps.foldl (State.preemptStep c n) s).ctx d).still := fun d => by
    rw [State.dispatch_ctx, State.preempt_eq, State.dispatch_ctx]
  have hface : ∀ x : Ctx, x.still.face = x.face := fun _ => rfl
  have houter : ∀ u : State, u.still.outer = u.outer := fun _ => rfl
  refine ⟨?_, fun d hd => ?_, ?_⟩
  · rw [← hface, hctx, hface, he.face]
  · rw [hctx, he.others d hd]
  · rw [← houter, hstill, houter, he.outer]

/-! ### The row of a teardown -/

/-- A row after a teardown's write (R337). -/
def RowData.dropped (d : RowData) : RowData :=
  { d with version := 0#64, priorValid := false, slots := d.slots.map fun g => if g = .free then .free else .aborting }

theorem RowData.dropped_slots (d : RowData) (k : Fin 8) : d.dropped.slots[k] = .free ∨ d.dropped.slots[k] = .aborting := by
  have hslot : d.dropped.slots[k] = if d.slots[k] = .free then .free else .aborting := Vector.getElem_map ..
  rw [hslot]
  split
  · exact .inl rfl
  · exact .inr rfl

theorem State.tearRow_row (s : State) (c : CtxId) : (s.tearRow c).row (rowOf c) = (s.row (rowOf c)).dropped :=
  (s.writeRow_row (rowOf c) (rowOf c) RowData.dropped).trans (if_pos rfl)
theorem State.tearRow_hbm (s : State) (c : CtxId) : (s.tearRow c).hbm = s.hbm := rfl
theorem State.tearRow_recv (s : State) (c : CtxId) : (s.tearRow c).recv = s.recv := rfl

/-- Outside the contexts a teardown of an idle context touches no stack and no receive slot, and writes its row once. -/
theorem State.startTeardown_rest_of_idle {s : State} {c : CtxId} (ha : (s.ctx c).state = .active) (hs : (s.ctx c).steps = [])
    (hm : (s.ctx c).stream = none) (hr : s.recv.ctx ≠ some c) (code : Code) (reason : Reason) (w : Who) :
    let t := s.startTeardown c code reason w
    t.row (rowOf c) = (s.row (rowOf c)).dropped ∧ t.hbm = s.hbm ∧ t.recv = s.recv := by
  have hstream : s.dropStream c true = s := by
    unfold State.dropStream
    rw [hm]
  have hreceiver : s.dropReceiver c = s := by
    unfold State.dropReceiver
    rw [if_neg hr]
  unfold State.startTeardown
  rw [if_neg (not_not_intro ha)]
  extract_lets hold s1 s2 intg sec s3 t
  have h1 : s1 = s := by
    show (s.ctx c).steps.foldl _ s = s
    rw [hs, List.foldl_nil]
  obtain ⟨f, hf, h2⟩ : ∃ f : Ctx → Ctx, (∀ x, (f x).steps = x.steps) ∧ s2 = s.modCtx c f := by
    refine ⟨_, fun x => ?_, congrArg (fun u : State => u.modCtx c _) (?_ : (s1.dropStream c true).dropReceiver c = s)⟩
    · rfl
    · rw [h1, hstream, hreceiver]
  have hempty : (s3.ctx c).steps.isEmpty = true := by
    show (s2.ctx c).steps.isEmpty = true
    rw [h2, State.modCtx_ctx, if_pos rfl, hf, hs]
    rfl
  have ht : t = (s3.tearRow c).dispatch := congrArg State.dispatch (if_pos hempty)
  have hsame : s3.weir = s.weir ∧ s3.hbm = s.hbm ∧ s3.recv = s.recv := by
    show s2.weir = _ ∧ s2.hbm = _ ∧ s2.recv = _
    rw [h2]
    exact ⟨rfl, rfl, rfl⟩
  clear_value s3
  obtain ⟨hweir, hhbm, hrecv⟩ := hsame
  rw [ht, State.dispatch_hbm, State.dispatch_recv, State.row_of_rows (congrArg (·.rows) (State.dispatch_weir _)), State.tearRow_row,
    State.tearRow_hbm, State.tearRow_recv, State.row_of_rows (congrArg (·.rows) hweir)]
  exact ⟨rfl, hhbm, hrecv⟩

/-! ### From the record on -/

/-- What the ACCEPTED entry of a record keeps for what its judgement does next. -/
theorem State.accepted_outside (s : State) (r : RecordIn) :
    let a := (s.taken r).accept r.ctx (whoOf r) id
    a.outer = s.outer ∧ (a.ctx r.ctx).regs.seq = (s.ctx r.ctx).regs.seq + 1#32 := by
  dsimp only
  refine ⟨?_, ?_⟩
  · rw [State.accept_rest]
    rfl
  · rw [State.accept_ctx, if_pos rfl, State.taken_ctx, if_pos rfl]
    rfl

/-- An accepted PREEMPT (R207, R336). -/
theorem State.accepted_preempts (s : State) (r : RecordIn) (hnum : s.Numbered) (n : Nat) :
    let t := (((s.taken r).accept r.ctx (whoOf r) id).preempt r.ctx n).dispatch
    (∀ u ∈ (t.ctx r.ctx).steps, u.OutlivesPreempt n ∧ ∃ v ∈ (s.ctx r.ctx).steps, u.still = v.still)
      ∧ (t.ctx r.ctx).state = (s.ctx r.ctx).state ∧ (t.ctx r.ctx).regs.gen = (s.ctx r.ctx).regs.gen
      ∧ (t.ctx r.ctx).job = (s.ctx r.ctx).job ∧ (t.ctx r.ctx).alloc = (s.ctx r.ctx).alloc
      ∧ (∀ d : CtxId, d ≠ r.ctx → (t.ctx d).still = (s.ctx d).still) ∧ t.outer = s.outer := by
  obtain ⟨hself, hgen⟩ := s.accepted_self r
  have hother := fun d => s.accepted_other (r := r) (d := d)
  obtain ⟨houter, -⟩ := s.accepted_outside r
  generalize (s.taken r).accept r.ctx (whoOf r) id = a at *
  have hsteps : (a.ctx r.ctx).steps = (s.ctx r.ctx).steps := congrArg (·.steps) hself
  have hdist : (a.ctx r.ctx).Distinct := by
    unfold Ctx.Distinct
    rw [hsteps]
    exact hnum.distinct r.ctx
  obtain ⟨hface, hothers, hout⟩ := a.preempt_keeps r.ctx n
  exact ⟨hsteps ▸ State.preempt_steps hdist n, (congrArg (·.state) hface).trans (congrArg (·.state) hself),
    (congrArg (·.regs.gen) hface).trans hgen, (congrArg (·.job) hface).trans (congrArg (·.job) hself),
    (congrArg (·.alloc) hface).trans (congrArg (·.alloc) hself), fun d hd => by rw [hothers d hd, hother d hd], hout.trans houter⟩

section
variable (s : State) (r : RecordIn) (ha : (s.ctx r.ctx).state = .active) (hs : (s.ctx r.ctx).steps = [])
  (hm : (s.ctx r.ctx).stream = none) (hr : s.recv.ctx ≠ some r.ctx)
include ha hs hm hr

/-- An accepted TEARDOWN of a context without steps, stream and receive role: the contexts (R337). -/
theorem State.accepted_tears_ctx :
    let t := (((s.taken r).accept r.ctx (whoOf r) id).startTeardown r.ctx .abortedPreempt .none (whoOf r)).dispatch
    (t.ctx r.ctx).still = (Ctx.torn { s.ctx r.ctx with
        regs := (((s.taken r).accept r.ctx (whoOf r) id).ctx r.ctx).regs, rings := (((s.taken r).accept r.ctx (whoOf r) id).ctx r.ctx).rings }
          .abortedPreempt .none (whoOf r) s.clk.now).still
      ∧ ∀ d : CtxId, d ≠ r.ctx → (t.ctx d).still = (s.ctx d).still := by
  obtain ⟨hself, -⟩ := s.accepted_self r
  have hother := fun d => s.accepted_other (r := r) (d := d)
  have hclk : ((s.taken r).accept r.ctx (whoOf r) id).clk = s.clk := congrArg (·.clk) (s.accepted_outside r).1
  have hr' : ((s.taken r).accept r.ctx (whoOf r) id).recv.ctx ≠ some r.ctx := by rwa [State.accepted_recv]
  generalize (s.taken r).accept r.ctx (whoOf r) id = a at *
  have hctx : ∀ d, ((a.startTeardown r.ctx .abortedPreempt .none (whoOf r)).dispatch.ctx d).still = _ := fun d =>
    (State.dispatch_ctx _ d).trans (State.startTeardown_ctx_of_idle (by rw [hself]; exact ha) (by rw [hself]; exact hs)
      (by rw [hself]; exact hm) hr' .abortedPreempt .none (whoOf r) d)
  refine ⟨?_, fun d hd => by rw [hctx, if_neg hd.symm, hother d hd]⟩
  rw [hctx, if_pos rfl, hclk, ← hself]

/-- And the rest of the device: the context's row is dropped in one write (R337). -/
theorem State.accepted_tears_rest :
    let t := (((s.taken r).accept r.ctx (whoOf r) id).startTeardown r.ctx .abortedPreempt .none (whoOf r)).dispatch
    t.row (rowOf r.ctx) = (s.row (rowOf r.ctx)).dropped ∧ t.hbm = s.hbm ∧ t.recv = s.recv := by
  obtain ⟨hself, -⟩ := s.accepted_self r
  have hweir : ((s.taken r).accept r.ctx (whoOf r) id).weir = s.weir := by
    rw [State.accept_rest]
    rfl
  have hhbm : ((s.taken r).accept r.ctx (whoOf r) id).hbm = s.hbm := congrArg (·.hbm) (s.accepted_outside r).1
  have hrecv := s.accepted_recv r
  generalize (s.taken r).accept r.ctx (whoOf r) id = a at *
  obtain ⟨hrow, hhbm', hrecv'⟩ := State.startTeardown_rest_of_idle (by rw [hself]; exact ha) (by rw [hself]; exact hs)
    (by rw [hself]; exact hm) (by rwa [hrecv]) .abortedPreempt .none (whoOf r)
  refine ⟨?_, ?_, ?_⟩
  · rw [State.row_of_rows (congrArg (·.rows) (State.dispatch_weir _)), hrow, State.row_of_rows (congrArg (·.rows) hweir)]
  · rw [State.dispatch_hbm, hhbm', hhbm]
  · rw [State.dispatch_recv, hrecv', hrecv]

end

/-- Settles O9: a named step that could end is gone after its turn, and an idle context's row is written at once. -/
theorem preemptAndTeardown : Obligations.PreemptAndTeardown := by
  intro s r hactive hasm
  refine ⟨fun htakes hpacked hnum => ?preempt, fun htakes hpacked hsteps hstream hrecv => ?teardown⟩
  case preempt =>
    have hrun : exec (.preempt r) s
        = .next (((s.taken r).accept r.ctx (whoOf r) id).preempt r.ctx (field r.payload 0 8)).dispatch := by
      rw [exec_preempt, State.recordIn_judged htakes (by decide) (.inl hactive) (.inl hasm)]
      exact congrArg (fun u : State => Host.Outcome.next u.dispatch) (if_pos hpacked)
    obtain ⟨hsteps, hstate, hgen, hjob, halloc, hothers, hout⟩ := s.accepted_preempts r hnum (field r.payload 0 8)
    exact ⟨_, hrun, fun u hu => (hsteps u hu).1, fun u hu => (hsteps u hu).2, hstate.trans hactive, hgen, hjob, halloc, hothers,
      congrArg (·.hbm) hout, congrArg (·.recv) hout, congrArg (·.intg) hout, congrArg (·.sec) hout⟩
  case teardown =>
    have hrun : exec (.teardown r) s = .next (((s.taken r).accept r.ctx (whoOf r) id).startTeardown r.ctx .abortedPreempt .none
        (whoOf r)).dispatch := by
      rw [exec_teardown, State.recordIn_judged htakes (by decide) (.inl hactive) (.inl hasm)]
      exact congrArg (fun u : State => Host.Outcome.next u.dispatch) (if_pos hpacked)
    obtain ⟨hc, hothers⟩ := s.accepted_tears_ctx r hactive hsteps hstream hrecv
    obtain ⟨hrow, hhbm, hrecvs⟩ := s.accepted_tears_rest r hactive hsteps hstream hrecv
    have hgen := congrArg genNext (s.accepted_self r).2
    have hseq := (s.accepted_outside r).2
    have hnone := (congrArg (·.steps) hc : List.map Step.still _ = List.map Step.still (s.ctx r.ctx).steps)
    rw [hsteps] at hnone
    refine ⟨_, hrun, congrArg (·.state) hc, List.map_eq_nil_iff.1 hnone, congrArg (·.alloc) hc, congrArg (·.walking) hc,
      congrArg (·.pattern) hc, congrArg (·.restore) hc, congrArg (·.load) hc, (congrArg (·.regs.gen) hc).trans hgen,
      (congrArg (·.regs.seq) hc).trans hseq, congrArg (·.tearing) hc, congrArg (·.version) hrow, congrArg (·.priorValid) hrow,
      fun k => ?slots, hothers, hhbm, hrecvs⟩
    case slots =>
      unfold State.slot
      rw [hrow]
      exact RowData.dropped_slots _ k

end Sys2Proof.Machine
end

section
/-! PROOFS. A fold makes a group's copies the base of their pages (R203). -/

namespace Sys2Proof.Machine

/-! ### One list of cells over another -/

theorem readCell_of_absent {cs : List Host.Cell} {x : Nat} (h : ∀ c ∈ cs, c.1 ≠ x) : readCell cs x = 0#8 := by
  induction cs with
  | nil => rfl
  | cons c cs ih =>
    rw [readCell, if_neg (h c (List.mem_cons_self ..))]
    exact ih fun d hd => h d (List.mem_cons_of_mem _ hd)

/-- The upper list is read where it lists a byte. -/
theorem readCell_overlay {cs top : List Host.Cell} (hcs : Cells.wf cs) (htop : Cells.wf top) (x : Nat) :
    readCell (overlay cs top) x = if readCell top x = 0#8 then readCell cs x else readCell top x := by
  induction top generalizing cs with
  | nil => rfl
  | cons c top ih =>
    obtain ⟨a, v⟩ := c
    obtain ⟨hrise, hordered⟩ := List.pairwise_cons.1 htop.1
    have hv : v ≠ 0#8 := htop.2 _ (List.mem_cons_self ..)
    have hrest : Cells.wf top := ⟨hordered, fun d hd => htop.2 d (List.mem_cons_of_mem _ hd)⟩
    have hover : overlay cs ((a, v) :: top) = overlay (writeCell cs a v) top := rfl
    rw [hover, ih (Cells.wf_writeCell hcs a v) hrest, readCell_writeCell cs hcs, readCell]
    by_cases hx : a = x
    · subst hx
      have habsent : readCell top a = 0#8 := readCell_of_absent fun d hd => Nat.ne_of_gt (hrise d hd)
      rw [if_pos habsent, if_pos rfl, if_pos rfl, if_neg hv]
    · rw [if_neg hx, if_neg hx]

/-! ### Pages that fold -/

/-- A copy's data is canonical and lies in its page. -/
def PageCopy.wf (p : PageCopy) : Prop := Cells.wf p.data ∧ ∀ x ∈ p.data, x.1 / Config.pageBytes = p.page

theorem Mem.foldPage_base_inside {m : Mem} (hm : Memory.wf m) {p : PageCopy} (hp : p.wf) {a : Nat} (ha : a / Config.pageBytes = p.page) :
    (m.foldPage p).base a = readCell p.data a := by
  have hrange : p.page * Config.pageBytes ≤ a ∧ a < p.page * Config.pageBytes + Config.pageBytes := by
    unfold Config.pageBytes at ha ⊢
    omega
  obtain ⟨hdefined, hzero⟩ := Mem.clear_zeroAt (m := m) (.inl hrange)
  have hfind : (m.foldPage p).undef.find? (drawCovers a) = none := List.find?_eq_none.2 fun u hu => by
    simpa [drawCovers] using hdefined u hu
  have hcells : readCell (m.foldPage p).cells a = _ := readCell_overlay (Mem.wf_clear hm _ _) hp.1 a
  rw [Mem.base_eq, hfind]
  refine hcells.trans ?_
  split
  case isTrue h => rw [hzero, h]
  case isFalse => rfl

theorem Mem.foldPage_base_outside {m : Mem} (hm : Memory.wf m) {p : PageCopy} (hp : p.wf) {a : Nat} (ha : a / Config.pageBytes ≠ p.page) :
    (m.foldPage p).base a = m.base a := by
  have hrange : a < p.page * Config.pageBytes ∨ p.page * Config.pageBytes + Config.pageBytes ≤ a := by
    unfold Config.pageBytes at ha ⊢
    omega
  have habsent : readCell p.data a = 0#8 := readCell_of_absent fun c hc e => ha (e ▸ hp.2 c hc)
  have hcells : readCell (m.foldPage p).cells a = _ := readCell_overlay (Mem.wf_clear hm _ _) hp.1 a
  rw [if_pos habsent] at hcells
  rw [← Mem.clear_base_outside m hrange, Mem.base_eq, Mem.base_eq, hcells]
  rfl

theorem Mem.foldPages_base_outside {ps : List PageCopy} {m : Mem} (hm : Memory.wf m) (hps : ∀ p ∈ ps, p.wf) {a : Nat}
    (ha : ∀ p ∈ ps, a / Config.pageBytes ≠ p.page) : (ps.foldl Mem.foldPage m).base a = m.base a := by
  induction ps generalizing m with
  | nil => rfl
  | cons p ps ih =>
    rw [List.foldl_cons, ih (Mem.wf_foldPage hm p) (fun q hq => hps q (List.mem_cons_of_mem _ hq))
      fun q hq => ha q (List.mem_cons_of_mem _ hq)]
    exact Mem.foldPage_base_outside hm (hps p (List.mem_cons_self ..)) (ha p (List.mem_cons_self ..))

/-- Of copies of different pages each is then the base of its own. -/
theorem Mem.foldPages_base_inside {ps : List PageCopy} {m : Mem} (hm : Memory.wf m) (hps : ∀ p ∈ ps, p.wf) (hd : (ps.map (·.page)).Nodup)
    {p : PageCopy} (hp : p ∈ ps) {a : Nat} (ha : a / Config.pageBytes = p.page) : (ps.foldl Mem.foldPage m).base a = readCell p.data a := by
  induction ps generalizing m with
  | nil => exact absurd hp List.not_mem_nil
  | cons q ps ih =>
    obtain ⟨hq, hrest⟩ := List.forall_mem_cons.1 hps
    obtain ⟨hnew, hd⟩ := List.nodup_cons.1 hd
    obtain rfl | hp := List.mem_cons.1 hp
    · have hothers : ∀ u ∈ ps, a / Config.pageBytes ≠ u.page := fun u hu e => hnew (List.mem_map.2 ⟨u, hu, e.symm.trans ha⟩)
      exact (Mem.foldPages_base_outside (Mem.wf_foldPage hm p) hrest hothers).trans (Mem.foldPage_base_inside hm hq ha)
    · exact ih (Mem.wf_foldPage hm q) hrest hd hp

/-! ### The end of a walk -/

theorem State.endWalk_group? (s : State) (r : Fin 17) (k : Fin 8) : (s.endWalk r k).group? r k = none :=
  List.find?_eq_none.2 fun g hg => by
    have hout := (List.mem_filter.1 hg).2
    simpa [imp_iff_not_or] using hout

theorem State.endWalk_mem_of_folding {s : State} {r : Fin 17} {k : Fin 8} {g : Group} (hs : s.slot r k = .folding)
    (hg : s.group? r k = some g) : (s.endWalk r k).mem = g.copies.foldl Mem.foldPage s.mem := by
  simp only [State.endWalk, hg, if_pos hs]
  rfl

theorem State.endWalk_mem_of_aborting {s : State} {r : Fin 17} {k : Fin 8} (hs : s.slot r k = .aborting) : (s.endWalk r k).mem = s.mem := by
  unfold State.endWalk
  rw [hs]
  cases s.group? r k <;> rfl

theorem exec_walkComplete (row : Fin 17) (k : Fin 8) (s : State) : exec (.walkComplete row k) s = execWalkComplete row k s := rfl

/-- Outside the contexts a walk that completes is its end in Weir. -/
theorem execWalkComplete_of_walk {s : State} {row : Fin 17} {k : Fin 8} (hp : s.powered = true)
    (hw : s.slot row k = .folding ∨ s.slot row k = .aborting) :
    ∃ ctxs, execWalkComplete row k s = .next { s.endWalk row k with ctxs := ctxs } := by
  unfold execWalkComplete
  rw [State.whenPowered_of_on hp, if_pos hw]
  extract_lets s1
  split
  · exact ⟨_, rfl⟩
  · exact ⟨s1.ctxs, rfl⟩

end Sys2Proof.Machine
end

section
/-! PROOFS. A command's first write to a page: the shadow that its group takes, or the end of its step; walks that end (R194, R200, R203). -/

namespace Sys2Proof.Machine

theorem exec_weirPageWrite (r : CmdRef) (page : Nat) (s : State) : exec (.weirPageWrite r page) s = execWeirPageWrite r page s := rfl

/-! ### Groups that change in place -/

theorem State.modGroup_group? (s : State) (r q : Fin 17) (k j : Fin 8) {f : Group → Group}
    (hf : ∀ g, (f g).row = g.row ∧ (f g).slot = g.slot) :
    (s.modGroup r k f).group? q j = (s.group? q j).map fun g => if g.row == r && g.slot == k then f g else g := by
  refine List.find?_map.trans (congrArg (Option.map _) (congrArg (fun p => s.weir.groups.find? p) (funext fun g => ?_)))
  show ((if g.row == r && g.slot == k then f g else g).row == q && (if g.row == r && g.slot == k then f g else g).slot == j) = _
  split
  · rw [(hf g).1, (hf g).2]
  · rfl

/-- A group that takes further copies holds their pages. -/
theorem State.modGroup_holds (s : State) {r : Fin 17} {k : Fin 8} (h : (s.group? r k).isSome = true) {fresh : List PageCopy} {page : Nat}
    (hp : ∃ p ∈ fresh, p.page = page) :
    ((s.modGroup r k fun g => { g with copies := g.copies ++ fresh }).group? r k).any (·.holds page) = true := by
  obtain ⟨g, hg⟩ := Option.isSome_iff_exists.1 h
  obtain ⟨p, hp, hpage⟩ := hp
  have hplace := List.find?_some hg
  have hholds : Group.holds { g with copies := g.copies ++ fresh } page = true :=
    List.any_eq_true.2 ⟨p, List.mem_append_right _ hp, beq_iff_eq.2 hpage⟩
  rw [State.modGroup_group? s r r k k (f := fun g => { g with copies := g.copies ++ fresh }) fun _ => ⟨rfl, rfl⟩, hg, Option.map_some,
    if_pos hplace]
  exact hholds

/-- The group of a slot stays in its slot while a page folds inline. -/
theorem State.inlineFold_group? (s : State) (r q : Fin 17) (k : Fin 8) (page : Nat) :
    ((s.inlineFold r page).group? q k).isSome = (s.group? q k).isSome := by
  unfold State.inlineFold
  split
  case h_2 => rfl
  split
  case h_2 => rfl
  split
  case isFalse => rfl
  extract_lets whole moved kept
  have hmod := (s.foldPages moved).modGroup_group? r q ‹_› k (f := fun g => { g with copies := kept }) fun _ => ⟨rfl, rfl⟩
  rw [hmod, Option.isSome_map]
  rfl

theorem mem_framePages (page : Nat) : page ∈ framePages page :=
  List.mem_map.2 ⟨page % 15, List.mem_range.2 (Nat.mod_lt _ (by decide)), by omega⟩

/-! ### The shadow of a page -/

section
variable {s : State} {c : CtxId} {k : Fin 8}

theorem State.shadowFor_of_held {g : Group} {page : Nat} (hg : s.group? (rowOf c) k = some g) (ho : s.slot (rowOf c) k = .open)
    (hh : g.holds page = true) (exts : List (Nat × Nat)) : s.shadowFor c k exts page = (s, none) := by
  simp [State.shadowFor, hg, ho, hh]

/-- A write that may not be made changes no more than the count of conflicts. -/
theorem State.shadowFor_of_refused {exts : List (Nat × Nat)} {page : Nat} (h : (s.shadowFor c k exts page).2.isSome = true) :
    ∃ n, (s.shadowFor c k exts page).1 = { s with weir := { s.weir with conflicts := n } } := by
  revert h
  unfold State.shadowFor
  extract_lets r
  split
  · exact fun _ => ⟨s.weir.conflicts, rfl⟩
  split
  · exact fun _ => ⟨s.weir.conflicts, rfl⟩
  split
  · exact fun _ => ⟨s.weir.conflicts, rfl⟩
  split
  · exact fun _ => ⟨_, rfl⟩
  extract_lets
  split
  · exact fun _ => ⟨_, rfl⟩
  · exact fun h => absurd h Bool.false_ne_true

/-- A write that may be made finds the page in its group. -/
theorem State.shadowFor_holds {exts : List (Nat × Nat)} {page : Nat} (h : (s.shadowFor c k exts page).2 = none) :
    ((s.shadowFor c k exts page).1.group? (rowOf c) k).any (·.holds page) = true := by
  revert h
  unfold State.shadowFor
  extract_lets r
  split
  · exact fun h => absurd h (Option.some_ne_none _)
  rename_i g hg
  split
  · exact fun h => absurd h (Option.some_ne_none _)
  split
  · rename_i hh
    intro _
    rw [hg]
    exact hh
  split
  · exact fun h => absurd h (Option.some_ne_none _)
  extract_lets frame s1 fresh g'
  split
  · exact fun h => absurd h (Option.some_ne_none _)
  intro _
  have hsome : (s1.group? r k).isSome = true := by
    rw [← show (s.group? r k).isSome = true by rw [hg]; rfl]
    unfold s1
    split
    · exact State.keeps_foldl (fun u : State => (u.group? r k).isSome) _ (fun u p => u.inlineFold_group? r r k p) _ _
    · exact s.inlineFold_group? r r k page
  have hfresh : ∃ p ∈ fresh, p.page = page := by
    unfold fresh
    split
    · exact ⟨_, List.mem_map.2 ⟨page, mem_framePages page, rfl⟩, rfl⟩
    · exact ⟨_, List.mem_singleton.2 rfl, rfl⟩
  exact s1.modGroup_holds hsome hfresh

/-- A shadow is taken in Weir and in memory. -/
theorem State.shadowFor_keeps (s : State) (c : CtxId) (k : Fin 8) (exts : List (Nat × Nat)) (page : Nat) :
    (s.shadowFor c k exts page).1.ctxs = s.ctxs ∧ ∀ q, (s.shadowFor c k exts page).1.row q = s.row q :=
  have hdry := s.shadowFor_dry c k exts page
  ⟨congrArg (·.ctxs) hdry, State.row_of_rows (congrArg (·.weir.rows) hdry)⟩

end

/-! ### The write of a command -/

/-- A running command's write to a page of committed state asks for the page's shadow (R194). -/
theorem execWeirPageWrite_of_write {s : State} {r : CmdRef} {t : Step} {k : Cmd} {g : Fin 8} {f : CmdFacts} {page : Nat} (hu : s.up = true)
    (ht : s.step? r = some t) (hk : s.cmd? r = some k) (hslot : t.slot = some g)
    (hf : s.readFacts r.ctx (s.stepView r.ctx t) t.hdr.commitDl k.entry = some f) (hrun : k.state = .running)
    (hhere : (f.writes.any fun e => decide (e.1 < (page + 1) * 4096 ∧ page * 4096 < e.1 + e.2)) = true)
    (hkind : kindAt (s.ctx r.ctx).alloc (page * 4096) = some .committed) :
    execWeirPageWrite r page s = .next (match (s.shadowFor r.ctx g f.writes page).2 with
      | some reason => (s.shadowFor r.ctx g f.writes page).1.faultCmd r reason
      | none => (s.shadowFor r.ctx g f.writes page).1) := by
  simp only [execWeirPageWrite, State.whenUp_of_up hu, ht, hk, hslot, hf]
  exact congrArg Host.Outcome.next (if_pos ⟨hrun, hhere, hkind⟩)

/-- The count of conflicts is no part of how a step ends. -/
theorem State.EndsStep.of_conflicts {s u : State} {n : Reg} {c : CtxId} {uid : Nat} {code : Code}
    (h : State.EndsStep { s with weir := { s.weir with conflicts := n } } u c uid code) : s.EndsStep u c uid code :=
  ⟨h.gone, h.kept, h.others, h.told, h.same, h.version, h.rest⟩

/-- Settles O48: the outcomes of `State.shadowFor` for the write, and for the walk the end of its slot's group in Weir and, where it folds, in
the base. -/
theorem pagesShadowAndFold : Obligations.PagesShadowAndFold := by
  unfold Obligations.PagesShadowAndFold
  simp only [exec_weirPageWrite, exec_walkComplete]
  refine ⟨fun s r t k g f page hu ht hk hslot hf hrun hhere hkind => ?_,
    fun s row k hp => ⟨fun hs => ?aborting, fun g hs hg hm hcopies hd => ?folding⟩⟩
  · have hwrite := execWeirPageWrite_of_write hu ht hk hslot hf hrun hhere hkind
    refine ⟨fun hnone => ?taken, fun hheld hopen => ?held, fun hsome hlive => ?refused⟩
    case taken =>
      obtain ⟨hctxs, hrows⟩ := s.shadowFor_keeps r.ctx g f.writes page
      exact ⟨by rw [hwrite, hnone], State.shadowFor_holds hnone, hctxs, hrows⟩
    case held =>
      obtain ⟨o, ho, hholds⟩ := (Option.any_eq_true _ _).1 hheld
      rw [hwrite, State.shadowFor_of_held ho hopen hholds]
    case refused =>
      obtain ⟨n, hn⟩ := State.shadowFor_of_refused hsome
      obtain ⟨reason, hreason⟩ := Option.isSome_iff_exists.1 hsome
      have ht' : State.step? { s with weir := { s.weir with conflicts := n } } r = some t := ht
      exact ⟨_, by rw [hwrite, hreason, hn], (State.EndsStep.faultCmd ht' hlive reason).of_conflicts⟩
  case aborting =>
    obtain ⟨ctxs, hrun⟩ := execWalkComplete_of_walk hp (.inr hs)
    exact ⟨_, hrun, (s.endWalk_slot row row k k).trans (if_pos ⟨rfl, rfl⟩), State.endWalk_mem_of_aborting hs, s.endWalk_group? row k⟩
  case folding =>
    obtain ⟨ctxs, hrun⟩ := execWalkComplete_of_walk hp (.inl hs)
    have hmem := State.endWalk_mem_of_folding hs hg
    obtain ⟨mem, weir, hrest⟩ := s.endWalk_rest row k
    refine ⟨_, hrun, (s.endWalk_slot row row k k).trans (if_pos ⟨rfl, rfl⟩), s.endWalk_group? row k, fun p hin a ha => ?inside,
      fun a ha => ?outside, fun c => ?versions, congrArg (·.cfg) hrest, congrArg (·.own) hrest, congrArg (·.slu) hrest⟩
    case inside => exact (congrArg (·.base a) hmem).trans (Mem.foldPages_base_inside hm hcopies hd hin ha)
    case outside => exact (congrArg (·.base a) hmem).trans (Mem.foldPages_base_outside hm hcopies ha)
    case versions =>
      show ((s.endWalk row k).row c).version = _
      rw [State.endWalk_row]
      split
      case isTrue hc => rw [← hc]; rfl
      case isFalse => rfl

end Sys2Proof.Machine
end

section
/-! PROOFS. Mirror and restore messages: what a partner gathers, verifies, commits and keeps, what a sender repeats or abandons, and how a
restore is lost (R233 to R237, R376 to R378). -/

namespace Sys2Proof.Machine

theorem exec_mirrorChunk (p : OxtPkt) (s : State) : exec (.mirrorChunk p) s = execMirrorChunk p s := rfl
theorem exec_mirrorDigest (p : OxtPkt) (s : State) : exec (.mirrorDigest p) s = execMirrorDigest p s := rfl
theorem exec_mirrorRepeat (p : OxtPkt) (s : State) : exec (.mirrorRepeat p) s = execMirrorRepeat p s := rfl
theorem exec_mirrorSeal (p : OxtPkt) (s : State) : exec (.mirrorSeal p) s = execMirrorSeal p s := rfl
theorem exec_mirrorClean (p : OxtPkt) (s : State) : exec (.mirrorClean p) s = execMirrorClean p s := rfl
theorem exec_mirrorDiscard (p : OxtPkt) (s : State) : exec (.mirrorDiscard p) s = execMirrorDiscard p s := rfl
theorem exec_mirrorRefuse (p : OxtPkt) (s : State) : exec (.mirrorRefuse p) s = execMirrorRefuse p s := rfl
theorem exec_take (p : OxtPkt) (s : State) : exec (.take p) s = execTake p s := rfl
theorem exec_none (p : OxtPkt) (s : State) : exec (.none p) s = execNone p s := rfl
theorem exec_restoreWaitExpiry (c : CtxId) (chunk : Nat) (s : State) :
    exec (.restoreWaitExpiry c chunk) s = execRestoreWaitExpiry c chunk s := rfl
theorem exec_mirrorStreamEnd (c : CtxId) (s : State) : exec (.mirrorStreamEnd c) s = execMirrorStreamEnd c s := rfl
theorem exec_mirrorStreamDeadline (c : CtxId) (s : State) : exec (.mirrorStreamDeadline c) s = execMirrorStreamDeadline c s := rfl

/-! ### Messages of class 0x2 (R280, R281) -/

theorem State.mirrorMsg_of_delivers {s : State} {p : OxtPkt} {c : CtxId} (h : s.Delivers p 0 2 c) {kind : Nat} (hk : p.cmd.toNat = kind)
    (known : State → CtxId → Bool) (act : State → CtxId → State) :
    s.mirrorMsg p kind known act = if known (s.arrived c p) c then act (s.arrived c p) c else (s.arrived c p).dropMessage := by
  rw [State.mirrorMsg, if_pos hk, State.receive_of_delivers h]

section
variable {s t : State} (h : s.OnFlows t)
include h

theorem State.OnFlows.recv : t.recv = s.recv := by rw [h]
theorem State.OnFlows.ctxs : t.ctxs = s.ctxs := by rw [h]
theorem State.OnFlows.receiving (step : BitVec 32) : t.receiving step = s.receiving step := by rw [h]; rfl
theorem State.OnFlows.wantsChunk (c : CtxId) (p : OxtPkt) : t.wantsChunk c p = s.wantsChunk c p := by rw [h]; rfl
theorem State.OnFlows.mirrorsFrom (c : CtxId) (p : OxtPkt) : t.mirrorsFrom c p = s.mirrorsFrom c p := by rw [h]; rfl
theorem State.OnFlows.slot? (j : Nat) : t.recv.slots[j]? = s.recv.slots[j]? := by rw [h]
theorem State.OnFlows.restoreOf (c : CtxId) (p : OxtPkt) : (t.ctx c).restoreOf p = (s.ctx c).restoreOf p := by rw [h]; rfl
theorem State.OnFlows.stream (c : CtxId) : (t.ctx c).stream = (s.ctx c).stream := by rw [h]; rfl

/-- A restore that is lost after flows and outputs have changed. -/
theorem State.OnFlows.losesRestore {u : State} {c : CtxId} {uid : Nat} (e : t.LosesRestore u c uid) : s.LosesRestore u c uid := by
  rw [h] at e
  exact ⟨e.gone, e.told, e.count, e.none, e.others, e.rest⟩

end

theorem State.OnFlows.sendMirror (s : State) (c : CtxId) (peer kind slot : Nat) (step : BitVec 64) (off : Nat) (bs : List Byte) :
    s.OnFlows (s.sendMirror c peer kind slot step off bs) := State.sendData_rest ..

theorem State.OnFlows.sendChunk (s : State) (c : CtxId) (peer i : Nat) (step : BitVec 64) (bs : List Byte) (digest : BitVec 256) :
    s.OnFlows (s.sendChunk c peer i step bs digest) := (State.OnFlows.foldl _ (fun _ _ => .sendMirror ..) _ _).trans (.sendMirror ..)

theorem State.OnFlows.sendSeal (s : State) (c : CtxId) (peer : Nat) (step : BitVec 64) (count : Nat) :
    s.OnFlows (s.sendSeal c peer step count) := .sendMirror ..

theorem State.OnFlows.sendVerdict (s : State) (c : CtxId) (kind : Nat) (step : BitVec 64) : s.OnFlows (s.sendVerdict c kind step) := by
  unfold State.sendVerdict
  split
  · exact .sendMirror ..
  · exact .refl _

theorem State.wantsChunk_of_restore {s : State} {c : CtxId} {p : OxtPkt} {r : Restore} (h : (s.ctx c).restoreOf p = some r) :
    s.wantsChunk c p = true := by simp [State.wantsChunk, h]

theorem State.wantsChunk_of_mirrors {s : State} {c : CtxId} {p : OxtPkt} (h : s.mirrorsFrom c p = true) : s.wantsChunk c p = true := by
  simp [State.wantsChunk, h]

theorem State.wantsChunk_of_neither {s : State} {c : CtxId} {p : OxtPkt} (hr : (s.ctx c).restoreOf p = none)
    (hm : s.mirrorsFrom c p = false) : s.wantsChunk c p = false := by simp [State.wantsChunk, hr, hm]

section
variable {s : State} {p : OxtPkt} {c : CtxId} (h : s.Delivers p 0 2 c)
include h

theorem execMirrorChunk_of_delivers (hk : p.cmd = 0#12) : execMirrorChunk p s =
    .next (if s.wantsChunk c p then (s.arrived c p).takeChunk c p else (s.arrived c p).dropMessage) := by
  rw [execMirrorChunk, State.mirrorMsg_of_delivers h (kind := 0) (congrArg BitVec.toNat hk), (State.OnFlows.arrived s c p).wantsChunk]

theorem execMirrorDigest_of_delivers (hk : p.cmd = 1#12) (hw : s.wantsChunk c p = true) :
    execMirrorDigest p s = .next ((s.arrived c p).takeDigest c p) := by
  rw [execMirrorDigest, State.mirrorMsg_of_delivers h (kind := 1) (congrArg BitVec.toNat hk),
    if_pos (((State.OnFlows.arrived s c p).wantsChunk c p).trans hw)]

theorem execMirrorSeal_of_delivers (hk : p.cmd = 3#12) (hw : s.wantsChunk c p = true) :
    execMirrorSeal p s = .next ((s.arrived c p).takeSeal c p) := by
  rw [execMirrorSeal, State.mirrorMsg_of_delivers h (kind := 3) (congrArg BitVec.toNat hk),
    if_pos (((State.OnFlows.arrived s c p).wantsChunk c p).trans hw)]

end

/-! ### Receive slots (R233, R236) -/

theorem State.modSlot_of_slot {s : State} {j : Nat} {k : RecvSlot} (hk : s.recv.slots[j]? = some k) (f : RecvSlot → RecvSlot) :
    s.modSlot j f = { s with recv := { s.recv with slots := s.recv.slots.set j (f k) } } := by
  simp [State.modSlot, List.modify_eq_set_getElem?, hk]

theorem State.slot_of_set {s : State} {j : Nat} {k : RecvSlot} (hk : s.recv.slots[j]? = some k) (q : RecvSlot) :
    (s.recv.slots.set j q)[j]? = some q := by
  obtain ⟨hlt, -⟩ := List.getElem?_eq_some_iff.1 hk
  exact List.getElem?_set_self hlt

/-- The slot that receives a checkpoint is in the state RECEIVING. -/
theorem State.receiving_state {s : State} {step : BitVec 32} {j : Nat} {k : RecvSlot} (hj : s.receiving step = some j)
    (hk : s.recv.slots[j]? = some k) : k.state = .receiving := by
  obtain ⟨hlt, hp, -⟩ := List.findIdx?_eq_some_iff_getElem.1 hj
  obtain ⟨-, rfl⟩ := List.getElem?_eq_some_iff.1 hk
  simp only [Bool.and_eq_true, beq_iff_eq] at hp
  exact hp.1

/-- Every chunk of a receive slot is verified and SEAL has come (R233). -/
def RecvSlot.whole (k : RecvSlot) : Bool := (k.sealCount.map (allVerified k.chunks)).getD false

/-- A receiving slot when its group has been asked to commit: PENDING once it is whole. -/
def RecvSlot.committed (k : RecvSlot) : RecvSlot :=
  { k with state := if k.whole then .pending else .receiving, group := if k.whole then none else k.group }

theorem RecvSlot.committed_of_partial {k : RecvSlot} (hr : k.state = .receiving) (h : k.whole = false) : k.committed = k := by
  simp only [RecvSlot.committed, h, ← hr, Bool.false_eq_true, if_false]

theorem State.commitReceive_of_partial {s : State} {j : Nat} {k : RecvSlot} (hk : s.recv.slots[j]? = some k) (h : k.whole = false) :
    s.commitReceive j = s := by
  unfold State.commitReceive
  rw [hk]
  dsimp only
  cases hseal : k.sealCount with
  | none => rfl
  | some n =>
    have hall : allVerified k.chunks n = false := by simpa [RecvSlot.whole, hseal] using h
    simp only [hall, Bool.and_false, Bool.false_eq_true, if_false]

theorem State.commitReceive_of_whole {s : State} {j : Nat} {k : RecvSlot} (hk : s.recv.slots[j]? = some k) (hr : k.state = .receiving)
    (h : k.whole = true) : ∃ weir, s.commitReceive j =
      State.modSlot { s with weir := weir } j fun k => { k with state := .pending, group := none } := by
  unfold State.commitReceive
  rw [hk]
  dsimp only
  cases hseal : k.sealCount with
  | none => simp [RecvSlot.whole, hseal] at h
  | some n =>
    have hall : allVerified k.chunks n = true := by simpa [RecvSlot.whole, hseal] using h
    simp only [hr, hall, beq_self_eq_true, Bool.and_self, if_true]
    split
    · rw [State.commitGroup_rest]
      exact ⟨_, rfl⟩
    · exact ⟨s.weir, rfl⟩

/-- The commit of a receive group changes its slot, and Weir besides. -/
theorem State.commitReceive_of_slot {s : State} {j : Nat} {k : RecvSlot} (hk : s.recv.slots[j]? = some k) (hr : k.state = .receiving) :
    ∃ weir, s.commitReceive j = { s with weir := weir, recv := { s.recv with slots := s.recv.slots.set j k.committed } } := by
  cases hw : k.whole with
  | false =>
    have hself : s.recv.slots.set j k = s.recv.slots := by
      obtain ⟨hlt, rfl⟩ := List.getElem?_eq_some_iff.1 hk
      exact List.set_getElem_self hlt
    exact ⟨s.weir, by rw [State.commitReceive_of_partial hk hw, RecvSlot.committed_of_partial hr hw, hself]⟩
  | true =>
    obtain ⟨weir, hcommit⟩ := State.commitReceive_of_whole hk hr hw
    refine ⟨weir, hcommit.trans ((State.modSlot_of_slot (s := { s with weir := weir }) hk _).trans ?_)⟩
    simp only [RecvSlot.committed, hw, if_true]

theorem State.modSlot_commitReceive {s : State} {j : Nat} {k : RecvSlot} (hk : s.recv.slots[j]? = some k) (f : RecvSlot → RecvSlot)
    (hr : (f k).state = .receiving) : ∃ weir, (s.modSlot j f).commitReceive j =
      { s with weir := weir, recv := { s.recv with slots := s.recv.slots.set j (f k).committed } } := by
  rw [State.modSlot_of_slot hk]
  obtain ⟨weir, hcommit⟩ := State.commitReceive_of_slot (s := { s with recv := { s.recv with slots := s.recv.slots.set j (f k) } })
    (State.slot_of_set hk (f k)) hr
  exact ⟨weir, by simpa only [List.set_set] using hcommit⟩

/-- The abort of a receive group frees its slot and changes Weir besides, but not the count of misses. -/
theorem State.abortReceive_frees (s : State) (j : Nat) :
    ∃ weir, weir.mirMiss = s.weir.mirMiss
      ∧ s.abortReceive j = { s with weir := weir, recv := { s.recv with slots := s.recv.slots.set j RecvSlot.empty } } := by
  unfold State.abortReceive
  split
  case h_1 hk => exact ⟨s.weir, rfl, by rw [List.set_eq_of_length_le (List.getElem?_eq_none_iff.1 hk)]⟩
  case h_2 k hk =>
    split
    case h_1 g _ => exact ⟨(s.abortGroup 16 g).weir, rfl, State.modSlot_of_slot (s := s.abortGroup 16 g) hk _⟩
    case h_2 => exact ⟨s.weir, rfl, State.modSlot_of_slot hk _⟩

theorem State.modSlot_abortReceive {s : State} {j : Nat} {k : RecvSlot} (hk : s.recv.slots[j]? = some k) (f : RecvSlot → RecvSlot) :
    ∃ weir, weir.mirMiss = s.weir.mirMiss ∧ (s.modSlot j f).abortReceive j =
      { s with weir := weir, recv := { s.recv with slots := s.recv.slots.set j RecvSlot.empty } } := by
  rw [State.modSlot_of_slot hk]
  obtain ⟨weir, hmiss, habort⟩ := State.abortReceive_frees { s with recv := { s.recv with slots := s.recv.slots.set j (f k) } } j
  exact ⟨weir, hmiss, by simpa only [List.set_set] using habort⟩

section
variable {s : State} {c : CtxId} {p : OxtPkt} {j : Nat} (hr : (s.ctx c).restoreOf p = none) (hj : s.receiving p.step = some j)
include hr hj

theorem State.takeChunk_of_receiving (hi : p.slot.toNat < s.recv.gib * 16) :
    s.takeChunk c p = s.modSlot j fun k => { k with chunks := addPiece k.chunks p.slot.toNat p.offset.toNat p.payload } := by
  simp only [State.takeChunk, hr, hj, if_neg (Nat.not_le.2 hi)]

variable {k : RecvSlot} (hk : s.recv.slots[j]? = some k)
include hk

theorem State.takeSeal_of_receiving :
    ∃ weir, s.takeSeal c p = { s with weir := weir, recv := { s.recv with slots := s.recv.slots.set j (RecvSlot.committed { k with
      step := BitVec.ofNat 64 (field p.payload 0 8), sealCount := some (field p.payload 8 4) }) } } := by
  have hrecv := State.receiving_state hj hk
  simp only [State.takeSeal, hr, hj]
  exact State.modSlot_commitReceive hk _ hrecv

variable {cs : List RecvChunk}

theorem State.takeDigest_of_good (hv : judgeChunk k.chunks p.slot.toNat (digestOf p.payload) = (cs, .good)) :
    ∃ weir, s.takeDigest c p = { s with weir := weir, recv := { s.recv with
      slots := s.recv.slots.set j (RecvSlot.committed { k with chunks := cs }) } } := by
  have hrecv := State.receiving_state hj hk
  simp only [State.takeDigest, hr, hj, hk, Option.map_some, Option.getD_some, hv]
  exact State.modSlot_commitReceive hk _ hrecv

theorem State.takeDigest_of_again (hv : judgeChunk k.chunks p.slot.toNat (digestOf p.payload) = (cs, .again)) :
    s.takeDigest c p = (s.modSlot j fun q => { q with chunks := cs }).sendMirror c p.srcRank.toNat 2 p.slot.toNat
      (p.step.setWidth 64) 0 [] := by
  simp only [State.takeDigest, hr, hj, hk, Option.map_some, Option.getD_some, hv]

theorem State.takeDigest_of_bad (hv : judgeChunk k.chunks p.slot.toNat (digestOf p.payload) = (cs, .bad)) :
    ∃ weir, weir.mirMiss = satInc s.weir.mirMiss
      ∧ s.takeDigest c p = { s with weir := weir, recv := { s.recv with slots := s.recv.slots.set j RecvSlot.empty } } := by
  obtain ⟨weir, hmiss, habort⟩ := State.modSlot_abortReceive hk fun q => { q with chunks := cs }
  simp only [State.takeDigest, hr, hj, hk, Option.map_some, Option.getD_some, hv, habort]
  exact ⟨_, congrArg satInc hmiss, rfl⟩

end

/-! ### What the partner keeps (R234, R237) -/

/-- The newest STEP of a list that holds `n` and nothing newer is `n`. -/
theorem foldl_newer_eq {n : BitVec 64} (l : List (BitVec 64)) (a : BitVec 64) (hl : ∀ x ∈ l, x.toNat ≤ n.toNat) (ha : a.toNat ≤ n.toNat)
    (h : a = n ∨ n ∈ l) : l.foldl (fun a b => if a.toNat < b.toNat then b else a) a = n := by
  induction l generalizing a with
  | nil => simpa using h
  | cons b l ih =>
    obtain ⟨hb, hl⟩ := List.forall_mem_cons.1 hl
    refine ih _ hl (by dsimp only; split <;> assumption) ?_
    obtain rfl | hmem := h
    · exact .inl (if_neg (Nat.not_lt.2 hb))
    · obtain rfl | hmem := List.mem_cons.1 hmem
      · exact .inl (by dsimp only; split; exacts [rfl, BitVec.eq_of_toNat_eq (by omega)])
      · exact .inr hmem

theorem State.newestClean_eq {s : State} {k : RecvSlot} (hk : k ∈ s.recv.slots) (hclean : k.state = .clean)
    (hnewest : ∀ q ∈ s.recv.slots, q.state = .clean → q.step.toNat ≤ k.step.toNat) : s.newestClean = k.step := by
  refine foldl_newer_eq _ _ (fun x hx => ?_) (Nat.zero_le _) (.inr ?_)
  · obtain ⟨q, hq, rfl⟩ := List.mem_map.1 hx
    obtain ⟨hq, hqc⟩ := List.mem_filter.1 hq
    exact hnewest q hq (beq_iff_eq.1 hqc)
  · exact List.mem_map_of_mem (List.mem_filter.2 ⟨hk, beq_iff_eq.2 hclean⟩)

/-- A slot that is not older than the newest CLEAN one is kept. -/
theorem State.mem_freeOlder {s : State} {k : RecvSlot} (hk : k ∈ s.recv.slots) (h : s.newestClean.toNat ≤ k.step.toNat) :
    k ∈ s.freeOlder.recv.slots :=
  List.mem_map.2 ⟨k, hk, by simp [Nat.not_lt.2 h]⟩

/-- A CLEAN slot that is left was there before. -/
theorem State.mem_of_freeOlder {s : State} {q : RecvSlot} (hq : q ∈ s.freeOlder.recv.slots) (hclean : q.state = .clean) :
    q ∈ s.recv.slots := by
  obtain ⟨k, hk, rfl⟩ := List.mem_map.1 hq
  split
  case isTrue hold =>
    rw [if_pos hold] at hclean
    cases hclean
  case isFalse => exact hk

/-- CLEAN marks the PENDING slot of its STEP (R234). -/
def RecvSlot.cleaned (n : BitVec 64) (k : RecvSlot) : RecvSlot :=
  if k.state = .pending ∧ k.step = n then { k with state := .clean } else k
def State.markClean (s : State) (n : BitVec 64) : State :=
  { s with recv := { s.recv with slots := s.recv.slots.map (RecvSlot.cleaned n) } }

theorem RecvSlot.step_of_cleaned {n : BitVec 64} {k : RecvSlot} (h : (k.cleaned n).state = .clean)
    (hk : k.state = .clean → k.step.toNat ≤ n.toNat) : (k.cleaned n).step.toNat ≤ n.toNat := by
  unfold RecvSlot.cleaned at h ⊢
  split
  case isTrue hp => exact hp.2 ▸ Nat.le_refl _
  case isFalse hp =>
    rw [if_neg hp] at h
    exact hk h

/-- The slot that CLEAN marks is the newest CLEAN one and stays so when older slots are freed. -/
theorem State.markClean_freeOlder {s : State} {n : BitVec 64} {k : RecvSlot} (hk : k ∈ s.recv.slots) (hp : k.state = .pending)
    (hn : k.step = n) (hnewest : ∀ q ∈ s.recv.slots, q.state = .clean → q.step.toNat ≤ n.toNat) :
    { k with state := .clean } ∈ (s.markClean n).freeOlder.recv.slots ∧ (s.markClean n).freeOlder.newestClean = n := by
  subst hn
  have hmem : { k with state := .clean } ∈ (s.markClean k.step).recv.slots :=
    List.mem_map.2 ⟨k, hk, if_pos ⟨hp, rfl⟩⟩
  have hle : ∀ q ∈ (s.markClean k.step).recv.slots, q.state = .clean → q.step.toNat ≤ k.step.toNat := fun q hq hclean => by
    obtain ⟨v, hv, rfl⟩ := List.mem_map.1 hq
    exact RecvSlot.step_of_cleaned hclean (hnewest v hv)
  have hnew : (s.markClean k.step).newestClean = k.step := State.newestClean_eq (k := { k with state := .clean }) hmem rfl hle
  have hkept := State.mem_freeOlder hmem (congrArg BitVec.toNat hnew).le
  exact ⟨hkept, State.newestClean_eq (k := { k with state := .clean }) hkept rfl fun q hq hclean =>
    hle q (State.mem_of_freeOlder hq hclean) hclean⟩

/-! ### The sender's stream (R233, R235, R236) -/

/-- A stream has been abandoned: its checkpoint is gone and counted as missed. -/
def State.streamAbandoned (s : State) (c : CtxId) (st : Stream) : State :=
  (s.modCtx c fun x => { x with stream := none, ckpts := x.ckpts.filter fun k => k.step != st.step }).countMiss

theorem State.countMiss_ctx (s : State) (c : CtxId) : s.countMiss.ctx c = s.ctx c := rfl

theorem State.streamAbandoned_ctx (s : State) (c : CtxId) (st : Stream) :
    (s.streamAbandoned c st).ctx c = { s.ctx c with stream := none, ckpts := (s.ctx c).ckpts.filter fun k => k.step != st.step } := by
  rw [State.streamAbandoned, State.countMiss_ctx, State.modCtx_ctx, if_pos rfl]

theorem State.dropStream_untold {s : State} {c : CtxId} {st : Stream} (h : (s.ctx c).stream = some st) :
    s.dropStream c false = s.streamAbandoned c st := by
  simp only [State.dropStream, h, State.streamAbandoned, Bool.false_eq_true, if_false]

theorem State.dropStream_told {s : State} {c : CtxId} {st : Stream} (h : (s.ctx c).stream = some st) :
    (s.streamAbandoned c st).OnFlows (s.dropStream c true) := by
  simp only [State.dropStream, h, if_true]
  exact .sendVerdict ..

/-- A checkpoint has been sealed: its stream is over. -/
def State.streamSealed (s : State) (c : CtxId) (st : Stream) : State :=
  s.modCtx c fun x => { x with stream := none, ckpts := x.ckpts.map fun k => if k.step = st.step then { k with sealed := true } else k }

theorem State.streamSealed_ctx (s : State) (c : CtxId) (st : Stream) :
    (s.streamSealed c st).ctx c = { s.ctx c with
      stream := none, ckpts := (s.ctx c).ckpts.map fun k => if k.step = st.step then { k with sealed := true } else k } :=
  (State.modCtx_ctx ..).trans (if_pos rfl)

section
variable {s : State} {c : CtxId} {st : Stream} {m : MirrorCfg} (hs : (s.ctx c).stream = some st) (hm : (s.ctx c).mirror = some m)
include hs hm

theorem State.sealIfDue_of_waiting (h : st.nextDone = false) : s.sealIfDue c = s := by
  simp only [State.sealIfDue, hs, hm, h, Bool.and_false, Bool.false_eq_true, if_false]

theorem State.sealIfDue_of_due (hsent : st.sentAll = true) (h : st.nextDone = true) :
    (s.streamSealed c st).OnFlows (s.sealIfDue c) := by
  simp only [State.sealIfDue, hs, hm, h, hsent, Bool.and_self, if_true]
  split
  · exact .sendSeal ..
  · exact .refl _

end

/-- A stream whose bytes have all gone, with no page held for it, and the state in which it has ended. -/
def Stream.ended (st : Stream) : Stream := { st with sentAll := true, held := [] }
def State.streamEnded (s : State) (c : CtxId) (st : Stream) : State := s.modCtx c fun x => { x with stream := some st.ended }

theorem State.streamEnded_ctx (s : State) (c : CtxId) (st : Stream) :
    (s.streamEnded c st).ctx c = { s.ctx c with stream := some st.ended } := (State.modCtx_ctx ..).trans (if_pos rfl)

section
variable {s : State} {c : CtxId} {st : Stream} (hu : s.up = true) (hs : (s.ctx c).stream = some st) (hsent : st.sentAll = false)
include hu hs hsent

theorem execMirrorStreamEnd_of_running (hd : s.clk.now ≤ st.deadline) :
    execMirrorStreamEnd c s = .next ((s.streamEnded c st).sealIfDue c) := by
  simp only [execMirrorStreamEnd, State.whenUp_of_up hu, hs, hsent, Nat.not_lt.2 hd, decide_false, Bool.or_self, Bool.false_eq_true,
    if_false]
  rfl

theorem execMirrorStreamDeadline_of_running (hd : st.deadline ≤ s.clk.now) :
    execMirrorStreamDeadline c s = .next (s.dropStream c true) := by
  simp only [execMirrorStreamDeadline, State.whenUp_of_up hu, hs, hsent, Nat.not_lt.2 hd, decide_false, Bool.or_self, Bool.false_eq_true,
    if_false]

end

theorem State.repeatChunk_of_stream {s : State} {c : CtxId} {p : OxtPkt} {st : Stream} {m : MirrorCfg} (hs : (s.ctx c).stream = some st)
    (hm : (s.ctx c).mirror = some m) (hstep : st.step.setWidth 32 = p.step) (hsend : m.send = some p.srcRank.toNat) :
    s.repeatChunk c p = s.sendChunk c p.srcRank.toNat p.slot.toNat st.step (st.chunk (rangesLen m.ranges) p.slot.toNat)
      (sha256 (st.chunk (rangesLen m.ranges) p.slot.toNat)) := by
  simp only [State.repeatChunk, hs, hm, hstep, hsend, and_self, if_true]

/-! ### A restore is lost (R378) -/

theorem Ctx.restore_of_restoreOf {x : Ctx} {p : OxtPkt} {r : Restore} (h : x.restoreOf p = some r) : x.restore = some r := by
  obtain ⟨q, hq, hif⟩ := Option.bind_eq_some_iff.1 h
  split at hif
  · rw [hq, hif]
  · cases hif

/-- The end of a RESTORE step ends the restore; the end of another step leaves it. -/
theorem State.abortOne_restore (s : State) (c : CtxId) (t : Step) (code : Code) (reason : Reason) (index : Nat) (tell : Bool) :
    ((s.abortOne c t code reason index tell).ctx c).restore = if t.kind = .restore then none else (s.ctx c).restore := by
  unfold State.abortOne
  extract_lets r s1 s2 killed s3 s3' s3'' s4 s5 s6 s7 s8
  have h2 : s2.ctxs = s.ctxs := by
    unfold s2 s1
    (repeat' split) <;> rfl
  have h4 : s4.ctxs = s.ctxs := by
    have h3 : s3''.ctxs = s2.ctxs := State.keeps_foldl (·.ctxs) _ (fun _ _ => State.trace_ctxs ..) _ _
    unfold s4
    split
    · exact (congrArg (·.1) (State.sendAborts_ctxs_weir s3'' ..)).trans (h3.trans h2)
    · exact h3.trans h2
  have h8 : s8.ctxs = s5.ctxs := by
    unfold s8 s7
    split <;> simp [s6, s5, State.modClient]
  rw [State.putEntry_ctx, if_pos rfl]
  show (s8.ctx c).restore = _
  rw [State.ctx_of_ctxs h8, State.modCtx_ctx, if_pos rfl, State.ctx_of_ctxs h4]

theorem State.abortFollowers_restore {c : CtxId} (code : Code) (tell : Bool) (ts : List Step) (prev : Bool) {s : State}
    (h : (s.ctx c).restore = none) : ((State.abortFollowers c code tell ts prev s).ctx c).restore = none := by
  induction ts generalizing prev s with
  | nil => exact h
  | cons t ts ih =>
    unfold State.abortFollowers
    split
    · exact ih _ h
    · split
      · exact ih _ (by rw [State.abortOne_restore, h, ite_self])
      · exact ih _ h

theorem State.abortStep_restore {s : State} {c : CtxId} {uid : Nat} {t : Step} (h : (s.ctx c).step? uid = some t)
    (hc : t.state ≠ .committed) (hkind : t.kind = .restore) (code : Code) (reason : Reason) (index : Nat) (tell : Bool) :
    ((s.abortStep c uid code reason index tell).ctx c).restore = none := by
  simp only [State.abortStep, h, if_neg hc]
  exact State.abortFollowers_restore _ _ _ _ (by rw [State.abortOne_restore, if_pos hkind])

/-- A further result entry is the last one then. -/
theorem State.EndsStep.putEntry {s t : State} {c : CtxId} {uid : Nat} {code : Code} (h : s.EndsStep t c uid code) (e : Entry64) :
    s.EndsStep (t.putEntry c e) c uid e.code := by
  have hself : (t.putEntry c e).ctx c = (t.ctx c).entered e := by rw [State.putEntry_ctx, if_pos rfl]
  have hrow : ∀ q, (t.putEntry c e).row q = t.row q := State.row_of_rows (congrArg (·.rows) (t.putEntry_weir c e))
  exact
    { gone := by rw [hself]; exact h.gone
      kept := by rw [hself]; exact h.kept
      others := fun d hd => by rw [State.putEntry_ctx, if_neg (Ne.symm hd)]; exact h.others d hd
      told := by rw [hself]; exact ⟨rfl, h.told.2.trans (Nat.lt_succ_self _)⟩
      same := by rw [hself]; exact h.same
      version := fun q => by rw [hrow]; exact h.version q
      rest := by rw [State.putEntry_rest]; exact h.rest }

/-- The count of lost restores is no part of how a step ends. -/
theorem State.EndsStep.withRcv {s t : State} {c : CtxId} {uid : Nat} {code : Code} (h : s.EndsStep t c uid code) (rcv : Rcv) :
    s.EndsStep { t with rcv := rcv } c uid code := ⟨h.gone, h.kept, h.others, h.told, h.same, h.version, h.rest⟩

theorem State.mirrorLost_of_restore {s : State} {c : CtxId} {r : Restore} {v : Step} (hr : (s.ctx c).restore = some r)
    (hv : (s.ctx c).step? r.uid = some v) (reason : Reason) :
    let u := s.abortStep c r.uid .abortedFault reason r.holder
    ∃ e : Entry64, e.code = .mirrorLost
      ∧ s.mirrorLost c reason = (State.putEntry { u with rcv := { u.rcv with lost := satInc u.rcv.lost } } c e).dispatch := by
  simp only [State.mirrorLost, hr, hv]
  exact ⟨_, rfl, rfl⟩

theorem State.LosesRestore.mirrorLost {s : State} {c : CtxId} {r : Restore} {v : Step} (hr : (s.ctx c).restore = some r)
    (hv : (s.ctx c).step? r.uid = some v) (hc : v.state ≠ .committed) (hkind : v.kind = .restore) (reason : Reason) :
    s.LosesRestore (s.mirrorLost c reason) c r.uid := by
  obtain ⟨e, hcode, hlost⟩ := State.mirrorLost_of_restore hr hv reason
  have hends := State.EndsStep.abortStep hv hc .abortedFault reason r.holder true
  have hnone := State.abortStep_restore hv hc hkind .abortedFault reason r.holder true
  have houter := (State.Ended.abortStep s c r.uid .abortedFault reason r.holder true).outer
  generalize s.abortStep c r.uid .abortedFault reason r.holder true = u at *
  have htold := ((hends.withRcv { u.rcv with lost := satInc u.rcv.lost }).putEntry e).dispatch
  rw [hlost]
  obtain ⟨hcfg, hown, hfuse, hclk, -, hboot, -, hrecv, -⟩ := htold.rest
  exact
    { gone := htold.gone
      told := htold.told.1.trans (congrArg Code.value hcode)
      count := by
        rw [State.dispatch_rcv, State.putEntry_rest]
        exact congrArg (fun o => satInc o.rcv.lost) houter
      none := by
        rw [State.dispatch_ctx_restore, State.putEntry_ctx, if_pos rfl]
        exact hnone
      others := htold.others
      rest := ⟨hcfg, hown, hfuse, hclk, hboot, by
        rw [State.dispatch_hw, State.putEntry_rest]
        exact congrArg (·.hw) houter, hrecv⟩ }

theorem execRestoreWaitExpiry_of_missing {s : State} {c : CtxId} {r : Restore} {chunk : Nat} (hu : s.up = true)
    (hr : (s.ctx c).restore = some r) (hd : r.done = false)
    (hany : (r.chunks.any fun k => k.index == chunk && k.verified && r.sealed.isSome) = false) (hw : r.since + r.wait ≤ s.clk.now)
    (hc : chunk < chunkCount (rangesLen r.ranges)) :
    execRestoreWaitExpiry c chunk s = .next (s.mirrorLost c .peerMissing) := by
  simp only [execRestoreWaitExpiry, State.whenUp_of_up hu, hr, hd, hany, Nat.not_lt.2 hw, Nat.not_le.2 hc, decide_false, Bool.or_self,
    Bool.false_eq_true, if_false]

/-! ### A holder gives its slot (R377) -/

/-- What a holder sends of a slot that a restore takes. -/
theorem State.OnFlows.sendSlot (s : State) (c : CtxId) (peer : Nat) (step : BitVec 64) (ks : List RecvChunk) (n : Nat) :
    s.OnFlows ((ks.foldl (fun u q => u.sendChunk c peer q.index step q.bytes (q.digest.getD 0#256)) s).sendSeal c peer step n) :=
  (State.OnFlows.foldl _ (fun _ _ => .sendChunk ..) _ _).trans (.sendSeal ..)

section
variable {s : State} {p : OxtPkt} {c : CtxId} (h : s.Delivers p 0 2 c) (hk : p.cmd = 7#12)
include h hk

theorem execTake_of_absent (hnone : ∀ k ∈ s.recv.slots,
    ¬ (k.state = .clean ∧ k.step = BitVec.ofNat 64 (field p.payload 0 8) ∧ s.recv.rank = field p.payload 8 2)) :
    execTake p s = .next ((s.arrived c p).sendMirror c p.srcRank.toNat 8 0 (BitVec.ofNat 64 (field p.payload 0 8)) 0 []) := by
  have hfind : s.recv.slots.findIdx? (fun k => k.state == .clean && k.step == BitVec.ofNat 64 (field p.payload 0 8)
      && s.recv.rank == field p.payload 8 2) = none :=
    List.findIdx?_eq_none_iff.2 fun k hmem => by simpa [and_assoc] using hnone k hmem
  rw [execTake, State.mirrorMsg_of_delivers h (kind := 7) (congrArg BitVec.toNat hk), if_pos rfl]
  simp only [(State.OnFlows.arrived s c p).recv, hfind]

theorem execTake_of_held {j : Nat} (hj : s.recv.slots.findIdx? (fun k => k.state == .clean
      && k.step == BitVec.ofNat 64 (field p.payload 0 8) && s.recv.rank == field p.payload 8 2) = some j) :
    ∃ t, execTake p s = .next t
      ∧ ((s.arrived c p).modSlot j fun k => { k with taken := some (c, p.srcRank.toNat) }).OnFlows t := by
  rw [execTake, State.mirrorMsg_of_delivers h (kind := 7) (congrArg BitVec.toNat hk), if_pos rfl]
  simp only [(State.OnFlows.arrived s c p).recv, hj]
  exact ⟨_, rfl, .sendSlot ..⟩

end

/-- Settles O53: each message in order acts on the restore, the receive slot or the stream that it names; the clock ends restores and
streams. -/
theorem mirrorMessagesAct : Obligations.MirrorMessagesAct := by
  simp only [Obligations.MirrorMessagesAct, exec_mirrorChunk, exec_mirrorDigest, exec_mirrorRepeat, exec_mirrorSeal, exec_mirrorClean,
    exec_mirrorDiscard, exec_mirrorRefuse, exec_take, exec_none, exec_restoreWaitExpiry, exec_mirrorStreamEnd, exec_mirrorStreamDeadline]
  refine ⟨fun s p c h => ?messages, fun s c r v chunk hu hr hv hc hkind hd hany hw hchunk => ?expiry,
    fun s c st m hu hs hm hsent => ⟨fun hd hnext => ?ends, fun hd hnext => ?seals, fun hd => ?deadline⟩⟩
  case messages =>
    have hflows := State.OnFlows.arrived s c p
    refine ⟨fun hk => ⟨fun r hr => ?chunkRestore, fun j hr hm hj hi => ?chunkSlot, fun hr hm => ?chunkLost⟩,
      fun j k hk hr hm hj hslot => ⟨fun hv => ?good, fun hv => ?again, fun hv => ?bad⟩,
      fun st m hk hs hm hstep hsend => ?repeats, fun hk => ⟨fun r hr => ?sealRestore, fun j k hr hm hj hslot => ?sealSlot⟩,
      fun k hmem hk hm hp hn hnewest => ?clean, fun j hk hm hj => ?discard, fun st hk hs hstep => ?refuse,
      fun hk => ⟨fun hnone => ?takeNone, fun j hj => ?takeSlot⟩, fun r v hk hr hv hc hkind => ?lost⟩
    case chunkRestore =>
      rw [execMirrorChunk_of_delivers h hk, if_pos (State.wantsChunk_of_restore hr), State.takeChunk, hflows.ctx, hr]
    case chunkSlot =>
      rw [execMirrorChunk_of_delivers h hk, if_pos (State.wantsChunk_of_mirrors hm), State.takeChunk_of_receiving
        ((hflows.restoreOf c p).trans hr) ((hflows.receiving _).trans hj) (by rw [hflows.recv]; exact hi)]
    case chunkLost =>
      rw [execMirrorChunk_of_delivers h hk, State.wantsChunk_of_neither hr hm]
      rfl
    case good =>
      have hslot' := (hflows.slot? j).trans hslot
      obtain ⟨weir, ht⟩ := State.takeDigest_of_good ((hflows.restoreOf c p).trans hr) ((hflows.receiving _).trans hj)
        hslot' (Prod.ext rfl hv)
      refine ⟨_, (execMirrorDigest_of_delivers h hk (State.wantsChunk_of_mirrors hm)).trans (congrArg _ ht), ?_, hflows.ctxs, hflows.mem,
        congrArg (·.cfg) hflows, congrArg (·.own) hflows⟩
      rw [State.slot_of_set hslot']
      rfl
    case again =>
      rw [execMirrorDigest_of_delivers h hk (State.wantsChunk_of_mirrors hm), State.takeDigest_of_again ((hflows.restoreOf c p).trans hr)
        ((hflows.receiving _).trans hj) ((hflows.slot? j).trans hslot) (Prod.ext rfl hv)]
    case bad =>
      have hslot' := (hflows.slot? j).trans hslot
      obtain ⟨weir, hmiss, ht⟩ := State.takeDigest_of_bad ((hflows.restoreOf c p).trans hr) ((hflows.receiving _).trans hj)
        hslot' (Prod.ext rfl hv)
      exact ⟨_, (execMirrorDigest_of_delivers h hk (State.wantsChunk_of_mirrors hm)).trans (congrArg _ ht), State.slot_of_set hslot' _,
        hmiss.trans (congrArg (fun w => satInc w.mirMiss) hflows.weir), hflows.ctxs⟩
    case repeats =>
      rw [execMirrorRepeat, State.mirrorMsg_of_delivers h (kind := 2) (congrArg BitVec.toNat hk),
        if_pos (by simp [hflows.stream, hs, hstep]),
        State.repeatChunk_of_stream ((hflows.stream c).trans hs) (by rw [hflows.ctx, hm]) hstep hsend]
    case sealRestore =>
      rw [execMirrorSeal_of_delivers h hk (State.wantsChunk_of_restore hr), State.takeSeal, hflows.ctx, hr]
    case sealSlot =>
      have hslot' := (hflows.slot? j).trans hslot
      obtain ⟨weir, ht⟩ := State.takeSeal_of_receiving ((hflows.restoreOf c p).trans hr) ((hflows.receiving _).trans hj) hslot'
      refine ⟨_, (execMirrorSeal_of_delivers h hk (State.wantsChunk_of_mirrors hm)).trans (congrArg _ ht), hflows.ctxs, ?_⟩
      rw [State.slot_of_set hslot']
      rfl
    case clean =>
      obtain ⟨hkept, hnew⟩ := State.markClean_freeOlder (s := s.arrived c p) (by rw [hflows.recv]; exact hmem) hp hn
        (by rw [hflows.recv]; exact hnewest)
      refine ⟨_, ?_, hkept, hnew, hflows.ctxs⟩
      rw [execMirrorClean, State.mirrorMsg_of_delivers h (kind := 4) (congrArg BitVec.toNat hk),
        if_pos ((hflows.mirrorsFrom c p).trans hm)]
      rfl
    case discard =>
      obtain ⟨weir, -, habort⟩ := (s.arrived c p).abortReceive_frees j
      refine ⟨(s.arrived c p).abortReceive j, ?_, by rw [habort, hflows.recv], by rw [habort, hflows.ctxs]⟩
      rw [execMirrorDiscard, State.mirrorMsg_of_delivers h (kind := 5) (congrArg BitVec.toNat hk),
        if_pos ((hflows.mirrorsFrom c p).trans hm)]
      simp only [hflows.recv, hj]
    case refuse =>
      rw [execMirrorRefuse, State.mirrorMsg_of_delivers h (kind := 6) (congrArg BitVec.toNat hk),
        if_pos (by simp [hflows.stream, hs, hstep]),
        State.dropStream_untold ((hflows.stream c).trans hs)]
      rfl
    case takeNone => exact execTake_of_absent h hk hnone
    case takeSlot =>
      obtain ⟨t, hrun, hsent⟩ := execTake_of_held h hk hj
      refine ⟨t, hrun, ?_, hsent.ctxs.trans hflows.ctxs, hsent.mem.trans hflows.mem, hsent.weir.trans hflows.weir⟩
      rw [hsent.recv, ← hflows.recv]
      rfl
    case lost =>
      have hrestore := (congrArg (·.restore) (hflows.ctx c)).trans (Ctx.restore_of_restoreOf hr)
      refine ⟨_, ?_, hflows.losesRestore (.mirrorLost hrestore (by rw [hflows.ctx, hv]) hc hkind .peerMissing)⟩
      rw [execNone, State.mirrorMsg_of_delivers h (kind := 8) (congrArg BitVec.toNat hk), if_pos (by rw [hflows.restoreOf, hr]; rfl)]
  case expiry =>
    exact ⟨_, execRestoreWaitExpiry_of_missing hu hr hd hany hw hchunk, .mirrorLost hr hv hc hkind .peerMissing⟩
  case ends =>
    have hself := State.streamEnded_ctx s c st
    rw [execMirrorStreamEnd_of_running hu hs hsent hd, State.sealIfDue_of_waiting (st := st.ended) (congrArg (·.stream) hself)
      ((congrArg (·.mirror) hself).trans hm) hnext]
    rfl
  case seals =>
    have hself := State.streamEnded_ctx s c st
    have hsealed := State.sealIfDue_of_due (st := st.ended) (congrArg (·.stream) hself) ((congrArg (·.mirror) hself).trans hm) rfl hnext
    refine ⟨_, execMirrorStreamEnd_of_running hu hs hsent hd, ?_, ?_, hsealed.weir, hsealed.mem⟩
    · rw [hsealed.ctx, State.streamSealed_ctx]
    · rw [hsealed.ctx, State.streamSealed_ctx, hself]
      rfl
  case deadline =>
    have htold := State.dropStream_told hs
    refine ⟨_, execMirrorStreamDeadline_of_running hu hs hsent hd, s.dropStream_ends c true, ?_, congrArg (·.mirMiss) htold.weir,
      htold.mem, htold.recv⟩
    rw [htold.ctx, State.streamAbandoned_ctx]

end Sys2Proof.Machine
end

section
/-! PROOFS. Records of an active job context that replace what it knows of its job (R244, R274, R284, R320). -/

namespace Sys2Proof.Machine

theorem exec_groupTable (r : RecordIn) (s : State) : exec (.groupTable r) s = .next (s.recordIn 0x21 r) := rfl
theorem exec_peerAddress (r : RecordIn) (s : State) : exec (.peerAddress r) s = .next (s.recordIn 0x22 r) := rfl
theorem exec_riffleTargets (r : RecordIn) (s : State) : exec (.riffleTargets r) s = .next (s.recordIn 0x23 r) := rfl

/-- Accept a record, and change what its context knows of its job. -/
def State.acceptJob (s : State) (c : CtxId) (w : Who) (f : Job → Job) : State :=
  (s.accept c w id).modCtx c fun x => { x with job := f x.job }

/-- The job of every context stands when a record is taken. -/
theorem State.taken_job (s : State) (r : RecordIn) (d : CtxId) : ((s.taken r).ctx d).job = (s.ctx d).job := by
  rw [State.taken_ctx]
  split
  case isTrue h => rw [← h]
  case isFalse => rfl

/-- A record that is accepted and changes its context's job is answered, and of the context the job alone changes beside the registers
of R320 and the result ring. -/
theorem State.acceptJob_answers (s : State) (r : RecordIn) (f : Job → Job) :
    let t := ((s.taken r).acceptJob r.ctx (whoOf r) f).dispatch
    s.Answers t r
      ∧ (t.ctx r.ctx).still = { (s.ctx r.ctx).still with
          regs := (t.ctx r.ctx).regs, rings := (t.ctx r.ctx).rings, job := f (s.ctx r.ctx).job } := by
  refine ⟨.of_modCtx s r id _ (fun _ => ⟨rfl, rfl⟩) fun _ => ⟨rfl, rfl⟩, ?_⟩
  rw [State.dispatch_ctx, State.dispatch_ctx_regs, State.dispatch_ctx_rings, State.acceptJob, State.modCtx_ctx, if_pos rfl,
    (s.accepted_self r).1]
  rfl

/-- A group table with 1 to 64 groups of ascending ranks of the job, the first of them all ranks, replaces the earlier one (R244, R245). -/
theorem State.judgeGroups_of_wellFormed {s : State} {c : CtxId} {bs : List Byte} {g : List (List Nat) × Nat}
    (hg : g = readGroups bs (min (field bs 4 4) 64) 8) (hjob : (s.ctx c).job.tag ≠ 0#32) (hmin : 1 ≤ field bs 4 4)
    (hmax : field bs 4 4 ≤ 64) (hpacked : packed bs g.2 = true)
    (hlists : ∀ l ∈ g.1, l ≠ [] ∧ ascending (s.ctx c).job.count l = true) (hfirst : g.1.head? = some (List.range (s.ctx c).job.count))
    (w : Who) :
    s.judgeGroups c bs w = s.acceptJob c w fun j => { j with groups := some (BitVec.ofNat 32 (field bs 0 4), g.1) } := by
  have hall : (g.1.all fun l => !l.isEmpty && ascending (s.ctx c).job.count l) = true :=
    List.all_eq_true.2 fun l hl => by simp [hlists l hl]
  unfold State.judgeGroups
  simp only [← hg]
  exact if_pos (by simp [hjob, hmin, hmax, hpacked, hall, hfirst])

/-- The addresses of a peer address record (R274). -/
def peersOf (bs : List Byte) (n : Nat) : List Peer :=
  (List.range n).map fun i =>
    { addr := BitVec.ofNat 128 (beNat (slice (slice bs (16 + 32 * i) 32) 0 16))
      mac := BitVec.ofNat 48 (beNat (slice (slice bs (16 + 32 * i) 32) 16 6)) }

/-- A peer address record with an entry for each rank replaces the earlier one where the device's flows suffice (R274, R275). -/
theorem State.judgePeers_of_wellFormed {s : State} {c : CtxId} {bs : List Byte} {n : Nat} (hn : field bs 4 4 = n)
    (hcount : n = (s.ctx c).job.count) (hjob : (s.ctx c).job.tag ≠ 0#32) (hpacked : packed bs (16 + 32 * n) = true)
    (hgap : gap bs 8 16 = true) (hzero : ∀ i < n, zeroAt (slice bs (16 + 32 * i) 32) 22 10 = true)
    (hflows : (allCtx.map fun d => if d ≠ c ∧ (s.ctx d).job.peers.isSome then 8 * (s.ctx d).job.count else 0).sum + 8 * n ≤ 262144)
    (w : Who) :
    s.judgePeers c bs w = s.acceptJob c w fun j => { j with peers := some (BitVec.ofNat 32 (field bs 0 4), peersOf bs n) } := by
  have hall : ((List.range n).all fun i => zeroAt (slice bs (16 + 32 * i) 32) 22 10) = true :=
    List.all_eq_true.2 fun i hi => hzero i (List.mem_range.1 hi)
  unfold State.judgePeers
  simp only [hn]
  rw [if_neg (by simp [hjob, hcount.symm, hpacked, hgap, hall]), if_neg (Nat.not_lt.2 hflows)]
  rfl

/-- The targets of a Riffle target record, none suspect and each timed from `now` (R284). -/
def targetsOf (bs : List Byte) (n : Nat) (now : Ns) : List Target :=
  (List.range n).map fun i =>
    { rank := field bs (4 + 4 * i) 2, local_ := Fin.ofNat 8 (field bs (6 + 4 * i) 1), peer := Fin.ofNat 8 (field bs (7 + 4 * i) 1)
      seq := 0#16, restart := now, suspect := false }

/-- A Riffle target record of up to 128 ranks and ports of the job replaces the earlier one (R284). -/
theorem State.judgeTargets_of_wellFormed {s : State} {c : CtxId} {bs : List Byte} {n : Nat} (hn : field bs 0 4 = n)
    (hjob : (s.ctx c).job.tag ≠ 0#32) (hmax : n ≤ 128) (hpacked : packed bs (4 + 4 * n) = true)
    (htargets : ∀ i < n, field bs (4 + 4 * i) 2 < (s.ctx c).job.count ∧ field bs (6 + 4 * i) 1 < 8 ∧ field bs (7 + 4 * i) 1 < 8)
    (w : Who) :
    s.judgeTargets c bs w = s.acceptJob c w fun j => { j with targets := targetsOf bs n s.clk.now } := by
  have hall : (((List.range n).map fun i => (field bs (4 + 4 * i) 2, field bs (6 + 4 * i) 1, field bs (7 + 4 * i) 1)).all fun t =>
      decide (t.1 < (s.ctx c).job.count ∧ t.2.1 < 8 ∧ t.2.2 < 8)) = true := by
    rw [List.all_map, List.all_eq_true]
    exact fun i hi => decide_eq_true (htargets i (List.mem_range.1 hi))
  unfold State.judgeTargets
  simp only [hn, Nat.min_eq_left hmax, hall, hpacked]
  rw [if_pos (by simp [hjob, hmax]), List.map_map]
  rfl

/-- A record whose judgement changes its context's job changes nothing else of it but the registers of R320 and the result ring. -/
theorem State.recordIn_answers_of_acceptJob {s : State} {typ : Nat} {r : RecordIn} {f : Job → Job} (htakes : s.Takes typ r)
    (htyp : typ < 256) (hactive : (s.ctx r.ctx).state = .active) (hasm : (s.ctx r.ctx).asm = none)
    (hjudge : (s.taken r).judgeType r.ctx typ r.payload (r.flags.toNat % 2 == 1) (whoOf r) = (s.taken r).acceptJob r.ctx (whoOf r) f) :
    let t := s.recordIn typ r
    s.Answers t r
      ∧ (t.ctx r.ctx).still = { (s.ctx r.ctx).still with
          regs := (t.ctx r.ctx).regs, rings := (t.ctx r.ctx).rings, job := f (s.ctx r.ctx).job } := by
  rw [State.recordIn_judged htakes htyp (.inl hactive) (.inl hasm), hjudge]
  exact s.acceptJob_answers r f

/-- Settles O7: a well-formed record of each of the three kinds takes the accepting branch of its judgement. -/
theorem jobRecordsReplaceTables : Obligations.JobRecordsReplaceTables := by
  intro s r hactive hasm hjob
  have hjobs := s.taken_job r
  have hjob' : ((s.taken r).ctx r.ctx).job.tag ≠ 0#32 := by rwa [hjobs]
  refine ⟨?groups, ?peers, ?targets⟩
  case groups =>
    intro htakes g hcount hpacked hlists hfirst
    have hjudge := State.judgeGroups_of_wellFormed (s := s.taken r) (g := g) rfl hjob' hcount.1 hcount.2 hpacked (by rwa [hjobs])
      (by rwa [hjobs]) (whoOf r)
    exact ⟨_, exec_groupTable r s, State.recordIn_answers_of_acceptJob htakes (by decide) hactive hasm hjudge⟩
  case peers =>
    intro htakes n entry hcount hpacked hgap hzero hflows
    have hjudge := State.judgePeers_of_wellFormed (s := s.taken r) hcount (by rw [hjobs]) hjob' hpacked hgap hzero
      (by simpa only [hjobs] using hflows) (whoOf r)
    exact ⟨_, exec_peerAddress r s, State.recordIn_answers_of_acceptJob htakes (by decide) hactive hasm hjudge⟩
  case targets =>
    intro htakes n hmax hpacked htargets
    have hjudge := State.judgeTargets_of_wellFormed (s := s.taken r) rfl hjob' hmax hpacked (by simpa only [hjobs] using htargets)
      (whoOf r)
    exact ⟨_, exec_riffleTargets r s, State.recordIn_answers_of_acceptJob htakes (by decide) hactive hasm hjudge⟩

end Sys2Proof.Machine
end

section
/-! PROOFS. Serving records: a pattern, the sequences that join it and leave it, and its end (R295, R296, R299 to R302, R314). -/

namespace Sys2Proof.Machine

/-! ### Which record asks for what -/

section
variable {s : State} {r : RecordIn} (hactive : (s.ctx r.ctx).state = .active) (hasm : (s.ctx r.ctx).asm = none)
include hactive hasm

theorem exec_pattern_of_takes (h : s.Takes 0x30 r) :
    exec (.pattern r) s = .next ((s.taken r).judgePattern r.ctx r.payload (whoOf r)).dispatch :=
  congrArg Host.Outcome.next (State.recordIn_judged h (by decide) (.inl hactive) (.inl hasm))

theorem exec_join_of_takes (h : s.Takes 0x31 r) :
    exec (.join r) s = .next ((s.taken r).judgeJoin r.ctx r.payload (whoOf r)).dispatch :=
  congrArg Host.Outcome.next (State.recordIn_judged h (by decide) (.inl hactive) (.inl hasm))

theorem exec_leave_of_takes (h : s.Takes 0x32 r) :
    exec (.leave r) s = .next ((s.taken r).judgeLeave r.ctx r.payload (whoOf r)).dispatch :=
  congrArg Host.Outcome.next (State.recordIn_judged h (by decide) (.inl hactive) (.inl hasm))

theorem exec_stop_of_takes (h : s.Takes 0x33 r) :
    exec (.stop r) s = .next ((s.taken r).judgeStop r.ctx r.payload (whoOf r)).dispatch :=
  congrArg Host.Outcome.next (State.recordIn_judged h (by decide) (.inl hactive) (.inl hasm))

end

/-! ### What an accepted record makes of its context -/

/-- Record `r` has been accepted: its context is `x` but for the registers of R320 and the result ring, and every other context stands. -/
structure State.Makes (s t : State) (r : RecordIn) (x : Ctx) : Prop where
  self   : (t.ctx r.ctx).still = { x.still with regs := (t.ctx r.ctx).regs, rings := (t.ctx r.ctx).rings }
  regs   : (t.ctx r.ctx).regs = { ((s.taken r).ctx r.ctx).regs with
             results := (s.ctx r.ctx).regs.results + 1, lastCode := 0x01#8, lastSeq := r.seq }
  rings  : (t.ctx r.ctx).rings = { x.rings with kept := (t.ctx r.ctx).rings.kept }
  others : ∀ d : CtxId, d ≠ r.ctx → (t.ctx d).still = (s.ctx d).still

theorem State.Makes.accept {s u : State} {r : RecordIn} {x : Ctx} (hself : u.ctx r.ctx = { x with regs := ((s.taken r).ctx r.ctx).regs })
    (hothers : ∀ d : CtxId, d ≠ r.ctx → u.ctx d = s.ctx d) (e : Entry64 → Entry64) (he : ∀ y, (e y).code = y.code ∧ (e y).seq = y.seq) :
    s.Makes (u.accept r.ctx (whoOf r) e) r x := by
  have hctx : (u.accept r.ctx (whoOf r) e).ctx r.ctx = (u.ctx r.ctx).entered (e (u.acceptedEntry r.ctx (whoOf r))) :=
    (State.accept_ctx ..).trans (if_pos rfl)
  have hcode : (e (u.acceptedEntry r.ctx (whoOf r))).code = .accepted := (he _).1
  have hseq : (e (u.acceptedEntry r.ctx (whoOf r))).seq = r.seq.toNat := (he _).2
  refine ⟨?self, ?regs, ?rings, fun d hd => ?others⟩
  case self => rw [hctx, hself]; rfl
  case regs =>
    rw [hctx, hself, ← s.taken_results r]
    simp only [Ctx.entered, hcode, hseq, Code.value, BitVec.ofNat_toNat, BitVec.setWidth_eq]
  case rings => simp only [hctx, hself, Ctx.entered]
  case others => rw [State.accept_ctx, if_neg hd.symm, hothers d hd]

/-- A record that is accepted before it changes anything. -/
theorem State.Makes.accept_taken (s : State) (r : RecordIn) (e : Entry64 → Entry64) (he : ∀ y, (e y).code = y.code ∧ (e y).seq = y.seq) :
    s.Makes ((s.taken r).accept r.ctx (whoOf r) e) r (s.ctx r.ctx) :=
  .accept (by rw [State.taken_ctx, if_pos rfl]) (fun _ hd => s.taken_ctx_other r hd) e he

section
variable {s t : State} {r : RecordIn} {x : Ctx} (h : s.Makes t r x)
include h

theorem State.Makes.of_ctx {u : State} (hctx : ∀ d, u.ctx d = t.ctx d) : s.Makes u r x := by
  refine ⟨?_, ?_, ?_, fun d hd => ?_⟩ <;> rw [hctx]
  · exact h.self
  · exact h.regs
  · exact h.rings
  · exact h.others d hd

theorem State.Makes.dispatch : s.Makes t.dispatch r x := by
  refine ⟨?_, ?_, ?_, fun d hd => (t.dispatch_ctx d).trans (h.others d hd)⟩
  · rw [State.dispatch_ctx, State.dispatch_ctx_regs, State.dispatch_ctx_rings]; exact h.self
  · rw [State.dispatch_ctx_regs]; exact h.regs
  · rw [State.dispatch_ctx_rings]; exact h.rings

/-- The context's pattern is set afterwards. -/
theorem State.Makes.setPattern (p : Option Pattern) :
    s.Makes (t.modCtx r.ctx fun y => { y with pattern := p }) r { x with pattern := p } := by
  have hctx := (State.modCtx_ctx t r.ctx r.ctx fun y => { y with pattern := p }).trans (if_pos rfl)
  refine ⟨?_, ?_, ?_, fun d hd => ?_⟩
  · rw [hctx]; exact congrArg (fun y : Ctx => { y with pattern := p }) h.self
  · rw [hctx]; exact h.regs
  · rw [hctx]; exact h.rings
  · rw [State.modCtx_ctx, if_neg hd.symm]; exact h.others d hd

theorem State.Makes.pattern : (t.ctx r.ctx).pattern = x.pattern := congrArg (·.pattern) h.self
theorem State.Makes.models : (t.ctx r.ctx).models = x.models := congrArg (·.models) h.self
theorem State.Makes.alloc : (t.ctx r.ctx).alloc = x.alloc := congrArg (·.alloc) h.self

end

@[simp] theorem State.taken_clk (s : State) (r : RecordIn) : (s.taken r).clk = s.clk := rfl

/-! ### Allocation -/

/-- Of the contexts an allocation changes its own one's ranges. -/
theorem State.allocate_ctx (s : State) (c : CtxId) (new : List Range) (d : CtxId) :
    (s.allocate c new).ctx d = if c = d then { s.ctx c with alloc := (s.ctx c).alloc ++ freshRanges new (s.ctx c).alloc } else s.ctx d := by
  unfold State.allocate
  extract_lets fresh hbm s1 s2
  have hctxs : s2.ctxs = s.ctxs := congrArg (·.1) (State.layAside_ctxs_weir (s.zeroRanges hbm) fresh)
  rw [State.modCtx_ctx, State.ctx_of_ctxs hctxs, State.ctx_of_ctxs hctxs]

theorem State.allocate_recv (s : State) (c : CtxId) (new : List Range) : (s.allocate c new).recv = s.recv := by
  have haside : ∀ (u : State) (fresh : List Range), (u.layAside fresh).recv = u.recv := fun u fresh =>
    State.keeps_foldl (·.recv) _ (fun v r => by dsimp only; split <;> rfl) _ _
  exact haside _ _

theorem State.allocate_cfg (s : State) (c : CtxId) (new : List Range) : (s.allocate c new).cfg = s.cfg :=
  congrArg (·.1) (State.Quiet.allocate c s new).inside.fixed

/-! ### A pattern (R295, R296) -/

/-- The context that serves a pattern, with the ranges of its template and its delivery ring. -/
def Ctx.serving (x : Ctx) (p : Pattern) (cs : List (Entry × CmdFacts)) (base log2 tail : Nat) : Ctx :=
  { x with alloc := x.alloc ++ freshRanges (templateRanges p cs) x.alloc, pattern := some p
           rings := { x.rings with dBase := base, dLog2 := log2, dTail := tail, dCount := 0, dKept := [] } }

/-- The state of a pattern that stands. -/
def State.withServing (s : State) (c : CtxId) (p : Pattern) (cs : List (Entry × CmdFacts)) (base log2 tail : Nat) : State :=
  (s.allocate c (templateRanges p cs)).modCtx c fun x =>
    { x with pattern := some p, rings := { x.rings with dBase := base, dLog2 := log2, dTail := tail, dCount := 0, dKept := [] } }

theorem State.withServing_ctx (s : State) (c : CtxId) (p : Pattern) (cs : List (Entry × CmdFacts)) (base log2 tail : Nat) (d : CtxId) :
    (s.withServing c p cs base log2 tail).ctx d = if c = d then (s.ctx c).serving p cs base log2 tail else s.ctx d := by
  unfold State.withServing
  rw [State.modCtx_ctx, State.allocate_ctx, State.allocate_ctx, if_pos rfl]
  split <;> rfl

/-- A pattern that no test refuses stands. -/
theorem State.judgePattern_of_fits {s : State} {c : CtxId} {bs : List Byte} {p0 p : Pattern} {base log2 tail : Nat}
    {cs : List (Entry × CmdFacts)} (hp : p = { p0 with t0 := s.clk.now + 10000 + 40 * p0.tlen })
    (hparse : parsePattern bs = some (p0, base, log2, tail)) (htemplate : s.templateOf c p = some cs) (hfits : s.refusePattern c p cs = none)
    (w : Who) : s.judgePattern c bs w
      = (s.withServing c p cs base log2 tail).accept c w fun e => { e with t0 := s.clk.now + 10000 + 40 * p0.tlen } := by
  simp only [State.judgePattern, hparse, ← hp, htemplate, hfits, State.withServing]

/-! ### Sequences (R299 to R302) -/

/-- A join that fits adds its sequence behind the others. -/
theorem State.judgeJoin_of_fits {s : State} {c : CtxId} {bs : List Byte} {p : Pattern} {x : Tensor} {m : Model} {q : Seqn}
    {free : Nat × Nat} (hpattern : (s.ctx c).pattern = some p) (htensor : parseTensor (slice bs 8 32) = some x)
    (hshape : s.joinShape c bs p x = true) (hrole : (s.ctx c).role = .serving) (hstop : p.stopping = none)
    (hquiet : ((s.ctx c).models.any fun m => m.resident && !m.current && m.drainStep.isNone && m.quiesce) = false)
    (hq : q = { id := BitVec.ofNat 32 (field bs 0 4), prompt := slice bs 8 32, promptLen := field bs 40 4, maxNew := field bs 44 4
                sampling := BitVec.ofNat 64 (field bs 48 8), joinAt := p.indexAt (s.clk.now + 20000), joined := false, version := m.version
                slot := p.freeSlot, prefilled := 0, produced := 0, leaving := none, lostAt := none })
    (hpin : pinAt p (s.ctx c).models (p.indexAt (s.clk.now + 20000)) = some m)
    (htest : joinTest p (s.ctx c).models (p.seqs ++ [q]) = .ok free) (w : Who) :
    ∃ e : Entry64 → Entry64, (∀ y, (e y).code = y.code ∧ (e y).seq = y.seq) ∧ s.judgeJoin c bs w
      = ((s.adopt c x.extents).modCtx c fun y => { y with pattern := some { p with seqs := p.seqs ++ [q] } }).accept c w e := by
  refine ⟨fun e => { e with step := queueEnd (s.ctx c).models m.profile (p.seqs ++ [q]) p.next - 1, version := m.version.toNat
                            index := p.freeSlot, shortfall := free.1, t0 := free.2 }, fun _ => ⟨rfl, rfl⟩, ?_⟩
  simp only [State.judgeJoin, hpattern, htensor, hshape, hrole, hstop, hquiet, hpin, ← hq, htest, Bool.not_true, Bool.false_eq_true, if_false,
    ne_eq, not_true_eq_false, Option.isSome_none]

/-- A sequence that is told to leave at period `n`. -/
def Seqn.leaves (q : Seqn) (id : BitVec 32) (n : Nat) : Seqn := if q.id = id ∧ q.leaving = none then { q with leaving := some n } else q

/-- A leave of a sequence of the pattern is noted in it. -/
theorem State.judgeLeave_of_member {s : State} {c : CtxId} {bs : List Byte} {p : Pattern} (hpattern : (s.ctx c).pattern = some p)
    (hpacked : packed bs 4 = true) (hmember : (p.seqs.any fun q => q.id == BitVec.ofNat 32 (field bs 0 4)) = true) (w : Who) :
    s.judgeLeave c bs w = (s.accept c w fun e => { e with step := p.indexAt (s.clk.now + 20000) }).modCtx c fun y =>
      { y with pattern := some { p with
          seqs := p.seqs.map (·.leaves (BitVec.ofNat 32 (field bs 0 4)) (p.indexAt (s.clk.now + 20000))) } } := by
  simp only [State.judgeLeave, hpattern, hpacked, hmember, if_true, Option.isNone_iff_eq_none]
  rfl

/-- What a leave leaves of its context. -/
theorem State.judgeLeave_answers {s : State} {r : RecordIn} {p : Pattern} (hpattern : (s.ctx r.ctx).pattern = some p)
    (hpacked : packed r.payload 4 = true) (hmember : (p.seqs.any fun q => q.id == BitVec.ofNat 32 (field r.payload 0 4)) = true) :
    let t := (s.taken r).judgeLeave r.ctx r.payload (whoOf r)
    s.Answers t.dispatch r ∧ s.Makes t r { s.ctx r.ctx with pattern := some { p with
      seqs := p.seqs.map (·.leaves (BitVec.ofNat 32 (field r.payload 0 4)) (p.indexAt (s.clk.now + 20000))) } } := by
  have hpattern' : ((s.taken r).ctx r.ctx).pattern = some p := by rw [State.taken_ctx, if_pos rfl]; exact hpattern
  dsimp only
  rw [State.judgeLeave_of_member hpattern' hpacked hmember, State.taken_clk]
  have hmakes := State.Makes.accept_taken s r (fun e => { e with step := p.indexAt (s.clk.now + 20000) }) fun _ => ⟨rfl, rfl⟩
  exact ⟨.of_modCtx s r _ _ (fun _ => ⟨rfl, rfl⟩) fun _ => ⟨rfl, rfl⟩, hmakes.setPattern _⟩

/-! ### The end of a pattern (R314) -/

/-- A pattern that drains for a number of periods, or for fewer where it was stopped before. -/
def Pattern.drained (p : Pattern) (drain : Nat) : Pattern :=
  { p with stopping := some ((p.stopping.map fun k => min k (p.next + drain)).getD (p.next + drain)) }

theorem State.endPattern_ctx (s : State) (c d : CtxId) :
    (s.endPattern c).ctx d = (s.modCtx c fun x => { x with pattern := none }).ctx d := by
  unfold State.endPattern
  split <;> rfl

theorem State.endPattern_mem (s : State) (c : CtxId) : (s.endPattern c).mem = s.mem := by
  unfold State.endPattern
  split <;> rfl

/-- A STOP ends the pattern that serves nobody, and lets another one drain. -/
theorem State.judgeStop_of_pattern {s : State} {c : CtxId} {bs : List Byte} {p : Pattern} (hpattern : (s.ctx c).pattern = some p)
    (hpacked : packed bs 4 = true) (hdrain : field bs 0 4 ≤ 1048575) (w : Who) :
    let a := (s.accept c w id).modCtx c fun x => { x with pattern := some (p.drained (field bs 0 4)) }
    s.judgeStop c bs w = if p.seqs = [] then a.endPattern c else a := by
  simp only [State.judgeStop, hpattern, hpacked, hdrain, decide_true, Bool.and_true, if_true, List.isEmpty_iff]
  rfl

/-- What a STOP leaves of its context. -/
theorem State.judgeStop_makes {s : State} {r : RecordIn} {p : Pattern} (hpattern : (s.ctx r.ctx).pattern = some p)
    (hpacked : packed r.payload 4 = true) (hdrain : field r.payload 0 4 ≤ 1048575) :
    let t := (s.taken r).judgeStop r.ctx r.payload (whoOf r)
    s.Makes t r { s.ctx r.ctx with pattern := if p.seqs = [] then none else some (p.drained (field r.payload 0 4)) } ∧ t.mem = s.mem := by
  have hpattern' : ((s.taken r).ctx r.ctx).pattern = some p := by rw [State.taken_ctx, if_pos rfl]; exact hpattern
  have hmakes := (State.Makes.accept_taken s r id fun _ => ⟨rfl, rfl⟩).setPattern (some (p.drained (field r.payload 0 4)))
  have hmem : ((s.taken r).accept r.ctx (whoOf r) id).mem = s.mem := by rw [State.accept_rest]; rfl
  dsimp only
  rw [State.judgeStop_of_pattern hpattern' hpacked hdrain]
  split
  case isTrue => exact ⟨(hmakes.setPattern none).of_ctx (State.endPattern_ctx _ _), (State.endPattern_mem ..).trans hmem⟩
  case isFalse => exact ⟨hmakes, hmem⟩

/-! ### The obligation -/

/-- What a pattern that stands leaves. -/
theorem State.judgePattern_makes {s : State} {r : RecordIn} {p0 p : Pattern} {base log2 tail : Nat} {cs : List (Entry × CmdFacts)}
    (hp : p = { p0 with t0 := s.clk.now + 10000 + 40 * p0.tlen }) (hparse : parsePattern r.payload = some (p0, base, log2, tail))
    (htemplate : (s.taken r).templateOf r.ctx p = some cs) (hfits : (s.taken r).refusePattern r.ctx p cs = none) :
    let t := (s.taken r).judgePattern r.ctx r.payload (whoOf r)
    s.Makes t r ((s.ctx r.ctx).serving p cs base log2 tail) ∧ t.cfg = s.cfg ∧ t.recv = s.recv := by
  dsimp only
  rw [State.judgePattern_of_fits (s := s.taken r) hp hparse htemplate hfits]
  refine ⟨.accept ?self (fun d hd => ?others) _ fun _ => ⟨rfl, rfl⟩, ?cfg, ?recv⟩
  case self => rw [State.withServing_ctx, if_pos rfl, State.taken_ctx, if_pos rfl]; rfl
  case others => rw [State.withServing_ctx, if_neg hd.symm, State.taken_ctx_other s r hd]
  case cfg => rw [State.accept_rest]; exact State.allocate_cfg ..
  case recv => rw [State.accept_rest]; exact State.allocate_recv ..

/-- What the join of a sequence leaves of its context. -/
theorem State.Makes.join (s : State) (r : RecordIn) (exts : List (Nat × Nat)) (p : Pattern) {e : Entry64 → Entry64}
    (he : ∀ y, (e y).code = y.code ∧ (e y).seq = y.seq) :
    s.Makes ((((s.taken r).adopt r.ctx exts).modCtx r.ctx fun y => { y with pattern := some p }).accept r.ctx (whoOf r) e) r
      { s.ctx r.ctx with
        alloc := (s.ctx r.ctx).alloc ++ freshRanges (pageRanges exts .scratch) (s.ctx r.ctx).alloc, pattern := some p } := by
  have hadopt := (s.taken r).allocate_ctx r.ctx (pageRanges exts .scratch)
  refine .accept ?self (fun d hd => ?others) e he
  case self => rw [State.modCtx_ctx, if_pos rfl, State.adopt, hadopt, if_pos rfl, State.taken_ctx, if_pos rfl]
  case others => rw [State.modCtx_ctx, if_neg hd.symm, State.adopt, hadopt, if_neg hd.symm, State.taken_ctx_other s r hd]

/-- Settles O15: each record takes the accepting branch of its judgement, which changes what the ACCEPTED entry leaves alone. -/
theorem servingRecords : Obligations.ServingRecords := by
  intro s r hactive hasm
  have hctx : (s.taken r).ctx r.ctx = { s.ctx r.ctx with regs := ((s.taken r).ctx r.ctx).regs } := by
    rw [State.taken_ctx, if_pos rfl]
  refine ⟨?pattern, ?join, ?leave, ?stop⟩
  case pattern =>
    intro p0 base log2 tail cs htakes hparse p htemplate hfits
    obtain ⟨hmakes, hcfg, hrecv⟩ := State.judgePattern_makes (p := p) rfl hparse htemplate hfits
    exact ⟨_, exec_pattern_of_takes hactive hasm htakes, hmakes.dispatch.pattern, hmakes.dispatch.rings, hmakes.dispatch.alloc,
      hmakes.dispatch.regs, hmakes.dispatch.others, (State.dispatch_cfg _).trans hcfg, (State.dispatch_recv _).trans hrecv⟩
  case join =>
    intro p x m free htakes hpattern htensor hshape hrole hstop hquiet n q hpin htest
    obtain ⟨e, he, hjudge⟩ := State.judgeJoin_of_fits (s := s.taken r) (c := r.ctx) (q := q) (by rw [hctx]; exact hpattern) htensor hshape
      (by rw [hctx]; exact hrole) hstop (by rw [hctx]; exact hquiet) rfl (by rw [hctx]; exact hpin) (by rw [hctx]; exact htest) (whoOf r)
    have hmakes := (State.Makes.join s r x.extents { p with seqs := p.seqs ++ [q] } he).dispatch
    rw [← hjudge] at hmakes
    exact ⟨_, exec_join_of_takes hactive hasm htakes, hmakes.pattern, hmakes.models, hmakes.regs, hmakes.others⟩
  case leave =>
    intro p htakes hpattern hpacked hmember goes
    obtain ⟨hanswers, hmakes⟩ := State.judgeLeave_answers (r := r) hpattern hpacked hmember
    exact ⟨_, exec_leave_of_takes hactive hasm htakes, hanswers, hmakes.dispatch.self⟩
  case stop =>
    intro p htakes hpattern hpacked hdrain
    obtain ⟨hmakes, hmem⟩ := State.judgeStop_makes hpattern hpacked hdrain
    exact ⟨_, exec_stop_of_takes hactive hasm htakes, hmakes.dispatch.pattern,
      hmakes.dispatch.models, hmakes.dispatch.alloc, hmakes.dispatch.others, (State.dispatch_mem _).trans hmem⟩

end Sys2Proof.Machine
end

section
/-! PROOFS. Records about models, and the end of training: a manifest, a load part and FINAL (R306, R308, R311 to R313, R433). -/

namespace Sys2Proof.Machine

/-! ### Which record asks for what -/

section
variable {s : State} {r : RecordIn} (hactive : (s.ctx r.ctx).state = .active) (hasm : (s.ctx r.ctx).asm = none)
include hactive hasm

theorem exec_manifest_of_takes (h : s.Takes 0x34 r) :
    exec (.manifest r) s = .next ((s.taken r).judgeManifest r.ctx r.payload (whoOf r)).dispatch :=
  congrArg Host.Outcome.next (State.recordIn_judged h (by decide) (.inl hactive) (.inl hasm))

theorem exec_load_of_takes (h : s.Takes 0x35 r) :
    exec (.load r) s = .next ((s.taken r).judgeLoad r.ctx r.payload (whoOf r)).dispatch :=
  congrArg Host.Outcome.next (State.recordIn_judged h (by decide) (.inl hactive) (.inl hasm))

theorem exec_final_of_takes (h : s.Takes 0x36 r) :
    exec (.final r) s = .next ((s.taken r).judgeFinal r.ctx r.payload (whoOf r)).dispatch :=
  congrArg Host.Outcome.next (State.recordIn_judged h (by decide) (.inl hactive) (.inl hasm))

end

/-! ### A manifest (R308, R433) -/

/-- A verification request for the bytes of a manifest as they stand. -/
def State.verifyAt (s : State) (c : CtxId) (a len : Nat) (w : Who) : Verify :=
  { ctx := c, addr := a, bytes := View.bytes s.judgeView a len, tag := w.tag, seq := w.seq, client := w.client
    keys := if s.sec.queue = [] then some s.sec.keys else none }

/-- A manifest of a known length within reach waits for the verifier. -/
theorem State.judgeManifest_of_reachable {s : State} {c : CtxId} {bs : List Byte} {n : Nat × Nat} (hpacked : packed bs 8 = true)
    (haligned : field bs 0 8 % 64 = 0) (hrole : (s.ctx c).role = .serving)
    (hlen : manifestLen (leNat (View.bytes s.judgeView (field bs 0 8 + 16) 4)) (s.judgeView (field bs 0 8 + 20)).toNat = some n)
    (hhead : s.reachable c [(field bs 0 8, 128)] = true) (hwhole : s.reachable c [(field bs 0 8, n.2)] = true) (w : Who) :
    s.judgeManifest c bs w = { s with sec := { s.sec with queue := s.sec.queue ++ [s.verifyAt c (field bs 0 8) n.2 w] } } := by
  simp only [State.judgeManifest, hpacked, haligned, hrole, hlen, hhead, hwhole, Bool.not_true, bne_self_eq_false, Bool.or_self,
    Bool.false_eq_true, if_false, ne_eq, not_true_eq_false, List.isEmpty_iff]
  rfl

/-! ### A load part (R306, R311, R312) -/

/-- The load part that a record describes, none of its chunks asked for yet. -/
def LoadRec.part (q : LoadRec) (m : Manifest) (uid : Nat) (body : List Byte) : LoadPart :=
  { uid := uid, version := q.version, base := q.base, lastPart := q.last, quiesce := q.quiesce, drain := q.drain, wait := q.wait
    holders := q.holders
    fetches := q.chunkIds.map fun i =>
      { chunk := i, len := chunkBytesOf m.total i, digest := digestOf (slice body (128 + 32 * i) 32)
        holder := i % q.holders.length, tries := 0, asked := 0, pieces := [], done := false } }

/-- A context that loads a part of a version. -/
def Ctx.loading (x : Ctx) (q : LoadRec) (m : Manifest) (l : LoadPart) : Ctx :=
  { x with models := withLoading x.models q m, load := some l }

/-- A load part that no test refuses joins the steps of its context. -/
theorem State.judgeLoad_of_fits {s : State} {c : CtxId} {bs : List Byte} {w : Who} {q : LoadRec} {m : Manifest}
    (hparse : parseLoad bs = some q) (hmanifest : (s.ctx c).manifests.find? (fun m => m.version == q.version) = some m)
    (hfits : s.refuseLoad c q m (s.loadStep q m w) = none) :
    s.judgeLoad c bs w = ((s.addStep c (s.loadStep q m w) [] []).acceptStep c (s.loadStep q m w)).modCtx c
      (·.loading q m (q.part m s.slu.nextUid (s.manifestBody m))) := by
  simp only [State.judgeLoad, hparse, hmanifest, hfits]
  rfl

/-- The models of a context stand when a step is admitted. -/
theorem State.admitted_models (s : State) (c : CtxId) (t : Step) :
    (((s.addStep c t [] []).acceptStep c t).ctx c).models = (s.ctx c).models := by
  obtain ⟨⟨e, hentered, -⟩, -⟩ := (s.addStep c t [] []).acceptStep_leaves c t
  rw [hentered]
  exact congrArg (·.models) (s.addStep_leaves c t [] []).1

/-- What a load part that is admitted leaves of its context. -/
theorem State.judgeLoad_admits (s : State) {c : CtxId} {bs : List Byte} {w : Who} {q : LoadRec} {m : Manifest} {t : Step} {l : LoadPart}
    (hjudge : s.judgeLoad c bs w = ((s.addStep c t [] []).acceptStep c t).modCtx c (·.loading q m l)) :
    let u := (s.judgeLoad c bs w).dispatch
    State.Admits s u c t ∧ (u.ctx c).models = withLoading (s.ctx c).models q m ∧ (u.ctx c).load = some l := by
  dsimp only
  rw [hjudge]
  refine ⟨((State.Admits.addStep s c t [] []).modCtx (·.loading q m l) fun _ => ⟨rfl, rfl, rfl, rfl, rfl⟩).dispatch, ?models, ?load⟩
  case models => rw [State.dispatch_ctx_models, State.modCtx_ctx, if_pos rfl, Ctx.loading, State.admitted_models]
  case load => rw [State.dispatch_ctx_load, State.modCtx_ctx, if_pos rfl, Ctx.loading]

/-! ### The end of training (R313) -/

/-- Training of context `c` winds up: memory stands, and of the contexts only what FINAL changes of `c`. -/
structure State.Winds (c : CtxId) (s t : State) : Prop where
  self   : t.ctx c = { s.ctx c with
             regs := (t.ctx c).regs, rings := (t.ctx c).rings, stream := (t.ctx c).stream, ckpts := (t.ctx c).ckpts
             tail := (t.ctx c).tail, swept := (t.ctx c).swept, final := (t.ctx c).final }
  others : ∀ d : CtxId, d ≠ c → t.ctx d = s.ctx d
  mem    : t.mem = s.mem
  hbm    : t.hbm = s.hbm

theorem State.Winds.trans {c : CtxId} {s t u : State} (a : State.Winds c s t) (b : State.Winds c t u) : State.Winds c s u :=
  ⟨by rw [b.self, a.self], fun d hd => (b.others d hd).trans (a.others d hd), b.mem.trans a.mem, b.hbm.trans a.hbm⟩

theorem State.Winds.refl (c : CtxId) (s : State) : State.Winds c s s := ⟨rfl, fun _ _ => rfl, rfl, rfl⟩

theorem State.Winds.modCtx (c : CtxId) (s : State) (f : Ctx → Ctx) (hf : ∀ x, f x = { x with
      regs := (f x).regs, rings := (f x).rings, stream := (f x).stream, ckpts := (f x).ckpts, tail := (f x).tail, swept := (f x).swept
      final := (f x).final }) : State.Winds c s (s.modCtx c f) :=
  ⟨by rw [State.modCtx_ctx, if_pos rfl]; exact hf _, fun d hd => by rw [State.modCtx_ctx, if_neg hd.symm], rfl, rfl⟩

theorem State.Winds.of_mirrors {c : CtxId} {s t : State} (h : State.Mirrors c s t) : State.Winds c s t :=
  ⟨by rw [h.self], h.others, by rw [h.rest], by rw [h.rest]⟩

theorem State.Winds.accept (c : CtxId) (s : State) (w : Who) (e : Entry64 → Entry64) : State.Winds c s (s.accept c w e) := by
  refine ⟨?_, fun d hd => ?_, ?_, ?_⟩
  · rw [State.accept_ctx, if_pos rfl]; rfl
  · rw [State.accept_ctx, if_neg hd.symm]
  · rw [State.accept_rest]
  · rw [State.accept_rest]

theorem State.Winds.programChange (c : CtxId) (s : State) : State.Winds c s (s.programChange c) := by
  unfold State.programChange
  extract_lets x
  split
  · exact .refl ..
  · split
    · exact .modCtx _ _ _ fun _ => by rfl
    · extract_lets s1
      have h1 : State.Winds c s s1 := .modCtx _ _ _ fun _ => by rfl
      exact ⟨h1.self, h1.others, h1.mem, h1.hbm⟩

/-- A context that is told twice accepts the second record and does nothing. -/
theorem State.judgeFinal_of_final {s : State} {c : CtxId} {bs : List Byte} (hpacked : packed bs 0 = true)
    (hrole : (s.ctx c).role = .training) (hfinal : (s.ctx c).final = true) (w : Who) : s.judgeFinal c bs w = s.accept c w id := by
  simp only [State.judgeFinal, hpacked, hrole, hfinal, Bool.not_true, Bool.false_eq_true, if_false, if_true, ne_eq, not_true_eq_false]

/-- A context that closes changes its program, and its mirroring comes to an end. -/
theorem State.judgeFinal_of_open {s : State} {c : CtxId} {bs : List Byte} (hpacked : packed bs 0 = true)
    (hrole : (s.ctx c).role = .training) (hfinal : (s.ctx c).final = false) (w : Who) :
    State.Mirrors c (((s.accept c w id).programChange c).modCtx c fun x => { x with final := true }) (s.judgeFinal c bs w) := by
  simp only [State.judgeFinal, hpacked, hrole, hfinal, Bool.not_true, Bool.false_eq_true, if_false, ne_eq, not_true_eq_false]
  have hlater := State.Mirrors.laterCommit c (((s.accept c w id).programChange c).modCtx c fun x => { x with final := true }) []
  split
  · exact hlater
  · split
    · split
      · exact hlater
      · exact hlater.trans (.checkpoint ..)
    · exact hlater

theorem State.judgeFinal_winds {s : State} {c : CtxId} {bs : List Byte} (hpacked : packed bs 0 = true)
    (hrole : (s.ctx c).role = .training) (w : Who) :
    State.Winds c s (s.judgeFinal c bs w) ∧ ((s.judgeFinal c bs w).ctx c).final = true := by
  have haccept := State.Winds.accept c s w id
  cases hfinal : (s.ctx c).final with
  | true =>
    rw [State.judgeFinal_of_final hpacked hrole hfinal]
    exact ⟨haccept, by rw [State.accept_ctx, if_pos rfl]; exact hfinal⟩
  | false =>
    have hmirrors := State.judgeFinal_of_open hpacked hrole hfinal w
    have hclose := State.Winds.modCtx c ((s.accept c w id).programChange c) (fun x => { x with final := true }) fun _ => rfl
    refine ⟨((haccept.trans (.programChange ..)).trans hclose).trans (.of_mirrors hmirrors), ?_⟩
    rw [hmirrors.self, State.modCtx_ctx, if_pos rfl]

/-! ### The obligation -/

/-- Settles O16: the accepting branches; the load part is a step that joins its context, and FINAL changes nothing but the context's flag,
its registers and its mirroring. -/
theorem modelRecords : Obligations.ModelRecords := by
  intro s r hactive hasm
  have hctx : (s.taken r).ctx r.ctx = { s.ctx r.ctx with regs := ((s.taken r).ctx r.ctx).regs } := by
    rw [State.taken_ctx, if_pos rfl]
  refine ⟨?manifest, ?load, ?final⟩
  case manifest =>
    intro n htakes hpacked haligned hrole a v hlen hhead hwhole
    have hjudge := State.judgeManifest_of_reachable (s := s.taken r) hpacked haligned (by rw [hctx]; exact hrole) hlen hhead hwhole (whoOf r)
    have hrun := exec_manifest_of_takes hactive hasm htakes
    rw [hjudge] at hrun
    exact ⟨_, hrun, State.dispatch_sec _, (State.dispatch_ctx ..).trans (congrArg Ctx.still hctx),
      fun d hd => (State.dispatch_ctx ..).trans (congrArg Ctx.still (s.taken_ctx_other r hd)), State.dispatch_mem _, State.dispatch_weir _⟩
  case load =>
    intro q m htakes hparse hmanifest n hfits
    have hjudge := State.judgeLoad_of_fits hparse (by rw [hctx]; exact hmanifest) hfits
    obtain ⟨hadmits, hmodels, hload⟩ := (s.taken r).judgeLoad_admits hjudge
    have hpart := congrArg (Option.map fun l : LoadPart => l.fetches.map fun f => (f.chunk, f.holder, f.done)) hload
    refine ⟨_, exec_load_of_takes hactive hasm htakes, ?models, ?steps, congrArg (Option.map _) hload, hpart.trans ?fetches, ?regs,
      hadmits.mem, hadmits.weir⟩
    case models => rw [hmodels, hctx]
    case steps => rw [hadmits.steps, hctx]
    case fetches => exact congrArg some (List.map_map ..)
    case regs => rw [hadmits.regs, ← s.taken_results r]; rfl
  case final =>
    intro htakes hpacked hrole
    obtain ⟨hwinds, hfinal⟩ := State.judgeFinal_winds (s := s.taken r) (c := r.ctx) hpacked (by rw [hctx]; exact hrole) (whoOf r)
    have hself := hwinds.self
    rw [hctx] at hself
    refine ⟨_, exec_final_of_takes hactive hasm htakes, (State.dispatch_ctx_final ..).trans hfinal, ?state, ?steps, ?job,
      fun d hd => ?others, (State.dispatch_mem _).trans hwinds.mem, (State.dispatch_hbm _).trans hwinds.hbm⟩
    case state => exact (State.dispatch_ctx_state ..).trans ((congrArg (·.state) hself).trans hactive)
    case steps =>
      have hstill := congrArg (·.steps) (State.dispatch_ctx ((s.taken r).judgeFinal r.ctx r.payload (whoOf r)) r.ctx)
      have hsteps : (((s.taken r).judgeFinal r.ctx r.payload (whoOf r)).ctx r.ctx).steps = (s.ctx r.ctx).steps := congrArg (·.steps) hself
      exact hstill.trans (congrArg (List.map Step.still) hsteps)
    case job => exact (State.dispatch_ctx_job ..).trans (congrArg (·.job) hself)
    case others => exact (State.dispatch_ctx ..).trans (congrArg Ctx.still ((hwinds.others d hd).trans (s.taken_ctx_other r hd)))

end Sys2Proof.Machine
end

section
/-! PROOFS. How many commands a step has is no matter of their start (R44, R333). -/

namespace Sys2Proof.Machine

/-- A context's steps without their commands' progress, each with the number of its commands. -/
def Ctx.sizes (x : Ctx) : List (Step × Nat) := x.steps.map fun t => (t.still, t.cmds.length)

/-- The sizes of every step of the device. -/
def State.sizes (s : State) : Vector (List (Step × Nat)) 16 := s.ctxs.map Ctx.sizes

theorem State.sizes_of_ctxs {s t : State} (h : t.ctxs = s.ctxs) : t.sizes = s.sizes := congrArg (Vector.map Ctx.sizes) h

theorem State.ctx_sizes {s t : State} (h : t.sizes = s.sizes) (c : CtxId) : (t.ctx c).sizes = (s.ctx c).sizes := by
  have hc := congrArg (fun v : Vector (List (Step × Nat)) 16 => v[c]) h
  simpa [State.sizes, State.ctx] using hc

theorem Ctx.modStep_sizes (x : Ctx) (uid : Nat) (f : Step → Step) (hf : ∀ t, (f t).still = t.still ∧ (f t).cmds.length = t.cmds.length) :
    (x.modStep uid f).sizes = x.sizes := by
  unfold Ctx.sizes Ctx.modStep
  rw [List.map_map]
  refine List.map_congr_left fun t _ => ?_
  show ((if t.uid == uid then f t else t).still, (if t.uid == uid then f t else t).cmds.length) = _
  split
  · rw [(hf t).1, (hf t).2]
  · rfl

theorem State.modCmd_sizes (s : State) (r : CmdRef) (f : Cmd → Cmd) : (s.modCmd r f).sizes = s.sizes := by
  have hmod : ((s.ctx r.ctx).modStep r.step fun t => { t with cmds := t.cmds.modify r.idx f }).sizes = (s.ctx r.ctx).sizes :=
    Ctx.modStep_sizes _ _ _ fun t => ⟨rfl, List.length_modify ..⟩
  refine Vector.ext fun i hi => ?_
  simp only [State.sizes, State.modCmd, State.modStep, State.modCtx, State.setCtx, Vector.getElem_map, Vector.getElem_set]
  split
  · rename_i e
    subst e
    exact hmod
  · rfl

theorem State.sendBuffer_sizes (s : State) (r : CmdRef) (t : Step) (j : CollJob) : (s.sendBuffer r t j).sizes = s.sizes := by
  unfold State.sendBuffer
  dsimp only
  split
  · rw [State.modCmd_sizes, State.sizes_of_ctxs (State.sendParts_ctxs ..)]
  · rw [State.modCmd_sizes]

/-- What is sent to the members of a group changes no step. -/
theorem State.sendToOthers_ctxs (s : State) {α : Type} (f : State → α → State) (own : α → Prop) [DecidablePred own]
    (hf : ∀ u a, (f u a).ctxs = u.ctxs) (l : List α) : (l.foldl (fun u a => if own a then u else f u a) s).ctxs = s.ctxs :=
  State.keeps_foldl (·.ctxs) _ (fun u a => by
    split
    · rfl
    · exact hf u a) _ _

theorem State.collAdvance_sizes (s : State) (r : CmdRef) : (s.collAdvance r).sizes = s.sizes := by
  unfold State.collAdvance
  split
  case h_2 => rfl
  split
  · rfl
  split
  · rfl
  rename_i t k _ _ _ j _ _ p _
  extract_lets v s1 s2
  have h1 : s1.sizes = s.sizes := by
    unfold s1
    split
    · split
      · rfl
      · rw [State.modCmd_sizes]
        exact State.sizes_of_ctxs (State.sendToOthers_ctxs s _ _ (fun _ _ => State.sendParts_ctxs ..) _)
    · rfl
  clear_value s1
  have h2 : s2.sizes = s1.sizes := by
    unfold s2
    split
    · split
      · rw [State.modCmd_sizes]
        exact State.sizes_of_ctxs (State.sendToOthers_ctxs s1 _ _ (fun _ _ => State.sendParts_ctxs ..) _)
      · rfl
    · rfl
  clear_value s2
  split
  · exact h2.trans h1
  · exact (State.modCmd_sizes ..).trans (h2.trans h1)

theorem State.collStart_sizes (s : State) (r : CmdRef) : (s.collStart r).sizes = s.sizes := by
  unfold State.collStart
  extract_lets u
  have hu : u.sizes = s.sizes := State.sizes_of_ctxs (State.grantFlows_ctxs ..)
  clear_value u
  split
  case h_2 => exact hu
  split
  · exact hu
  split
  · exact hu
  split
  · exact hu
  split
  · exact (State.sendBuffer_sizes ..).trans hu
  · refine (State.collAdvance_sizes ..).trans (Eq.trans ?_ hu)
    exact State.sizes_of_ctxs (State.sendToOthers_ctxs u _ _ (fun _ _ => State.sendParts_ctxs ..) _)

theorem State.collResume_sizes (s : State) (r : CmdRef) : (s.collResume r).sizes = s.sizes := by
  unfold State.collResume
  split
  case h_2 => rfl
  split
  · rfl
  split
  case h_2 => rfl
  split
  · split
    · rfl
    · exact State.sendBuffer_sizes ..
  · exact State.collAdvance_sizes ..

theorem State.startCmd_sizes (s : State) (r : CmdRef) : (s.startCmd r).sizes = s.sizes := by
  unfold State.startCmd
  split
  case h_2 => rfl
  extract_lets ev scale s1
  have h1 : s1.sizes = s.sizes := (State.sizes_of_ctxs (State.trace_ctxs ..)).trans (State.modCmd_sizes ..)
  clear_value s1
  split
  · exact (State.collResume_sizes ..).trans h1
  · exact (State.collStart_sizes ..).trans h1

theorem State.dispatch_sizes (s : State) : s.dispatch.sizes = s.sizes := by
  rw [State.dispatch_eq]
  refine State.keeps_foldl State.sizes _ (fun u ch => ?_) _ _
  unfold State.takeChoice
  split
  · split
    · exact State.startCmd_sizes ..
    · rfl
  · rfl

/-- A step that stands before ready commands start stands afterwards, with as many commands. -/
theorem State.dispatch_step {s : State} {c : CtxId} {t : Step} (h : t ∈ (s.ctx c).steps) :
    ∃ v ∈ (s.dispatch.ctx c).steps, v.still = t.still ∧ v.cmds.length = t.cmds.length := by
  have hmem : (t.still, t.cmds.length) ∈ (s.ctx c).sizes := List.mem_map_of_mem h
  rw [← State.ctx_sizes s.dispatch_sizes c] at hmem
  obtain ⟨v, hv, e⟩ := List.mem_map.1 hmem
  exact ⟨v, hv, congrArg (·.1) e, congrArg (·.2) e⟩

end Sys2Proof.Machine
end

section
/-! PROOFS. T0 of a serving period: it runs its template, or uses up its index alone (R297, R307, R397, R450). -/

namespace Sys2Proof.Machine

theorem exec_servingPeriodStart (c : CtxId) (s : State) : exec (.servingPeriodStart c) s = execServingPeriodStart c s := rfl

/-! ### What a period leaves -/

/-- Between two states the pattern `p` of context `c` has used up an index, and beside the context nothing has changed but what contexts
share. -/
structure State.UsesIndex (s u : State) (c : CtxId) (p : Pattern) : Prop where
  pattern : (u.ctx c).pattern = some { p with next := p.next + 1 }
  stands  : s.OthersStand u c
  intg    : u.intg = s.intg

theorem State.UsesIndex.nextPeriod {s u : State} {c : CtxId} {p : Pattern} (hp : (u.ctx c).pattern = some p) (hstands : s.OthersStand u c)
    (hintg : u.intg = s.intg) : s.UsesIndex (u.nextPeriod c) c p := by
  refine ⟨?_, hstands.trans (State.Inside.modCtx ..).stands, hintg⟩
  rw [State.nextPeriod, State.modCtx_ctx, if_pos rfl, hp]
  rfl

theorem State.UsesIndex.dispatch {s u : State} {c : CtxId} {p : Pattern} (h : s.UsesIndex u c p) : s.UsesIndex u.dispatch c p :=
  ⟨(State.dispatch_ctx_pattern ..).trans h.pattern, h.stands.trans (State.Inside.dispatch c u).stands, (State.dispatch_intg u).trans h.intg⟩

@[simp] theorem State.nextPeriod_steps (s : State) (c : CtxId) : ((s.nextPeriod c).ctx c).steps = (s.ctx c).steps := by
  rw [State.nextPeriod, State.modCtx_ctx, if_pos rfl]

/-! ### Versions that leave (R307) -/

/-- A version that leaves takes neither steps nor the pattern with it. -/
theorem State.dropOldModels_leaves (s : State) (c : CtxId) :
    ((s.dropOldModels c).ctx c).steps = (s.ctx c).steps ∧ ((s.dropOldModels c).ctx c).pattern = (s.ctx c).pattern
      ∧ (s.dropOldModels c).intg = s.intg := by
  have hrelease : ∀ (u : State) (m : Model), (((u.releaseModel c m).ctx c).steps, ((u.releaseModel c m).ctx c).pattern, (u.releaseModel c m).intg)
      = ((u.ctx c).steps, (u.ctx c).pattern, u.intg) := fun u m => by
    rw [State.releaseModel, State.modCtx_ctx, if_pos rfl]
    rfl
  have hfold : (((s.dropOldModels c).ctx c).steps, ((s.dropOldModels c).ctx c).pattern, (s.dropOldModels c).intg)
      = ((s.ctx c).steps, (s.ctx c).pattern, s.intg) :=
    State.keeps_foldl (fun u : State => ((u.ctx c).steps, (u.ctx c).pattern, u.intg)) _ hrelease _ s
  exact ⟨congrArg (·.1) hfold, congrArg (·.2.1) hfold, congrArg (·.2.2) hfold⟩

/-- A period that serves nobody: a switch of versions takes effect (R307). -/
def State.idlePeriod (s : State) (c : CtxId) (p : Pattern) : State :=
  ((s.modCtx c fun x => { x with models := modelsAt p x.models p.next }).dropOldModels c).nextPeriod c

theorem State.idlePeriod_usesIndex {s : State} {c : CtxId} {p : Pattern} (hp : (s.ctx c).pattern = some p) :
    s.UsesIndex (s.idlePeriod c p) c p ∧ ((s.idlePeriod c p).ctx c).steps = (s.ctx c).steps := by
  have hswitch := State.Inside.modCtx c s fun x => { x with models := modelsAt p x.models p.next }
  have hctx := (State.modCtx_ctx s c c fun x => { x with models := modelsAt p x.models p.next }).trans (if_pos rfl)
  obtain ⟨hsteps, hpattern, hintg⟩ := (s.modCtx c fun x => { x with models := modelsAt p x.models p.next }).dropOldModels_leaves c
  rw [hctx] at hsteps hpattern
  exact ⟨.nextPeriod (hpattern.trans hp) (hswitch.trans (State.Tidies.dropOldModels ..).inside).stands hintg,
    (State.nextPeriod_steps ..).trans hsteps⟩

/-! ### A period that runs (R297) -/

/-- The state in which the step of a period has joined its context. -/
def State.withPeriod (s : State) (c : CtxId) (t : Step) : State :=
  { s.modCtx c fun x => { x with steps := x.steps ++ [t] } with slu := { s.slu with nextUid := s.slu.nextUid + 1 } }

theorem State.withPeriod_ctx (s : State) (c d : CtxId) (t : Step) :
    (s.withPeriod c t).ctx d = if c = d then { s.ctx c with steps := (s.ctx c).steps ++ [t] } else s.ctx d :=
  State.modCtx_ctx s c d fun x => { x with steps := x.steps ++ [t] }

/-- The group of the step opens in a free slot, and the step runs; this does not ask that its number be new. -/
theorem State.openPeriod_leaves (s : State) (c : CtxId) (t : Step) {k : Fin 8} (hk : s.freeSlot (rowOf c) = some k) :
    let u := (s.withPeriod c t).openStep c t
    { t with state := .running, slot := some k } ∈ (u.ctx c).steps ∧ (u.ctx c).pattern = (s.ctx c).pattern
      ∧ u.row (rowOf c) = (s.row (rowOf c)).setSlot k .open ∧ s.OthersStand u c ∧ u.slu.nextUid = s.slu.nextUid + 1 ∧ u.intg = s.intg := by
  dsimp only
  rw [State.openStep_of_free (s := s.withPeriod c t) hk]
  have hctx : ((s.withPeriod c t).openGroup (t.group c k)).ctx c = { s.ctx c with steps := (s.ctx c).steps ++ [t] } :=
    (s.withPeriod_ctx c c t).trans (if_pos rfl)
  refine ⟨?step, ?pattern, ?row, .of_fixed (fun d hd => ?others) (fun q hq => ?rows) rfl, rfl, rfl⟩
  case step =>
    rw [State.modStep, State.modCtx_ctx, if_pos rfl, hctx]
    exact List.mem_map.2 ⟨t, List.mem_append_right _ (List.mem_singleton_self t), if_pos (beq_self_eq_true _)⟩
  case pattern => rw [State.modStep, State.modCtx_ctx, if_pos rfl, hctx]; rfl
  case row => exact (State.openGroup_row ..).trans (if_pos rfl)
  case others => rw [State.modStep, State.modCtx_ctx, if_neg hd.symm]; exact congrArg Ctx.still ((s.withPeriod_ctx c d t).trans (if_neg hd.symm))
  case rows => exact (State.openGroup_row ..).trans (if_neg hq.symm)

/-! ### Which period runs -/

section
variable {s : State} {c : CtxId} {p : Pattern} (hu : s.up = true) (hp : (s.ctx c).pattern = some p)
  (hidle : ((s.ctx c).steps.any fun t => t.kind == .period) = false) (hdue : p.origin p.next ≤ s.clk.now) (hadmitting : s.slu.admitting = true)
include hu hp hidle hdue hadmitting

theorem execServingPeriodStart_of_barred (h : (s.ctx c).unbound = true ∨ s.zoneRefuses p.allow (s.patternZones p) = true) :
    execServingPeriodStart c s = .next (s.nextPeriod c) := by
  simp only [execServingPeriodStart, State.whenUp_of_up hu, hp, hidle, hadmitting, Nat.not_lt.2 hdue, Bool.true_eq_false, or_self, if_false,
    Bool.or_eq_true, h, if_true]

theorem execServingPeriodStart_of_empty (hbound : (s.ctx c).unbound = false) (hzones : s.zoneRefuses p.allow (s.patternZones p) = false)
    (hnone : ∀ q ∈ p.seqs, p.next < q.joinAt) : execServingPeriodStart c s = .next (s.idlePeriod c p) := by
  have hany : (p.seqs.any fun q => decide (q.joinAt ≤ p.next)) = false :=
    List.any_eq_false.2 fun q hq => by simpa using hnone q hq
  simp only [execServingPeriodStart, State.whenUp_of_up hu, hp, hidle, hadmitting, Nat.not_lt.2 hdue, Bool.true_eq_false, or_self, if_false,
    hbound, hzones, Bool.or_self, Bool.false_eq_true, hany, Bool.not_false, if_true]
  rfl

theorem execServingPeriodStart_of_joined (hbound : (s.ctx c).unbound = false) (hzones : s.zoneRefuses p.allow (s.patternZones p) = false)
    {q : Seqn} (hq : q ∈ p.seqs) (hjoined : q.joinAt ≤ p.next) {cs : List (Entry × CmdFacts)} (htemplate : s.templateOf c p = some cs) :
    execServingPeriodStart c s
      = .next (((s.withPeriod c (s.periodStep p cs)).openStep c (s.periodStep p cs)).nextPeriod c).dispatch := by
  have hany : (p.seqs.any fun q => decide (q.joinAt ≤ p.next)) = true := List.any_eq_true.2 ⟨q, hq, decide_eq_true hjoined⟩
  simp only [execServingPeriodStart, State.whenUp_of_up hu, hp, hidle, hadmitting, Nat.not_lt.2 hdue, Bool.true_eq_false, or_self, if_false,
    hbound, hzones, Bool.or_self, Bool.false_eq_true, hany, Bool.not_true, htemplate]
  rfl

end

/-- What is left of a period that runs, once its ready commands have started. -/
theorem State.runPeriod_leaves {s : State} {c : CtxId} {p : Pattern} (hp : (s.ctx c).pattern = some p) (cs : List (Entry × CmdFacts))
    {k : Fin 8} (hk : s.freeSlot (rowOf c) = some k) :
    let u := (((s.withPeriod c (s.periodStep p cs)).openStep c (s.periodStep p cs)).nextPeriod c).dispatch
    s.UsesIndex u c p ∧ u.slu.nextUid = s.slu.nextUid + 1 ∧ u.row (rowOf c) = (s.row (rowOf c)).setSlot k .open
      ∧ ∃ v ∈ (u.ctx c).steps, v.still = { (s.periodStep p cs).still with state := .running, slot := some k }
        ∧ v.cmds.length = cs.length := by
  obtain ⟨hstep, hpattern, hrow, hstands, huid, hintg⟩ := s.openPeriod_leaves c (s.periodStep p cs) hk
  generalize (s.withPeriod c (s.periodStep p cs)).openStep c (s.periodStep p cs) = o at *
  rw [← State.nextPeriod_steps] at hstep
  obtain ⟨v, hv, hstill, hlength⟩ := State.dispatch_step hstep
  refine ⟨(State.UsesIndex.nextPeriod (hpattern.trans hp) hstands hintg).dispatch, ?uid, ?row, v, hv, hstill, ?length⟩
  case uid => rw [State.dispatch_slu]; exact huid
  case row => exact ((State.Inside.dispatch c _).rows _).trans hrow
  case length => exact hlength.trans (List.length_map ..)

end Sys2Proof.Machine
end

section
/-! PROOFS. The fetch of a version's chunks: a request is answered, a piece joins its chunk, and a chunk that does not come is asked for
once more (R309 to R311). -/

namespace Sys2Proof.Machine

theorem exec_fetchRequest (p : OxtPkt) (s : State) : exec (.fetchRequest p) s = execFetchRequest p s := rfl
theorem exec_fetchChunk (p : OxtPkt) (s : State) : exec (.fetchChunk p) s = execFetchChunk p s := rfl
theorem exec_fetchAbsent (p : OxtPkt) (s : State) : exec (.fetchAbsent p) s = execFetchAbsent p s := rfl
theorem exec_fetchWaitExpiry (c : CtxId) (chunk : Nat) (s : State) : exec (.fetchWaitExpiry c chunk) s = execFetchWaitExpiry c chunk s := rfl

theorem State.OnFlows.clk {s t : State} (h : s.OnFlows t) : t.clk = s.clk := by rw [h]
theorem State.OnFlows.awaitsChunk {s t : State} (h : s.OnFlows t) (c : CtxId) (p : OxtPkt) : t.awaitsChunk c p = s.awaitsChunk c p := by
  rw [h]; rfl

theorem State.OnFlows.askChunk (s : State) (c : CtxId) (name : BitVec 256) (wait : Ns) (rank i : Nat) :
    s.OnFlows (s.askChunk c name wait rank i) := State.sendData_rest ..

/-! ### The fetches of a load part -/

/-- A load part whose fetch of chunk `i` has changed. -/
def LoadPart.onFetch (l : LoadPart) (i : Nat) (f : Fetch → Fetch) : LoadPart :=
  { l with fetches := l.fetches.map fun q => if q.chunk = i then f q else q }

theorem State.modFetch_ctx (s : State) (c : CtxId) (i : Nat) (f : Fetch → Fetch) :
    (s.modFetch c i f).ctx c = { s.ctx c with load := (s.ctx c).load.map (·.onFetch i f) } :=
  (State.modCtx_ctx ..).trans (if_pos rfl)

theorem LoadPart.onFetch_find? {l : LoadPart} {i : Nat} {f : Fetch → Fetch} (hf : ∀ q, (f q).chunk = q.chunk) :
    (l.onFetch i f).fetches.find? (fun q => q.chunk == i) = (l.fetches.find? fun q => q.chunk == i).map f := by
  have hsame : ((fun q : Fetch => q.chunk == i) ∘ fun q => if q.chunk = i then f q else q) = fun q => q.chunk == i := by
    funext q
    by_cases h : q.chunk = i <;> simp [h, hf]
  rw [LoadPart.onFetch, List.find?_map, hsame]
  cases hq : l.fetches.find? fun q => q.chunk == i with
  | none => rfl
  | some q => exact congrArg some (if_pos (by simpa using List.find?_some hq))

/-- What has become of the fetches of chunk `i`. -/
theorem LoadPart.mem_onFetch {l : LoadPart} {i : Nat} {f : Fetch → Fetch} {q : Fetch} (h : q ∈ (l.onFetch i f).fetches) (hq : q.chunk = i) :
    ∃ q0, q = f q0 := by
  obtain ⟨q0, -, rfl⟩ := List.mem_map.1 h
  by_cases h0 : q0.chunk = i
  · exact ⟨q0, if_pos h0⟩
  · rw [if_neg h0] at hq
    exact absurd hq h0

/-! ### A request (R309, R310) -/

/-- The version of a name, resident in a context of the job, that holds chunk `i`. -/
def State.holderOf (s : State) (c : CtxId) (name : BitVec 256) (i : Nat) : Option Model :=
  allCtx.findSome? fun d =>
    if (s.ctx d).job.tag = (s.ctx c).job.tag then (s.ctx d).models.find? fun m => m.resident && m.name == name && decide (i < m.count)
    else none

theorem State.OnFlows.holderOf {s t : State} (h : s.OnFlows t) (c : CtxId) (name : BitVec 256) (i : Nat) :
    t.holderOf c name i = s.holderOf c name i := by rw [h]; rfl

/-- A version of the job of context `c`. -/
def State.JobModel (s : State) (c : CtxId) (m : Model) : Prop := ∃ d, (s.ctx d).job.tag = (s.ctx c).job.tag ∧ m ∈ (s.ctx d).models

/-- A resident version of a name that has chunk `i`. -/
def Model.Holds (m : Model) (name : BitVec 256) (i : Nat) : Prop := m.resident = true ∧ m.name = name ∧ i < m.count

theorem Model.holds_iff {m : Model} {name : BitVec 256} {i : Nat} :
    (m.resident && m.name == name && decide (i < m.count)) = true ↔ m.Holds name i := by
  simp [Model.Holds, and_assoc]

theorem State.holderOf_holds {s : State} {c : CtxId} {name : BitVec 256} {i : Nat} {m : Model} (h : s.holderOf c name i = some m) :
    s.JobModel c m ∧ m.Holds name i := by
  obtain ⟨d, -, hd⟩ := List.exists_of_findSome?_eq_some h
  split at hd
  · have hholds : (m.resident && m.name == name && decide (i < m.count)) = true := by simpa using List.find?_some hd
    exact ⟨⟨d, ‹_›, List.mem_of_find?_eq_some hd⟩, Model.holds_iff.1 hholds⟩
  · cases hd

theorem State.holderOf_isSome {s : State} {c : CtxId} {name : BitVec 256} {i : Nat} {m : Model} (hm : s.JobModel c m) (h : m.Holds name i) :
    ∃ n, s.holderOf c name i = some n := by
  obtain ⟨d, htag, hd⟩ := hm
  refine Option.isSome_iff_exists.1 (List.findSome?_isSome_iff.2 ⟨d, List.mem_finRange d, ?_⟩)
  rw [if_pos htag]
  exact List.find?_isSome.2 ⟨m, hd, Model.holds_iff.2 h⟩

/-- The messages that bring a holder's chunk. -/
def State.sendHeld (s : State) (c : CtxId) (p : OxtPkt) (m : Model) : State :=
  (messages (s.committedBytes (m.base + p.slot.toNat * Config.chunkBytes) (chunkBytesOf m.total p.slot.toNat))).foldl (fun u q =>
    u.sendData c p.srcRank.toNat (flowFor p.slot.toNat p.srcRank.toNat) 3 fun k =>
      { k with cmd := 1#12, slot := p.slot, offset := BitVec.ofNat 32 q.1, payload := q.2 }) s

section
variable {s : State} {p : OxtPkt} {c : CtxId} (h : s.Delivers p 0 3 c)
include h

theorem execFetchRequest_of_held (hk : p.cmd = 0#12) {m : Model}
    (hm : s.holderOf c (digestOf (slice p.payload 0 32)) p.slot.toNat = some m) :
    execFetchRequest p s = .next ((s.arrived c p).sendHeld c p m) := by
  rw [← (State.OnFlows.arrived s c p).holderOf, State.holderOf] at hm
  simp only [execFetchRequest, hk, State.receive_of_delivers h, hm, ne_eq, not_true_eq_false, if_false, if_true]
  rfl

theorem execFetchRequest_of_absent (hk : p.cmd = 0#12) (hm : s.holderOf c (digestOf (slice p.payload 0 32)) p.slot.toNat = none) :
    execFetchRequest p s = .next ((s.arrived c p).sendData c p.srcRank.toNat (flowFor p.slot.toNat p.srcRank.toNat) 3 fun k =>
      { k with cmd := 2#12, slot := p.slot }) := by
  rw [← (State.OnFlows.arrived s c p).holderOf, State.holderOf] at hm
  simp only [execFetchRequest, hk, State.receive_of_delivers h, hm, ne_eq, not_true_eq_false, if_false, if_true]

/-- A piece that is awaited is taken. -/
theorem execFetchChunk_of_awaited (hk : p.cmd = 1#12) (hawaits : s.awaitsChunk c p = true) :
    execFetchChunk p s = .next ((s.arrived c p).takeWeights c p) := by
  simp only [execFetchChunk, hk, State.receive_of_delivers h, (State.OnFlows.arrived s c p).awaitsChunk, hawaits, ne_eq, not_true_eq_false,
    if_false, if_true]

theorem execFetchAbsent_of_awaited (hk : p.cmd = 2#12) (hawaits : s.awaitsChunk c p = true) :
    execFetchAbsent p s = .next ((s.arrived c p).retryChunk c p.slot.toNat false) := by
  simp only [execFetchAbsent, hk, State.receive_of_delivers h, (State.OnFlows.arrived s c p).awaitsChunk, hawaits, ne_eq, not_true_eq_false,
    if_false, if_true]

end

/-! ### A piece arrives (R311) -/

/-- A fetch with a further piece. -/
def Fetch.withPiece (f : Fetch) (off : Nat) (bs : List Byte) : Fetch := { f with pieces := f.pieces ++ [(off, bs)] }

/-- A piece that does not complete its chunk joins the others. -/
theorem State.takeWeights_of_short {s : State} {c : CtxId} {p : OxtPkt} {l : LoadPart} {q : Fetch} (hl : (s.ctx c).load = some l)
    (hq : l.fetches.find? (fun f => f.chunk == p.slot.toNat) = some q)
    (hshort : ({ index := p.slot.toNat, pieces := q.pieces ++ [(p.offset.toNat, p.payload)], digest := none, verified := false
                 repeats := 0 } : RecvChunk).bytes.length < q.len) :
    s.takeWeights c p = s.modFetch c p.slot.toNat (·.withPiece p.offset.toNat p.payload) := by
  have hchunk : q.chunk = p.slot.toNat := by simpa using List.find?_some hq
  have hload : ((s.modFetch c p.slot.toNat (·.withPiece p.offset.toNat p.payload)).ctx c).load
      = some (l.onFetch p.slot.toNat (·.withPiece p.offset.toNat p.payload)) := by rw [State.modFetch_ctx, hl]; rfl
  have hfind := (LoadPart.onFetch_find? (l := l) (i := p.slot.toNat) (f := (·.withPiece p.offset.toNat p.payload)) fun _ => rfl).trans
    (congrArg (Option.map _) hq)
  rw [← hchunk] at hshort
  unfold Fetch.withPiece at hload hfind ⊢
  simp only [State.takeWeights, hload, hfind, Option.map_some]
  exact if_pos hshort

/-! ### A chunk that does not come (R311) -/

section
variable {s : State} {c : CtxId} {l : LoadPart} {q : Fetch} {i : Nat} (hl : (s.ctx c).load = some l)
  (hq : l.fetches.find? (fun f => f.chunk == i) = some q)
include hl hq

/-- A chunk that was asked for once is asked for once more, from the next holder. -/
theorem State.retryChunk_of_first (htries : q.tries = 1) (bad : Bool) :
    let t := s.retryChunk c i bad
    (t.ctx c).steps = (s.ctx c).steps ∧ (t.ctx c).load = some (l.onFetch i fun f =>
      { f with holder := (q.holder + 1) % l.holders.length, tries := 2, asked := s.clk.now, pieces := [] }) := by
  simp only [State.retryChunk, hl, hq, htries, if_true]
  rw [(State.OnFlows.askChunk ..).ctx, State.modFetch_ctx, hl]
  exact ⟨rfl, rfl⟩

/-- One that was asked for twice ends the load part. -/
theorem State.retryChunk_of_second (htries : q.tries ≠ 1) {v : Step} (hv : (s.ctx c).step? l.uid = some v) (hlive : v.state ≠ .committed)
    (bad : Bool) : s.EndsStep (s.retryChunk c i bad) c l.uid .abortedFault := by
  simp only [State.retryChunk, hl, hq, if_neg htries]
  exact (State.EndsStep.abortStep hv hlive ..).dispatch

end

theorem execFetchWaitExpiry_of_due {s : State} {c : CtxId} {l : LoadPart} {q : Fetch} {chunk : Nat} (hu : s.up = true)
    (hl : (s.ctx c).load = some l) (hwaits : l.fetches.find? (fun q => q.chunk == chunk && decide (0 < q.tries) && !q.done) = some q)
    (hdue : q.asked + l.wait ≤ s.clk.now) : execFetchWaitExpiry c chunk s = .next (s.retryChunk c chunk false) := by
  simp only [execFetchWaitExpiry, State.whenUp_of_up hu, hl, hwaits, if_pos hdue]

/-- What has become of the fetches of a chunk that is asked for once more. -/
theorem LoadPart.mem_again {l : LoadPart} {i h : Nat} {now : Ns} {f : Fetch}
    (hf : f ∈ (l.onFetch i fun f => { f with holder := h, tries := 2, asked := now, pieces := [] }).fetches) (hi : f.chunk = i) :
    f.tries = 2 ∧ f.holder = h ∧ f.asked = now ∧ f.pieces = [] := by
  obtain ⟨f0, rfl⟩ := LoadPart.mem_onFetch hf hi
  exact ⟨rfl, rfl, rfl, rfl⟩

/-! ### The obligation -/

/-- What stands beside a context whose pattern has used up an index. -/
theorem State.UsesIndex.stays {s u : State} {c : CtxId} {p : Pattern} (h : s.UsesIndex u c p) :
    (u.ctx c).pattern = some { p with next := p.next + 1 } ∧ (∀ d, d ≠ c → (u.ctx d).still = (s.ctx d).still)
      ∧ u.cfg = s.cfg ∧ u.own = s.own ∧ u.fuse = s.fuse ∧ u.intg = s.intg ∧ u.boot = s.boot ∧ u.hw = s.hw := by
  obtain ⟨hcfg, hown, hfuse, -, -, hboot, -, -, hhw⟩ := h.stands.rest
  exact ⟨h.pattern, h.stands.ctxs, hcfg, hown, hfuse, h.intg, hboot, hhw⟩

/-- Settles O52: a period takes one of three branches, each of which uses up the index; a message of a fetch in order reaches the load part
that awaits it, and a chunk that does not come is asked for again or ends the part. -/
theorem periodsAndFetches : Obligations.PeriodsAndFetches := by
  unfold Obligations.PeriodsAndFetches
  simp only [exec_servingPeriodStart, exec_fetchRequest, exec_fetchChunk, exec_fetchAbsent, exec_fetchWaitExpiry]
  refine ⟨fun s c p hu hp hidle hdue hadmitting => ⟨fun hbarred => ?barred, fun hbound hzones => ⟨fun hnone => ?empty,
      fun q cs k hq hjoined htemplate hk => ?runs⟩⟩,
    fun s p c h => ⟨fun hk hnone => ?absent, fun hk hheld => ?held, fun l q hk hawaits hl hq hshort => ?piece,
      fun l q hk hawaits hl hq htries => ?again, fun hk => ?notRequest, fun hk => ?notChunk, fun hk => ?notAbsent⟩,
    fun s c l q chunk hu hl hwaits hdue hq => ⟨fun htries => ?first, fun v htries hv hlive => ?second⟩⟩
  case barred =>
    have huses : s.UsesIndex (s.nextPeriod c) c p := .nextPeriod hp (State.Inside.refl c s).stands rfl
    exact ⟨_, execServingPeriodStart_of_barred hu hp hidle hdue hadmitting hbarred, huses.stays, State.nextPeriod_steps .., rfl, rfl⟩
  case empty =>
    obtain ⟨huses, hsteps⟩ := State.idlePeriod_usesIndex hp
    exact ⟨_, execServingPeriodStart_of_empty hu hp hidle hdue hadmitting hbound hzones hnone, huses.stays, hsteps⟩
  case runs =>
    obtain ⟨huses, huid, hrow, v, hv, hstill, hlength⟩ := State.runPeriod_leaves hp cs hk
    refine ⟨_, execServingPeriodStart_of_joined hu hp hidle hdue hadmitting hbound hzones hq hjoined htemplate, huses.stays, huid, ?slot,
      congrArg (·.version) hrow, v, hv, congrArg (·.kind) hstill, congrArg (·.uid) hstill, congrArg (·.state) hstill,
      congrArg (·.slot) hstill, (congrArg (·.hdr.step.toNat) hstill).trans (BitVec.toNat_ofNat ..), hlength⟩
    rw [State.slot, hrow]
    simp [RowData.setSlot]
  case absent =>
    refine execFetchRequest_of_absent h hk (Option.eq_none_iff_forall_ne_some.2 fun m hm => ?_)
    obtain ⟨hjob, hholds⟩ := State.holderOf_holds hm
    exact hnone m hjob hholds
  case held =>
    obtain ⟨m0, hjob0, hholds0⟩ := hheld
    obtain ⟨m, hm⟩ := State.holderOf_isSome hjob0 hholds0
    obtain ⟨hjob, hholds⟩ := State.holderOf_holds hm
    exact ⟨m, hjob, hholds, execFetchRequest_of_held h hk hm⟩
  case piece =>
    rw [execFetchChunk_of_awaited h hk hawaits,
      State.takeWeights_of_short (by rw [(State.OnFlows.arrived s c p).ctx]; exact hl) hq hshort]
    rfl
  case again =>
    have hflows := State.OnFlows.arrived s c p
    obtain ⟨hsteps, hload⟩ := State.retryChunk_of_first (s := s.arrived c p) (by rw [hflows.ctx]; exact hl) hq htries false
    rw [hflows.ctx] at hsteps
    rw [hflows.clk] at hload
    exact ⟨_, _, execFetchAbsent_of_awaited h hk hawaits, hload, hsteps, fun f hf hi => LoadPart.mem_again hf hi⟩
  case notRequest => rw [execFetchRequest, if_pos hk]
  case notChunk => rw [execFetchChunk, if_pos hk]
  case notAbsent => rw [execFetchAbsent, if_pos hk]
  case first =>
    obtain ⟨hsteps, hload⟩ := State.retryChunk_of_first hl hq htries false
    refine ⟨_, _, execFetchWaitExpiry_of_due hu hl hwaits hdue, hload, hsteps, fun f hf hi => ?_⟩
    obtain ⟨htries2, hholder, -, -⟩ := LoadPart.mem_again hf hi
    exact ⟨htries2, hholder⟩
  case second =>
    exact ⟨_, execFetchWaitExpiry_of_due hu hl hwaits hdue, State.retryChunk_of_second hl hq htries hv hlive false⟩

end Sys2Proof.Machine
end

section
/-! SUPPORT. The admission numbers of steps (R41): what the elementary operations do with them. -/

namespace Sys2Proof.Machine

/-- `State.Numbered` of the two parts of a state that it reads: the contexts and the next number. -/
def Numbering (xs : Vector Ctx 16) (next : Nat) : Prop :=
  ∀ c : CtxId, (xs[c].steps.map (·.uid)).Nodup ∧ ∀ u ∈ xs[c].steps, u.uid < next

@[simp ↓, simp] theorem State.numbering_eta (s : State) : Numbering s.ctxs s.slu.nextUid ↔ s.Numbered := Iff.rfl

@[simp ↓] theorem State.mk_numbered (pending clk own cfg lat slu ctxs weir recv mem hbm sram fuse hw fab dma ring intg rcv pwr sec flash boot tel out) :
    (State.mk pending clk own cfg lat slu ctxs weir recv mem hbm sram fuse hw fab dma ring intg rcv pwr sec flash boot tel out).Numbered
      ↔ Numbering ctxs slu.nextUid := Iff.rfl

@[simp ↓] theorem State.ite_numbered (c : Prop) [Decidable c] (a b : State) :
    (if c then a else b).Numbered ↔ if c then a.Numbered else b.Numbered := by split <;> rfl

/-- What numbers say of a context: those of its steps, in order. -/
theorem State.numbered_iff (s : State) : s.Numbered ↔
    ∀ c, ((s.ctx c).steps.map (·.uid)).Nodup ∧ ∀ n ∈ (s.ctx c).steps.map (·.uid), n < s.slu.nextUid := by
  simp only [List.forall_mem_map]; exact Iff.rfl

/-- Numbers that leave a context, and none that join one, leave the rest distinct. -/
theorem State.Numbered.of_sublist {s t : State} (h : s.Numbered) (hn : s.slu.nextUid ≤ t.slu.nextUid)
    (hc : ∀ c, ((t.ctx c).steps.map (·.uid)).Sublist ((s.ctx c).steps.map (·.uid))) : t.Numbered := by
  rw [State.numbered_iff] at h ⊢
  exact fun c => ⟨(h c).1.sublist (hc c), fun n m => Nat.lt_of_lt_of_le ((h c).2 n ((hc c).subset m)) hn⟩

theorem State.numbered_congr {s t : State} (hn : t.slu.nextUid = s.slu.nextUid)
    (hc : ∀ c, (t.ctx c).steps.map (·.uid) = (s.ctx c).steps.map (·.uid)) : t.Numbered ↔ s.Numbered := by
  simp only [State.numbered_iff, hn, hc]

theorem State.Numbered.setCtx {s : State} (h : s.Numbered) (c : CtxId) (x : Ctx)
    (hx : (x.steps.map (·.uid)).Sublist ((s.ctx c).steps.map (·.uid))) : (s.setCtx c x).Numbered :=
  h.of_sublist (Nat.le_refl _) fun d => by
    by_cases e : c = d
    · subst e; simpa using hx
    · simp [e]

theorem State.Numbered.modCtx {s : State} (h : s.Numbered) (c : CtxId) (f : Ctx → Ctx)
    (hf : ((f (s.ctx c)).steps.map (·.uid)).Sublist ((s.ctx c).steps.map (·.uid))) : (s.modCtx c f).Numbered := h.setCtx c _ hf

@[simp ↓] theorem State.setCtx_numbered (s : State) (c : CtxId) (x : Ctx) (hx : x.steps.map (·.uid) = (s.ctx c).steps.map (·.uid)) :
    (s.setCtx c x).Numbered ↔ s.Numbered :=
  State.numbered_congr rfl fun d => by
    by_cases e : c = d
    · subst e; simpa using hx
    · simp [e]

@[simp ↓] theorem State.modCtx_numbered (s : State) (c : CtxId) (f : Ctx → Ctx)
    (hf : (f (s.ctx c)).steps.map (·.uid) = (s.ctx c).steps.map (·.uid)) : (s.modCtx c f).Numbered ↔ s.Numbered :=
  State.setCtx_numbered s c _ hf

theorem Ctx.modStep_uids (x : Ctx) (uid : Nat) (f : Step → Step) (hf : ∀ t, (f t).uid = t.uid) :
    (x.modStep uid f).steps.map (·.uid) = x.steps.map (·.uid) := by
  simp only [Ctx.modStep, List.map_map]
  exact List.map_congr_left fun t _ => by dsimp only [Function.comp]; split <;> simp [hf]

@[simp ↓] theorem State.modStep_numbered (s : State) (c : CtxId) (uid : Nat) (f : Step → Step) (hf : ∀ t, (f t).uid = t.uid) :
    (s.modStep c uid f).Numbered ↔ s.Numbered := State.modCtx_numbered s c _ (Ctx.modStep_uids _ uid f hf)

@[simp ↓] theorem State.modCmd_numbered (s : State) (r : CmdRef) (f : Cmd → Cmd) : (s.modCmd r f).Numbered ↔ s.Numbered :=
  State.modStep_numbered _ _ _ _ fun _ => rfl

@[simp ↓] theorem State.foldl_numbered {α : Type} (f : State → α → State) (h : ∀ u a, (f u a).Numbered ↔ u.Numbered) (l : List α)
    (s : State) : (l.foldl f s).Numbered ↔ s.Numbered := by
  induction l generalizing s with
  | nil => rfl
  | cons a l ih => rw [List.foldl_cons, ih, h]

theorem State.Numbered.foldl {α : Type} {s : State} (h : s.Numbered) {f : State → α → State}
    (hf : ∀ u a, u.Numbered → (f u a).Numbered) (l : List α) : (l.foldl f s).Numbered := by
  induction l generalizing s with
  | nil => exact h
  | cons a l ih => exact ih (hf s a h)

@[simp ↓] theorem State.forCtx_numbered (s : State) (f : State → CtxId → State) (h : ∀ u c, (f u c).Numbered ↔ u.Numbered) :
    (s.forCtx f).Numbered ↔ s.Numbered := State.foldl_numbered f h _ s

theorem State.Numbered.forCtx {s : State} (h : s.Numbered) {f : State → CtxId → State} (hf : ∀ u c, u.Numbered → (f u c).Numbered) :
    (s.forCtx f).Numbered := h.foldl hf _

theorem State.Numbered.whenUp {s : State} (h : s.Numbered) {f : State → State} (hf : ∀ u, u.Numbered → (f u).Numbered) :
    (s.whenUp f).Numbered := by
  unfold State.whenUp; split
  · exact hf s h
  · exact h

theorem State.Numbered.whenPowered {s : State} (h : s.Numbered) {f : State → State} (hf : ∀ u, u.Numbered → (f u).Numbered) :
    (s.whenPowered f).Numbered := by
  unfold State.whenPowered; split
  · exact hf s h
  · exact h

end Sys2Proof.Machine
end

section
/-! SUPPORT. What keeps the admission numbers of steps whatever the state was (R41): the operations that no step joins or leaves, so that
the numbers are distinct afterwards if and only if they were before. -/

namespace Sys2Proof.Machine

@[simp ↓] theorem State.emit_numbered (s : State) (o : Output) : (State.emit s o).Numbered ↔ s.Numbered := Iff.rfl

@[simp ↓] theorem State.emits_numbered (s : State) (os : List Output) : (State.emits s os).Numbered ↔ s.Numbered := Iff.rfl

@[simp ↓] theorem State.msixBoth_numbered (s : State) (v : Nat) : (State.msixBoth s v).Numbered ↔ s.Numbered := Iff.rfl

@[simp ↓] theorem State.msixOwner_numbered (s : State) (v : Nat) : (State.msixOwner s v).Numbered ↔ s.Numbered := by
  unfold State.msixOwner; split <;> rfl

@[simp ↓] theorem State.discardForeign_numbered (s : State) (p : Port) : (State.discardForeign s p).Numbered ↔ s.Numbered := Iff.rfl

@[simp ↓] theorem State.discardAperture_numbered (s : State) (p : Port) (sev : Severity) :
    (State.discardAperture s p sev).Numbered ↔ s.Numbered := Iff.rfl

@[simp ↓] theorem State.measure_numbered (s : State) (i : Fin 6) (e : BitVec 256) : (State.measure s i e).Numbered ↔ s.Numbered := Iff.rfl

@[simp ↓] theorem State.trace_numbered (s : State) (cls event ctx arg : Nat) : (State.trace s cls event ctx arg).Numbered ↔ s.Numbered := by
  unfold State.trace; split <;> rfl

@[simp ↓] theorem State.freezeTrace_numbered (s : State) : (State.freezeTrace s).Numbered ↔ s.Numbered := by
  unfold State.freezeTrace; split <;> rfl

@[simp ↓] theorem State.putBase_numbered (s : State) (start : Nat) (bs : List Byte) :
    (State.putBase s start bs).Numbered ↔ s.Numbered := Iff.rfl

@[simp ↓] theorem State.putEntry_numbered (s : State) (c : CtxId) (e : Entry64) : (State.putEntry s c e).Numbered ↔ s.Numbered := by
  unfold State.putEntry; simp

@[simp ↓] theorem State.modClient_numbered (s : State) (id : Byte) (f : Client → Client) :
    (State.modClient s id f).Numbered ↔ s.Numbered := Iff.rfl

@[simp ↓] theorem State.journal_numbered (s : State) (b : JBody) : (State.journal s b).Numbered ↔ s.Numbered := Iff.rfl

@[simp ↓] theorem State.record_numbered (s : State) (g : Sig) : (State.record s g).Numbered ↔ s.Numbered := Iff.rfl

@[simp ↓] theorem State.writeRow_numbered (s : State) (r : Fin 17) (f : RowData → RowData) :
    (State.writeRow s r f).Numbered ↔ s.Numbered := Iff.rfl

@[simp ↓] theorem State.modGroup_numbered (s : State) (r : Fin 17) (k : Fin 8) (f : Group → Group) :
    (State.modGroup s r k f).Numbered ↔ s.Numbered := Iff.rfl

@[simp ↓] theorem State.foldPages_numbered (s : State) (ps : List PageCopy) : (State.foldPages s ps).Numbered ↔ s.Numbered := Iff.rfl

@[simp ↓] theorem State.inlineFold_numbered (s : State) (r : Fin 17) (page : Nat) : (State.inlineFold s r page).Numbered ↔ s.Numbered := by
  unfold State.inlineFold
  (repeat' split) <;> simp

@[simp ↓] theorem State.shadowFor_numbered (s : State) (c : CtxId) (k : Fin 8) (exts : List (Nat × Nat)) (page : Nat) :
    (State.shadowFor s c k exts page).1.Numbered ↔ s.Numbered := by
  unfold State.shadowFor; dsimp only
  (repeat' split) <;> simp

@[simp ↓] theorem State.putCopy_numbered (s : State) (c : CtxId) (k : Fin 8) (start : Nat) (bs : List Byte) :
    (State.putCopy s c k start bs).Numbered ↔ s.Numbered := Iff.rfl

@[simp ↓] theorem State.writePart_numbered (s : State) (c : CtxId) (k : Fin 8) (exts : List (Nat × Nat)) (part : Nat × List Byte) :
    (State.writePart s c k exts part).1.Numbered ↔ s.Numbered := by
  unfold State.writePart; dsimp only
  (repeat' split) <;> simp

@[simp ↓] theorem State.writeParts_numbered (c : CtxId) (k : Fin 8) (exts : List (Nat × Nat)) (ws : List (Nat × List Byte)) (s : State) :
    (State.writeParts c k exts ws s).1.Numbered ↔ s.Numbered := by
  induction ws generalizing s with
  | nil => rfl
  | cons w ws ih => rw [State.writeParts]; split <;> simp [ih]

@[simp ↓] theorem State.writeAll_numbered (s : State) (c : CtxId) (k : Fin 8) (ws : List (Nat × List Byte)) :
    (s.writeAll c k ws).1.Numbered ↔ s.Numbered := State.writeParts_numbered ..

@[simp ↓] theorem State.openGroup_numbered (s : State) (g : Group) : (State.openGroup s g).Numbered ↔ s.Numbered := Iff.rfl

@[simp ↓] theorem State.prepareGroup_numbered (s : State) (r : Fin 17) (k : Fin 8) :
    (State.prepareGroup s r k).Numbered ↔ s.Numbered := Iff.rfl

@[simp ↓] theorem State.commitGroup_numbered (s : State) (r : Fin 17) (k : Fin 8) (version : BitVec 64) (prior : Bool) :
    (State.commitGroup s r k version prior).Numbered ↔ s.Numbered := by
  unfold State.commitGroup; dsimp only
  (repeat' split) <;> simp

@[simp ↓] theorem State.abortGroup_numbered (s : State) (r : Fin 17) (k : Fin 8) : (State.abortGroup s r k).Numbered ↔ s.Numbered := Iff.rfl

@[simp ↓] theorem State.revertGroup_numbered (s : State) (r : Fin 17) (version : BitVec 64) :
    (State.revertGroup s r version).Numbered ↔ s.Numbered := by
  unfold State.revertGroup; split <;> rfl

@[simp ↓] theorem State.dropRow_numbered (s : State) (r : Fin 17) : (State.dropRow s r).Numbered ↔ s.Numbered := Iff.rfl

@[simp ↓] theorem State.endWalk_numbered (s : State) (r : Fin 17) (k : Fin 8) : (State.endWalk s r k).Numbered ↔ s.Numbered := by
  unfold State.endWalk
  (repeat' split) <;> simp

@[simp ↓] theorem State.injectWrite_numbered (s : State) (exts : List (Nat × Nat)) : (State.injectWrite s exts).Numbered ↔ s.Numbered := by
  unfold State.injectWrite
  (repeat' split) <;> simp

@[simp ↓] theorem State.setFlow_numbered (s : State) (f : Flow) : (State.setFlow s f).Numbered ↔ s.Numbered := Iff.rfl

@[simp ↓] theorem State.sendOnFlow_numbered (s : State) (c : CtxId) (p : OxtPkt) : (State.sendOnFlow s c p).Numbered ↔ s.Numbered := by
  unfold State.sendOnFlow; simp

@[simp ↓] theorem State.releaseHeld_numbered (s : State) (k : FlowKey) : (State.releaseHeld s k).Numbered ↔ s.Numbered := by
  unfold State.releaseHeld; simp

@[simp ↓] theorem State.sendAck_numbered (s : State) (k : FlowKey) : (State.sendAck s k).Numbered ↔ s.Numbered := Iff.rfl

@[simp ↓] theorem State.grantFlows_numbered (s : State) (r : CmdRef) : (State.grantFlows s r).Numbered ↔ s.Numbered := by
  unfold State.grantFlows; simp

@[simp ↓] theorem State.sendData_numbered (s : State) (c : CtxId) (peer : Nat) (f : Fin 8) (cls : Nat) (tweak : OxtPkt → OxtPkt) :
    (State.sendData s c peer f cls tweak).Numbered ↔ s.Numbered := by
  unfold State.sendData; simp

@[simp ↓] theorem State.sendAborts_numbered (s : State) (c : CtxId) (step : BitVec 64) :
    (State.sendAborts s c step).Numbered ↔ s.Numbered := by
  unfold State.sendAborts; simp

@[simp ↓] theorem State.suspect_numbered (s : State) (k : Suspicion) (c : Option CtxId) (rank portOrFlow epoch : Nat) :
    (s.suspect k c rank portOrFlow epoch).Numbered ↔ s.Numbered := by
  unfold State.suspect; simp

@[simp ↓] theorem State.sendParts_numbered (s : State) (c : CtxId) (t : Step) (idx peer pos cls : Nat) (n : Nat) (parts : List Part) :
    (State.sendParts s c t idx peer pos cls n parts).Numbered ↔ s.Numbered := by
  unfold State.sendParts; simp

@[simp ↓] theorem State.collAdvance_numbered (s : State) (r : CmdRef) : (State.collAdvance s r).Numbered ↔ s.Numbered := by
  unfold State.collAdvance; dsimp only
  (repeat' split) <;> simp

@[simp ↓] theorem State.sendBuffer_numbered (s : State) (r : CmdRef) (t : Step) (j : CollJob) :
    (State.sendBuffer s r t j).Numbered ↔ s.Numbered := by
  unfold State.sendBuffer; dsimp only
  (repeat' split) <;> simp

@[simp ↓] theorem State.collStart_numbered (s0 : State) (r : CmdRef) : (State.collStart s0 r).Numbered ↔ s0.Numbered := by
  unfold State.collStart; dsimp only
  (repeat' split) <;> simp

@[simp ↓] theorem State.collResume_numbered (s : State) (r : CmdRef) : (State.collResume s r).Numbered ↔ s.Numbered := by
  unfold State.collResume
  (repeat' split) <;> simp

@[simp ↓] theorem State.startCmd_numbered (s : State) (r : CmdRef) : (State.startCmd s r).Numbered ↔ s.Numbered := by
  unfold State.startCmd
  (repeat' split) <;> simp

@[simp ↓] theorem State.dispatch_numbered (s : State) :
    s.dispatch.Numbered ↔ s.Numbered := State.foldl_numbered _ (fun _ _ => by (repeat' split) <;> simp) _ _

@[simp ↓] theorem State.forgetVolatile_numbered (s : State) (c : CtxId) : (State.forgetVolatile s c).Numbered ↔ s.Numbered := Iff.rfl

@[simp ↓] theorem State.noteKills_numbered (s : State) (ks : List Kill) : (s.noteKills ks).Numbered ↔ s.Numbered := Iff.rfl

@[simp ↓] theorem State.zeroRanges_numbered (s : State) (rs : List (Nat × Nat)) : (State.zeroRanges s rs).Numbered ↔ s.Numbered := Iff.rfl

@[simp ↓] theorem State.applyRaised_numbered (s : State) (is : List Item) :
    (s.applyRaised is).Numbered ↔ s.Numbered := State.foldl_numbered _ (fun _ _ => by split <;> simp) _ _

@[simp ↓] theorem State.prepareStep_numbered (s : State) (c : CtxId) (t : Step) : (State.prepareStep s c t).Numbered ↔ s.Numbered := by
  unfold State.prepareStep
  (repeat' split) <;> simp

@[simp ↓] theorem State.replayPart_numbered (s : State) (c : CtxId) (w : Nat × List Byte) :
    (State.replayPart s c w).1.Numbered ↔ s.Numbered := by
  unfold State.replayPart; dsimp only
  (repeat' split) <;> simp

@[simp ↓] theorem State.replayParts_numbered (c : CtxId) (ws : List (Nat × List Byte)) (s : State) :
    (State.replayParts c ws s).1.Numbered ↔ s.Numbered := by
  induction ws generalizing s with
  | nil => rfl
  | cons w ws ih => rw [State.replayParts]; split <;> simp [ih]

@[simp ↓] theorem State.cmdPut_numbered (s : State) (c : CtxId) (t : Step) (ws : List (Nat × List Byte)) :
    (s.cmdPut c t ws).1.Numbered ↔ s.Numbered := by
  unfold State.cmdPut
  (repeat' split) <;> simp only [State.replayParts_numbered, State.writeAll_numbered]

@[simp ↓] theorem State.cmdWrite_numbered (s : State) (c : CtxId) (t : Step) (ws : List (Nat × List Byte)) :
    (State.cmdWrite s c t ws).1.Numbered ↔ s.Numbered := by
  unfold State.cmdWrite; simp

@[simp ↓] theorem State.sendGap_numbered (s : State) (k : FlowKey) : (State.sendGap s k).Numbered ↔ s.Numbered := by
  unfold State.sendGap; simp

@[simp ↓] theorem State.sendResetNack_numbered (s : State) (k : FlowKey) : (State.sendResetNack s k).Numbered ↔ s.Numbered := Iff.rfl

@[simp ↓] theorem State.applyAck_numbered (s : State) (k : FlowKey) (p : OxtPkt) : (State.applyAck s k p).Numbered ↔ s.Numbered := by
  unfold State.applyAck; simp

@[simp ↓] theorem State.dropBad_numbered (s : State) : (State.dropBad s).Numbered ↔ s.Numbered := Iff.rfl

@[simp ↓] theorem State.dropEpoch_numbered (s : State) : (State.dropEpoch s).Numbered ↔ s.Numbered := Iff.rfl

@[simp ↓] theorem State.dropGen_numbered (s : State) : (State.dropGen s).Numbered ↔ s.Numbered := Iff.rfl

@[simp ↓] theorem State.recordGen_numbered (s : State) (k : FlowKey) (g : BitVec 16) (restart : Bool) :
    (State.recordGen s k g restart).Numbered ↔ s.Numbered := by
  unfold State.recordGen; split <;> rfl

@[simp ↓] theorem State.aheadEpoch_numbered (s : State) (c : CtxId) (p : OxtPkt) : (State.aheadEpoch s c p).Numbered ↔ s.Numbered := by
  unfold State.aheadEpoch; simp

@[simp ↓] theorem State.judge_numbered (s : State) (p : OxtPkt) : (State.judge s p).1.Numbered ↔ s.Numbered := by
  unfold State.judge; dsimp only
  (repeat' split) <;> simp

@[simp ↓] theorem State.takeInOrder_numbered (s : State) (k : FlowKey) (p : OxtPkt) : (State.takeInOrder s k p).Numbered ↔ s.Numbered := by
  unfold State.takeInOrder; simp

theorem State.Numbered.receive {s : State} (h :
    s.Numbered) {p : OxtPkt} {typ cls : Nat} {known : State → CtxId → Bool} {act : State → CtxId → State}
    (ha : ∀ u c, u.Numbered → (act u c).Numbered) : (s.receive p typ cls known act).Numbered := by
  unfold State.receive; dsimp only
  (repeat' split) <;> simp [h, ha]

@[simp ↓] theorem State.retransmit_numbered (s : State) (k : FlowKey) : (State.retransmit s k).Numbered ↔ s.Numbered := Iff.rfl

@[simp ↓] theorem State.returnCredit_numbered (s : State) (r : CmdRef) (t : Step) (j : CollJob) :
    (State.returnCredit s r t j).Numbered ↔ s.Numbered := by
  unfold State.returnCredit; simp

@[simp ↓] theorem State.dropMessage_numbered (s : State) : (State.dropMessage s).Numbered ↔ s.Numbered := Iff.rfl

@[simp ↓] theorem State.stageMessage_numbered (s : State) (c : CtxId) (p : OxtPkt) : (State.stageMessage s c p).Numbered ↔ s.Numbered := by
  unfold State.stageMessage
  (repeat' split) <;> simp

@[simp ↓] theorem State.creditBack_numbered (s : State) (c : CtxId) (r : CmdRef) : (s.creditBack c r).Numbered ↔ s.Numbered := by
  unfold State.creditBack
  extract_lets s1
  rw [State.dispatch_numbered]
  exact Iff.trans (State.modStep_numbered _ _ _ _ (by exact fun _ => rfl)) (State.modCmd_numbered ..)

@[simp ↓] theorem State.missingRanks_numbered (s : State) (c : CtxId) (missing : List Nat) :
    (State.missingRanks s c missing).Numbered ↔ s.Numbered := by
  unfold State.missingRanks; simp

@[simp ↓] theorem State.countBursts_numbered (s : State) (j : DmaJob) (ns : List Nat) (pos : Nat) :
    (s.countBursts j ns pos).Numbered ↔ s.Numbered := by
  induction ns generalizing s pos with
  | nil => rfl
  | cons n ns ih => rw [State.countBursts, ih]; rfl

@[simp ↓] theorem State.dmaMove_numbered (s : State) (c : CtxId) (t : Step) (j : DmaJob) (host : List Byte) (pos n : Nat) :
    (s.dmaMove c t j host pos n).1.Numbered ↔ s.Numbered := by
  unfold State.dmaMove; dsimp only
  (repeat' split) <;> simp only [State.cmdWrite_numbered, State.emits_numbered, State.mk_numbered, State.numbering_eta]

@[simp ↓] theorem State.dmaHash_numbered (s : State) (c : CtxId) (t : Step) (j : DmaJob) (host : List Byte) :
    (State.dmaHash s c t j host).1.Numbered ↔ s.Numbered := by
  unfold State.dmaHash
  (repeat' split) <;> simp

@[simp ↓] theorem State.ackLine_numbered (s : State) (r : CmdRef) (j : DmaJob) (l : Fin 5 × Fin 64) (pos : Nat) :
    (State.ackLine s r j l pos).Numbered ↔ s.Numbered := by
  unfold State.ackLine; simp

@[simp ↓] theorem State.takeUp_numbered (s : State) (c : CtxId) (t : Step) (sweep : Bool) :
    (State.takeUp s c t sweep).Numbered ↔ s.Numbered := Iff.rfl

@[simp ↓] theorem State.programChange_numbered (s : State) (c : CtxId) : (State.programChange s c).Numbered ↔ s.Numbered := by
  unfold State.programChange; dsimp only
  (repeat' split) <;> simp

@[simp ↓] theorem State.admitProgram_numbered (s : State) (c : CtxId) (digest : BitVec 256) (step : BitVec 64) (replay : Bool) :
    (State.admitProgram s c digest step replay).Numbered ↔ s.Numbered := by
  unfold State.admitProgram; simp

@[simp ↓] theorem State.setLevel_numbered (s : State) (z : Fin 7) (l : Nat) : (State.setLevel s z l).Numbered ↔ s.Numbered := by
  unfold State.setLevel; simp

@[simp ↓] theorem State.driveAlert_numbered (s : State) : (State.driveAlert s).Numbered ↔ s.Numbered := by
  unfold State.driveAlert; split <;> rfl

@[simp ↓] theorem State.recomputeLevels_numbered (s : State) : s.recomputeLevels.Numbered ↔ s.Numbered := by
  unfold State.recomputeLevels; simp

@[simp ↓] theorem State.accept_numbered (s : State) (c : CtxId) (w : Who) (e : Entry64 → Entry64) :
    (State.accept s c w e).Numbered ↔ s.Numbered := by
  unfold State.accept; simp

@[simp ↓] theorem State.deny_numbered (s : State) (c : CtxId) (w : Who) (d : Deny) (step : Nat) :
    (State.deny s c w d step).Numbered ↔ s.Numbered := by
  unfold State.deny; simp

@[simp ↓] theorem State.acceptStep_numbered (s : State) (c : CtxId) (t : Step) : (State.acceptStep s c t).Numbered ↔ s.Numbered := by
  unfold State.acceptStep; simp

@[simp ↓] theorem State.denyStep_numbered (s : State) (c : CtxId) (w : Who) (d : Deny) (step : Nat) :
    (State.denyStep s c w d step).Numbered ↔ s.Numbered := by
  unfold State.denyStep; simp

@[simp ↓] theorem State.countMiss_numbered (s : State) : (State.countMiss s).Numbered ↔ s.Numbered := Iff.rfl

@[simp ↓] theorem State.sendMirror_numbered (s : State) (c : CtxId) (peer kind slot : Nat) (step : BitVec 64) (off : Nat) (bs : List Byte) :
    (State.sendMirror s c peer kind slot step off bs).Numbered ↔ s.Numbered := by
  unfold State.sendMirror; simp

@[simp ↓] theorem State.sendChunk_numbered (s : State) (c : CtxId) (peer i : Nat) (step : BitVec 64) (bs : List Byte)
    (digest : BitVec 256) :
    (State.sendChunk s c peer i step bs digest).Numbered ↔ s.Numbered := by
  unfold State.sendChunk; simp

@[simp ↓] theorem State.sendSeal_numbered (s : State) (c : CtxId) (peer : Nat) (step : BitVec 64) (count : Nat) :
    (State.sendSeal s c peer step count).Numbered ↔ s.Numbered := by
  unfold State.sendSeal; simp

@[simp ↓] theorem State.sendVerdict_numbered (s : State) (c : CtxId) (kind : Nat) (step : BitVec 64) :
    (State.sendVerdict s c kind step).Numbered ↔ s.Numbered := by
  unfold State.sendVerdict
  (repeat' split) <;> simp

@[simp ↓] theorem State.checkpoint_numbered (s : State) (c : CtxId) (step : BitVec 64) (version : BitVec 64) (final : Bool) :
    (State.checkpoint s c step version final).Numbered ↔ s.Numbered := by
  unfold State.checkpoint
  (repeat' split) <;> simp

@[simp ↓] theorem State.sealIfDue_numbered (s : State) (c : CtxId) : (State.sealIfDue s c).Numbered ↔ s.Numbered := by
  unfold State.sealIfDue
  (repeat' split) <;> simp

@[simp ↓] theorem State.laterCommit_numbered (s : State) (c : CtxId) (pages : List Nat) :
    (State.laterCommit s c pages).Numbered ↔ s.Numbered := by
  unfold State.laterCommit
  (repeat' split) <;> simp

@[simp ↓] theorem State.dropStream_numbered (s : State) (c : CtxId) (tell : Bool) : (State.dropStream s c tell).Numbered ↔ s.Numbered := by
  unfold State.dropStream
  (repeat' split) <;> simp

@[simp ↓] theorem State.modSlot_numbered (s : State) (i : Nat) (f : RecvSlot → RecvSlot) :
    (State.modSlot s i f).Numbered ↔ s.Numbered := Iff.rfl

@[simp ↓] theorem State.freeOlder_numbered (s : State) : (State.freeOlder s).Numbered ↔ s.Numbered := Iff.rfl

@[simp ↓] theorem State.abortReceive_numbered (s : State) (i : Nat) : (State.abortReceive s i).Numbered ↔ s.Numbered := by
  unfold State.abortReceive
  (repeat' split) <;> simp

@[simp ↓] theorem State.openReceive_numbered (s0 : State) (c : CtxId) (p : OxtPkt) :
    (State.openReceive s0 c p).1.Numbered ↔ s0.Numbered := by
  unfold State.openReceive; dsimp only
  (repeat' split) <;> simp

@[simp ↓] theorem State.commitReceive_numbered (s : State) (i : Nat) : (State.commitReceive s i).Numbered ↔ s.Numbered := by
  unfold State.commitReceive
  (repeat' split) <;> simp

@[simp ↓] theorem State.modRestore_numbered (s : State) (c : CtxId) (f : Restore → Restore) :
    (State.modRestore s c f).Numbered ↔ s.Numbered := by
  unfold State.modRestore; simp

theorem State.Numbered.mirrorMsg {s : State} (h :
    s.Numbered) {p : OxtPkt} {kind : Nat} {known : State → CtxId → Bool} {act : State → CtxId → State}
    (ha : ∀ u c, u.Numbered → (act u c).Numbered) : (s.mirrorMsg p kind known act).Numbered := by
  unfold State.mirrorMsg; split
  · exact h.receive ha
  · exact h

@[simp ↓] theorem State.takeChunk_numbered (s : State) (c : CtxId) (p : OxtPkt) : (State.takeChunk s c p).Numbered ↔ s.Numbered := by
  unfold State.takeChunk; dsimp only
  (repeat' split) <;> simp

@[simp ↓] theorem State.takeSeal_numbered (s : State) (c : CtxId) (p : OxtPkt) : (State.takeSeal s c p).Numbered ↔ s.Numbered := by
  unfold State.takeSeal
  (repeat' split) <;> simp

@[simp ↓] theorem State.repeatChunk_numbered (s : State) (c : CtxId) (p : OxtPkt) : (State.repeatChunk s c p).Numbered ↔ s.Numbered := by
  unfold State.repeatChunk; dsimp only
  (repeat' split) <;> simp

@[simp ↓] theorem State.latchRead_numbered (s : State) (path : Path) (block off : Nat) :
    (State.latchRead s path block off).Numbered ↔ s.Numbered := by
  unfold State.latchRead; dsimp only
  (repeat' split) <;> simp

@[simp ↓] theorem State.readReg_numbered (s : State) (path : Path) (off : Nat) : (State.readReg s path off).1.Numbered ↔ s.Numbered := by
  unfold State.readReg; dsimp only
  (repeat' split) <;> simp

@[simp ↓] theorem State.readRegs_numbered (s : State) (path : Path) (off n : Nat) : (s.readRegs path off n).1.Numbered ↔ s.Numbered := by
  induction n generalizing s off with
  | zero => rfl
  | succ n ih => rw [State.readRegs]; simp [ih]

@[simp ↓] theorem State.layAside_numbered (s : State) (fresh : List Range) :
    (s.layAside fresh).Numbered ↔ s.Numbered := State.foldl_numbered _ (fun _ _ => by dsimp only; split <;> simp) _ _

@[simp ↓] theorem State.allocate_numbered (s : State) (c : CtxId) (new : List Range) : (State.allocate s c new).Numbered ↔ s.Numbered := by
  unfold State.allocate; simp

@[simp ↓] theorem State.markHalfRate_numbered (s : State) (c : CtxId) : (State.markHalfRate s c).Numbered ↔ s.Numbered := by
  unfold State.markHalfRate; simp

@[simp ↓] theorem State.setCond_numbered (s : State) (c : CtxId) (uid : Nat) : (State.setCond s c uid).Numbered ↔ s.Numbered := by
  unfold State.setCond; simp

@[simp ↓] theorem State.suspendCmd_numbered (s : State) (r : CmdRef) (k : Cmd) : (State.suspendCmd s r k).Numbered ↔ s.Numbered := by
  unfold State.suspendCmd; simp

@[simp ↓] theorem State.deliver_numbered (s : State) (c : CtxId) (ds : List Delivery) : (State.deliver s c ds).Numbered ↔ s.Numbered := by
  unfold State.deliver; simp

@[simp ↓] theorem State.askChunk_numbered (s : State) (c : CtxId) (name : BitVec 256) (wait : Ns) (rank i : Nat) :
    (State.askChunk s c name wait rank i).Numbered ↔ s.Numbered := by
  unfold State.askChunk; simp

@[simp ↓] theorem State.modFetch_numbered (s : State) (c : CtxId) (i : Nat) (f : Fetch → Fetch) :
    (State.modFetch s c i f).Numbered ↔ s.Numbered := by
  unfold State.modFetch; simp

@[simp ↓] theorem State.askMore_numbered (s : State) (c : CtxId) : (s.askMore c).Numbered ↔ s.Numbered := by
  unfold State.askMore
  split
  · rfl
  · exact State.foldl_numbered _ (fun _ _ => by (repeat' split) <;> simp) _ _

@[simp ↓] theorem State.nextPeriod_numbered (s : State) (c : CtxId) : (State.nextPeriod s c).Numbered ↔ s.Numbered := by
  unfold State.nextPeriod; simp

@[simp ↓] theorem State.releaseModel_numbered (s : State) (c : CtxId) (m : Model) : (State.releaseModel s c m).Numbered ↔ s.Numbered := by
  unfold State.releaseModel; simp

@[simp ↓] theorem State.dropOldModels_numbered (s : State) (c : CtxId) : (State.dropOldModels s c).Numbered ↔ s.Numbered := by
  unfold State.dropOldModels; simp

@[simp ↓] theorem State.endPattern_numbered (s : State) (c : CtxId) : (State.endPattern s c).Numbered ↔ s.Numbered := by
  unfold State.endPattern
  (repeat' split) <;> simp

@[simp ↓] theorem State.dropReceiver_numbered (s : State) (c : CtxId) : (State.dropReceiver s c).Numbered ↔ s.Numbered := by
  unfold State.dropReceiver; simp

@[simp ↓] theorem State.judgeRebind_numbered (s : State) (c : CtxId) (bs : List Byte) (w : Who) :
    (State.judgeRebind s c bs w).Numbered ↔ s.Numbered := by
  unfold State.judgeRebind; simp

@[simp ↓] theorem State.judgeGroups_numbered (s : State) (c : CtxId) (bs : List Byte) (w : Who) :
    (State.judgeGroups s c bs w).Numbered ↔ s.Numbered := by
  unfold State.judgeGroups; simp

@[simp ↓] theorem State.judgePeers_numbered (s : State) (c : CtxId) (bs : List Byte) (w : Who) :
    (State.judgePeers s c bs w).Numbered ↔ s.Numbered := by
  unfold State.judgePeers; simp

@[simp ↓] theorem State.judgeTargets_numbered (s : State) (c : CtxId) (bs : List Byte) (w : Who) :
    (State.judgeTargets s c bs w).Numbered ↔ s.Numbered := by
  unfold State.judgeTargets; simp

@[simp ↓] theorem State.judgeMirror_numbered (s : State) (c : CtxId) (bs : List Byte) (w : Who) :
    (State.judgeMirror s c bs w).Numbered ↔ s.Numbered := by
  unfold State.judgeMirror; dsimp only
  (repeat' split) <;> simp

@[simp ↓] theorem State.judgeFinal_numbered (s : State) (c : CtxId) (bs : List Byte) (w : Who) :
    (State.judgeFinal s c bs w).Numbered ↔ s.Numbered := by
  unfold State.judgeFinal; dsimp only
  (repeat' split) <;> simp

@[simp ↓] theorem State.adopt_numbered (s : State) (c : CtxId) (exts : List (Nat × Nat)) :
    (State.adopt s c exts).Numbered ↔ s.Numbered := by
  unfold State.adopt; simp

@[simp ↓] theorem State.judgePattern_numbered (s : State) (c : CtxId) (bs : List Byte) (w : Who) :
    (State.judgePattern s c bs w).Numbered ↔ s.Numbered := by
  unfold State.judgePattern; dsimp only
  (repeat' split) <;> simp

@[simp ↓] theorem State.judgeJoin_numbered (s : State) (c : CtxId) (bs : List Byte) (w : Who) :
    (State.judgeJoin s c bs w).Numbered ↔ s.Numbered := by
  unfold State.judgeJoin; dsimp only
  (repeat' split) <;> simp

@[simp ↓] theorem State.judgeLeave_numbered (s : State) (c : CtxId) (bs : List Byte) (w : Who) :
    (State.judgeLeave s c bs w).Numbered ↔ s.Numbered := by
  unfold State.judgeLeave; dsimp only
  (repeat' split) <;> simp

@[simp ↓] theorem State.judgeStop_numbered (s : State) (c : CtxId) (bs : List Byte) (w : Who) :
    (State.judgeStop s c bs w).Numbered ↔ s.Numbered := by
  unfold State.judgeStop; dsimp only
  (repeat' split) <;> simp

@[simp ↓] theorem State.failVerify_numbered (s : State) : (State.failVerify s).Numbered ↔ s.Numbered := Iff.rfl

@[simp ↓] theorem State.judgeManifest_numbered (s : State) (c : CtxId) (bs : List Byte) (w : Who) :
    (State.judgeManifest s c bs w).Numbered ↔ s.Numbered := by
  unfold State.judgeManifest; dsimp only
  (repeat' split) <;> simp

@[simp ↓] theorem State.adoptUse_numbered (s : State) (new : Vector ClusterUse 28) : (s.adoptUse new).Numbered ↔ s.Numbered := by
  unfold State.adoptUse
  extract_lets
  rw [State.forCtx_numbered _ _ fun u c => State.modCtx_numbered u c _ (by dsimp only; split <;> rfl)]
  rfl

@[simp ↓] theorem State.gradeChanged_numbered (s : State) : (State.gradeChanged s).Numbered ↔ s.Numbered := by
  unfold State.gradeChanged; split <;> rfl

@[simp ↓] theorem State.journalRetire_numbered (s : State) (u : HwUnit) : (State.journalRetire s u).Numbered ↔ s.Numbered := by
  unfold State.journalRetire; simp

@[simp ↓] theorem State.failCluster_numbered (s : State) (c : Fin 28) : (State.failCluster s c).Numbered ↔ s.Numbered := by
  unfold State.failCluster
  (repeat' split) <;> simp

@[simp ↓] theorem State.failArray_numbered (s : State) (c : Fin 28) (k : Fin 2) (i : Fin 4) :
    (State.failArray s c k i).Numbered ↔ s.Numbered := by
  unfold State.failArray; dsimp only
  (repeat' split) <;> simp

@[simp ↓] theorem State.setModule_numbered (s : State) (m : Module) (st : ModState) : (State.setModule s m st).Numbered ↔ s.Numbered := by
  unfold State.setModule; split <;> rfl

@[simp ↓] theorem State.failRegion_numbered (s : State) (r : Fin 4) : (State.failRegion s r).Numbered ↔ s.Numbered := by
  unfold State.failRegion; simp

@[simp ↓] theorem State.retireSoon_numbered (s : State) (u : HwUnit) : (State.retireSoon s u).Numbered ↔ s.Numbered := by
  unfold State.retireSoon; split <;> rfl

@[simp ↓] theorem State.missUnit_numbered (s : State) (name : List Nat) (u : HwUnit) (rung : Nat) :
    (State.missUnit s name u rung).Numbered ↔ s.Numbered := by
  unfold State.missUnit; simp

@[simp ↓] theorem State.dropRecord_numbered (s : State) (c : CtxId) (d : Drop) (len : Nat) :
    (s.dropRecord c d len).Numbered ↔ s.Numbered := by
  unfold State.dropRecord
  extract_lets s1
  exact (State.modCtx_numbered s c _ (by rfl) : s1.Numbered ↔ s.Numbered)

@[simp ↓] theorem State.advance_numbered (s : State) (c : CtxId) (len : Nat) (rest : List Host.Cell) :
    (State.advance s c len rest).Numbered ↔ s.Numbered := by
  unfold State.advance; simp

@[simp ↓] theorem State.loseEvidence_numbered (s : State) (lost : Nat → Bool) : (State.loseEvidence s lost).Numbered ↔ s.Numbered := Iff.rfl

@[simp ↓] theorem State.clearCounters_numbered (s : State) :
    s.clearCounters.Numbered ↔ s.Numbered := State.numbered_congr rfl fun c => by simp [State.clearCounters, State.ctx]

@[simp ↓] theorem State.dropReceives_numbered (s : State) : (State.dropReceives s).Numbered ↔ s.Numbered := by
  unfold State.dropReceives; simp

@[simp ↓] theorem State.dropDeviceGroups_numbered (s : State) : (State.dropDeviceGroups s).Numbered ↔ s.Numbered := by
  unfold State.dropDeviceGroups; simp

@[simp ↓] theorem State.abandonUpdate_numbered (s : State) : (State.abandonUpdate s).Numbered ↔ s.Numbered := by
  unfold State.abandonUpdate; split <;> rfl

@[simp ↓] theorem State.noteRung_numbered (s : State) (g : Rung) : (State.noteRung s g).Numbered ↔ s.Numbered := by
  unfold State.noteRung; simp

@[simp ↓] theorem State.forgetKills_numbered (s : State) (scope : RungScope) : (s.forgetKills scope).Numbered ↔ s.Numbered := Iff.rfl

@[simp ↓] theorem State.linesBack_numbered (s : State) (scope : RungScope) : (State.linesBack s scope).Numbered ↔ s.Numbered := Iff.rfl

@[simp ↓] theorem State.quarantine_numbered (s : State) (g : Rung) : (State.quarantine s g).Numbered ↔ s.Numbered := by
  unfold State.quarantine
  (repeat' split) <;> simp

@[simp ↓] theorem State.endQuarantine_numbered (s : State) (q : Quarantine) (outcome : Nat) :
    (s.endQuarantine q outcome).Numbered ↔ s.Numbered := by
  unfold State.endQuarantine; simp

@[simp ↓] theorem State.unresolved_numbered (s : State) (q : Quarantine) : (State.unresolved s q).Numbered ↔ s.Numbered := by
  unfold State.unresolved; dsimp only
  (repeat' split) <;> simp

@[simp ↓] theorem State.meshNack_numbered (s : State) (p : MeshPkt) : (State.meshNack s p).Numbered ↔ s.Numbered := Iff.rfl

@[simp ↓] theorem State.meshStale_numbered (s : State) : (State.meshStale s).Numbered ↔ s.Numbered := Iff.rfl

@[simp ↓] theorem State.memoryRecord_numbered (s : State) (unit : HwUnit) (cls corrected poisoned : Nat) :
    (State.memoryRecord s unit cls corrected poisoned).Numbered ↔ s.Numbered := Iff.rfl

@[simp ↓] theorem State.fixLine_numbered (s : State) (line : Nat) : (State.fixLine s line).Numbered ↔ s.Numbered := by
  unfold State.fixLine; simp

@[simp ↓] theorem State.poisonLines_numbered (s : State) (g : Nat) (lines : List Nat) :
    (State.poisonLines s g lines).Numbered ↔ s.Numbered := Iff.rfl

@[simp ↓] theorem State.correctLines_numbered (s : State) (g : Nat) (measured : List Nat) :
    (State.correctLines s g measured).Numbered ↔ s.Numbered := by
  unfold State.correctLines; simp

@[simp ↓] theorem State.checkGroup_numbered (s : State) (g : Nat) (f : GroupFinding) :
    (State.checkGroup s g f).1.Numbered ↔ s.Numbered := by
  unfold State.checkGroup; dsimp only
  (repeat' split) <;> simp

@[simp ↓] theorem State.scrubWord_numbered (bank : SramBank) (s : State) (w : ScrubWord) :
    (State.scrubWord bank s w).Numbered ↔ s.Numbered := by
  unfold State.scrubWord; simp

@[simp ↓] theorem State.countChecker_numbered (s : State) (chk : Checker) : (State.countChecker s chk).Numbered ↔ s.Numbered := Iff.rfl

@[simp ↓] theorem State.keepEvidence_numbered (s : State) (r : Fin 4) (bs : List Byte) (g : Sig) :
    (State.keepEvidence s r bs g).1.Numbered ↔ s.Numbered := by
  unfold State.keepEvidence
  (repeat' split) <;> simp

@[simp ↓] theorem State.cleanUpTo_numbered (s : State) (c : CtxId) (step : Nat) : (State.cleanUpTo s c step).Numbered ↔ s.Numbered := by
  unfold State.cleanUpTo; simp

@[simp ↓] theorem State.discardFrom_numbered (s : State) (c : CtxId) (d : Nat) : (State.discardFrom s c d).Numbered ↔ s.Numbered := by
  unfold State.discardFrom; simp

@[simp ↓] theorem State.coverTail_numbered (s : State) (c : CtxId) (digest : BitVec 256) :
    (State.coverTail s c digest).Numbered ↔ s.Numbered := by
  unfold State.coverTail; simp

@[simp ↓] theorem State.journalSig_numbered (s : State) (g : Sig) (bs : List Byte) : (State.journalSig s g bs).Numbered ↔ s.Numbered := by
  unfold State.journalSig; simp

@[simp ↓] theorem State.writeRenew_numbered (s : State) (v : Reg) : (s.writeRenew v).Numbered ↔ s.Numbered := by
  unfold State.writeRenew; simp

@[simp ↓] theorem State.setLink_numbered (s : State) (p : Port) (st : LinkState) : (State.setLink s p st).Numbered ↔ s.Numbered := Iff.rfl

@[simp ↓] theorem State.unsupportedRead_numbered (s : State) (p : Port) : (State.unsupportedRead s p).Numbered ↔ s.Numbered := Iff.rfl

@[simp ↓] theorem State.aperturePart_numbered (s : State) (a : Nat) (bs : List Byte) :
    (State.aperturePart s a bs).1.Numbered ↔ s.Numbered := by
  unfold State.aperturePart
  (repeat' split) <;> simp

@[simp ↓] theorem State.apertureParts_numbered (s : State) (parts : List (Nat × List Byte)) :
    (s.apertureParts parts).1.Numbered ↔ s.Numbered := by
  suffices h : ∀ r : State × Bool, (parts.foldl (fun r w => ((State.aperturePart r.1 w.1 w.2).1,
      r.2 || (State.aperturePart r.1 w.1 w.2).2)) r).1.Numbered ↔ r.1.Numbered from h (s, false)
  induction parts with
  | nil => exact fun _ => Iff.rfl
  | cons w ws ih => exact fun r => (ih _).trans (State.aperturePart_numbered ..)

@[simp ↓] theorem State.setValid_numbered (s : State) (b ok : Bool) : (State.setValid s b ok).Numbered ↔ s.Numbered := by
  unfold State.setValid; split <;> rfl

@[simp ↓] theorem State.measureBoot_numbered (s : State) : s.measureBoot.Numbered ↔ s.Numbered := by
  unfold State.measureBoot
  extract_lets bs s1 s2 s3
  rw [State.foldl_numbered _ fun _ _ => State.foldl_numbered _ (fun _ _ => State.measure_numbered ..) _ _,
    State.foldl_numbered _ fun _ _ => by split <;> simp]
  rfl

@[simp ↓] theorem State.afterImage_numbered (s : State) : (State.afterImage s).Numbered ↔ s.Numbered := Iff.rfl

@[simp ↓] theorem State.writeUpdCtl_numbered (s : State) (v : Reg) : (State.writeUpdCtl s v).Numbered ↔ s.Numbered := by
  unfold State.writeUpdCtl; split <;> rfl

@[simp ↓] theorem State.keepEntry_numbered (s : State) (e : JEntry) : (State.keepEntry s e).Numbered ↔ s.Numbered := Iff.rfl

@[simp ↓] theorem State.journalFault_numbered (s : State) : (State.journalFault s).Numbered ↔ s.Numbered := Iff.rfl

@[simp ↓] theorem State.setArea_numbered (s : State) (i : Fin 2) (a : Area) : (State.setArea s i a).Numbered ↔ s.Numbered := Iff.rfl

@[simp ↓] theorem State.mark_numbered (s : State) : (State.mark s).Numbered ↔ s.Numbered := Iff.rfl

@[simp ↓] theorem State.holdEvent_numbered (s : State) : (State.holdEvent s).Numbered ↔ s.Numbered := by
  unfold State.holdEvent; split <;> rfl

@[simp ↓] theorem State.writeHeldMiss_numbered (s : State) : (State.writeHeldMiss s).Numbered ↔ s.Numbered := by
  unfold State.writeHeldMiss; dsimp only
  (repeat' split) <;> simp

@[simp ↓] theorem State.loadJournal_numbered (s : State) (es : List JEntry) : (State.loadJournal s es).Numbered ↔ s.Numbered := by
  unfold State.loadJournal; simp

@[simp ↓] theorem State.nextPhase_numbered (s : State) : (State.nextPhase s).Numbered ↔ s.Numbered := Iff.rfl

@[simp ↓] theorem State.fetchEnd_numbered (s : State) (f : Fetcher) (ok : Bool) : (State.fetchEnd s f ok).Numbered ↔ s.Numbered := by
  unfold State.fetchEnd; split <;> rfl

@[simp ↓] theorem State.modulesUp_numbered (s : State) : (State.modulesUp s).Numbered ↔ s.Numbered := Iff.rfl

@[simp ↓] theorem State.clearSram_numbered (s : State) : (State.clearSram s).Numbered ↔ s.Numbered := Iff.rfl

@[simp ↓] theorem State.setGrade_numbered (s : State) : (State.setGrade s).Numbered ↔ s.Numbered := by
  unfold State.setGrade; simp

@[simp ↓] theorem State.endWalks_numbered (s : State) (r : Fin 17) : (State.endWalks s r).Numbered ↔ s.Numbered := by
  unfold State.endWalks; simp

@[simp ↓] theorem State.dropMgmt_numbered (s : State) : (State.dropMgmt s).Numbered ↔ s.Numbered := Iff.rfl

@[simp ↓] theorem State.answerMgmt_numbered (s : State) (p : OxtPkt) (bs : List Byte) :
    (State.answerMgmt s p bs).Numbered ↔ s.Numbered := Iff.rfl

@[simp ↓] theorem State.probeTargets_numbered (s : State) (c : CtxId) : (State.probeTargets s c).Numbered ↔ s.Numbered := by
  unfold State.probeTargets; simp

@[simp ↓] theorem State.modPort_numbered (s : State) (p : Fin 8) (f : EthPort → EthPort) :
    (State.modPort s p f).Numbered ↔ s.Numbered := Iff.rfl

@[simp ↓] theorem State.countClock_numbered (s : State) : (State.countClock s).Numbered ↔ s.Numbered := Iff.rfl

@[simp ↓] theorem State.armed_numbered (s : State) (off : Nat) : (State.armed s off).Numbered ↔ s.Numbered := Iff.rfl

@[simp ↓] theorem State.writeClientClear_numbered (s : State) (v : Reg) : (State.writeClientClear s v).Numbered ↔ s.Numbered := by
  unfold State.writeClientClear; split <;> rfl

@[simp ↓] theorem State.writeHbmInject_numbered (s : State) (v : Reg) : (State.writeHbmInject s v).Numbered ↔ s.Numbered := by
  unfold State.writeHbmInject; split <;> rfl

@[simp ↓] theorem State.writeIntgInject_numbered (s : State) (v : Reg) : (State.writeIntgInject s v).Numbered ↔ s.Numbered := by
  unfold State.writeIntgInject; simp

@[simp ↓] theorem State.writeCover_numbered (s : State) (v : Reg) : (State.writeCover s v).Numbered ↔ s.Numbered := Iff.rfl

@[simp ↓] theorem State.writeAttest_numbered (s : State) (p : Port) (v : Reg) : (State.writeAttest s p v).Numbered ↔ s.Numbered := by
  unfold State.writeAttest; simp

@[simp ↓] theorem State.hostRead_numbered (s : State) (p : Port) (off : Nat) : (State.hostRead s p off).Numbered ↔ s.Numbered := by
  unfold State.hostRead; simp

end Sys2Proof.Machine
end

section
/-! SUPPORT. Steps that end and steps that join (R41, R43): an abort or a commit only lets numbers leave, and `State.Numbered.join` is the
one place where a number joins a context. Then flows, engines, heat, admission and mirroring, by these. -/

namespace Sys2Proof.Machine

theorem State.Numbered.abortOne {s : State} (h : s.Numbered) {c : CtxId} {t : Step} {code : Code} {reason : Reason} {index : Nat}
    {tell : Bool} : (s.abortOne c t code reason index tell).Numbered := by
  unfold State.abortOne
  extract_lets r s1 s2 killed s3 s3' s3'' s4 s5 s6 s7 s8
  have h1 : s1.Numbered := by unfold s1; split <;> simp [h]
  have h3 : s3''.Numbered := by unfold s3'' s3' s3 s2; simp [h1]
  have h4 : s4.Numbered := by unfold s4; simp [h3]
  have h5 : s5.Numbered := h4.modCtx _ _ (List.filter_sublist.map _)
  have h8 : s8.Numbered := by unfold s8 s7 s6; simp [h5]
  simp [h8]

theorem State.Numbered.abortFollowers {s : State} (h : s.Numbered) {c : CtxId} {code : Code} {tell : Bool} {ts : List Step}
    {prev : Bool} : (State.abortFollowers c code tell ts prev s).Numbered := by
  induction ts generalizing prev s with
  | nil => exact h
  | cons t ts ih =>
    unfold State.abortFollowers
    (repeat' split)
    · exact ih h
    · exact ih h.abortOne
    · exact ih h

@[simp ↓] theorem State.Numbered.abortStep {s : State} (h : s.Numbered) {c : CtxId} {uid : Nat} {code : Code} {reason : Reason}
    {index : Nat} {tell : Bool} : (s.abortStep c uid code reason index tell).Numbered := by
  unfold State.abortStep
  (repeat' split)
  · exact h
  · exact h
  · exact h.abortOne.abortFollowers

@[simp ↓] theorem State.Numbered.dropTail {s : State} (h : s.Numbered) {c : CtxId} {uid : Nat} : (s.dropTail c uid).Numbered :=
  h.modCtx _ _ (List.filter_sublist.map _)

@[simp ↓] theorem State.Numbered.faultCmd {s : State} (h : s.Numbered) {r : CmdRef} {reason : Reason} : (s.faultCmd r reason).Numbered := by
  unfold State.faultCmd
  simp [h]

theorem Ctx.committedStep_uids (x : Ctx) (t : Step) :
    ((x.committedStep t).steps.map (·.uid)).Sublist (x.steps.map (·.uid)) := by
  unfold Ctx.committedStep; dsimp only
  split
  · exact List.filter_sublist.map _
  · exact Ctx.modStep_uids x t.uid (fun u => { u with state := .committed }) (fun _ => rfl) ▸ .refl _

@[simp ↓] theorem State.Numbered.commitStep {s : State} (h : s.Numbered) {c : CtxId} {t : Step} {version : BitVec 64} {prior : Bool} :
    (s.commitStep c t version prior).Numbered := by
  unfold State.commitStep
  split
  · exact h
  · extract_lets r s1 dropped s2 s3 s4
    have h2 : s2.Numbered := State.Numbered.modCtx (by unfold s1; simp [h]) _ _ (Ctx.committedStep_uids ..)
    unfold s4 s3
    simp [h2]

@[simp ↓] theorem State.Numbered.afterCmd {s : State} (h : s.Numbered) {c : CtxId} {uid : Nat} : (s.afterCmd c uid).Numbered := by
  unfold State.afterCmd
  extract_lets s1
  have h1 : s1.Numbered := h.modCtx _ _ (List.filter_sublist.map _)
  (repeat' split) <;> simp [h, h1]

@[simp ↓] theorem State.Numbered.finishCmd {s : State} (h : s.Numbered) {r : CmdRef} : (s.finishCmd r).Numbered := by
  unfold State.finishCmd
  dsimp only
  (repeat' split) <;> simp [h]

/-- An effect that leaves numbers alone. -/
theorem State.Numbered.completeCmd {s : State} (h : s.Numbered) {r : CmdRef} {kind : Nat} {minTime : State → Step → Cmd → Ns} {eff : Effect}
    (he : ∀ t k, (eff s t k).1.Numbered ↔ s.Numbered) : (s.completeCmd r kind minTime eff).Numbered := by
  unfold State.completeCmd
  dsimp only
  (repeat' split)
  · exact ((he _ _).2 h).faultCmd
  · exact ((he _ _).2 h).finishCmd
  · exact h
  · exact h

/-- A step with the next number joins a context, and that number is used up. -/
theorem State.Numbered.join {s : State} (h : s.Numbered) {c : CtxId} {t : Step} (ht : t.uid = s.slu.nextUid) {f : Ctx → Ctx}
    (hf : (f (s.ctx c)).steps = (s.ctx c).steps ++ [t]) :
    State.Numbered { s.modCtx c f with slu := { s.slu with nextUid := s.slu.nextUid + 1 } } := by
  rw [State.numbered_iff] at h ⊢
  intro d
  have hd : ((s.modCtx c f).ctx d).steps = if c = d then (s.ctx c).steps ++ [t] else (s.ctx d).steps := by
    rw [State.modCtx_ctx]; split <;> simp [hf]
  obtain ⟨hdistinct, hbelow⟩ := h d
  show (((s.modCtx c f).ctx d).steps.map (·.uid)).Nodup ∧ ∀ n ∈ ((s.modCtx c f).ctx d).steps.map (·.uid), n < s.slu.nextUid + 1
  rw [hd]
  split
  case isTrue e =>
    subst e
    rw [List.map_append, List.map_singleton, ht]
    refine ⟨List.nodup_append.2 ⟨hdistinct, List.nodup_singleton _, fun a ha b hb => ?_⟩, fun n hn => ?_⟩
    · rw [List.mem_singleton] at hb
      exact hb ▸ Nat.ne_of_lt (hbelow a ha)
    · rcases List.mem_append.1 hn with hn | hn
      · exact Nat.lt_succ_of_lt (hbelow n hn)
      · exact List.mem_singleton.1 hn ▸ Nat.lt_succ_self _
  case isFalse => exact ⟨hdistinct, fun n hn => Nat.lt_succ_of_lt (hbelow n hn)⟩

@[simp ↓] theorem State.Numbered.addStep {s : State} (h : s.Numbered) {c : CtxId} {t : Step} {folds : List Fold} {raised : List Item}
    (ht : t.uid = s.slu.nextUid) : (s.addStep c t folds raised).Numbered := by
  unfold State.addStep
  simp only [State.modClient_numbered, State.applyRaised_numbered]
  exact h.join ht rfl

/-! ### Flows and messages -/

@[simp ↓] theorem State.Numbered.failFlow {s : State} (h : s.Numbered) {k : FlowKey} : (s.failFlow k).Numbered := by
  unfold State.failFlow
  extract_lets w refs ready s1 s2
  have h2 : s2.Numbered := State.Numbered.foldl (by unfold s1; simp [h]) (fun _ _ hu => hu.abortStep) _
  simp [h2]

@[simp ↓] theorem State.Numbered.abortMessage {s : State} (h : s.Numbered) {c : CtxId} {p : OxtPkt} : (s.abortMessage c p).Numbered := by
  unfold State.abortMessage
  extract_lets late s1
  (repeat' split)
  · simp [h]
  · refine State.Numbered.modCtx ((State.mk_numbered ..).2 h) _ _ ?_
    rw [List.map_map, List.map_congr_left fun t _ => ?_]
    dsimp only [Function.comp]
    split <;> rfl
  · exact h

@[simp ↓] theorem State.Numbered.queueData {s : State} (h : s.Numbered) {c : CtxId} {p : OxtPkt} : (s.queueData c p).Numbered := by
  unfold State.queueData
  dsimp only
  (repeat' split) <;> simp [h]

theorem execOxtNack_numbered {p : OxtPkt} {s : State} (h : s.Numbered) : ∃ t, execOxtNack p s = .next t ∧ t.Numbered := by
  refine ⟨_, rfl, ?_⟩
  dsimp only
  (repeat' split) <;> simp [h]

theorem execOxtResetNack_numbered {p : OxtPkt} {s : State} (h : s.Numbered) : ∃ t, execOxtResetNack p s = .next t ∧ t.Numbered := by
  refine ⟨_, rfl, ?_⟩
  dsimp only
  (repeat' split)
  · exact h
  · simp only [State.dispatch_numbered]
    exact State.Numbered.foldl (by simp [h]) (fun _ _ hu => hu.abortStep) _
  · simp [h]

theorem execNotReadyWaitExpiry_numbered {k : FlowKey} {s : State} (h : s.Numbered) :
    ∃ t, execNotReadyWaitExpiry k s = .next t ∧ t.Numbered := by
  refine ⟨_, rfl, ?_⟩
  (repeat' split) <;> simp [h]

theorem execRetransmitTimeout_numbered {k : FlowKey} {s : State} (h : s.Numbered) :
    ∃ t, execRetransmitTimeout k s = .next t ∧ t.Numbered := by
  refine ⟨_, rfl, ?_⟩
  (repeat' split) <;> simp [h]

theorem execCollectiveDeadline_numbered {w : WaitRef} {missing : List Nat} {s : State} (h : s.Numbered) :
    ∃ t, execCollectiveDeadline w missing s = .next t ∧ t.Numbered := by
  refine ⟨_, rfl, ?_⟩
  split <;> simp [h]

/-! ### What the engines do -/

theorem dmaEffect_numbered (host : List Byte) (r : CmdRef) (u : State) (t : Step) (k : Cmd) :
    (dmaEffect host r u t k).1.Numbered ↔ u.Numbered := by
  unfold dmaEffect
  dsimp only
  (repeat' split) <;> simp

theorem matrixEffect_numbered (c : CtxId) (u : State) (t : Step) (k : Cmd) : (matrixEffect c u t k).1.Numbered ↔ u.Numbered := by
  unfold matrixEffect
  (repeat' split) <;> simp

theorem vectorEffect_numbered (r : CmdRef) (u : State) (t : Step) (k : Cmd) : (vectorEffect r u t k).1.Numbered ↔ u.Numbered := by
  unfold vectorEffect
  (repeat' split) <;> simp

theorem updateEffect_numbered (c : CtxId) (u : State) (t : Step) (k : Cmd) : (updateEffect c u t k).1.Numbered ↔ u.Numbered := by
  unfold updateEffect
  dsimp only
  (repeat' split) <;> simp

theorem collEffect_numbered (r : CmdRef) (u : State) (t : Step) (k : Cmd) : (collEffect r u t k).1.Numbered ↔ u.Numbered := by
  unfold collEffect
  dsimp only
  (repeat' split) <;> simp

/-! ### DMA and the other engines -/

theorem execDmaBurstComplete_numbered {r : CmdRef} {host : List Byte} {s : State} (h : s.Numbered) :
    ∃ t, execDmaBurstComplete r host s = .next t ∧ t.Numbered := by
  refine ⟨_, rfl, ?_⟩
  dsimp only
  (repeat' split) <;> simp [h]

theorem execDmaCommandComplete_numbered {r : CmdRef} {host : List Byte} {s : State} (h : s.Numbered) :
    ∃ t, execDmaCommandComplete r host s = .next t ∧ t.Numbered := by
  refine ⟨_, rfl, ?_⟩
  split
  · exact h.completeCmd fun t k => dmaEffect_numbered host r s t k
  · exact h

theorem execRequestLineParityFault_numbered {complex : Fin 5} {line : Fin 64} {s : State} (h : s.Numbered) :
    ∃ t, execRequestLineParityFault complex line s = .next t ∧ t.Numbered := by
  refine ⟨_, rfl, h.whenPowered fun u hu => ?_⟩
  dsimp only
  (repeat' split) <;> simp [hu]

@[simp ↓] theorem State.Numbered.matrixComplete {s : State} (h : s.Numbered) {r : CmdRef} : (s.matrixComplete r).Numbered :=
  h.completeCmd fun t k => matrixEffect_numbered r.ctx s t k

@[simp ↓] theorem State.Numbered.vectorComplete {s : State} (h : s.Numbered) {r : CmdRef} : (s.vectorComplete r).Numbered :=
  h.completeCmd fun t k => vectorEffect_numbered r s t k

/-! ### Heat and power -/

theorem State.Numbered.thermalAbort {s : State} (h : s.Numbered) {c : CtxId} {t : Step} : (s.thermalAbort c t).Numbered := by
  unfold State.thermalAbort
  dsimp only
  split <;> simp [h]

@[simp ↓] theorem State.Numbered.thermalAborts {s : State} (h : s.Numbered) {ts : List (CtxId × Step)} : (s.thermalAborts ts).Numbered :=
  h.foldl (fun _ _ hu => by
    split
    · exact hu.thermalAbort
    · exact hu) _

@[simp ↓] theorem State.Numbered.tripNow {s : State} (h : s.Numbered) : s.tripNow.Numbered := by
  unfold State.tripNow
  split <;> simp [h]

@[simp ↓] theorem State.Numbered.applyLevels {s : State} (h : s.Numbered) : s.applyLevels.Numbered := by
  unfold State.applyLevels
  extract_lets s1 s2 s3
  have h1 : s1.Numbered := by unfold s1; split <;> simp [h]
  unfold s3 s2
  simp [h1]

/-! ### Admission -/

@[simp ↓] theorem State.Numbered.followEnded {s : State} (h : s.Numbered) {c : CtxId} {ended : Option Code} {t : Step} :
    (s.followEnded c ended t).Numbered := by
  unfold State.followEnded
  (repeat' split) <;> simp [h]

@[simp ↓] theorem State.Numbered.judgeStep {s : State} (h : s.Numbered) {c : CtxId} {header entries : List Byte} {w : Who} :
    (s.judgeStep c header entries w).Numbered := by
  have hadd : ∀ p t0 folds all, (s.addStep c (s.stepOf p t0 w) folds all).Numbered := fun _ _ _ _ => h.addStep rfl
  unfold State.judgeStep
  extract_lets x num
  split
  · simp [h]
  · dsimp only
    split
    · simp [h]
    · split
      · simp [h]
      · split
        · simp [h]
        · split
          · simp [h]
          · simp [hadd]

theorem State.Numbered.retestFrom {s : State} (h : s.Numbered) {reason : Reason} {ts : List (CtxId × Step)} {items : List Item} :
    (State.retestFrom reason ts items s).Numbered := by
  induction ts generalizing s items with
  | nil => exact h
  | cons t ts ih =>
    unfold State.retestFrom
    split
    · exact ih h
    · simp [ih, h]

@[simp ↓] theorem State.Numbered.retest {s : State} (h : s.Numbered) {reason : Reason} : (s.retest reason).Numbered :=
  (State.dispatch_numbered _).2 h.retestFrom

/-! ### Mirroring -/

@[simp ↓] theorem State.Numbered.mirrorLost {s : State} (h : s.Numbered) {c : CtxId} {reason : Reason} :
    (s.mirrorLost c reason).Numbered := by
  unfold State.mirrorLost
  (repeat' split) <;> simp [h]

@[simp ↓] theorem State.Numbered.writeRestored {s : State} (h : s.Numbered) {c : CtxId} {r : Restore} {i : Nat} {bs : List Byte} :
    (s.writeRestored c r i bs).Numbered := by
  unfold State.writeRestored
  dsimp only
  (repeat' split) <;> simp [h]

@[simp ↓] theorem State.Numbered.takeDigest {s : State} (h : s.Numbered) {c : CtxId} {p : OxtPkt} : (s.takeDigest c p).Numbered := by
  unfold State.takeDigest
  dsimp only
  (repeat' split) <;> simp [h]

end Sys2Proof.Machine
end

section
/-! SUPPORT. Step numbers over the life of a step and of a context (R41, R333, R337): starts, releases, commits, serving periods, creation,
teardown, and the records that act on steps. -/

namespace Sys2Proof.Machine

/-! ### The start of a step -/

@[simp ↓] theorem State.Numbered.openStep {s : State} (h : s.Numbered) {c : CtxId} {t : Step} : (s.openStep c t).Numbered := by
  unfold State.openStep
  split <;> simp [h]

@[simp ↓] theorem State.Numbered.startHost {s : State} (h : s.Numbered) {c : CtxId} {t : Step} : (s.startHost c t).Numbered := by
  unfold State.startHost
  dsimp only
  (repeat' split) <;> simp [h]

@[simp ↓] theorem State.Numbered.startLoad {s : State} (h : s.Numbered) {c : CtxId} {t : Step} : (s.startLoad c t).Numbered := by
  unfold State.startLoad
  dsimp only
  split <;> simp [h]

@[simp ↓] theorem State.Numbered.startRestore {s : State} (h : s.Numbered) {c : CtxId} {t : Step} : (s.startRestore c t).Numbered := by
  unfold State.startRestore
  dsimp only
  split <;> simp [h]

theorem execStepStart_numbered {c : CtxId} {s : State} (h : s.Numbered) : ∃ t, execStepStart c s = .next t ∧ t.Numbered := by
  refine ⟨_, rfl, h.whenUp fun u hu => ?_⟩
  (repeat' split) <;> simp [hu]

theorem execCommandRelease_numbered {r : CmdRef} {s : State} (h : s.Numbered) : ∃ t, execCommandRelease r s = .next t ∧ t.Numbered := by
  refine ⟨_, rfl, h.whenUp fun u hu => ?_⟩
  dsimp only
  (repeat' split) <;> simp [hu]

theorem execOverrun_numbered {r : CmdRef} {s : State} (h : s.Numbered) : ∃ t, execOverrun r s = .next t ∧ t.Numbered := by
  refine ⟨_, rfl, h.whenUp fun u hu => ?_⟩
  (repeat' split) <;> simp [hu]

theorem execTimeSliceBoundary_numbered {e : Engine} {s : State} (h : s.Numbered) :
    ∃ t, execTimeSliceBoundary e s = .next t ∧ t.Numbered := by
  refine ⟨_, rfl, h.whenUp fun u hu => ?_⟩
  (repeat' split) <;> simp [hu]

theorem execWeirPageWrite_numbered {r : CmdRef} {page : Nat} {s : State} (h : s.Numbered) :
    ∃ t, execWeirPageWrite r page s = .next t ∧ t.Numbered := by
  refine ⟨_, rfl, h.whenUp fun u hu => ?_⟩
  dsimp only
  (repeat' split) <;> simp [hu]

/-! ### Commits -/

@[simp ↓] theorem State.Numbered.hostCommit {s : State} (h : s.Numbered) {c : CtxId} {t : Step} : (s.hostCommit c t).Numbered := by
  unfold State.hostCommit
  dsimp only
  split <;> simp [h]

@[simp ↓] theorem State.Numbered.restoreCommit {s : State} (h : s.Numbered) {c : CtxId} {t : Step} {v : BitVec 64} :
    (s.restoreCommit c t v).Numbered := by
  unfold State.restoreCommit
  simp [h]

@[simp ↓] theorem State.Numbered.endReplay {s : State} (h : s.Numbered) {c : CtxId} {t : Step} : (s.endReplay c t).Numbered := by
  unfold State.endReplay
  extract_lets s0 s1 s2 v entry s3
  have h1 : s1.Numbered := State.Numbered.modCtx (by unfold s0; simp [h]) _ _ (List.filter_sublist.map _)
  unfold s3 s2
  split <;> simp [h1]

@[simp ↓] theorem State.Numbered.missedCommit {s : State} (h : s.Numbered) {c : CtxId} {t : Step} : (s.missedCommit c t).Numbered := by
  unfold State.missedCommit
  simp [h]

@[simp ↓] theorem State.Numbered.commitHost {s : State} (h : s.Numbered) {c : CtxId} {t : Step} : (s.commitHost c t).Numbered := by
  unfold State.commitHost
  simp [h]

theorem execReducedRecord_numbered {c : CtxId} {uid : Nat} {d : Reduced} {s : State} (h : s.Numbered) :
    ∃ t, execReducedRecord c uid d s = .next t ∧ t.Numbered := by
  refine ⟨_, rfl, h.whenUp fun u hu => ?_⟩
  dsimp only
  (repeat' split) <;> simp [hu]

/-! ### Serving -/

@[simp ↓] theorem State.Numbered.retryChunk {s : State} (h : s.Numbered) {c : CtxId} {i : Nat} {bad : Bool} :
    (s.retryChunk c i bad).Numbered := by
  unfold State.retryChunk
  dsimp only
  (repeat' split) <;> simp [h]

theorem State.Numbered.afterPlace {s : State} (h : s.Numbered) {c : CtxId} {l : LoadPart} {q : Fetch} {w : State × Option Reason}
    (hw : w.1.Numbered) : (s.afterPlace c l q w).Numbered := by
  unfold State.afterPlace
  split <;> simp [h, hw]

@[simp ↓] theorem State.Numbered.placeChunk {s : State} (h : s.Numbered) {c : CtxId} {l : LoadPart} {q : Fetch} {bs : List Byte} :
    (s.placeChunk c l q bs).Numbered := by
  unfold State.placeChunk
  (repeat' split)
  · exact h
  · exact h
  · exact h.afterPlace ((State.writeAll_numbered ..).2 h)

@[simp ↓] theorem State.Numbered.takeWeights {s : State} (h : s.Numbered) {c : CtxId} {p : OxtPkt} : (s.takeWeights c p).Numbered := by
  unfold State.takeWeights
  dsimp only
  (repeat' split) <;> simp [h]

theorem execFetchWaitExpiry_numbered {c : CtxId} {chunk : Nat} {s : State} (h : s.Numbered) :
    ∃ t, execFetchWaitExpiry c chunk s = .next t ∧ t.Numbered := by
  refine ⟨_, rfl, h.whenUp fun u hu => ?_⟩
  (repeat' split) <;> simp [hu]

theorem State.Numbered.withPeriod {s : State} (h : s.Numbered) {c : CtxId} {p : Pattern} {cs : List (Entry × CmdFacts)} :
    (s.withPeriod c (s.periodStep p cs)).Numbered := h.join rfl rfl

theorem execServingPeriodStart_numbered {c : CtxId} {s : State} (h : s.Numbered) :
    ∃ t, execServingPeriodStart c s = .next t ∧ t.Numbered := by
  refine ⟨_, rfl, h.whenUp fun u hu => ?_⟩
  have hruns : ∀ p cs, (((u.withPeriod c (u.periodStep p cs)).openStep c (u.periodStep p cs)).nextPeriod c).dispatch.Numbered :=
    fun _ _ => by simp [hu.withPeriod]
  dsimp only
  split
  · split
    · exact hu
    · split
      · simp [hu]
      · split
        · simp [hu]
        · split
          · simp [hu]
          · exact hruns _ _
  · exact hu

@[simp ↓] theorem State.Numbered.commitPeriod {s : State} (h : s.Numbered) {c : CtxId} {t : Step} : (s.commitPeriod c t).Numbered := by
  unfold State.commitPeriod
  dsimp only
  (repeat' split) <;> simp [h]

@[simp ↓] theorem State.Numbered.commitLoad {s : State} (h : s.Numbered) {c : CtxId} {t : Step} {l : LoadPart} :
    (s.commitLoad c t l).Numbered := by
  unfold State.commitLoad
  simp [h]

theorem execCommit_numbered {c : CtxId} {uid : Nat} {s : State} (h : s.Numbered) : ∃ t, execCommit c uid s = .next t ∧ t.Numbered := by
  refine ⟨_, rfl, h.whenUp fun u hu => ?_⟩
  (repeat' split) <;> simp [hu]

@[simp ↓] theorem State.Numbered.retestPattern {s : State} (h : s.Numbered) {c : CtxId} {reason : Reason} :
    (s.retestPattern c reason).Numbered := by
  unfold State.retestPattern
  split
  · exact h
  · split
    · extract_lets s1 outs
      have h1 : s1.Numbered := h.foldl (fun _ _ hu => hu.abortStep) _
      simp [h1]
    · simp [h]

@[simp ↓] theorem State.Numbered.retestAll {s : State} (h : s.Numbered) {reason : Reason} : (s.retestAll reason).Numbered :=
  (h.forCtx fun _ _ hu => hu.retestPattern).retest

/-! ### Mirroring -/

theorem execRestoreWaitExpiry_numbered {c : CtxId} {chunk : Nat} {s : State} (h : s.Numbered) :
    ∃ t, execRestoreWaitExpiry c chunk s = .next t ∧ t.Numbered := by
  refine ⟨_, rfl, h.whenUp fun u hu => ?_⟩
  (repeat' split) <;> simp [hu]

/-! ### Contexts -/

@[simp ↓] theorem State.Numbered.create {s : State} (h : s.Numbered) {c : CtxId} {r : CreateRec} {client : Byte} :
    (s.create c r client).Numbered := by
  unfold State.create
  simp only [State.modClient_numbered, State.writeRow_numbered]
  exact h.setCtx _ _ (List.nil_sublist _)

@[simp ↓] theorem State.Numbered.judgeCreate {s : State} (h : s.Numbered) {c : CtxId} {bs : List Byte} {w : Who} :
    (s.judgeCreate c bs w).Numbered := by
  unfold State.judgeCreate
  (repeat' split) <;> simp [h]

@[simp ↓] theorem State.tearRow_numbered (s : State) (c : CtxId) : (s.tearRow c).Numbered ↔ s.Numbered := by
  unfold State.tearRow
  simp

@[simp ↓] theorem State.Numbered.startTeardown {s : State} (h : s.Numbered) {c : CtxId} {code : Code} {reason : Reason} {w : Who} :
    (s.startTeardown c code reason w).Numbered := by
  unfold State.startTeardown
  extract_lets x hold s1 s2 intg sec s3
  split
  · exact h
  · have h1 : s1.Numbered := h.foldl (fun u t hu => by
      split
      · split
        · exact hu.dropTail
        · split
          · exact hu
          · exact hu.abortOne
      · exact hu) _
    have h3 : s3.Numbered := by unfold s3 s2; simp [h1]
    rw [State.dispatch_numbered]
    split <;> simp [h3]

@[simp ↓] theorem State.Numbered.fence {s : State} (h : s.Numbered) {c : CtxId} {w : Who} : (s.fence c w).Numbered := by
  unfold State.fence
  simp [h]

theorem execTeardownComplete_numbered {c : CtxId} {s : State} (h : s.Numbered) :
    ∃ t, execTeardownComplete c s = .next t ∧ t.Numbered := by
  refine ⟨_, rfl, h.whenUp fun u hu => ?_⟩
  dsimp only
  split
  · exact hu
  · split
    · exact hu
    · simp only [State.mk_numbered, State.numbering_eta, State.modClient_numbered]
      refine State.Numbered.modCtx ?_ _ _ (List.nil_sublist _)
      simp [hu]

@[simp ↓] theorem State.Numbered.advanceGen {s : State} (h : s.Numbered) {c : CtxId} : (s.advanceGen c).Numbered := by
  unfold State.advanceGen
  simp [h]

@[simp ↓] theorem State.Numbered.preempt {s : State} (h : s.Numbered) {c : CtxId} {step : Nat} : (s.preempt c step).Numbered :=
  (State.dispatch_numbered _).2 (h.foldl (fun u t hu => by (repeat' split) <;> simp [hu]) _)

@[simp ↓] theorem State.Numbered.adoptEpoch {s : State} (h : s.Numbered) {c : CtxId} {epoch : BitVec 32} {rank count : Nat} :
    (s.adoptEpoch c epoch rank count).Numbered := by
  unfold State.adoptEpoch
  extract_lets s1 s2 s3 fab s4
  have h1 : s1.Numbered := h.foldl (fun u t hu => by (repeat' split) <;> simp [hu]) _
  have h3 : s3.Numbered := by
    unfold s3 s2
    split
    · exact State.Numbered.foldl (by simp [h1]) (fun _ _ hu => by split <;> simp [hu]) _
    · simp [h1]
  unfold s4
  simp [h3]

@[simp ↓] theorem State.Numbered.judgePreempt {s : State} (h : s.Numbered) {c : CtxId} {bs : List Byte} {w : Who} :
    (s.judgePreempt c bs w).Numbered := by
  unfold State.judgePreempt
  simp [h]

@[simp ↓] theorem State.Numbered.judgeTeardown {s : State} (h : s.Numbered) {c : CtxId} {bs : List Byte} {w : Who} :
    (s.judgeTeardown c bs w).Numbered := by
  unfold State.judgeTeardown
  simp [h]

@[simp ↓] theorem State.Numbered.judgeEpoch {s : State} (h : s.Numbered) {c : CtxId} {bs : List Byte} {w : Who} :
    (s.judgeEpoch c bs w).Numbered := by
  unfold State.judgeEpoch
  dsimp only
  (repeat' split) <;> simp [h]

@[simp ↓] theorem State.Numbered.judgeRestore {s : State} (h : s.Numbered) {c : CtxId} {bs : List Byte} {w : Who} :
    (s.judgeRestore c bs w).Numbered := by
  have hadd : ∀ step p n, (s.addStep c (s.innerStep .restore step p n w) [] []).Numbered := fun _ _ _ => h.addStep rfl
  unfold State.judgeRestore
  dsimp only
  (repeat' split) <;> simp [h, hadd]

@[simp ↓] theorem State.Numbered.judgeLoad {s : State} (h : s.Numbered) {c : CtxId} {bs : List Byte} {w : Who} :
    (s.judgeLoad c bs w).Numbered := by
  have hadd : ∀ q m, (s.addStep c (s.loadStep q m w) [] []).Numbered := fun _ _ => h.addStep rfl
  unfold State.judgeLoad
  dsimp only
  (repeat' split) <;> simp [h, hadd]

end Sys2Proof.Machine
end

section
/-! SUPPORT. Step numbers while units leave service and while records are judged (R41, R319): windows, mesh, memories, migration, checkers
and Eddy. -/

namespace Sys2Proof.Machine

/-! ### Units that leave service -/

@[simp ↓] theorem State.Numbered.haltAdmission {s : State} (h : s.Numbered) : s.haltAdmission.Numbered :=
  State.Numbered.foldl (s := { s with slu := { s.slu with admitting := false } }) h (fun u p hu => by split <;> simp [hu]) _

@[simp ↓] theorem State.Numbered.loseChannel {s : State} (h : s.Numbered) {c : Fin 256} : (s.loseChannel c).Numbered := by
  unfold State.loseChannel
  extract_lets hbm ch s1 set sig s2 hbm2 slu2 s3
  have h2 : s2.Numbered := by unfold s2 s1; simp [h]
  split
  · exact h
  · split
    · refine State.Numbered.retestAll ?_
      unfold s3
      split <;> exact h2
    · exact State.Numbered.haltAdmission h2

@[simp ↓] theorem State.Numbered.loseModule {s : State} (h : s.Numbered) {m : Module} : (s.loseModule m).Numbered := by
  unfold State.loseModule
  split <;> simp [h]

@[simp ↓] theorem State.Numbered.takeOut {s : State} (h : s.Numbered) {u : HwUnit} : (s.takeOut u).Numbered := by
  unfold State.takeOut
  split <;> simp [h]

@[simp ↓] theorem State.Numbered.retireUnit {s : State} (h : s.Numbered) {u : HwUnit} : (s.retireUnit u).Numbered := by
  unfold State.retireUnit
  simp [h]

theorem execStepBoundaryRetirement_numbered {s : State} (h : s.Numbered) :
    ∃ t, execStepBoundaryRetirement s = .next t ∧ t.Numbered := by
  refine ⟨_, rfl, h.whenUp fun u hu => ?_⟩
  extract_lets due hw s1
  have h1 : s1.Numbered := hu
  split
  · exact hu
  · exact ((State.gradeChanged_numbered _).2 (h1.foldl (fun _ _ hv => hv.retireUnit) _)).retestAll

/-! ### Records -/

@[simp ↓] theorem State.Numbered.assemble {s : State} (h : s.Numbered) {c : CtxId} {a : Assembly} {end_ : Bool} {w : Who} :
    (s.assemble c a end_ w).Numbered := by
  unfold State.assemble
  split <;> simp [h]

@[simp ↓] theorem State.Numbered.judgeStepRecord {s : State} (h : s.Numbered) {c : CtxId} {typ : Nat} {bs : List Byte} {end_ : Bool}
    {w : Who} : (s.judgeStepRecord c typ bs end_ w).Numbered := by
  unfold State.judgeStepRecord
  (repeat' split) <;> simp [h]

@[simp ↓] theorem State.Numbered.judgeType {s : State} (h : s.Numbered) {c : CtxId} {typ : Nat} {bs : List Byte} {end_ : Bool} {w : Who} :
    (s.judgeType c typ bs end_ w).Numbered := by
  unfold State.judgeType
  split <;> simp [h]

@[simp ↓] theorem State.Numbered.judgeRecord {s : State} (h : s.Numbered) {c : CtxId} {bs : List Byte} : (s.judgeRecord c bs).Numbered := by
  unfold State.judgeRecord
  simp [h]

theorem State.Numbered.evalOne {s : State} (h : s.Numbered) {c : CtxId} {t : State × Bool} (ht : s.evalOne c = some t) : t.1.Numbered := by
  unfold State.evalOne at ht; dsimp only at ht
  split at ht
  · cases ht
  · split at ht
    · cases ht; simp [h]
    · split at ht
      · cases ht
      · split at ht <;> cases ht <;> simp [h]

@[simp ↓] theorem State.Numbered.evalWindow {s : State} (h : s.Numbered) {c : CtxId} {n : Nat} : (State.evalWindow c n s).Numbered := by
  induction n generalizing s with
  | zero => exact h
  | succ n ih =>
    unfold State.evalWindow
    split
    · next t ht => split <;> simp [ih, h.evalOne ht]
    · exact h

@[simp ↓] theorem State.Numbered.evalAll {s : State} (h : s.Numbered) : s.evalAll.Numbered := h.forCtx fun _ _ hu => hu.evalWindow

@[simp ↓] theorem State.Numbered.windowWrite {s : State} (h : s.Numbered) {p : Port} {c : CtxId} {off : Nat} {bs : List Byte} :
    (s.windowWrite p c off bs).Numbered := by
  unfold State.windowWrite
  (repeat' split) <;> simp [h]

theorem State.Numbered.recordIn {s : State} (h : s.Numbered) {typ : Nat} {r : RecordIn} : (s.recordIn typ r).Numbered := h.windowWrite

/-! ### The mesh -/

@[simp ↓] theorem State.Numbered.meshRead {s : State} (h : s.Numbered) {p : MeshPkt} : (s.meshRead p).Numbered := by
  unfold State.meshRead
  (repeat' split) <;> simp [h]

@[simp ↓] theorem State.Numbered.meshWrite {s : State} (h : s.Numbered) {p : MeshPkt} : (s.meshWrite p).Numbered := by
  unfold State.meshWrite
  dsimp only
  split
  · split
    · next r _ _ t _ =>
      have hw := (State.cmdWrite_numbered s r.ctx t (meshStores p)).2 h
      split
      · next hr => rw [hr] at hw; simpa using hw
      · next hr => rw [hr] at hw; exact hw.faultCmd
    · exact h
  · simp [h]

@[simp ↓] theorem State.Numbered.meshRun {s : State} (h : s.Numbered) {p : MeshPkt} : (s.meshRun p).Numbered := by
  unfold State.meshRun
  (repeat' split) <;> simp [h]

theorem execMeshPacketArrival_numbered {p : MeshPkt} {s : State} (h : s.Numbered) :
    ∃ t, execMeshPacketArrival p s = .next t ∧ t.Numbered := by
  refine ⟨_, rfl, h.whenUp fun u hu => ?_⟩
  dsimp only
  (repeat' split) <;> simp [hu]

theorem execUcieReplayLimit_numbered {m : Module} {s : State} (h : s.Numbered) : ∃ t, execUcieReplayLimit m s = .next t ∧ t.Numbered := by
  refine ⟨_, rfl, h.whenPowered fun u hu => ?_⟩
  dsimp only
  split <;> simp [hu]

theorem execUcieModuleRepair_numbered {m : Module} {ok : Bool} {s : State} (h : s.Numbered) :
    ∃ t, execUcieModuleRepair m ok s = .next t ∧ t.Numbered := by
  refine ⟨_, rfl, h.whenPowered fun u hu => ?_⟩
  (repeat' split) <;> simp [hu]

/-! ### HBM and SRAM -/

@[simp ↓] theorem State.Numbered.retrained {s : State} (h : s.Numbered) {c : Fin 256} {bad : Bool} : (s.retrained c bad).Numbered := by
  unfold State.retrained
  dsimp only
  (repeat' split) <;> simp [h]

theorem execRetrainResult_numbered {failed : BitVec 8} {s : State} (h : s.Numbered) :
    ∃ t, execRetrainResult failed s = .next t ∧ t.Numbered := by
  refine ⟨_, rfl, h.whenUp fun u hu => ?_⟩
  split
  · exact hu
  · split
    · exact hu
    · extract_lets hbm s1
      have h1 : s1.Numbered := hu
      exact (State.dispatch_numbered _).2 (h1.foldl (fun _ _ hv => hv.retrained) _)

@[simp ↓] theorem State.Numbered.faultReader {s : State} (h : s.Numbered) {r : Option CmdRef} : (s.faultReader r).Numbered := by
  unfold State.faultReader
  (repeat' split) <;> simp [h]

theorem execHbmParityError_numbered {chan : Fin 256} {failedAttempts : Nat} {reader : Option CmdRef} {s : State} (h : s.Numbered) :
    ∃ t, execHbmParityError chan failedAttempts reader s = .next t ∧ t.Numbered := by
  refine ⟨_, rfl, h.whenUp fun u hu => ?_⟩
  dsimp only
  (repeat' split) <;> simp [hu]

theorem execHbmGroupRead_numbered {group : Nat} {reader : Option CmdRef} {finding : GroupFinding} {s : State} (h : s.Numbered) :
    ∃ t, execHbmGroupRead group reader finding s = .next t ∧ t.Numbered := by
  refine ⟨_, rfl, h.whenUp fun u hu => ?_⟩
  dsimp only
  (repeat' split) <;> simp [hu]

theorem State.Numbered.shrink {s : State} (h : s.Numbered) {cs : List CtxId} {n : Nat} : (State.shrink cs n s).Numbered := by
  induction cs generalizing s n with
  | nil => exact h
  | cons c cs ih => unfold State.shrink; simp [ih, h]

@[simp ↓] theorem State.Numbered.resumeAdmission {s : State} (h : s.Numbered) : s.resumeAdmission.Numbered := by
  unfold State.resumeAdmission
  extract_lets free
  clear_value free
  split
  · exact State.Numbered.evalAll h
  · exact h

theorem execMigrationCommit_numbered {unreadable : List Nat} {s : State} (h : s.Numbered) :
    ∃ t, execMigrationCommit unreadable s = .next t ∧ t.Numbered := by
  refine ⟨_, rfl, h.whenUp fun u hu => ?_⟩
  split
  · extract_lets mine s1 hbm s2 bad s3 sig s4 sig' s5 s6
    clear_value mine
    have h1 : s1.Numbered := by unfold s1; split <;> simp [hu]
    have h2 : s2.Numbered := h1
    have h5 : s5.Numbered := by unfold s5 s4 s3; split <;> simp [h2]
    exact h5.shrink.retestAll.resumeAdmission
  · exact hu

/-! ### Checkers and Eddy -/

@[simp ↓] theorem State.Numbered.checkerFault {s : State} (h :
    s.Numbered) {r : CmdRef} {chk : Checker} {ordinal : Nat} {operands : List Byte} :
    (s.checkerFault r chk ordinal operands).Numbered := by
  unfold State.checkerFault
  dsimp only
  (repeat' split) <;> simp [h]

theorem execCheckerMismatch_numbered {r : CmdRef} {chk : Checker} {ordinal : Nat} {operands : List Byte} {s : State} (h : s.Numbered) :
    ∃ t, execCheckerMismatch r chk ordinal operands s = .next t ∧ t.Numbered := by
  refine ⟨_, rfl, h.whenUp fun u hu => ?_⟩
  (repeat' split) <;> simp [hu]

theorem State.Numbered.endCore {s : State} (h : s.Numbered) {r : CmdRef} {f : State → CmdRef → State} (hf : (f s r).Numbered) :
    (s.endCore r f).Numbered := by
  unfold State.endCore
  split
  · split
    · exact ((State.mk_numbered ..).2 h).checkerFault
    · exact h
  · exact hf

@[simp ↓] theorem State.Numbered.confirm {s : State} (h : s.Numbered) {c : CtxId} {d : Nat} {u : SampleRef} {engine named : Option Engine} :
    (s.confirm c d u engine named).Numbered := by
  unfold State.confirm
  extract_lets x region m first intg s1 s2 s3 sig g e s4 intg4 s5
  have h2 : s2.Numbered := State.Numbered.foldl (s := s1) h (fun _ _ hv => by split <;> simp [hv]) _
  have h4 : s4.Numbered := by unfold s4 e s3; simp [h2]
  unfold s5
  (repeat' split) <;> simp [h4]

@[simp ↓] theorem State.Numbered.failOxbow {s : State} (h : s.Numbered) {o : Fin 28} : (s.failOxbow o).Numbered := by
  unfold State.failOxbow
  simp [h]

theorem execEddyRecomputeComplete_numbered {c : CtxId} {step : Nat} {katFails : List Bool} {mismatch : Option SampleRef} {address : Bool}
    {s : State} (h : s.Numbered) : ∃ t, execEddyRecomputeComplete c step katFails mismatch address s = .next t ∧ t.Numbered := by
  refine ⟨_, rfl, h.whenUp fun u hu => ?_⟩
  split
  · exact hu
  · extract_lets ox fails dead intg s1 intg1 s2
    have h1 : s1.Numbered := hu
    have h2 : s2.Numbered := hu
    split
    · have hdead : (dead.foldl State.failOxbow s1).Numbered := h1.foldl (fun _ _ hv => hv.failOxbow) _
      simp [hdead]
    · (repeat' split) <;> simp [h2]

theorem execEddyVote_numbered {agreesWithEngine : Bool} {s : State} (h : s.Numbered) :
    ∃ t, execEddyVote agreesWithEngine s = .next t ∧ t.Numbered := by
  refine ⟨_, rfl, h.whenUp fun u hu => ?_⟩
  split
  · exact hu
  · dsimp only
    (repeat' split) <;> simp [hu]

end Sys2Proof.Machine
end

section
/-! SUPPORT. Step numbers over resets, changes of owner, boot, clock losses and register writes (R41, R365, R391). -/

namespace Sys2Proof.Machine

/-! ### Resets -/

@[simp ↓] theorem State.Numbered.rungAborts {s : State} (h : s.Numbered) {scope : RungScope} {c : CtxId} :
    (s.rungAborts scope c).Numbered := by
  unfold State.rungAborts
  exact h.foldl (fun u t hu => by (repeat' split) <;> simp [hu]) _

@[simp ↓] theorem State.Numbered.rungCtx {s : State} (h : s.Numbered) {scope : RungScope} {c : CtxId} :
    (State.rungCtx scope s c).Numbered := by
  unfold State.rungCtx
  dsimp only
  (repeat' split) <;> simp [h]

@[simp ↓] theorem State.Numbered.warmCtx {s : State} (h : s.Numbered) {c : CtxId} : (s.warmCtx c).Numbered := by
  unfold State.warmCtx
  simp [h]

@[simp ↓] theorem State.Numbered.warmStart {s : State} (h : s.Numbered) : s.warmStart.Numbered := by
  have h1 : ((s.abandonUpdate.loseEvidence fun _ => true).forCtx State.warmCtx).Numbered :=
    State.Numbered.forCtx (by simp [h]) fun _ _ hu => hu.warmCtx
  unfold State.warmStart
  simp [h1]

theorem State.reset_numbered : State.reset.Numbered := fun c => by simp [State.reset, Ctx.reset, State.ctx]

/-- A cold start leaves no step. -/
@[simp ↓] theorem State.coldStart_numbered (s : State) (clk : Clk) (strap : BitVec 2) (held : Option (List Nat × Nat)) :
    (s.coldStart clk strap held).Numbered := State.reset_numbered

@[simp ↓] theorem State.Numbered.startRung {s : State} (h : s.Numbered) {scope : RungScope} {missed : Bool} {engine : Option Engine}
    {todo : List CtxId} : (s.startRung scope missed engine todo).Numbered := by
  unfold State.startRung
  split
  · exact h
  · extract_lets g g0 rcv s1 s2 dma s3
    have h2 : s2.Numbered := by
      unfold s2
      rw [State.forgetKills_numbered]
      exact State.Numbered.forCtx (by unfold s1; simp [h]) fun _ _ hu => hu.rungCtx
    have h3 : s3.Numbered := by unfold s3; split <;> simp [h2]
    (repeat' split) <;> simp [h, h3]

theorem execWatchdogExpiry_numbered {e : Engine} {s : State} (h : s.Numbered) : ∃ t, execWatchdogExpiry e s = .next t ∧ t.Numbered := by
  refine ⟨_, rfl, h.whenUp fun u hu => ?_⟩
  unfold State.expireWatchdog
  (repeat' split) <;> simp [hu]

theorem execHeartbeatMiss_numbered {w : Steward} {s : State} (h : s.Numbered) : ∃ t, execHeartbeatMiss w s = .next t ∧ t.Numbered := by
  refine ⟨_, rfl, h.whenUp fun u hu => ?_⟩
  split <;> exact hu.startRung

theorem execRingBreak_numbered {ring : Fin 2} {segment : Fin 7} {s : State} (h : s.Numbered) :
    ∃ t, execRingBreak ring segment s = .next t ∧ t.Numbered := by
  refine ⟨_, rfl, h.whenPowered fun u hu => ?_⟩
  split
  · exact hu
  · extract_lets r s1
    have h1 : s1.Numbered := hu
    split
    · exact h1.foldl (fun _ _ hv => hv.startRung) _
    · exact h1

@[simp ↓] theorem State.Numbered.swapIn {s : State} (h : s.Numbered) {r : Fin 4} : (s.swapIn r).Numbered := by
  unfold State.swapIn
  simp only [State.gradeChanged_numbered]
  exact State.Numbered.foldl ((State.mk_numbered ..).2 h) (fun _ _ hu => hu.retireUnit) _

@[simp ↓] theorem State.Numbered.endRung {s : State} (h : s.Numbered) {g : Rung} : (s.endRung g).Numbered := by
  unfold State.endRung
  extract_lets rs rcv s1 s2 dma s3
  have h2 : s2.Numbered := by unfold s2 s1; simp [h]
  have h3 : s3.Numbered := by unfold s3; split <;> simp [h2]
  simp [h3]

@[simp ↓] theorem State.Numbered.endDevice {s : State} (h : s.Numbered) {g : Rung} : (s.endDevice g).Numbered := by
  unfold State.endDevice
  extract_lets rcv pwr own s1 s2
  have h1 : s1.Numbered := h
  have h2 : s2.Numbered := (State.trace_numbered ..).2
    (h1.forCtx fun u c hu => (State.modCtx_numbered u c (fun x => x.skipPeriods u.clk.now) rfl).2 hu)
  refine State.Numbered.evalAll ?_
  split <;> simp [h2]

theorem execRungComplete_numbered {scope : RungScope} {s : State} (h : s.Numbered) :
    ∃ t, execRungComplete scope s = .next t ∧ t.Numbered := by
  refine ⟨_, rfl, h.whenPowered fun u hu => ?_⟩
  (repeat' split) <;> simp [hu]

theorem execRungBoundMiss_numbered {scope : RungScope} {s : State} (h : s.Numbered) :
    ∃ t, execRungBoundMiss scope s = .next t ∧ t.Numbered := by
  refine ⟨_, rfl, h.whenPowered fun u hu => ?_⟩
  dsimp only
  (repeat' split) <;> simp [hu]

theorem execSuspectReplayComplete_numbered {e : Engine} {c : CtxId} {hung hungElsewhere : Bool} {s : State} (h : s.Numbered) :
    ∃ t, execSuspectReplayComplete e c hung hungElsewhere s = .next t ∧ t.Numbered := by
  refine ⟨_, rfl, h.whenUp fun u hu => ?_⟩
  dsimp only
  (repeat' split) <;> simp [hu]

@[simp ↓] theorem State.Numbered.endTrip {s : State} (h : s.Numbered) : s.endTrip.Numbered := by
  unfold State.endTrip
  split <;> simp [h]

theorem execHbmTemperatureRead_numbered {stack : Fin 8} {temp : Nat} {s : State} (h : s.Numbered) :
    ∃ t, execHbmTemperatureRead stack temp s = .next t ∧ t.Numbered :=
  ⟨_, rfl, h.whenPowered fun _ hu => ((State.mk_numbered ..).2 hu).applyLevels.endTrip⟩

theorem execZoneTemperatureRead_numbered {z : Fin 7} {readings : List Nat} {s : State} (h : s.Numbered) :
    ∃ t, execZoneTemperatureRead z readings s = .next t ∧ t.Numbered := by
  refine ⟨_, rfl, h.whenPowered fun u hu => ?_⟩
  split
  · exact hu
  · exact ((State.mk_numbered ..).2 hu).applyLevels.endTrip

theorem execPowerLevelFall_numbered {s : State} (h : s.Numbered) : ∃ t, execPowerLevelFall s = .next t ∧ t.Numbered := by
  refine ⟨_, rfl, h.whenPowered fun u hu => ?_⟩
  split
  · exact hu
  · exact ((State.mk_numbered ..).2 hu).applyLevels

@[simp ↓] theorem State.Numbered.replaceRow {s : State} (h : s.Numbered) {r : SramBank × Nat × Nat} : (s.replaceRow r).Numbered := by
  unfold State.replaceRow
  (repeat' split) <;> simp [h]

theorem execSpareRowReplace_numbered {s : State} (h : s.Numbered) : ∃ t, execSpareRowReplace s = .next t ∧ t.Numbered := by
  refine ⟨_, rfl, h.whenUp fun u hu => ?_⟩
  extract_lets due sram s1
  have h1 : s1.Numbered := hu
  split
  · exact hu
  · exact ((State.gradeChanged_numbered _).2 (h1.foldl (fun _ _ hv => hv.replaceRow) _)).retestAll

/-! ### Ownership -/

@[simp ↓] theorem State.Numbered.abortHostSteps {s : State} (h : s.Numbered) {c : CtxId} : (s.abortHostSteps c).Numbered :=
  h.foldl (fun _ _ hu => by split <;> simp [hu]) _

@[simp ↓] theorem State.Numbered.dropHostTails {s : State} (h : s.Numbered) {c : CtxId} : (s.dropHostTails c).Numbered := by
  unfold State.dropHostTails
  extract_lets held killed s1
  refine State.Numbered.modCtx (by unfold s1; simp [h]) _ _ ((List.filter_sublist.map _).trans ?_)
  rw [List.map_map, List.map_congr_left fun t _ => ?_]
  dsimp only [Function.comp]
  split <;> rfl

theorem State.Numbered.unbindCtx {s : State} (h : s.Numbered) {c : CtxId} : (s.unbindCtx c).Numbered := by
  unfold State.unbindCtx
  exact (State.Numbered.abortHostSteps (by simp [h])).dropHostTails

@[simp ↓] theorem State.Numbered.changeOwner {s : State} (h : s.Numbered) {new : Option Port} : (s.changeOwner new).Numbered := by
  unfold State.changeOwner
  extract_lets own s1 s2
  have h2 : s2.Numbered := State.Numbered.forCtx (by unfold s1; simp [h]) fun _ _ hu => hu.unbindCtx
  simp [h2]

@[simp ↓] theorem State.Numbered.expire {s : State} (h : s.Numbered) : s.expire.Numbered := by
  unfold State.expire
  split <;> simp [h]

@[simp ↓] theorem State.Numbered.writeClaim {s : State} (h : s.Numbered) {p : Port} {v : Reg} : (s.writeClaim p v).Numbered := by
  unfold State.writeClaim
  dsimp only
  (repeat' split) <;> simp [h]

@[simp ↓] theorem State.Numbered.writeRelease {s : State} (h : s.Numbered) {p : Port} {v : Reg} : (s.writeRelease p v).Numbered := by
  unfold State.writeRelease
  (repeat' split) <;> simp [h]

@[simp ↓] theorem State.Numbered.releasePort {s : State} (h : s.Numbered) {p : Port} : (s.releasePort p).Numbered := by
  unfold State.releasePort
  split <;> simp [h]

theorem execPcieLinkTrained_numbered {p : Port} {gts width mps : Nat} {s : State} (h : s.Numbered) :
    ∃ t, execPcieLinkTrained p gts width mps s = .next t ∧ t.Numbered := by
  refine ⟨_, rfl, h.whenPowered fun u hu => ?_⟩
  dsimp only
  split <;> simp [hu]

/-! ### Boot -/

theorem execHbmTrainingDone_numbered {failed : List (Fin 256)} {s : State} (h : s.Numbered) :
    ∃ t, execHbmTrainingDone failed s = .next t ∧ t.Numbered := by
  refine ⟨_, rfl, ?_⟩
  have h1 : (failed.foldl State.loseChannel s).Numbered := h.foldl (fun _ _ hu => hu.loseChannel) _
  dsimp only
  (repeat' split) <;> simp [h, h1]

@[simp ↓] theorem State.Numbered.testFail {s : State} (h : s.Numbered) {u : HwUnit} : (s.testFail u).Numbered := by
  unfold State.testFail
  split <;> simp [h]

theorem execStartUpTestDone_numbered {failed : List HwUnit} {s : State} (h : s.Numbered) :
    ∃ t, execStartUpTestDone failed s = .next t ∧ t.Numbered := by
  refine ⟨_, rfl, ?_⟩
  split
  · extract_lets x cleared hw s1 bad
    rw [State.setGrade_numbered]
    exact State.Numbered.foldl (by unfold s1 cleared; simp [h]) (fun _ _ hu => hu.testFail) _
  · exact h

theorem execWeirRebuildDone_numbered {s : State} (h : s.Numbered) : ∃ t, execWeirRebuildDone s = .next t ∧ t.Numbered := by
  refine ⟨_, rfl, h.whenPowered fun u hu => ?_⟩
  split
  · exact hu
  · extract_lets s1 s2 slu weir boot s3
    have h2 : s2.Numbered := by unfold s2 s1; simp [hu]
    have h3 : s3.Numbered := by unfold s3; simp [slu, h2]
    split <;> simp [h3]

theorem execPwrgdInRise_numbered {straps : BitVec 2} {s : State} (h : s.Numbered) :
    ∃ t, execPwrgdInRise straps s = .next t ∧ t.Numbered := by
  refine ⟨_, rfl, ?_⟩
  (repeat' split) <;> simp [h]

theorem execResetInNAssert_numbered {heldNs : Nat} {s : State} (h : s.Numbered) :
    ∃ t, execResetInNAssert heldNs s = .next t ∧ t.Numbered := by
  refine ⟨_, rfl, ?_⟩
  unfold State.pinReset
  (repeat' split) <;> simp [h]

theorem execResetInNRelease_numbered {straps : BitVec 2} {s : State} (h : s.Numbered) :
    ∃ t, execResetInNRelease straps s = .next t ∧ t.Numbered := by
  refine ⟨_, rfl, ?_⟩
  dsimp only
  (repeat' split) <;> simp [h]

theorem State.takeImage_numbered (s : State) (b : Bool) (bs : List Byte) : (s.takeImage b bs).Numbered ↔ s.Numbered := by
  unfold State.takeImage
  simp

theorem execBootImageVerified_numbered {s : State} (h : s.Numbered) : ∃ t, execBootImageVerified s = .next t ∧ t.Numbered := by
  refine ⟨_, rfl, h.whenPowered fun u hu => ?_⟩
  unfold State.trySlot
  dsimp only
  (repeat' split) <;> simp [hu, State.takeImage_numbered]

/-! ### Fabric and clocks -/

@[simp ↓] theorem State.Numbered.setPort {s : State} (h : s.Numbered) {p : Fin 8} {st : Nat} {lanes : BitVec 8} :
    (s.setPort p st lanes).Numbered := by
  unfold State.setPort
  dsimp only
  split <;> simp [h]

theorem State.Numbered.loseClock {s : State} (h : s.Numbered) {d : Domain} : (s.loseClock d).Numbered := by
  unfold State.loseClock
  split
  · exact h.foldl (fun _ _ hu => hu.loseModule) _
  all_goals simp [h]

theorem execClockCheck_numbered {lost : List Domain} {s : State} (h : s.Numbered) : ∃ t, execClockCheck lost s = .next t ∧ t.Numbered := by
  refine ⟨_, rfl, h.whenPowered fun u hu => ?_⟩
  extract_lets new s1 pwr s2
  have h1 : s1.Numbered := hu.foldl (fun _ _ hv => State.Numbered.loseClock (by simp [hv])) _
  have h2 : s2.Numbered := h1
  (repeat' split) <;> simp [h2]

/-! ### Registers -/

theorem State.writeTraceCtl_numbered (s : State) (v : Reg) : (s.writeTraceCtl v).Numbered ↔ s.Numbered := by
  unfold State.writeTraceCtl
  dsimp only
  split <;> simp

theorem State.writeViewSel_numbered (s : State) (path : Path) (v : Reg) : (s.writeViewSel path v).Numbered ↔ s.Numbered := by
  unfold State.writeViewSel
  split <;> simp

theorem State.writeTel_numbered (s : State) (path : Path) (off : Nat) (v : Reg) : (s.writeTel path off v).Numbered ↔ s.Numbered := by
  unfold State.writeTel
  split <;> simp [State.writeTraceCtl_numbered, State.writeViewSel_numbered, State.writeTracePage]

theorem State.writeFab_numbered (s : State) (f : Cfg → Cfg) : (s.writeFab f).Numbered ↔ s.Numbered := by
  unfold State.writeFab
  split <;> rfl

theorem State.writeRiffle_numbered (s : State) (v : Reg) : (s.writeRiffle v).Numbered ↔ s.Numbered := by
  unfold State.writeRiffle State.modCfg
  simp

theorem State.writeRing_numbered (s : State) (v : Reg) : (s.writeRing v).Numbered ↔ s.Numbered := by
  unfold State.writeRing
  dsimp only
  split <;> rfl

theorem State.writeSvn_numbered (s : State) (v : Reg) : (s.writeSvn v).Numbered ↔ s.Numbered := by
  unfold State.writeSvn
  split <;> simp

theorem State.writeKeyCtl_numbered (s : State) (v : Reg) : (s.writeKeyCtl v).Numbered ↔ s.Numbered := by
  unfold State.writeKeyCtl State.loadKey State.eraseKey
  dsimp only
  (repeat' split) <;> simp

theorem State.Numbered.writeFence {s : State} (h : s.Numbered) {v : Reg} : (s.writeFence v).Numbered := by
  unfold State.writeFence
  dsimp only
  (repeat' split) <;> simp [h]

theorem State.Numbered.writeReset {s : State} (h : s.Numbered) {v : Reg} : (s.writeReset v).Numbered := by
  unfold State.writeReset
  (repeat' split) <;> simp [h]

theorem State.Numbered.applyReg {s : State} (h : s.Numbered) {p : Port} {off : Nat} {v : Reg} : (s.applyReg p off v).Numbered := by
  have hcfg : ∀ f, (s.modCfg f).Numbered := fun _ => h
  unfold State.applyReg
  (repeat' split) <;> simp [h, hcfg, h.writeFence, h.writeReset, State.writeTraceCtl_numbered, State.writeViewSel_numbered,
    State.writeTracePage, State.writeFab_numbered, State.writeRiffle_numbered, State.writeRing_numbered, State.writeSvn_numbered,
    State.writeKeyCtl_numbered]

theorem State.Numbered.writeReg {s : State} (h : s.Numbered) {off : Nat} {w : RegWrite} : (s.writeReg off w).Numbered := by
  unfold State.writeReg
  (repeat' split) <;> simp [h, h.applyReg]

theorem execManagementRequest_numbered {p : OxtPkt} {s : State} (h : s.Numbered) :
    ∃ t, execManagementRequest p s = .next t ∧ t.Numbered := by
  refine ⟨_, rfl, h.whenUp fun u hu => ?_⟩
  unfold State.serveMgmt
  dsimp only
  (repeat' split) <;> simp [hu, State.writeTel_numbered]

end Sys2Proof.Machine
end

section
/-! PROOFS. Every step of the machine keeps the numbers of a context's steps distinct and the next one new (R41, R333). -/

namespace Sys2Proof.Machine

/-! ### Every command -/

theorem execCollectiveCommandComplete_numbered {r : CmdRef} {s : State} (h : s.Numbered) :
    ∃ t, execCollectiveCommandComplete r s = .next t ∧ t.Numbered := by
  refine ⟨_, rfl, ?_⟩
  split
  · exact h.completeCmd fun t k => collEffect_numbered r s t k
  · exact h

theorem execFetchRequest_numbered {p : OxtPkt} {s : State} (h : s.Numbered) : ∃ t, execFetchRequest p s = .next t ∧ t.Numbered := by
  refine ⟨_, rfl, ?_⟩
  split
  · exact h
  · refine h.receive fun u c hu => ?_
    dsimp only
    split
    · exact hu.foldl (fun _ _ hv => by simp [hv]) _
    · simp [hu]

theorem execFetchChunk_numbered {p : OxtPkt} {s : State} (h : s.Numbered) : ∃ t, execFetchChunk p s = .next t ∧ t.Numbered := by
  refine ⟨_, rfl, ?_⟩
  split
  · exact h
  · exact h.receive fun _ _ hu => hu.takeWeights

theorem execFetchAbsent_numbered {p : OxtPkt} {s : State} (h : s.Numbered) : ∃ t, execFetchAbsent p s = .next t ∧ t.Numbered := by
  refine ⟨_, rfl, ?_⟩
  split
  · exact h
  · exact h.receive fun _ _ hu => hu.retryChunk

theorem execTake_numbered {p : OxtPkt} {s : State} (h : s.Numbered) : ∃ t, execTake p s = .next t ∧ t.Numbered := by
  refine ⟨_, rfl, h.mirrorMsg fun u c hu => ?_⟩
  dsimp only
  split
  · simp [hu]
  · rw [State.sendSeal_numbered]
    exact State.Numbered.foldl (by simp [hu]) (fun _ _ hv => by simp [hv]) _

theorem execRiffleEcho_numbered {port : Fin 8} {f : RiffleFrame} {s : State} (h : s.Numbered) :
    ∃ t, execRiffleEcho port f s = .next t ∧ t.Numbered := by
  have htarget : ∀ c, (s.modCtx c fun x => x.restartTarget port f s.clk.now).Numbered := fun c => h.modCtx c _ (.refl _)
  refine ⟨_, rfl, ?_⟩
  dsimp only
  (repeat' split) <;> simp [h, htarget]

/-- Every command keeps the numbers of a context's steps distinct and the next one new (R41). -/
theorem exec_numbered (i : Instr) {s : State} (h : s.Numbered) : ∃ t, exec i s = .next t ∧ t.Numbered := by
  cases i
  case create | teardown | preempt | rebind | stepHead | commands | epoch | groupTable | peerAddress | riffleTargets | mirrorConfiguration
      | restore | pattern | join | leave | stop | manifest | load | final => exact ⟨_, rfl, h.recordIn⟩
  case intakeWindowWrite => exact ⟨_, rfl, h.windowWrite⟩
  case ownClaim | ownRenew | ownRelease | ownOffer | registerWrite | fabFence | rcvReset | sluClientClear | hbmInject | intgInject
      | intgCover | bootUpdGo | secSvnCommit | keyLoad | keyErase | attestationGo | traceClear => exact ⟨_, rfl, h.writeReg⟩
  case mirrorChunk | mirrorDigest | mirrorRepeat | mirrorSeal | mirrorClean | mirrorRefuse | none =>
    exact ⟨_, rfl, h.mirrorMsg fun _ _ hu => by simp [hu]⟩
  case mirrorDiscard => exact ⟨_, rfl, h.mirrorMsg fun _ _ hu => by dsimp only; split <;> simp [hu]⟩
  case collectiveMessage | stageQueueData | oxtAbort => exact ⟨_, rfl, h.receive fun _ _ hu => by simp [hu]⟩
  case ackTimer | riffleProbe | bar4Read | bar4Write | fenceRead | pwrNowLoRead | weirMirCleanLoRead | bootJrnSeqLoRead
      | firmwareFetchDone | firmwareFetchTimeout | hbmInitialised | identityKeyDerived => exact ⟨_, rfl, by simp [h]⟩
  case riffleInterval | retrainSlot | hbmScrubGroup | unitBoundMiss | imageUpdateDone =>
    exact ⟨_, rfl, h.whenUp fun _ hu => by simp [hu]⟩
  case manifestVerified | mirrorStreamEnd | mirrorStreamDeadline | migrationStart | checkerRepeat | repeatPending | quarantineLimit
      | attestationSigned =>
    refine ⟨_, rfl, h.whenUp fun u hu => ?_⟩
    (repeat' split) <;> simp [hu]
  case riffleTimerExpiry =>
    refine ⟨_, rfl, h.whenUp fun u hu => ?_⟩
    dsimp only
    (repeat' split) <;> simp [hu]
  case pfcFrame | pauseStorm | portUp | portDown | sramScrub | leaseExpiry | perst | functionLevelReset | hotReset | pcieLinkDown
      | journalReplayDone | compactionDone | areaEraseDone | timeMark | powerWindow | testPortBypassExit =>
    exact ⟨_, rfl, h.whenPowered fun _ hu => by simp [hu]⟩
  case walkComplete | signatureRecordExport | offerLapse | journalAppend =>
    refine ⟨_, rfl, h.whenPowered fun u hu => ?_⟩
    (repeat' split) <;> simp [hu]
  case reqRise =>
    refine ⟨_, rfl, h.whenPowered fun u hu => ?_⟩
    dsimp only
    (repeat' split) <;> simp [hu]
  case oxtAck =>
    refine ⟨_, rfl, ?_⟩
    dsimp only
    (repeat' split) <;> simp [h]
  case matrixCommandComplete => exact ⟨_, rfl, h.endCore h.matrixComplete⟩
  case vectorCommandComplete => exact ⟨_, rfl, h.endCore h.vectorComplete⟩
  case updateCommandComplete r => exact ⟨_, rfl, h.completeCmd fun t k => updateEffect_numbered r.ctx s t k⟩
  case pwrgdInFall => exact ⟨_, rfl, h⟩
  case stepStart => exact execStepStart_numbered h
  case commandRelease => exact execCommandRelease_numbered h
  case timeSliceBoundary => exact execTimeSliceBoundary_numbered h
  case dmaCommandComplete => exact execDmaCommandComplete_numbered h
  case collectiveCommandComplete => exact execCollectiveCommandComplete_numbered h
  case overrun => exact execOverrun_numbered h
  case checkerMismatch => exact execCheckerMismatch_numbered h
  case weirPageWrite => exact execWeirPageWrite_numbered h
  case commit => exact execCommit_numbered h
  case reducedRecord => exact execReducedRecord_numbered h
  case collectiveDeadline => exact execCollectiveDeadline_numbered h
  case servingPeriodStart => exact execServingPeriodStart_numbered h
  case fetchRequest => exact execFetchRequest_numbered h
  case fetchChunk => exact execFetchChunk_numbered h
  case fetchAbsent => exact execFetchAbsent_numbered h
  case fetchWaitExpiry => exact execFetchWaitExpiry_numbered h
  case take => exact execTake_numbered h
  case restoreWaitExpiry => exact execRestoreWaitExpiry_numbered h
  case oxtNack => exact execOxtNack_numbered h
  case oxtResetNack => exact execOxtResetNack_numbered h
  case notReadyWaitExpiry => exact execNotReadyWaitExpiry_numbered h
  case retransmitTimeout => exact execRetransmitTimeout_numbered h
  case managementRequest => exact execManagementRequest_numbered h
  case riffleEcho => exact execRiffleEcho_numbered h
  case dmaBurstComplete => exact execDmaBurstComplete_numbered h
  case requestLineParityFault => exact execRequestLineParityFault_numbered h
  case meshPacketArrival => exact execMeshPacketArrival_numbered h
  case ucieReplayLimit => exact execUcieReplayLimit_numbered h
  case ucieModuleRepair => exact execUcieModuleRepair_numbered h
  case ringBreak => exact execRingBreak_numbered h
  case retrainResult => exact execRetrainResult_numbered h
  case hbmParityError => exact execHbmParityError_numbered h
  case hbmGroupRead => exact execHbmGroupRead_numbered h
  case hbmTemperatureRead => exact execHbmTemperatureRead_numbered h
  case migrationCommit => exact execMigrationCommit_numbered h
  case spareRowReplace => exact execSpareRowReplace_numbered h
  case stepBoundaryRetirement => exact execStepBoundaryRetirement_numbered h
  case eddyRecomputeComplete => exact execEddyRecomputeComplete_numbered h
  case eddyVote => exact execEddyVote_numbered h
  case watchdogExpiry => exact execWatchdogExpiry_numbered h
  case rungComplete => exact execRungComplete_numbered h
  case rungBoundMiss => exact execRungBoundMiss_numbered h
  case heartbeatMiss => exact execHeartbeatMiss_numbered h
  case suspectReplayComplete => exact execSuspectReplayComplete_numbered h
  case teardownComplete => exact execTeardownComplete_numbered h
  case pcieLinkTrained => exact execPcieLinkTrained_numbered h
  case pwrgdInRise => exact execPwrgdInRise_numbered h
  case resetInNAssert => exact execResetInNAssert_numbered h
  case resetInNRelease => exact execResetInNRelease_numbered h
  case bootImageVerified => exact execBootImageVerified_numbered h
  case hbmTrainingDone => exact execHbmTrainingDone_numbered h
  case startUpTestDone => exact execStartUpTestDone_numbered h
  case weirRebuildDone => exact execWeirRebuildDone_numbered h
  case zoneTemperatureRead => exact execZoneTemperatureRead_numbered h
  case powerLevelFall => exact execPowerLevelFall_numbered h
  case clockCheck => exact execClockCheck_numbered h

theorem idle_numbered (s : State) : (idle s).Numbered ↔ s.Numbered := by
  unfold idle
  split <;> rfl

/-- Settles O60: the front command leaves numbers distinct whatever it is (`exec_numbered`), for a number joins a context's steps only where
a step is admitted or a period instantiated, as the next number, and everything else lets numbers go at most; an idle cycle touches no step. -/
theorem stepNumbersStayDistinct : Obligations.StepNumbersStayDistinct := by
  unfold Obligations.StepNumbersStayDistinct
  intro s t h hstep
  unfold step at hstep
  split at hstep
  · cases hstep
    exact (idle_numbered s).2 h
  · next c rest _ =>
    obtain ⟨u, hu, hn⟩ := exec_numbered c (s := { s with pending := rest }) h
    cases hu.symm.trans hstep
    exact hn

end Sys2Proof.Machine
end

section
/-! PROOFS. A STEP_HEAD or COMMANDS record without END only fills its context's assembly (R324). -/

namespace Sys2Proof.Machine

/-- The state after a record that leaves the assembly `a`. -/
def State.gathered (s : State) (r : RecordIn) (a : Assembly) : State :=
  ((s.taken r).modCtx r.ctx fun x => { x with asm := some a }).dispatch

theorem State.gathered_aside (s : State) (r : RecordIn) (a : Assembly) : s.Aside (s.gathered r a) :=
  .trans (t := (s.taken r).modCtx r.ctx fun x => { x with asm := some a }) rfl (.of_still (State.dispatch_still _))

theorem State.gathered_slu (s : State) (r : RecordIn) (a : Assembly) : (s.gathered r a).slu = s.slu := by
  unfold State.gathered
  rw [State.dispatch_slu]
  rfl

theorem State.gathered_ctx_other {s : State} {r : RecordIn} {d : CtxId} (h : d ≠ r.ctx) (a : Assembly) :
    ((s.gathered r a).ctx d).still = (s.ctx d).still := by
  unfold State.gathered
  rw [State.dispatch_ctx, State.modCtx_ctx, if_neg (Ne.symm h), State.taken_ctx, if_neg (Ne.symm h)]

theorem State.gathered_ctx_self (s : State) (r : RecordIn) (a : Assembly) :
    ((s.gathered r a).ctx r.ctx).still =
      { (s.ctx r.ctx).still with regs := ((s.taken r).ctx r.ctx).regs, asm := some a } := by
  unfold State.gathered
  rw [State.dispatch_ctx, State.modCtx_ctx, if_pos rfl, State.taken_ctx, if_pos rfl]
  rfl

theorem State.gathered_spec (s : State) (r : RecordIn) (a : Assembly) :
    s.Aside (s.gathered r a) ∧ (s.gathered r a).slu = s.slu
      ∧ (∀ d : CtxId, d ≠ r.ctx → ((s.gathered r a).ctx d).still = (s.ctx d).still)
      ∧ ((s.gathered r a).ctx r.ctx).still =
          { (s.ctx r.ctx).still with regs := ((s.taken r).ctx r.ctx).regs, asm := some a } :=
  ⟨s.gathered_aside r a, s.gathered_slu r a, fun _ h => State.gathered_ctx_other h a, s.gathered_ctx_self r a⟩

/-- Settles O11: without END the record's entries stay in the assembly, and the record gets no answer. -/
theorem stepRecordsAreGathered : Obligations.StepRecordsAreGathered := by
  unfold Obligations.StepRecordsAreGathered
  intro s r hactive hflags hwhole
  have hend : (r.flags.toNat % 2 == 1) = false := by simp [hflags]
  have hasm : ((s.taken r).ctx r.ctx).asm = (s.ctx r.ctx).asm := by rw [State.taken_ctx, if_pos rfl]
  refine ⟨fun htakes hnone hsize => ⟨_, ?_, s.gathered_spec r _⟩, fun a htakes hsome => ⟨_, ?_, s.gathered_spec r _⟩⟩
  · rw [exec_stepHead, State.recordIn_judged htakes (by decide) (.inl hactive) (.inl hnone), hend, State.judgeType,
      State.judgeStepRecord, hasm, hnone]
    dsimp only
    rw [if_pos ⟨rfl, hsize, hwhole⟩]
    rfl
  · rw [exec_commands, State.recordIn_judged htakes (by decide) (.inl hactive) (.inr (.inr rfl)), hend, State.judgeType,
      State.judgeStepRecord, hasm, hsome]
    dsimp only
    rw [if_pos ⟨rfl, hwhole⟩]
    rfl

end Sys2Proof.Machine
end

section
/-! PROOFS. The owner's bytes wait in the intake window until a whole record stands there (R317 to R319, R390). -/

namespace Sys2Proof.Machine

/-- Does the window hold no whole record: no header, or a header of an admissible length whose record is not complete? -/
def NoWholeRecord (w : List Host.Cell) (pos : Nat) : Prop :=
  windowRead w pos 16 = none ∨
    ∃ h, windowRead w pos 16 = some h ∧ 2 ≤ field h 2 2 ∧ field h 2 2 ≤ 2048 ∧ windowRead w pos (16 * field h 2 2) = none

theorem State.evalOne_of_noWholeRecord {s : State} {c : CtxId} (h : NoWholeRecord (s.ctx c).regs.window (s.ctx c).regs.consumed.toNat) :
    s.evalOne c = none := by
  unfold State.evalOne
  obtain hnone | ⟨hd, hhead, hlow, hhigh, hbody⟩ := h
  · simp only [hnone, ite_self]
  · cases s.judging c
    case false => rfl
    case true => simp only [if_true, hhead, hbody, if_neg (show ¬ (field hd 2 2 < 2 ∨ 2048 < field hd 2 2) by omega)]

theorem State.evalWindow_of_noWholeRecord {s : State} {c : CtxId} (h : NoWholeRecord (s.ctx c).regs.window (s.ctx c).regs.consumed.toNat)
    (n : Nat) : State.evalWindow c n s = s := by
  cases n with
  | zero => rfl
  | succ n => rw [State.evalWindow, State.evalOne_of_noWholeRecord h]

/-- Bytes that stay inside the window are all offered to it. -/
theorem exec_intakeWindowWrite {s : State} {p : Port} {c : CtxId} {off : BitVec 16} {bs : List Byte}
    (h : off.toNat + bs.length ≤ 65536) : exec (.intakeWindowWrite p c off bs) s = .next (s.windowWrite p c off.toNat bs) := by
  show execIntakeWindowWrite p c off bs s = _
  unfold execIntakeWindowWrite windowBytes
  rw [List.take_of_length_le (by omega)]

/-- Settles O18: the placed bytes make no whole record, so the evaluation of the window ends at once. -/
theorem windowTakesBytes : Obligations.WindowTakesBytes := by
  unfold Obligations.WindowTakesBytes
  intro s p c off bs hpow hwarm hcool hlink hsize
  have hheard : ¬ (!s.powered || s.warming || s.cooling || !s.linkUp p) = true := by simp [hpow, hwarm, hcool, hlink]
  refine ⟨fun howner hwaits => ?_, fun hforeign => ?_⟩
  · rw [exec_intakeWindowWrite hsize, State.windowWrite, if_neg hheard, if_neg (not_not.mpr howner),
      State.evalWindow_of_noWholeRecord (by simpa [NoWholeRecord] using hwaits)]
    rfl
  · rw [exec_intakeWindowWrite hsize, State.windowWrite, if_neg hheard, if_pos hforeign]
    rfl

end Sys2Proof.Machine
end

section
/-! PROOFS. A context's generation advances at its creation and at the row write of its teardown (R332, R337). -/

namespace Sys2Proof.Machine

/-! ### The row write of a teardown (R337) -/

theorem State.Ended.dropTail (c : CtxId) (s : State) (uid : Nat) : State.Ended c s (s.dropTail c uid) :=
  .of_modCtx s _ (fun _ => rfl) fun _ _ h => List.mem_of_mem_filter h

theorem State.Ended.gen {c : CtxId} {s t : State} (h : State.Ended c s t) : (t.ctx c).regs.gen = (s.ctx c).regs.gen :=
  (congrArg (·.regs.gen) h.face :)

theorem State.tearRow_gen (s : State) (c : CtxId) : ((s.tearRow c).ctx c).regs.gen = genNext (s.ctx c).regs.gen := by
  rw [State.tearRow_ctx, if_pos rfl]

theorem State.tearRow_steps (s : State) (c : CtxId) : ((s.tearRow c).ctx c).steps = (s.ctx c).steps := by
  rw [State.tearRow_ctx, if_pos rfl]

theorem State.dispatch_steps_eq_nil (s : State) (c : CtxId) : (s.dispatch.ctx c).steps = [] ↔ (s.ctx c).steps = [] := by
  have h : (s.dispatch.ctx c).steps.map Step.still = (s.ctx c).steps.map Step.still := congrArg (·.steps) (s.dispatch_ctx c)
  rw [← List.map_eq_nil_iff (f := Step.still), h, List.map_eq_nil_iff]

/-- A teardown that leaves steps has not yet written the context's row, and one that leaves none has. -/
theorem State.startTeardown_gen {s : State} {c : CtxId} (ha : (s.ctx c).state = .active) (code : Code) (reason : Reason) (w : Who) :
    let t := s.startTeardown c code reason w
    (t.ctx c).regs.gen = if (t.ctx c).steps = [] then genNext (s.ctx c).regs.gen else (s.ctx c).regs.gen := by
  unfold State.startTeardown
  rw [if_neg (not_not_intro ha)]
  extract_lets hold s1 s2 intg sec s3 t
  have hended : State.Ended c s s1 := .foldl _ (fun u v => by
    split
    · split
      · exact .dropTail ..
      · split
        · exact .refl ..
        · exact .abortOne ..
    · exact .refl ..) _ _
  have h3 : (s3.ctx c).regs.gen = (s.ctx c).regs.gen := by
    show (s2.ctx c).regs.gen = _
    unfold s2
    rw [State.modCtx_ctx, if_pos rfl]
    dsimp only
    rw [State.ctx_of_ctxs (State.dropReceiver_leaves ..).1, (State.Mirrors.dropStream ..).self]
    exact hended.gen
  have hleft : (t.ctx c).steps = [] ↔ (s3.ctx c).steps = [] := by
    refine (State.dispatch_steps_eq_nil ..).trans ?_
    split
    · rw [State.tearRow_steps]
    · rfl
  show ((if (s3.ctx c).steps.isEmpty then s3.tearRow c else s3).dispatch.ctx c).regs.gen = _
  rw [State.dispatch_ctx_regs]
  by_cases hnone : (s3.ctx c).steps = []
  · rw [if_pos (List.isEmpty_iff.2 hnone), if_pos (hleft.2 hnone), State.tearRow_gen, h3]
  · rw [if_neg (mt List.isEmpty_iff.1 hnone), if_neg (mt hleft.1 hnone), h3]

/-! ### The records and the completion -/

/-- A CREATE for a free number (R331). -/
theorem exec_create_of_free {s : State} {r : RecordIn} {q : CreateRec} (htakes : s.Takes 0x01 r) (hfree : (s.ctx r.ctx).state = .free)
    (hasm : (s.ctx r.ctx).asm = none) (hparse : parseCreate r.payload = some q) (hretired : s.hw.retired = false) :
    exec (.create r) s = .next (((s.taken r).create r.ctx q r.client).accept r.ctx (whoOf r) id).dispatch := by
  have hself : ((s.taken r).ctx r.ctx).state = .free := by rwa [State.taken_ctx, if_pos rfl]
  have hjudge : (s.taken r).judgeCreate r.ctx r.payload (whoOf r)
      = ((s.taken r).create r.ctx q r.client).accept r.ctx (whoOf r) id :=
    State.judgeCreate_of_free (s := s.taken r) hparse hretired hself (whoOf r)
  rw [exec_create, State.recordIn_judged htakes (by decide) (.inr ⟨hfree, rfl⟩) (.inl hasm), ← hjudge]
  rfl

/-- A TEARDOWN of an active context (R337). -/
theorem exec_teardown_of_active {s : State} {r : RecordIn} (htakes : s.Takes 0x02 r) (hactive : (s.ctx r.ctx).state = .active)
    (hasm : (s.ctx r.ctx).asm = none) (hpacked : packed r.payload 0 = true) :
    exec (.teardown r) s
      = .next (((s.taken r).accept r.ctx (whoOf r) id).startTeardown r.ctx .abortedPreempt .none (whoOf r)).dispatch := by
  rw [exec_teardown, State.recordIn_judged htakes (by decide) (.inl hactive) (.inl hasm)]
  exact congrArg (fun u : State => Host.Outcome.next u.dispatch) (if_pos hpacked)

/-- The state after an accepted TEARDOWN: its context waits for the rest of its steps, or its row is written. -/
theorem State.accepted_teardown_gen {s : State} {r : RecordIn} (hactive : (s.ctx r.ctx).state = .active) :
    let t := (((s.taken r).accept r.ctx (whoOf r) id).startTeardown r.ctx .abortedPreempt .none (whoOf r)).dispatch
    (t.ctx r.ctx).state = .tearing ∧ (t.ctx r.ctx).regs.gen =
      if (t.ctx r.ctx).steps = [] then genNext (s.ctx r.ctx).regs.gen else (s.ctx r.ctx).regs.gen := by
  obtain ⟨hself, hgen⟩ := s.accepted_self r
  have ha : (((s.taken r).accept r.ctx (whoOf r) id).ctx r.ctx).state = .active := by rw [hself]; exact hactive
  refine ⟨by rw [State.dispatch_ctx_state]; exact State.startTeardown_state ha .., ?_⟩
  rw [State.dispatch_ctx_regs, State.startTeardown_gen ha, hgen]
  simp only [State.dispatch_steps_eq_nil]

/-- The context is at its reset value but for its registers, which the row write, if it is still due, and the event entry leave, and for
ranges that an abort still walks (R337). -/
theorem State.teardownComplete_ctx {s : State} {c : CtxId} {x : Tearing} (hup : s.up = true) (hx : (s.ctx c).tearing = some x)
    (hnone : (s.ctx c).steps = []) :
    ∃ t, exec (.teardownComplete c) s = .next t ∧ ∃ (e : Entry64) (walking : List Range),
        t.ctx c = { Ctx.reset with
          regs := (((if x.rowDone then s else s.tearRow c).putEntry c e).ctx c).regs, walking := walking } := by
  refine ⟨_, rfl, ?_⟩
  rw [State.whenUp_of_up hup]
  extract_lets y
  split
  case h_1 hidle => exact absurd (hidle.symm.trans hx) (by simp)
  case h_2 z hz =>
    obtain rfl : z = x := Option.some.inj (hz.symm.trans hx)
    rw [if_neg (by simp [y, hnone])]
    extract_lets s1 s2 walks s3 s4
    have hs3 : s3.ctx c = _ := (State.modCtx_ctx ..).trans (if_pos rfl)
    exact ⟨_, _, hs3⟩

/-- The completion writes the row when it has not been written before, and the event entry keeps the generation. -/
theorem State.teardownComplete_frees {s : State} {c : CtxId} {x : Tearing} (hup : s.up = true) (hx : (s.ctx c).tearing = some x)
    (hnone : (s.ctx c).steps = []) :
    ∃ t, exec (.teardownComplete c) s = .next t ∧ (t.ctx c).state = .free
      ∧ (t.ctx c).regs.gen = if x.rowDone then (s.ctx c).regs.gen else genNext (s.ctx c).regs.gen := by
  obtain ⟨t, hrun, e, walking, hctx⟩ := State.teardownComplete_ctx hup hx hnone
  refine ⟨t, hrun, congrArg (·.state) hctx, (congrArg (·.regs.gen) hctx).trans ((State.Ended.putEntry ..).gen.trans ?_)⟩
  split
  · rfl
  · exact s.tearRow_gen c

/-- Settles O31: the created context's generation, the row write of a teardown now or with its completion. -/
theorem generationsAdvance : Obligations.GenerationsAdvance := by
  refine ⟨fun _ => rfl, fun s r q htakes hfree hasm hparse hretired => ⟨_, exec_create_of_free htakes hfree hasm hparse hretired, ?created⟩,
    fun s r htakes hactive hasm hpacked => ?torn, fun s c x => State.teardownComplete_frees⟩
  case created =>
    rw [State.dispatch_ctx_state, State.dispatch_ctx_regs, State.accept_ctx, if_pos rfl, State.create_ctx, if_pos rfl, State.taken_ctx,
      if_pos rfl]
    exact ⟨rfl, rfl⟩
  case torn =>
    obtain ⟨hstate, hgen⟩ := s.accepted_teardown_gen hactive
    rw [exec_teardown_of_active htakes hactive hasm hpacked]
    refine ⟨fun t ht hnone => ?_, fun t ht hsome => ?_⟩ <;> cases ht
    · exact ⟨hstate, hgen.trans (if_pos hnone)⟩
    · exact ⟨hstate, hgen.trans (if_neg hsome)⟩

end Sys2Proof.Machine
end

section
/-! PROOFS. What every step of the machine owes the queue, the settings and the fuses, and which commands reach them at all (R390, R391,
R429, R432, R460). -/

namespace Sys2Proof.Machine

/-! ### The commands that configure nothing -/

/-- A command outside `mayConfigure` leaves the queue, settings, fuses, clock, ownership and keys alone. -/
theorem exec_kept (i : Instr) (s : State) (h : mayConfigure i = false) : ∃ t, exec i s = .next t ∧ t.kept = s.kept := by
  cases i
  all_goals try contradiction
  case create => exact execCreate_kept ..
  case teardown => exact execTeardown_kept ..
  case preempt => exact execPreempt_kept ..
  case rebind => exact execRebind_kept ..
  case stepHead => exact execStepHead_kept ..
  case commands => exact execCommands_kept ..
  case epoch => exact execEpoch_kept ..
  case groupTable => exact execGroupTable_kept ..
  case peerAddress => exact execPeerAddress_kept ..
  case riffleTargets => exact execRiffleTargets_kept ..
  case mirrorConfiguration => exact execMirrorConfiguration_kept ..
  case restore => exact execRestore_kept ..
  case pattern => exact execPattern_kept ..
  case join => exact execJoin_kept ..
  case leave => exact execLeave_kept ..
  case stop => exact execStop_kept ..
  case manifest => exact execManifest_kept ..
  case load => exact execLoad_kept ..
  case final => exact execFinal_kept ..
  case intakeWindowWrite => exact execIntakeWindowWrite_kept ..
  case manifestVerified => exact execManifestVerified_kept ..
  case stepStart => exact execStepStart_kept ..
  case commandRelease => exact execCommandRelease_kept ..
  case timeSliceBoundary => exact execTimeSliceBoundary_kept ..
  case matrixCommandComplete => exact execMatrixCommandComplete_kept ..
  case vectorCommandComplete => exact execVectorCommandComplete_kept ..
  case dmaCommandComplete => exact execDmaCommandComplete_kept ..
  case updateCommandComplete => exact execUpdateCommandComplete_kept ..
  case collectiveCommandComplete => exact execCollectiveCommandComplete_kept ..
  case overrun => exact execOverrun_kept ..
  case checkerMismatch => exact execCheckerMismatch_kept ..
  case weirPageWrite => exact execWeirPageWrite_kept ..
  case commit => exact execCommit_kept ..
  case reducedRecord => exact execReducedRecord_kept ..
  case collectiveDeadline => exact execCollectiveDeadline_kept ..
  case walkComplete => exact execWalkComplete_kept ..
  case servingPeriodStart => exact execServingPeriodStart_kept ..
  case fetchRequest => exact execFetchRequest_kept ..
  case fetchChunk => exact execFetchChunk_kept ..
  case fetchAbsent => exact execFetchAbsent_kept ..
  case fetchWaitExpiry => exact execFetchWaitExpiry_kept ..
  case mirrorStreamEnd => exact execMirrorStreamEnd_kept ..
  case mirrorStreamDeadline => exact execMirrorStreamDeadline_kept ..
  case mirrorChunk => exact execMirrorChunk_kept ..
  case mirrorDigest => exact execMirrorDigest_kept ..
  case mirrorRepeat => exact execMirrorRepeat_kept ..
  case mirrorSeal => exact execMirrorSeal_kept ..
  case mirrorClean => exact execMirrorClean_kept ..
  case mirrorDiscard => exact execMirrorDiscard_kept ..
  case mirrorRefuse => exact execMirrorRefuse_kept ..
  case take => exact execTake_kept ..
  case none => exact execNone_kept ..
  case restoreWaitExpiry => exact execRestoreWaitExpiry_kept ..
  case collectiveMessage => exact execCollectiveMessage_kept ..
  case stageQueueData => exact execStageQueueData_kept ..
  case oxtAck => exact execOxtAck_kept ..
  case oxtNack => exact execOxtNack_kept ..
  case oxtResetNack => exact execOxtResetNack_kept ..
  case oxtAbort => exact execOxtAbort_kept ..
  case notReadyWaitExpiry => exact execNotReadyWaitExpiry_kept ..
  case retransmitTimeout => exact execRetransmitTimeout_kept ..
  case ackTimer => exact execAckTimer_kept ..
  case riffleProbe => exact execRiffleProbe_kept ..
  case riffleEcho => exact execRiffleEcho_kept ..
  case riffleInterval => exact execRiffleInterval_kept ..
  case riffleTimerExpiry => exact execRiffleTimerExpiry_kept ..
  case pfcFrame => exact execPfcFrame_kept ..
  case pauseStorm => exact execPauseStorm_kept ..
  case portUp => exact execPortUp_kept ..
  case portDown => exact execPortDown_kept ..
  case reqRise => exact execReqRise_kept ..
  case dmaBurstComplete => exact execDmaBurstComplete_kept ..
  case requestLineParityFault => exact execRequestLineParityFault_kept ..
  case meshPacketArrival => exact execMeshPacketArrival_kept ..
  case ucieReplayLimit => exact execUcieReplayLimit_kept ..
  case ucieModuleRepair => exact execUcieModuleRepair_kept ..
  case retrainSlot => exact execRetrainSlot_kept ..
  case retrainResult => exact execRetrainResult_kept ..
  case hbmParityError => exact execHbmParityError_kept ..
  case hbmGroupRead => exact execHbmGroupRead_kept ..
  case hbmScrubGroup => exact execHbmScrubGroup_kept ..
  case migrationStart => exact execMigrationStart_kept ..
  case migrationCommit => exact execMigrationCommit_kept ..
  case sramScrub => exact execSramScrub_kept ..
  case stepBoundaryRetirement => exact execStepBoundaryRetirement_kept ..
  case eddyRecomputeComplete => exact execEddyRecomputeComplete_kept ..
  case eddyVote => exact execEddyVote_kept ..
  case checkerRepeat => exact execCheckerRepeat_kept ..
  case repeatPending => exact execRepeatPending_kept ..
  case signatureRecordExport => exact execSignatureRecordExport_kept ..
  case rungComplete => exact execRungComplete_kept ..
  case suspectReplayComplete => exact execSuspectReplayComplete_kept ..
  case quarantineLimit => exact execQuarantineLimit_kept ..
  case teardownComplete => exact execTeardownComplete_kept ..
  case pcieLinkTrained => exact execPcieLinkTrained_kept ..
  case pcieLinkDown => exact execPcieLinkDown_kept ..
  case bar4Read => exact execBar4Read_kept ..
  case bar4Write => exact execBar4Write_kept ..
  case fenceRead => exact execFenceRead_kept ..
  case pwrNowLoRead => exact execPwrNowLoRead_kept ..
  case weirMirCleanLoRead => exact execWeirMirCleanLoRead_kept ..
  case bootJrnSeqLoRead => exact execBootJrnSeqLoRead_kept ..
  case imageUpdateDone => exact execImageUpdateDone_kept ..
  case attestationSigned => exact execAttestationSigned_kept ..
  case journalReplayDone => exact execJournalReplayDone_kept ..
  case firmwareFetchDone => exact execFirmwareFetchDone_kept ..
  case firmwareFetchTimeout => exact execFirmwareFetchTimeout_kept ..
  case hbmTrainingDone => exact execHbmTrainingDone_kept ..
  case hbmInitialised => exact execHbmInitialised_kept ..
  case identityKeyDerived => exact execIdentityKeyDerived_kept ..
  case startUpTestDone => exact execStartUpTestDone_kept ..
  case weirRebuildDone => exact execWeirRebuildDone_kept ..
  case journalAppend => exact execJournalAppend_kept ..
  case compactionDone => exact execCompactionDone_kept ..
  case areaEraseDone => exact execAreaEraseDone_kept ..
  case timeMark => exact execTimeMark_kept ..
  case powerWindow => exact execPowerWindow_kept ..
  case powerLevelFall => exact execPowerLevelFall_kept ..
  case testPortBypassExit => exact execTestPortBypassExit_kept ..

/-! ### The commands that may configure -/

theorem Steady.whenUp {f : State → State} (h : ∀ u, Steady u (f u)) (s : State) : Steady s (s.whenUp f) := by
  unfold State.whenUp
  split
  · exact h s
  · exact .refl s

theorem Steady.whenPowered {f : State → State} (h : ∀ u, Steady u (f u)) (s : State) : Steady s (s.whenPowered f) := by
  unfold State.whenPowered
  split
  · exact h s
  · exact .refl s

theorem execManagementRequest_steady (p : OxtPkt) (s : State) : ∃ t, execManagementRequest p s = .next t ∧ Steady s t := by
  refine ⟨_, rfl, .whenUp (fun u => ?_) s⟩
  split
  · exact .of_kept u.dropBad_kept
  split
  · exact .refl u
  split
  · exact .of_kept u.dropMgmt_kept
  · exact u.serveMgmt_steady p

theorem execOfferLapse_steady (s : State) : ∃ t, execOfferLapse s = .next t ∧ Steady s t := by
  refine ⟨_, rfl, .whenPowered (fun u => ?_) s⟩
  split
  · split
    · exact ⟨rfl, .refl _, id⟩
    · exact .refl u
  · exact .refl u

theorem execPwrgdInRise_steady (b : BitVec 2) (s : State) : ∃ t, execPwrgdInRise b s = .next t ∧ Steady s t := by
  refine ⟨_, rfl, ?_⟩
  split
  · exact .refl s
  split
  · exact (State.coldStart_steady ..).then_kept (State.holdEvent_kept _)
  · exact State.coldStart_steady ..

theorem execResetInNAssert_steady (n : Nat) (s : State) : ∃ t, execResetInNAssert n s = .next t ∧ Steady s t := by
  refine ⟨_, rfl, ?_⟩
  split
  · exact .refl s
  split
  · exact s.pinReset_steady
  · exact ⟨rfl, .refl _, id⟩

theorem execResetInNRelease_steady (b : BitVec 2) (s : State) : ∃ t, execResetInNRelease b s = .next t ∧ Steady s t := by
  refine ⟨_, rfl, ?_⟩
  split
  · exact .refl s
  split
  · refine Steady.then_kept ?_ (State.holdEvent_kept _)
    exact (s.coldStart_steady { now := 0, pwrgd := true, resetN := true, straps := b } b s.rcv.heldMiss).then_kept rfl
  · exact ⟨rfl, .refl _, id⟩

theorem execBootImageVerified_steady (s : State) : ∃ t, execBootImageVerified s = .next t ∧ Steady s t := by
  refine ⟨_, rfl, .whenPowered (fun u => ?_) s⟩
  dsimp only
  split
  · exact .refl u
  split
  · exact u.trySlot_steady
  split
  · exact .of_kept (by rw [State.afterImage_kept, State.measureBoot_kept])
  · exact .of_kept rfl

theorem State.expireWatchdog_steady (s : State) (e : Engine) (todo : List CtxId) : Steady s (s.expireWatchdog e todo) :=
  .after_kept (t := { s with rcv := { s.rcv with watchdogs := satInc s.rcv.watchdogs } }) rfl (State.startRung_steady ..)

theorem execWatchdogExpiry_steady (e : Engine) (s : State) : ∃ t, execWatchdogExpiry e s = .next t ∧ Steady s t := by
  refine ⟨_, rfl, .whenUp (fun u => ?_) s⟩
  split
  · split
    · exact u.expireWatchdog_steady ..
    · exact .refl u
  split
  · split
    · exact u.expireWatchdog_steady ..
    · exact .refl u
  · exact .refl u

theorem execHeartbeatMiss_steady (w : Steward) (s : State) : ∃ t, execHeartbeatMiss w s = .next t ∧ Steady s t := by
  refine ⟨_, rfl, .whenUp (fun u => ?_) s⟩
  cases w <;> exact u.startRung_steady ..

theorem execRingBreak_steady (ring : Fin 2) (g : Fin 7) (s : State) : ∃ t, execRingBreak ring g s = .next t ∧ Steady s t := by
  refine ⟨_, rfl, .whenPowered (fun u => ?_) s⟩
  split
  · exact .refl u
  · extract_lets r0 v
    have hv : v.kept = u.kept := State.journal_kept ..
    clear_value v
    split
    · exact .after_kept hv (.foldl _ (fun w r => w.startRung_steady (.region r) false none []) ..)
    · exact .of_kept hv

theorem execRungBoundMiss_steady (scope : RungScope) (s : State) : ∃ t, execRungBoundMiss scope s = .next t ∧ Steady s t := by
  refine ⟨_, rfl, .whenPowered (fun u => ?_) s⟩
  split
  · exact .refl u
  split
  · exact .refl u
  · extract_lets r0 v w r1 x
    have hw : w.kept = u.kept := State.trace_kept ..
    clear_value v w
    split
    · exact .of_kept hw
    · refine .after_kept (?_ : x.kept = u.kept) (State.startRung_steady ..)
      unfold x
      split
      · rw [State.missUnit_kept, hw]
      · exact hw

theorem execHbmTemperatureRead_steady (k : Fin 8) (temp : Nat) (s : State) :
    ∃ t, execHbmTemperatureRead k temp s = .next t ∧ Steady s t := by
  refine ⟨_, rfl, .whenPowered (fun u => ?_) s⟩
  extract_lets temps levels z mine h0 p0 z0 v
  have hv : v.kept = u.kept := rfl
  clear_value v
  exact .after_kept ((State.applyLevels_kept v).trans hv) (State.endTrip_steady _)

theorem execZoneTemperatureRead_steady (z : Fin 7) (readings : List Nat) (s : State) :
    ∃ t, execZoneTemperatureRead z readings s = .next t ∧ Steady s t := by
  refine ⟨_, rfl, .whenPowered (fun u => ?_) s⟩
  split
  · exact .refl u
  · extract_lets temp zone p0 v
    have hv : v.kept = u.kept := rfl
    clear_value v
    exact .after_kept ((State.applyLevels_kept v).trans hv) (State.endTrip_steady _)

theorem execClockCheck_steady (lost : List Domain) (s : State) : ∃ t, execClockCheck lost s = .next t ∧ Steady s t := by
  refine ⟨_, rfl, .whenPowered (fun u => ?_) s⟩
  have hlose : ∀ ds : List Domain, (ds.foldl (fun (v : State) d => v.countClock.loseClock d) u).kept = u.kept := fun ds =>
    State.kept_foldl _ (fun v d => by rw [State.loseClock_kept, State.countClock_kept]) ds u
  extract_lets new v p0 w
  have hw : w.kept = u.kept := hlose new
  clear_value v w
  split
  · exact .after_kept hw (State.startRung_steady ..)
  split
  · exact .after_kept hw (State.startRung_steady ..)
  · exact .of_kept hw

theorem execSpareRowReplace_steady (s : State) : ∃ t, execSpareRowReplace s = .next t ∧ Steady s t := by
  refine ⟨_, rfl, .whenUp (fun u => ?_) s⟩
  extract_lets due m0 v
  have hv : v.kept = u.kept := rfl
  clear_value v
  split
  · exact .refl u
  · refine Steady.then_kept ?_ (State.retestAll_kept ..)
    refine Steady.then_kept ?_ (State.gradeChanged_kept _)
    exact .after_kept hv (.foldl _ State.replaceRow_steady ..)

/-- Every command answers a state that keeps the queue, holds the fuses and keeps legal settings legal. -/
theorem exec_steady (i : Instr) (s : State) : ∃ t, exec i s = .next t ∧ Steady s t := by
  cases h : mayConfigure i with
  | false => exact (exec_kept i s h).imp fun _ => And.imp_right .of_kept
  | true =>
    cases i
    all_goals try contradiction
    case registerWrite | ownClaim | ownRenew | ownRelease | ownOffer | fabFence | rcvReset | sluClientClear | hbmInject | intgInject
        | intgCover | bootUpdGo | secSvnCommit | keyLoad | keyErase | attestationGo | traceClear => exact ⟨_, rfl, State.writeReg_steady ..⟩
    case managementRequest => exact execManagementRequest_steady ..
    case offerLapse => exact execOfferLapse_steady s
    case leaseExpiry => exact ⟨_, rfl, .whenPowered State.expire_steady s⟩
    case perst | hotReset =>
      exact ⟨_, rfl, .whenPowered (fun u => (u.releasePort_steady _).then_kept (State.setLink_kept ..)) s⟩
    case functionLevelReset => exact ⟨_, rfl, .whenPowered (fun u => u.releasePort_steady _) s⟩
    case pwrgdInRise => exact execPwrgdInRise_steady ..
    case pwrgdInFall => exact ⟨_, rfl, rfl, .refl _, id⟩
    case resetInNAssert => exact execResetInNAssert_steady ..
    case resetInNRelease => exact execResetInNRelease_steady ..
    case bootImageVerified => exact execBootImageVerified_steady s
    case watchdogExpiry => exact execWatchdogExpiry_steady ..
    case heartbeatMiss => exact execHeartbeatMiss_steady ..
    case unitBoundMiss => exact ⟨_, rfl, .whenUp (fun u => u.startRung_steady ..) s⟩
    case ringBreak => exact execRingBreak_steady ..
    case rungBoundMiss => exact execRungBoundMiss_steady ..
    case hbmTemperatureRead => exact execHbmTemperatureRead_steady ..
    case zoneTemperatureRead => exact execZoneTemperatureRead_steady ..
    case clockCheck => exact execClockCheck_steady ..
    case spareRowReplace => exact execSpareRowReplace_steady s

/-- What `State.kept` names, apart from the queue. -/
theorem parts_of_kept {s t : State} (h : t.kept = s.kept) : t.cfg = s.cfg ∧ t.fuse = s.fuse ∧ t.clk = s.clk
    ∧ t.own.owner = s.own.owner ∧ t.own.term = s.own.term ∧ t.own.offer = s.own.offer ∧ t.sec.keys = s.sec.keys :=
  ⟨kept_cfg h, kept_fuse h, congrArg (·.2.2.2.1) h, congrArg (·.2.2.2.2.1) h, congrArg (·.2.2.2.2.2.2.1) h,
    congrArg (·.2.2.2.2.2.1) h, congrArg (·.2.2.2.2.2.2.2) h⟩

/-- One step keeps legal settings legal and holds the fuses; an idle cycle touches the counter alone. -/
theorem step_holds {s t : State} (h : step s = .next t) : s.fuse.Held t.fuse ∧ (s.cfg.Legal → t.cfg.Legal) := by
  unfold step at h
  split at h
  · cases h
    unfold idle
    split <;> exact ⟨.refl _, id⟩
  · next c rest _ =>
    obtain ⟨u, hu, hsteady⟩ := exec_steady c { s with pending := rest }
    cases hu.symm.trans h
    exact ⟨hsteady.fuses, hsteady.legal⟩

/-! ### The obligations -/

/-- Settles O6: what a command outside `mayConfigure` keeps. -/
theorem onlyTheseConfigure : Obligations.OnlyTheseConfigure := by
  intro c s t hc ht
  obtain ⟨u, hu, hkept⟩ := exec_kept c s hc
  cases hu.symm.trans ht
  exact parts_of_kept hkept

/-- Settles O4: each command's writes of settings are of values that the registers admit (`exec_steady`). -/
theorem settingsStayLegal : Obligations.SettingsStayLegal := fun _ _ hlegal h => (step_holds h).2 hlegal

/-- Settles O5: the fuses change in SEC_SVN_COMMIT alone, which raises FSV (`exec_steady`). -/
theorem fusesHeld : Obligations.FusesHeld := fun _ _ h => (step_holds h).1

/-- Settles O2: the answer and the queue of every command (`exec_steady`). -/
theorem everyCommandAnswers : Obligations.EveryCommandAnswers := fun c s => (exec_steady c s).imp fun _ => And.imp_right Steady.queue

/-- Settles O1: `step` takes the front command, or idles. -/
theorem stepTakesFront : Obligations.StepTakesFront := by
  refine ⟨fun s c rest h => ?front, fun s h hp => ?on, fun s h hp => ?off⟩
  case front => unfold step; rw [h]
  case on => unfold step idle; rw [h]; simp only [hp, if_true]; rfl
  case off => unfold step idle; rw [h]; simp [hp]

/-- A register outside the TEL_ block reads as its block gives it. -/
theorem State.reg_outsideTel (s : State) (path : Path) {off : Nat} (h : off / 65536 ≠ 12) :
    s.reg path off = s.blockReg path (off / 65536) (off % 65536) := if_neg fun hview => h hview.1

/-- Settles O3: the values of the Reset column, register by register. -/
theorem afterReset : Obligations.AfterReset := by
  refine ⟨Cfg.Legal.reset, State.reset_numbered, fun path q hq => ?_⟩
  rw [State.reg_outsideTel State.reset path (off := q.1) (by revert q; decide)]
  revert q
  simp only [List.forall_mem_cons]
  refine ⟨?_, ?_, ?_, ?_, ?_, ?_, ?_, fun _ hq => absurd hq List.not_mem_nil⟩
  · rfl
  · rfl
  · rfl
  · rfl
  · rfl
  · rfl
  · rfl

end Sys2Proof.Machine
end

section
/-! PROOFS. A device without power, in reset, or held by a cold reset that missed its bound stands still (R373, R401). -/

namespace Sys2Proof.Machine

section
variable {s : State}

/-! ### What the guards of the commands answer -/

theorem State.up_of_off (hoff : s.powered = false) : s.up = false := by simp [State.up, hoff]

theorem State.windowWrite_of_off (hoff : s.powered = false) (p : Port) (c : CtxId) (off : Nat) (bs : List Byte) :
    s.windowWrite p c off bs = s := by simp [State.windowWrite, hoff]

theorem State.writeReg_of_off (hoff : s.powered = false) (off : Nat) (w : RegWrite) : s.writeReg off w = s := by
  simp [State.writeReg, hoff]

theorem State.hostRead_of_off (hoff : s.powered = false) (p : Port) (off : Nat) : s.hostRead p off = s := by
  simp [State.hostRead, hoff]

theorem State.fetchEnd_of_off (hoff : s.powered = false) (f : Fetcher) (ok : Bool) : s.fetchEnd f ok = s := by
  simp [State.fetchEnd, State.bootable, hoff]

theorem State.receive_of_down (hdown : s.up = false) (p : OxtPkt) (typ cls : Nat) (known : State → CtxId → Bool)
    (act : State → CtxId → State) : s.receive p typ cls known act = s := by simp [State.receive, hdown]

theorem State.mirrorMsg_of_down (hdown : s.up = false) (p : OxtPkt) (kind : Nat) (known : State → CtxId → Bool)
    (act : State → CtxId → State) : s.mirrorMsg p kind known act = s := by
  unfold State.mirrorMsg
  rw [State.receive_of_down hdown, ite_self]

theorem State.completeCmd_of_down (hdown : s.up = false) (r : CmdRef) (kind : Nat) (minTime : State → Step → Cmd → Ns) (eff : Effect) :
    s.completeCmd r kind minTime eff = s := by
  unfold State.completeCmd
  split
  · exact if_neg fun h => by simp [hdown] at h
  · rfl

theorem State.endCore_of_down (hdown : s.up = false) {r : CmdRef} {f : State → CmdRef → State} (hf : f s r = s) : s.endCore r f = s := by
  unfold State.endCore
  split
  · exact if_neg fun h => by simp [hdown] at h
  · exact hf

theorem execDmaBurstComplete_of_down (hdown : s.up = false) (r : CmdRef) (host : List Byte) :
    execDmaBurstComplete r host s = .next s := by
  unfold execDmaBurstComplete
  split
  · exact congrArg _ (if_neg fun h => by simp [hdown] at h)
  · rfl

/-! ### Every command -/

/-- Without power or in reset only the power and reset pins do anything (R401). -/
theorem exec_of_off (hoff : s.powered = false) (i : Instr) (hrise : ∀ b, i ≠ .pwrgdInRise b) (hfall : i ≠ .pwrgdInFall)
    (hassert : ∀ n, i ≠ .resetInNAssert n) (hrelease : ∀ b, i ≠ .resetInNRelease b) : exec i s = .next s := by
  have hdown := State.up_of_off hoff
  cases i
  case create | teardown | preempt | rebind | stepHead | commands | epoch | groupTable | peerAddress | riffleTargets
      | mirrorConfiguration | restore | pattern | join | leave | stop | manifest | load | final | intakeWindowWrite =>
    exact congrArg _ (State.windowWrite_of_off hoff ..)
  case ownClaim | ownRenew | ownRelease | ownOffer | registerWrite | fabFence | rcvReset | sluClientClear | hbmInject | intgInject
      | intgCover | bootUpdGo | secSvnCommit | keyLoad | keyErase | attestationGo | traceClear =>
    exact congrArg _ (State.writeReg_of_off hoff ..)
  case manifestVerified | stepStart | commandRelease | timeSliceBoundary | overrun | checkerMismatch | weirPageWrite | commit
      | reducedRecord | servingPeriodStart | fetchWaitExpiry | mirrorStreamEnd | mirrorStreamDeadline | restoreWaitExpiry
      | managementRequest | riffleInterval | riffleTimerExpiry | meshPacketArrival | retrainSlot | retrainResult | hbmParityError
      | hbmGroupRead | hbmScrubGroup | migrationStart | migrationCommit | spareRowReplace | stepBoundaryRetirement
      | eddyRecomputeComplete | eddyVote | checkerRepeat | repeatPending | watchdogExpiry | heartbeatMiss | unitBoundMiss
      | suspectReplayComplete | quarantineLimit | teardownComplete | imageUpdateDone | attestationSigned =>
    exact congrArg _ (State.whenUp_of_down hdown _)
  case walkComplete | pfcFrame | pauseStorm | portUp | portDown | reqRise | requestLineParityFault | ucieReplayLimit
      | ucieModuleRepair | ringBreak | hbmTemperatureRead | sramScrub | signatureRecordExport | rungComplete | rungBoundMiss
      | offerLapse | leaseExpiry | perst | functionLevelReset | hotReset | pcieLinkTrained | pcieLinkDown | journalReplayDone
      | bootImageVerified | weirRebuildDone | journalAppend | compactionDone | areaEraseDone | timeMark | zoneTemperatureRead
      | powerWindow | powerLevelFall | clockCheck | testPortBypassExit =>
    exact congrArg _ (State.whenPowered_of_off hoff _)
  case mirrorChunk | mirrorDigest | mirrorRepeat | mirrorSeal | mirrorClean | mirrorDiscard | mirrorRefuse | take | none =>
    exact congrArg _ (State.mirrorMsg_of_down hdown ..)
  case collectiveMessage | stageQueueData | oxtAbort => exact congrArg _ (State.receive_of_down hdown ..)
  case fetchRequest | fetchChunk | fetchAbsent =>
    exact congrArg Host.Outcome.next (ite_eq_left_iff.2 fun _ => State.receive_of_down hdown ..)
  case oxtAck | oxtNack | oxtResetNack | notReadyWaitExpiry | retransmitTimeout | ackTimer =>
    exact congrArg _ (if_pos (by simp [hdown]))
  case collectiveDeadline | bar4Write => exact congrArg _ (if_pos (by simp [hdown]))
  case bar4Read => exact congrArg _ (if_pos (by simp [hoff]))
  case fenceRead | pwrNowLoRead | weirMirCleanLoRead =>
    exact congrArg _ (State.hostRead_of_off hoff ..)
  case bootJrnSeqLoRead => exact congrArg _ ((if_neg (by simp [hoff])).trans (State.hostRead_of_off hoff ..))
  case firmwareFetchDone | firmwareFetchTimeout =>
    exact congrArg _ (State.fetchEnd_of_off hoff ..)
  case hbmTrainingDone | hbmInitialised | identityKeyDerived | startUpTestDone =>
    exact congrArg _ (if_neg (by simp [State.bootable, hoff]))
  case riffleProbe | riffleEcho => exact congrArg _ (if_neg (by simp [State.echoes, hoff]))
  case matrixCommandComplete | vectorCommandComplete =>
    exact congrArg _ (State.endCore_of_down hdown (State.completeCmd_of_down hdown ..))
  case updateCommandComplete => exact congrArg _ (State.completeCmd_of_down hdown ..)
  case dmaCommandComplete | collectiveCommandComplete =>
    exact congrArg Host.Outcome.next (ite_eq_right_iff.2 fun _ => State.completeCmd_of_down hdown ..)
  case dmaBurstComplete => exact execDmaBurstComplete_of_down hdown ..
  case pwrgdInRise b => exact absurd rfl (hrise b)
  case pwrgdInFall => exact absurd rfl hfall
  case resetInNAssert n => exact absurd rfl (hassert n)
  case resetInNRelease b => exact absurd rfl (hrelease b)

end

/-- Settles O33: every command's guard fails (`exec_of_off`). -/
theorem unpoweredDeviceStands : Obligations.UnpoweredDeviceStands :=
  fun c _ hoff hrise hfall hassert hrelease => exec_of_off hoff c hrise hfall hassert hrelease

/-! ### A cold reset that misses its bound (R373) -/

theorem State.powered_of_dead {s : State} (hdead : s.rcv.dead = true) : s.powered = false := by simp [State.powered, hdead]

/-- A device that holds itself in reset is what it was, but for the pins that other hardware drives. -/
theorem exec_of_dead {s t : State} (hdead : s.rcv.dead = true) (hpwr : s.clk.pwrgd = true) (i : Instr) (hfall : i ≠ .pwrgdInFall)
    (h : exec i s = .next t) : t = { s with clk := { s.clk with resetN := t.clk.resetN, straps := t.clk.straps } } := by
  by_cases hpin : (∀ b, i ≠ .pwrgdInRise b) ∧ (∀ n, i ≠ .resetInNAssert n) ∧ ∀ b, i ≠ .resetInNRelease b
  · cases (exec_of_off (State.powered_of_dead hdead) i hpin.1 hfall hpin.2.1 hpin.2.2).symm.trans h
    rfl
  · cases i
    case pwrgdInRise b =>
      cases (congrArg Host.Outcome.next (if_pos hpwr) : execPwrgdInRise b s = .next s).symm.trans h
      rfl
    case resetInNAssert n =>
      simp only [exec_resetInNAssert, execResetInNAssert, hdead, Bool.not_true, Bool.and_false] at h
      split at h <;> cases h <;> rfl
    case resetInNRelease b =>
      simp only [exec_resetInNRelease, execResetInNRelease, hdead, Bool.not_true, Bool.and_false] at h
      split at h <;> cases h <;> rfl
    all_goals exact absurd ⟨fun _ => Instr.noConfusion, fun _ => Instr.noConfusion, fun _ => Instr.noConfusion⟩ hpin

/-- A cold reset past its bound: the miss is counted and traced, and the device holds itself in reset. -/
theorem execRungBoundMiss_of_cold {s : State} {g : Rung} (hp : s.powered = true)
    (hfind : (s.rcv.rungs.find? fun g => g.scope == .cold) = some g) (hdue : g.start + rungBound .cold ≤ s.clk.now) :
    ∃ last rungs tel, execRungBoundMiss .cold s = .next { s with
      rcv := { s.rcv with misses := satInc s.rcv.misses, last := last, rungs := rungs, dead := true }
      tel := tel } := by
  unfold execRungBoundMiss
  rw [State.whenPowered_of_on hp, hfind]
  dsimp only
  rw [if_neg (Nat.not_lt.2 hdue), if_pos rfl, State.trace_rest]
  exact ⟨_, _, _, rfl⟩

/-- Settles O32: a missed cold reset sets the hold, under which every command but the fall of PWRGD_IN moves the two pins at most. -/
theorem coldMissHoldsDevice : Obligations.ColdMissHoldsDevice := by
  refine ⟨fun s g hp hfind hdue => ?_, fun c s t hdead hpwr hfall h => exec_of_dead hdead hpwr c hfall h⟩
  obtain ⟨last, rungs, tel, h⟩ := execRungBoundMiss_of_cold hp hfind hdue
  exact ⟨_, h, rfl, by simp [State.faultOut], State.powered_of_dead rfl, rfl, rfl, rfl, rfl⟩

end Sys2Proof.Machine
end

section
/-! PROOFS. Registers that either host may write, the lease and the offer, the links, and attestation (R385, R386, R388, R391, R436, R467). -/

namespace Sys2Proof.Machine

/-- A register that either host may write takes a whole write by any port (R390, R460). -/
theorem exec_sharedWrite {s : State} {p : Port} (hw : s.Writable p) {off : Nat} (ha : accessOf off = .both) (v : Reg) :
    exec (.registerWrite off (whole p v)) s = .next (s.applyReg p off v) := by
  have hformed : writeFormed off (whole p v) = true := by
    have haligned : off % 4 = 0 := by
      by_contra h
      rw [accessOf, if_pos h] at ha
      cases ha
    simp [writeFormed, whole, haligned]
  have hport : (whole p v).port = p := rfl
  have hvalue : (whole p v).value = v := rfl
  simp [exec_registerWrite, State.writeReg, hport, hw.powered, State.linked_of_linkUp hw.link, hformed, hw.serving, hw.link, ha, hvalue]

/-! ### Banks -/

theorem accessOf_nonce (k : Fin 8) : accessOf (0xA0150 + 4 * k.val) = .both := by
  revert k
  decide

theorem State.applyReg_nonce (s : State) (p : Port) (v : Reg) (k : Fin 8) :
    s.applyReg p (0xA0150 + 4 * k.val) v
      = s.modCfg fun c => { c with nonce := c.nonce.set p.index (c.nonce[p.index].set k v) } := by
  fin_cases k <;> rfl

/-- Settles O20: each write reaches the arm of its register in `State.applyReg`, which sets the entry of the writing port. -/
theorem hostBanksTakeValues : Obligations.HostBanksTakeValues := by
  intro s p v hw
  have hwrite : ∀ {off : Nat} {t : State}, accessOf off = .both → s.applyReg p off v = t →
      exec (.registerWrite off (whole p v)) s = .next t := fun ha ht => by rw [exec_sharedWrite hw ha, ht]
  refine ⟨?aperture, fun k => ?nonce, ?tracePage, ?view⟩
  case aperture => exact (hwrite rfl rfl).trans (next_ite ..)
  case nonce => exact hwrite (accessOf_nonce k) (s.applyReg_nonce p v k)
  case tracePage => exact hwrite rfl rfl
  case view => exact (hwrite rfl rfl).trans (next_ite ..)

/-! ### The lease and the offer -/

theorem exec_ownClaim (w : RegWrite) (s : State) : exec (.ownClaim w) s = exec (.registerWrite 0x804 w) s := rfl
theorem exec_ownRenew (w : RegWrite) (s : State) : exec (.ownRenew w) s = exec (.registerWrite 0x808 w) s := rfl
theorem exec_ownRelease (w : RegWrite) (s : State) : exec (.ownRelease w) s = exec (.registerWrite 0x80C w) s := rfl
theorem exec_ownOffer (w : RegWrite) (s : State) : exec (.ownOffer w) s = exec (.registerWrite 0x80C w) s := rfl
theorem exec_offerLapse (s : State) : exec .offerLapse s = execOfferLapse s := rfl

theorem State.writeRenew_in_time {s : State} {v : Reg} (hbit : v.getLsbD 0 = true) (hend : s.clk.now ≤ s.own.leaseEnd) :
    s.writeRenew v = { s with own := { s.own with leaseEnd := s.clk.now + s.cfg.leaseCfg * 1000000000 } } :=
  if_pos (by simp only [hbit, hend, decide_true, Bool.and_self])

theorem State.writeRelease_offer {s : State} {p : Port} {v : Reg} (hkeep : v.getLsbD 0 = false) (hoffer : v.getLsbD 1 = true) :
    s.writeRelease p v =
      if s.linkUp p.other = true then { s with own := { s.own with offer := some (p.other, s.clk.now + 1000000000) } } else s := by
  simp only [State.writeRelease, State.eligible, hkeep, hoffer, Bool.true_and, Bool.false_eq_true, if_false]

theorem execOfferLapse_of_offer {s : State} {q : Port} {e : Nat} (hp : s.powered = true) (hoffer : s.own.offer = some (q, e)) :
    execOfferLapse s = if e ≤ s.clk.now then .next { s with own := { s.own with offer := none } } else .next s := by
  rw [← next_ite, execOfferLapse, State.whenPowered_of_on hp, hoffer]

/-- Settles O23: a renewal in time, an offer to a port whose link is up, and the lapse of an offer that is due. -/
theorem leaseAndOffer : Obligations.LeaseAndOffer := by
  intro s p v
  refine ⟨fun hw ho hbit hend => ?renew, fun hw ho hkeep hoffer => ?offer, fun q e hp hoffer => ?lapse⟩
  case renew =>
    rw [exec_ownRenew, exec_ownerWrite hw ho rfl]
    exact congrArg _ (State.writeRenew_in_time hbit hend)
  case offer =>
    rw [exec_ownOffer, exec_ownerWrite hw ho rfl, ← next_ite]
    exact congrArg _ (State.writeRelease_offer hkeep hoffer)
  case lapse => exact execOfferLapse_of_offer hp hoffer

/-! ### Links -/

theorem State.releasePort_of_other {s : State} {p : Port} (h : s.own.owner ≠ some p) : s.releasePort p = s := if_neg h

/-- Settles O24: a port that does not own the device has nothing tested again or released by its link. -/
theorem linksTrainAndFall : Obligations.LinksTrainAndFall := by
  intro s p gts width mps hp
  refine ⟨fun hother => ⟨?trained, ?perst, ?hot, ?functionLevel⟩, ?down⟩
  case trained => exact congrArg Host.Outcome.next ((State.whenPowered_of_on hp _).trans (if_neg hother))
  case perst =>
    refine congrArg Host.Outcome.next ((State.whenPowered_of_on hp _).trans ?_)
    rw [State.releasePort_of_other hother]
  case hot =>
    refine congrArg Host.Outcome.next ((State.whenPowered_of_on hp _).trans ?_)
    rw [State.releasePort_of_other hother]
  case functionLevel => exact congrArg Host.Outcome.next ((State.whenPowered_of_on hp _).trans (State.releasePort_of_other hother))
  case down => exact congrArg Host.Outcome.next (State.whenPowered_of_on hp _)

/-! ### Attestation and the trace -/

/-- The request that the signing unit serves: pending, and earlier than the other port's, or port 0's where both came together. -/
theorem State.signing_of_first {s : State} {i : Fin 2} (hi : s.sec.attest[i].state = 1)
    (hfirst : s.sec.attest[1 - i].state ≠ 1 ∨ s.sec.attest[i].since < s.sec.attest[1 - i].since
      ∨ (s.sec.attest[i].since = s.sec.attest[1 - i].since ∧ i = 0)) : s.signing = some i := by
  fin_cases i
  · have hle : s.sec.attest[1].state ≠ 1 ∨ s.sec.attest[0].since ≤ s.sec.attest[1].since := by
      obtain h | h | ⟨h, -⟩ := hfirst
      · exact .inl h
      · exact .inr (Nat.le_of_lt h)
      · exact .inr (Nat.le_of_eq h)
    exact if_pos ⟨hi, hle⟩
  · have hnot : ¬(s.sec.attest[0].state = 1 ∧ (s.sec.attest[1].state ≠ 1 ∨ s.sec.attest[0].since ≤ s.sec.attest[1].since)) := by
      rintro ⟨h0, h1 | h1⟩
      · exact h1 hi
      · obtain h | h | ⟨-, h⟩ := hfirst
        · exact h h0
        · exact Nat.not_lt.2 h1 h
        · cases h
    exact (if_neg hnot).trans (if_pos hi)

/-- Settles O30: a snapshot, its signature in the order of the requests, and the trace's controls. -/
theorem attestationAndTrace : Obligations.AttestationAndTrace := by
  intro s p v
  refine ⟨fun hw hgo hidle => ?snapshot, fun i hup hi hfirst => ?signed, fun hw => ?trace⟩
  case snapshot =>
    refine (exec_sharedWrite hw (off := 0xA0170) rfl v).trans (congrArg Host.Outcome.next (if_pos ?_))
    rw [hgo, bne_iff_ne.2 hidle]
    rfl
  case signed =>
    refine congrArg Host.Outcome.next ((State.whenUp_of_up hup _).trans ?_)
    rw [State.signing_of_first hi hfirst]
  case trace => exact exec_sharedWrite hw (off := 0xC0004) rfl v

end Sys2Proof.Machine
end

section
/-! PROOFS. The journal: appends, faults, compaction, erasure and time marks (R417, R418, R420, R422, R423, R435). -/

namespace Sys2Proof.Machine

theorem exec_journalAppend (ok : Bool) (s : State) : exec (.journalAppend ok) s = execJournalAppend ok s := rfl
theorem exec_compactionDone (ok : Bool) (s : State) : exec (.compactionDone ok) s = execCompactionDone ok s := rfl
theorem exec_areaEraseDone (ok : Bool) (s : State) : exec (.areaEraseDone ok) s = execAreaEraseDone ok s := rfl
theorem exec_timeMark (s : State) : exec .timeMark s = execTimeMark s := rfl
theorem exec_testPortBypassExit (s : State) : exec .testPortBypassExit s = execTestPortBypassExit s := rfl

/-! ### What a snapshot holds -/

theorem newestSigs_sublist (es : List JEntry) (left : Nat) : (newestSigs es left).Sublist es := by
  induction es generalizing left with
  | nil => exact .slnil
  | cons e es ih =>
    unfold newestSigs
    split
    · exact (ih _).cons_cons e
    · exact List.nil_sublist _

/-- Every entry that is part of every snapshot is in this one. -/
theorem mem_snapshotOf {now : Nat} {es : List JEntry} {e : JEntry} (he : e ∈ es) (hin : inSnapshot now e = true) : e ∈ snapshotOf now es :=
  List.mem_mergeSort.2 <| List.mem_append_left _ <| List.mem_append_right _ <| List.mem_filter.2 ⟨he, hin⟩

/-- A snapshot invents no entry. -/
theorem mem_of_mem_snapshotOf {now : Nat} {es : List JEntry} {e : JEntry} (h : e ∈ snapshotOf now es) : e ∈ es := by
  obtain h | h := List.mem_append.1 (List.mem_mergeSort.1 h)
  · obtain h | h := List.mem_append.1 h
    · exact (List.mem_filter.1 (List.mem_of_getLast? (Option.mem_toList.1 h))).1
    · exact (List.mem_filter.1 h).1
  · exact (List.mem_filter.1 (List.mem_reverse.1 ((newestSigs_sublist ..).subset h))).1

/-! ### Appends -/

section
variable {s : State} {b : JBody} {rest : List JBody}

/-- The entry that the oldest waiting event becomes. -/
def State.nextEntry (s : State) (b : JBody) : JEntry := { seq := s.boot.jrnSeq + 1, pages := entryPagesOf b, body := b }

/-- What a journal that no longer takes entries makes of the oldest waiting event: it is kept in SRAM, or lost. -/
def State.unwritten (s : State) (b : JBody) (rest : List JBody) : State :=
  { s with boot := { s.boot with
    queue := rest, journal := if keptAfterFault b then s.boot.journal ++ [s.nextEntry b] else s.boot.journal } }

theorem State.unwritten_eq (hq : s.boot.queue = b :: rest) :
    (if keptAfterFault b then s.keepEntry (s.nextEntry b) else { s with boot := { s.boot with queue := rest } }) = s.unwritten b rest := by
  unfold State.unwritten State.keepEntry
  rw [hq]
  split <;> rfl

theorem execJournalAppend_of_faulty (hp : s.powered = true) (hq : s.boot.queue = b :: rest) (hf : s.boot.jrnFault = true) (ok : Bool) :
    execJournalAppend ok s = .next (s.unwritten b rest) := by
  rw [execJournalAppend, State.whenPowered_of_on hp, ← State.unwritten_eq hq, hq]
  exact congrArg _ (if_pos hf)

theorem execJournalAppend_of_failure (hp : s.powered = true) (hq : s.boot.queue = b :: rest) (hf : s.boot.jrnFault = false) :
    execJournalAppend false s = .next (s.unwritten b rest).journalFault := by
  rw [execJournalAppend, State.whenPowered_of_on hp, ← State.unwritten_eq hq, hq]
  exact congrArg _ ((if_neg (Bool.eq_false_iff.1 hf)).trans (if_pos rfl))

theorem execJournalAppend_of_room (hp : s.powered = true) (hq : s.boot.queue = b :: rest) (hf : s.boot.jrnFault = false)
    (hroom : s.flash.areas[s.boot.active].fill + entryPagesOf b ≤ 32768) :
    execJournalAppend true s = .next
      (let e := s.nextEntry b
       let a := s.flash.areas[s.boot.active]
       let a1 : Area := { header := some (a.header.getD (1, 0)), entries := a.entries ++ [e], fill := a.fill + e.pages }
       let s1 := (s.setArea s.boot.active a1).keepEntry e
       { s1 with boot := { s1.boot with
         jrnSeq := e.seq, compacting := s1.boot.compacting || (decide (24576 < a1.fill) && !s1.boot.erasing) } }) := by
  rw [execJournalAppend, State.whenPowered_of_on hp, hq]
  exact congrArg _ ((if_neg (Bool.eq_false_iff.1 hf)).trans ((if_neg Bool.false_ne_true).trans (if_neg (Nat.not_lt.2 hroom))))

end

/-! ### Compaction -/

/-- A compaction that ends well: the other area takes the snapshot and over, with a time mark waiting. -/
def State.compacted (s : State) : State :=
  let i := s.boot.active
  let es := snapshotOf s.jnow s.boot.journal
  let seq := ((s.flash.areas[i].header.map (·.1)).getD 0 + 1) % 2 ^ 32
  let a : Area := { header := some (seq, s.boot.jrnSeq), entries := es, fill := 1 + (es.map (·.pages)).sum }
  { s with
    flash := { s.flash with areas := s.flash.areas.set (1 - i : Fin 2) a }
    boot := { s.boot with
      active := 1 - i, compacting := false, erasing := true, journal := es, compacts := satInc s.boot.compacts
      lastMark := s.jnow, queue := s.boot.queue ++ [s.markBody] } }

theorem execCompactionDone_of_ok {s : State} (hp : s.powered = true) (hc : s.boot.compacting = true) :
    execCompactionDone true s = .next s.compacted := by
  rw [execCompactionDone, State.whenPowered_of_on hp, hc]
  rfl

/-- The index of the other area, as a number. -/
theorem other_area_val : ∀ i : Fin 2, (1 - i).val = 1 - i.val := by decide

theorem other_area_ne : ∀ i : Fin 2, (1 - i).val ≠ i.val := by decide

theorem execAreaEraseDone_of_ok {s : State} (hp : s.powered = true) (he : s.boot.erasing = true) :
    execAreaEraseDone true s
      = .next (State.setArea { s with boot := { s.boot with erasing := false } } (1 - s.boot.active) Area.erased) := by
  rw [execAreaEraseDone, State.whenPowered_of_on hp, he]
  rfl

/-- Settles O37: an append that is written, fails or comes after a failure, a compaction, an erasure, a mark and the test port. -/
theorem journalKeeps : Obligations.JournalKeeps := by
  intro s hp
  simp only [exec_journalAppend, exec_compactionDone, exec_areaEraseDone, exec_timeMark, exec_testPortBypassExit]
  refine ⟨fun b rest hq => ⟨fun hf hroom => ?written, fun hf => ?failed, fun ok hf => ?faulty⟩, fun hc => ?compacted, fun he => ?erased,
    fun hdue => ?mark, ?testPort⟩
  case written =>
    rw [execJournalAppend_of_room hp hq hf hroom]
    simp only [State.keepEntry, State.setArea, hq, List.drop_succ_cons, List.drop_zero]
    rfl
  case failed => exact execJournalAppend_of_failure hp hq hf
  case faulty => exact execJournalAppend_of_faulty hp hq hf ok
  case compacted =>
    have hother := other_area_ne s.boot.active
    refine ⟨_, execCompactionDone_of_ok hp hc, rfl, rfl, rfl, rfl, rfl, ?_, ?_, rfl, rfl, rfl, fun e he hin => mem_snapshotOf he hin,
      fun e => mem_of_mem_snapshotOf⟩
    · simp [State.compacted]
    · exact Vector.getElem_set_ne (1 - s.boot.active : Fin 2).isLt _ hother
  case erased =>
    rw [execAreaEraseDone_of_ok hp he]
    simp only [State.setArea, other_area_val]
  case mark =>
    rw [execTimeMark, State.whenPowered_of_on hp, if_pos hdue]
    rfl
  case testPort => exact congrArg _ (State.whenPowered_of_on hp _)

end Sys2Proof.Machine
end

section
/-! PROOFS. Image updates, FSV and the key table (R424, R430, R432, R434, R435). -/

namespace Sys2Proof.Machine

theorem exec_bootUpdGo (w : RegWrite) (s : State) : exec (.bootUpdGo w) s = exec (.registerWrite 0xB002C w) s := rfl
theorem exec_secSvnCommit (w : RegWrite) (s : State) : exec (.secSvnCommit w) s = exec (.registerWrite 0xA0008 w) s := rfl
theorem exec_keyLoad (w : RegWrite) (s : State) : exec (.keyLoad w) s = exec (.registerWrite 0xA0140 w) s := rfl
theorem exec_keyErase (w : RegWrite) (s : State) : exec (.keyErase w) s = exec (.registerWrite 0xA0140 w) s := rfl
theorem exec_imageUpdateDone (ok : Bool) (s : State) : exec (.imageUpdateDone ok) s = execImageUpdateDone ok s := rfl

/-! ### Updates -/

/-- The flash with other bytes in one slot. -/
def Flash.withSlot (f : Flash) (b : Bool) (bs : List Byte) : Flash := if b then { f with slotB := bs } else { f with slotA := bs }

theorem Flash.withSlot_same (f : Flash) (b : Bool) (bs : List Byte) : (f.withSlot b bs).slot b = bs := by cases b <;> rfl
theorem Flash.withSlot_other (f : Flash) (b : Bool) (bs : List Byte) : (f.withSlot (!b) bs).slot b = f.slot b := by cases b <;> rfl
theorem Flash.withSlot_areas (f : Flash) (b : Bool) (bs : List Byte) : (f.withSlot b bs).areas = f.areas := by cases b <;> rfl

/-- Whether a slot verified is all that its mark changes. -/
theorem State.setValid_rest (s : State) (b ok : Bool) : ∃ va vb, s.setValid b ok = { s with boot := { s.boot with validA := va, validB := vb } } := by
  cases b
  · exact ⟨ok, s.boot.validB, rfl⟩
  · exact ⟨s.boot.validA, ok, rfl⟩

section
variable {s : State}

/-- The staged bytes that an update programs. -/
def State.stagedImage (s : State) : List Byte := s.committedBytes s.boot.updAddr s.boot.updLen

theorem execImageUpdateDone_of_running (hup : s.up = true) (hlo : 1 ≤ s.boot.updState) (hhi : s.boot.updState ≤ 4) (ok : Bool) :
    execImageUpdateDone ok s = .next (
      if !imageVerifies s.fuse.imageKey s.fuse.fsv s.stagedImage then
        { s with boot := { s.boot with updState := 6 }, sec := { s.sec with failed := satInc s.sec.failed } }
      else if !ok then
        State.setValid { s with boot := { s.boot with updState := 7 }, flash := s.flash.withSlot (!s.boot.slotB) [] } (!s.boot.slotB) false
      else
        (State.setValid { s with boot := { s.boot with updState := 5 }, flash := s.flash.withSlot (!s.boot.slotB) s.stagedImage }
          (!s.boot.slotB) true).journal (.image (!s.boot.slotB) (imageSeqOf s.stagedImage))) := by
  rw [execImageUpdateDone, State.whenUp_of_up hup]
  exact congrArg Host.Outcome.next (if_neg (by omega))

theorem execImageUpdateDone_of_bad (hup : s.up = true) (hlo : 1 ≤ s.boot.updState) (hhi : s.boot.updState ≤ 4) (ok : Bool)
    (hbad : imageVerifies s.fuse.imageKey s.fuse.fsv s.stagedImage = false) : execImageUpdateDone ok s = .next
      { s with boot := { s.boot with updState := 6 }, sec := { s.sec with failed := satInc s.sec.failed } } := by
  rw [execImageUpdateDone_of_running hup hlo hhi, hbad]
  rfl

theorem execImageUpdateDone_of_failure (hup : s.up = true) (hlo : 1 ≤ s.boot.updState) (hhi : s.boot.updState ≤ 4)
    (hgood : imageVerifies s.fuse.imageKey s.fuse.fsv s.stagedImage = true) : ∃ va vb, execImageUpdateDone false s = .next
      { s with boot := { s.boot with updState := 7, validA := va, validB := vb }, flash := s.flash.withSlot (!s.boot.slotB) [] } := by
  obtain ⟨va, vb, h⟩ := State.setValid_rest
    { s with boot := { s.boot with updState := 7 }, flash := s.flash.withSlot (!s.boot.slotB) [] } (!s.boot.slotB) false
  refine ⟨va, vb, ?_⟩
  rw [execImageUpdateDone_of_running hup hlo hhi, hgood]
  exact congrArg Host.Outcome.next h

theorem execImageUpdateDone_of_good (hup : s.up = true) (hlo : 1 ≤ s.boot.updState) (hhi : s.boot.updState ≤ 4)
    (hgood : imageVerifies s.fuse.imageKey s.fuse.fsv s.stagedImage = true) : ∃ va vb, execImageUpdateDone true s = .next
      { s with
        boot := { s.boot with
          updState := 5, validA := va, validB := vb
          queue := s.boot.queue ++ [.image (!s.boot.slotB) (imageSeqOf s.stagedImage)] }
        flash := s.flash.withSlot (!s.boot.slotB) s.stagedImage } := by
  obtain ⟨va, vb, h⟩ := State.setValid_rest
    { s with boot := { s.boot with updState := 5 }, flash := s.flash.withSlot (!s.boot.slotB) s.stagedImage } (!s.boot.slotB) true
  refine ⟨va, vb, ?_⟩
  rw [execImageUpdateDone_of_running hup hlo hhi, hgood]
  exact congrArg (fun u : State => Host.Outcome.next (u.journal _)) h

theorem State.writeUpdCtl_go {v : Reg} (hgo : v.getLsbD 31 = true) (hidle : s.boot.updState = 0 ∨ 5 ≤ s.boot.updState) :
    s.writeUpdCtl v = { s with boot := { s.boot with
      updState := 1, updLen := s.cfg.updLen, updAddr := (s.cfg.updAddrHi.toNat % 65536) * 2 ^ 32 + s.cfg.updAddrLo.toNat } } := by
  have hrun : ¬(1 ≤ s.boot.updState ∧ s.boot.updState ≤ 4) := by omega
  exact if_pos (by simp [hgo, hrun])

/-! ### FSV -/

theorem State.writeSvn_go {v : Reg} (hgo : v.getLsbD 31 = true) :
    s.writeSvn v = { s with fuse := { s.fuse with fsv := max s.fuse.fsv s.sec.svn } } := by
  unfold State.writeSvn
  rw [hgo, Bool.true_and]
  split
  case isTrue h => rw [Nat.max_eq_right (Nat.le_of_lt (of_decide_eq_true h))]
  case isFalse h => rw [Nat.max_eq_left (Nat.not_lt.1 fun hlt => h (decide_eq_true hlt))]

/-! ### The key table -/

theorem State.loadKey_of_new {slot : Fin 16} {param : Nat} (hparam : param ≠ 0) (hempty : s.sec.keys[slot] = none)
    (hnew : ∀ (i : Fin 16) (q : Key), s.sec.keys[i] = some q → q.id ≠ (s.stagedKey param).id) :
    s.loadKey slot param = State.measure
      { s with sec := { s.sec with keys := s.sec.keys.set slot (some (s.stagedKey param)) } } 3 (keyEvent 1 slot (s.stagedKey param)) := by
  refine if_neg ?_
  rintro (h | h | h)
  · exact hparam h
  · rw [hempty] at h
    cases h
  · obtain ⟨o, ho, hq⟩ := List.any_eq_true.1 h
    obtain ⟨i, hi, rfl⟩ := Vector.getElem_of_mem (Vector.mem_toList_iff.1 ho)
    split at hq
    next q hkey => exact hnew ⟨i, hi⟩ q hkey (beq_iff_eq.1 hq)
    next => cases hq

theorem State.eraseKey_of_some {slot : Fin 16} {k : Key} (h : s.sec.keys[slot] = some k) :
    s.eraseKey slot = State.measure { s with sec := { s.sec with keys := s.sec.keys.set slot none } } 3 (keyEvent 2 slot k) := by
  rw [State.eraseKey, h]

theorem State.writeKeyCtl_load {v : Reg} {slot : Fin 16} (hslot : v.toNat % 16 = slot.val) (hload : v.getLsbD 31 = true)
    (hkeep : v.getLsbD 30 = false) : s.writeKeyCtl v = s.loadKey slot (v.toNat / 16 % 4) := by
  have hfin : (⟨v.toNat % 16, Nat.mod_lt _ (by decide)⟩ : Fin 16) = slot := Fin.ext hslot
  rw [State.writeKeyCtl, hload, hkeep, hfin]

theorem State.writeKeyCtl_erase {v : Reg} {slot : Fin 16} (hslot : v.toNat % 16 = slot.val) (hkeep : v.getLsbD 31 = false)
    (herase : v.getLsbD 30 = true) : s.writeKeyCtl v = s.eraseKey slot := by
  have hfin : (⟨v.toNat % 16, Nat.mod_lt _ (by decide)⟩ : Fin 16) = slot := Fin.ext hslot
  rw [State.writeKeyCtl, hkeep, herase, hfin]

/-- Neither or both of LOAD and ERASE: nothing happens. -/
theorem State.writeKeyCtl_same {v : Reg} (h : v.getLsbD 31 = v.getLsbD 30) : s.writeKeyCtl v = s := by
  rw [State.writeKeyCtl, h]
  cases v.getLsbD 30 <;> rfl

end

/-- Settles O29: the start and the three ends of an update, FSV's rise, and the two operations on a key slot. -/
theorem imagesAndKeys : Obligations.ImagesAndKeys := by
  intro s p v
  simp only [exec_bootUpdGo, exec_secSvnCommit, exec_keyLoad, exec_keyErase, exec_imageUpdateDone]
  have hwrite : ∀ {off : Nat} {t : State}, s.Writable p → s.own.owner = some p → accessOf off = .owner → s.applyReg p off v = t →
      exec (.registerWrite off (whole p v)) s = .next t := fun hw ho ha ht => by rw [exec_ownerWrite hw ho ha, ht]
  refine ⟨fun hw ho hgo hidle => hwrite hw ho rfl (State.writeUpdCtl_go hgo hidle), fun ok hup hlo hhi => ?update,
    fun hw ho hgo => hwrite hw ho rfl (State.writeSvn_go hgo), fun slot hw ho hslot => ⟨?load, ?erase, ?neither⟩⟩
  case update =>
    cases hverify : imageVerifies s.fuse.imageKey s.fuse.fsv s.stagedImage with
    | false =>
      refine ⟨_, execImageUpdateDone_of_bad hup hlo hhi ok hverify, rfl, rfl, rfl, fun _ => ⟨rfl, rfl, rfl⟩, fun h => ?_, fun h => ?_⟩
      · cases hverify.symm.trans h
      · cases hverify.symm.trans h
    | true =>
      cases ok with
      | false =>
        obtain ⟨va, vb, h⟩ := execImageUpdateDone_of_failure hup hlo hhi hverify
        refine ⟨_, h, rfl, Flash.withSlot_areas .., Flash.withSlot_other .., fun hbad => ?_, fun _ _ => ⟨rfl, Flash.withSlot_same .., rfl⟩,
          fun _ hok => Bool.noConfusion hok⟩
        cases hverify.symm.trans hbad
      | true =>
        obtain ⟨va, vb, h⟩ := execImageUpdateDone_of_good hup hlo hhi hverify
        refine ⟨_, h, rfl, Flash.withSlot_areas .., Flash.withSlot_other .., fun hbad => ?_, fun _ hok => Bool.noConfusion hok,
          fun _ _ => ⟨rfl, Flash.withSlot_same .., rfl, rfl⟩⟩
        cases hverify.symm.trans hbad
  case load =>
    exact fun hload hkeep hparam hempty hnew =>
      hwrite hw ho rfl ((State.writeKeyCtl_load hslot hload hkeep).trans (State.loadKey_of_new hparam hempty hnew))
  case erase => exact fun k hkeep herase hk => hwrite hw ho rfl ((State.writeKeyCtl_erase hslot hkeep herase).trans (State.eraseKey_of_some hk))
  case neither => exact fun h => ⟨hwrite hw ho rfl (State.writeKeyCtl_same h), hwrite hw ho rfl (State.writeKeyCtl_same h)⟩

end Sys2Proof.Machine
end

section
/-! PROOFS. What each context sees of an operation on all of them; the passing of ownership (R385, R391, R392). -/

namespace Sys2Proof.Machine

/-! ### An operation on every context -/

/-- An operation that changes a part `π` of its own context alone reaches that part of each context once. -/
theorem State.foldl_each {α : Type} {π : Ctx → α} {f : State → CtxId → State} {R : α → α → Prop}
    (hself : ∀ u c, R (π (u.ctx c)) (π ((f u c).ctx c))) (hothers : ∀ u c d, d ≠ c → π ((f u c).ctx d) = π (u.ctx d))
    (c : CtxId) (l : List CtxId) (hl : l.Nodup) (s : State) :
    if c ∈ l then R (π (s.ctx c)) (π ((l.foldl f s).ctx c)) else π ((l.foldl f s).ctx c) = π (s.ctx c) := by
  induction l generalizing s with
  | nil => exact if_neg List.not_mem_nil ▸ rfl
  | cons d l ih =>
    obtain ⟨hd, hrest⟩ := List.nodup_cons.1 hl
    have hl := ih hrest (f s d)
    rw [List.foldl_cons]
    by_cases hc : c = d
    · subst hc
      rw [if_neg hd] at hl
      rw [if_pos List.mem_cons_self, hl]
      exact hself s c
    · simpa only [List.mem_cons, hc, false_or, hothers s d c hc] using hl

theorem State.forCtx_each {α : Type} {π : Ctx → α} {f : State → CtxId → State} {R : α → α → Prop}
    (hself : ∀ u c, R (π (u.ctx c)) (π ((f u c).ctx c))) (hothers : ∀ u c d, d ≠ c → π ((f u c).ctx d) = π (u.ctx d))
    (s : State) (c : CtxId) : R (π (s.ctx c)) (π ((s.forCtx f).ctx c)) := by
  have hmem : c ∈ allCtx := List.mem_finRange c
  have h := State.foldl_each hself hothers c allCtx (List.nodup_finRange 16) s
  rwa [if_pos hmem] at h

/-! ### What a context loses with its owner -/

theorem State.Ended.abortHostSteps (s : State) (c : CtxId) : State.Ended c s (s.abortHostSteps c) :=
  .foldl _ (fun u t => by
    split
    · exact .abortStep ..
    · exact .refl c u) _ s

theorem State.dropHostTails_outer (s : State) (c : CtxId) : (s.dropHostTails c).outer = s.outer := rfl

theorem State.dropHostTails_self (s : State) (c : CtxId) :
    (s.dropHostTails c).ctx c = { s.ctx c with steps := ((s.dropHostTails c).ctx c).steps } := by
  unfold State.dropHostTails
  extract_lets held killed s1
  rw [State.modCtx_ctx, if_pos rfl]
  rfl

theorem State.dropHostTails_other (s : State) {c d : CtxId} (h : d ≠ c) : (s.dropHostTails c).ctx d = s.ctx d :=
  (State.modCtx_ctx ..).trans (if_neg h.symm)

theorem State.unbindCtx_outer (s : State) (c : CtxId) : (s.unbindCtx c).outer = s.outer :=
  (State.dropHostTails_outer ..).trans (State.Ended.abortHostSteps ..).outer

/-- An unbound context: its window is empty, and its state and job stay. -/
structure Ctx.Unbound (x y : Ctx) : Prop where
  window  : y.regs.window = []
  state   : y.state = x.state
  job     : y.job = x.job
  unbound : y.unbound = (x.unbound || x.resident)

theorem State.unbindCtx_self (s : State) (c : CtxId) : (s.ctx c).Unbound ((s.unbindCtx c).ctx c) := by
  unfold State.unbindCtx
  extract_lets s1
  have hs1 : s1.ctx c = { s.ctx c with
      unbound := (s.ctx c).unbound || (s.ctx c).resident, regs := { (s.ctx c).regs with window := [] } } := by
    unfold s1
    rw [State.modCtx_ctx, if_pos rfl]
  have hface := (State.Ended.abortHostSteps s1 c).face
  rw [hs1] at hface
  rw [State.dropHostTails_self]
  exact ⟨congrArg (·.regs.window) hface, congrArg (·.state) hface, congrArg (·.job) hface, congrArg (·.unbound) hface⟩

theorem State.unbindCtx_other (s : State) (c d : CtxId) (h : d ≠ c) : (s.unbindCtx c).ctx d = s.ctx d := by
  unfold State.unbindCtx
  extract_lets s1
  rw [State.dropHostTails_other _ h, (State.Ended.abortHostSteps s1 c).others d h]
  exact (State.modCtx_ctx ..).trans (if_neg h.symm)

theorem State.dispatch_unbinds (u : State) (c : CtxId) {x : Ctx} (h : x.Unbound (u.ctx c)) : x.Unbound (u.dispatch.ctx c) := by
  obtain ⟨window, state, job, unbound⟩ := h
  exact ⟨(congrArg (·.window) (u.dispatch_ctx_regs c)).trans window, (u.dispatch_ctx_state c).trans state,
    (u.dispatch_ctx_job c).trans job, (u.dispatch_ctx_unbound c).trans unbound⟩

/-! ### A change of owner -/

theorem State.abandonUpdate_rest (s : State) : ∃ boot flash, s.abandonUpdate = { s with boot := boot, flash := flash } := by
  unfold State.abandonUpdate
  split
  · exact ⟨_, _, rfl⟩
  · exact ⟨s.boot, s.flash, rfl⟩

/-- What passes with ownership, and what stays. -/
structure State.Passed (s : State) (new : Option Port) (t : State) : Prop where
  own   : t.own = { s.own with
    owner := new, offer := none, term := satInc s.own.term
    leaseEnd := if new.isSome then s.clk.now + s.cfg.leaseCfg * 1000000000 else s.own.leaseEnd }
  cfg   : t.cfg = { s.cfg with ringLog2 := 0 }
  ring  : t.intg.ringCount = 0
  clk   : t.clk = s.clk
  fuse  : t.fuse = s.fuse
  sec   : t.sec = s.sec
  ctxs  : ∀ c, (s.ctx c).Unbound (t.ctx c)

theorem State.changeOwner_passed (s : State) (new : Option Port) : s.Passed new (s.changeOwner new) := by
  unfold State.changeOwner
  extract_lets own s1 s2
  have houter : s2.outer = s1.outer := State.keeps_foldl State.outer _ State.unbindCtx_outer allCtx (s1.msixBoth 3)
  have hctx : ∀ c, (s.ctx c).Unbound (s2.ctx c) :=
    State.forCtx_each (π := id) State.unbindCtx_self State.unbindCtx_other (s1.msixBoth 3)
  clear_value s2
  have hcfg : s2.cfg = s.cfg := congrArg (·.cfg) houter
  obtain ⟨boot, flash, h⟩ := State.abandonUpdate_rest
    { s2 with cfg := { s2.cfg with ringLog2 := 0 }, intg := { s2.intg with ringCount := 0 } }
  rw [h]
  refine ⟨?own, ?cfg, ?ring, ?clk, ?fuse, ?sec, fun c => ?ctx⟩
  case own => exact (State.dispatch_own _).trans (congrArg (·.own) houter)
  case cfg => exact (State.dispatch_cfg _).trans (congrArg (fun k : Cfg => { k with ringLog2 := 0 }) hcfg)
  case ring => rw [State.dispatch_intg]
  case clk => exact (State.dispatch_clk _).trans (congrArg (·.clk) houter)
  case fuse => exact (State.dispatch_fuse _).trans (congrArg (·.fuse) houter)
  case sec => exact (State.dispatch_sec _).trans (congrArg (·.sec) houter)
  case ctx => exact State.dispatch_unbinds _ c (hctx c)

/-- A link's change of state takes nothing of what has passed. -/
theorem State.Passed.setLink {s t : State} {new : Option Port} (h : s.Passed new t) (p : Port) (st : LinkState) :
    (t.setLink p st).own = { s.own with
        owner := new, offer := none, term := satInc s.own.term
        leaseEnd := if new.isSome then s.clk.now + s.cfg.leaseCfg * 1000000000 else s.own.leaseEnd
        links := s.own.links.set p.index { s.own.links[p.index] with state := st } } := by
  unfold State.setLink
  rw [h.own]

/-! ### Claims and releases -/

theorem exec_leaseExpiry (s : State) : exec .leaseExpiry s = .next (s.whenPowered State.expire) := rfl
theorem exec_functionLevelReset (p : Port) (s : State) :
    exec (.functionLevelReset p) s = .next (s.whenPowered fun s => s.releasePort p) := rfl
theorem exec_perst (p : Port) (s : State) : exec (.perst p) s = .next (s.whenPowered fun s => State.setLink (s.releasePort p) p .down) := rfl
theorem exec_hotReset (p : Port) (s : State) :
    exec (.hotReset p) s = .next (s.whenPowered fun s => State.setLink (s.releasePort p) p .training) := rfl

theorem State.expire_of_unowned {s : State} (h : s.own.owner = none) : s.expire = s := if_neg (by simp [h])

theorem State.expire_of_running {s : State} (h : s.clk.now < s.own.leaseEnd) : s.expire = s := if_neg (by simp [Nat.not_le.2 h])

theorem State.expire_of_due {s : State} (hw : s.warming = false) (ho : s.own.owner.isSome = true) (hend : s.own.leaseEnd ≤ s.clk.now) :
    s.expire = s.changeOwner none := if_pos (by simp [hw, ho, hend])

/-- A claim of a device without an owner, or by the port that it is offered to in time. -/
theorem State.writeClaim_takes {s : State} {p : Port} {v : Reg} (hlink : s.linkUp p = true) (hkey : v.toNat / 65536 = 0x4F57)
    (hopen : s.own.owner = none ∨ (s.clk.now < s.own.leaseEnd ∧ ∃ e, s.own.offer = some (p, e) ∧ s.clk.now ≤ e)) :
    s.writeClaim p v = s.changeOwner (some p) := by
  refine (if_neg (not_not.2 hkey)).trans ?_
  cases howner : s.own.owner with
  | none =>
    rw [State.expire_of_unowned howner]
    dsimp only
    rw [howner]
    exact if_pos hlink
  | some q =>
    obtain h | ⟨hrun, e, hoffer, hin⟩ := hopen
    · cases howner.symm.trans h
    · rw [State.expire_of_running hrun]
      dsimp only
      rw [howner, hoffer]
      exact if_pos ⟨rfl, hin⟩

/-- Settles O22: each event is `State.changeOwner`, after which a PERST# or hot reset sets the port's link. -/
theorem ownershipPasses : Obligations.OwnershipPasses := by
  intro s p passed
  have hpassed : ∀ {new : Option Port} {t : State}, s.Passed new t → ∀ links : Vector Link 2,
      passed new { t with own := { t.own with links := links } } := by
    rintro new t ⟨own, cfg, ring, clk, fuse, sec, ctxs⟩ links
    refine ⟨congrArg (·.owner) own, congrArg (·.offer) own, congrArg (·.term) own, congrArg (·.discards) own, congrArg (·.leaseEnd) own,
      cfg, ring, clk, fuse, sec, fun c => ?_⟩
    obtain ⟨window, state, job, unbound⟩ := ctxs c
    exact ⟨window, state, job, unbound⟩
  have hpass : ∀ new, passed new (s.changeOwner new) ∧ (s.changeOwner new).own.links = s.own.links := fun new =>
    ⟨hpassed (s.changeOwner_passed new) _, congrArg (·.links) (s.changeOwner_passed new).own⟩
  have hlinks : ∀ st, ((s.changeOwner none).setLink p st).own.links
      = s.own.links.set p.index { s.own.links[p.index] with state := st } := fun st =>
    congrArg (·.links) ((s.changeOwner_passed none).setLink p st)
  refine ⟨fun v hw hkey hopen => ?claim, fun v hw ho hbit => ?release, fun hp hwarm ho hend => ?expiry, fun hp ho => ⟨?flr, ?perst, ?hot⟩⟩
  case claim =>
    refine ⟨_, ?_, hpass (some p)⟩
    rw [exec_ownClaim, exec_sharedWrite hw rfl]
    exact congrArg _ (State.writeClaim_takes hw.link hkey hopen)
  case release =>
    refine ⟨_, ?_, hpass none⟩
    rw [exec_ownRelease, exec_ownerWrite hw ho rfl]
    exact congrArg _ (if_pos hbit)
  case expiry =>
    refine ⟨_, ?_, hpass none⟩
    rw [exec_leaseExpiry, State.whenPowered_of_on hp, State.expire_of_due hwarm ho hend]
  case flr =>
    refine ⟨_, ?_, hpass none⟩
    rw [exec_functionLevelReset, State.whenPowered_of_on hp]
    exact congrArg _ (if_pos ho)
  case perst =>
    refine ⟨(s.changeOwner none).setLink p .down, ?_, hpassed (s.changeOwner_passed none) _, hlinks .down⟩
    rw [exec_perst, State.whenPowered_of_on hp, State.releasePort, if_pos ho]
  case hot =>
    refine ⟨(s.changeOwner none).setLink p .training, ?_, hpassed (s.changeOwner_passed none) _, hlinks .training⟩
    rw [exec_hotReset, State.whenPowered_of_on hp, State.releasePort, if_pos ho]

end Sys2Proof.Machine
end

section
/-! PROOFS. RCV_RESET: what rung 4 and rung 5 leave of the device and of each context (R367, R382, R383, R394, R412). -/

namespace Sys2Proof.Machine

theorem exec_rcvReset (w : RegWrite) (s : State) : exec (.rcvReset w) s = exec (.registerWrite 0x50004 w) s := rfl

/-! ### What a device rung changes in a context -/

/-- Whether a context is free, its SEQ, its window and its assembly. -/
def Ctx.inlet (x : Ctx) : Bool × BitVec 32 × List Host.Cell × Option Assembly := (x.state == .free, x.regs.seq, x.regs.window, x.asm)

theorem Ctx.inlet_of_still {x y : Ctx} (h : y.still = x.still) : y.inlet = x.inlet := (congrArg Ctx.inlet h :)

theorem Ctx.inlet_of_face {x y : Ctx} (h : y.face = x.face) : y.inlet = x.inlet := (congrArg Ctx.inlet h :)

theorem State.Ended.inlet {c : CtxId} {s t : State} (h : State.Ended c s t) (d : CtxId) : (t.ctx d).inlet = (s.ctx d).inlet := by
  by_cases hd : d = c
  · subst hd
    exact Ctx.inlet_of_face h.face
  · rw [h.others d hd]

theorem State.Mirrors.inlet {c : CtxId} {s t : State} (h : State.Mirrors c s t) (d : CtxId) : (t.ctx d).inlet = (s.ctx d).inlet := by
  by_cases hd : d = c
  · subst hd
    rw [h.self]
    rfl
  · rw [h.others d hd]

theorem State.dispatch_inlet (s : State) (d : CtxId) : (s.dispatch.ctx d).inlet = (s.ctx d).inlet := Ctx.inlet_of_still (s.dispatch_ctx d)

theorem State.tearRow_inlet (s : State) (c d : CtxId) : ((s.tearRow c).ctx d).inlet = (s.ctx d).inlet := by
  rw [State.tearRow_ctx]
  split
  case isTrue h =>
    subst h
    rfl
  case isFalse => rfl

/-- A teardown changes the assembly of its own context, which is not free before it and after. -/
theorem State.startTeardown_inlet {s : State} {c : CtxId} (ha : (s.ctx c).state = .active) (code : Code) (reason : Reason) (w : Who) :
    (∀ d, d ≠ c → ((s.startTeardown c code reason w).ctx d).inlet = (s.ctx d).inlet)
      ∧ ((s.startTeardown c code reason w).ctx c).inlet = { s.ctx c with asm := none }.inlet := by
  unfold State.startTeardown
  rw [if_neg (not_not_intro ha)]
  extract_lets hold s1 s2 intg sec s3
  have hended : State.Ended c s s1 := .foldl _ (fun u v => by
    split
    · split
      · exact .dropTail ..
      · split
        · exact .refl ..
        · exact .abortOne ..
    · exact .refl ..) _ _
  have hbefore : ∀ d, (((s1.dropStream c true).dropReceiver c).ctx d).inlet = (s.ctx d).inlet := fun d => by
    rw [State.ctx_of_ctxs (State.dropReceiver_leaves ..).1, (State.Mirrors.dropStream ..).inlet, hended.inlet]
  have hafter : ∀ d, ((if (s3.ctx c).steps.isEmpty then s3.tearRow c else s3).dispatch.ctx d).inlet = (s2.ctx d).inlet := fun d => by
    rw [State.dispatch_inlet]
    split
    · exact s3.tearRow_inlet c d
    · rfl
  refine ⟨fun d hd => ?_, ?_⟩
  · rw [hafter]
    unfold s2
    rw [State.modCtx_ctx, if_neg hd.symm, hbefore]
  · have hc := hbefore c
    have hfree : ((s.ctx c).state == .free) = false := by rw [ha]; rfl
    rw [hafter]
    unfold s2
    rw [State.modCtx_ctx, if_pos rfl]
    exact Prod.ext hfree.symm (Prod.ext (congrArg (·.2.1) hc) (Prod.ext (congrArg (·.2.2.1) hc) rfl))

/-- Such an advance may empty the assembly of its own context. -/
theorem State.advanceGen_inlet (s : State) (c : CtxId) :
    (∀ d, d ≠ c → ((s.advanceGen c).ctx d).inlet = (s.ctx d).inlet)
      ∧ ∃ asm, ((s.advanceGen c).ctx c).inlet = { s.ctx c with asm := asm }.inlet := by
  unfold State.advanceGen
  by_cases ha : (s.ctx c).state = .active
  · rw [if_neg (not_not_intro ha)]
    split
    · obtain ⟨hothers, hself⟩ := State.startTeardown_inlet ha .abortedFault .fault Who.device
      exact ⟨hothers, none, hself⟩
    · refine ⟨fun d hd => ?_, (s.ctx c).asm, ?_⟩
      · rw [State.modCtx_ctx, if_neg hd.symm]
      · rw [State.modCtx_ctx, if_pos rfl]
        rfl
  · rw [if_pos ha]
    exact ⟨fun _ _ => rfl, (s.ctx c).asm, rfl⟩

theorem State.Ended.rungAborts (s : State) (scope : RungScope) (c : CtxId) : State.Ended c s (s.rungAborts scope c) :=
  .foldl _ (fun u t => by
    split
    · split
      · exact .dropTail ..
      · exact .abortStep ..
    · exact .refl ..) _ s

/-- What a warm device reset makes of a context that is not free: its window and its assembly are empty. -/
def Ctx.WarmInlet (x y : Bool × BitVec 32 × List Host.Cell × Option Assembly) : Prop :=
  y.1 = x.1 ∧ y.2.1 = x.2.1 ∧ (x.1 = false → y.2.2 = ([], none))

theorem State.warmCtx_inlet (s : State) (c : CtxId) :
    Ctx.WarmInlet (s.ctx c).inlet ((s.warmCtx c).ctx c).inlet ∧ ∀ d, d ≠ c → ((s.warmCtx c).ctx d).inlet = (s.ctx d).inlet := by
  unfold State.warmCtx
  split
  case isTrue hfree => exact ⟨⟨rfl, rfl, fun h => by simp [Ctx.inlet, hfree] at h⟩, fun _ _ => rfl⟩
  case isFalse =>
    extract_lets s1 lost s2
    have hbefore : ∀ d, (((s.rungAborts .warm c).dropStream c false).ctx d).inlet = (s.ctx d).inlet := fun d => by
      rw [(State.Mirrors.dropStream ..).inlet, (State.Ended.rungAborts ..).inlet]
    have hc := hbefore c
    have hs1 : (∀ d, d ≠ c → (s1.ctx d).inlet = (s.ctx d).inlet) ∧ (s1.ctx c).inlet.1 = (s.ctx c).inlet.1
        ∧ (s1.ctx c).inlet.2.1 = (s.ctx c).inlet.2.1 := by
      obtain ⟨hothers, asm, hself⟩ := State.advanceGen_inlet ((s.rungAborts .warm c).dropStream c false) c
      exact ⟨fun d hd => (hothers d hd).trans (hbefore d), (congrArg (·.1) hself).trans (congrArg (·.1) hc),
        (congrArg (·.2.1) hself).trans (congrArg (·.2.1) hc)⟩
    have hs2 : ∀ d, s2.ctx d = s1.ctx d := fun _ => rfl
    clear_value s2 s1
    obtain ⟨hothers, hfree, hseq⟩ := hs1
    refine ⟨?_, fun d hd => ?_⟩
    · rw [State.modCtx_ctx, if_pos rfl, hs2]
      exact ⟨hfree, hseq, fun _ => rfl⟩
    · rw [State.modCtx_ctx, if_neg hd.symm, hs2, hothers d hd]

theorem State.dropReceives_ctxs (s : State) : s.dropReceives.ctxs = s.ctxs :=
  State.keeps_foldl State.ctxs _ (fun u i => by
    split
    · unfold State.abortReceive
      split
      · rfl
      · dsimp only
        split <;> rfl
    · rfl) _ s

theorem State.dropDeviceGroups_ctxs (s : State) : s.dropDeviceGroups.ctxs = s.ctxs :=
  State.keeps_foldl State.ctxs _ (fun u k => by split <;> rfl) _ s

theorem State.warmCleared_inlet (s : State) (c : CtxId) : Ctx.WarmInlet (s.ctx c).inlet (s.warmCleared.ctx c).inlet := by
  unfold State.warmCleared
  rw [State.ctx_of_ctxs (State.dropDeviceGroups_ctxs _), State.ctx_of_ctxs (State.dropReceives_ctxs _)]
  have habandon : (s.abandonUpdate.loseEvidence fun _ => true).ctx c = s.ctx c := by
    obtain ⟨boot, flash, h⟩ := s.abandonUpdate_rest
    rw [h]
    rfl
  have h := State.forCtx_each (π := Ctx.inlet) (fun u d => (State.warmCtx_inlet u d).1) (fun u d => (State.warmCtx_inlet u d).2)
    (s.abandonUpdate.loseEvidence fun _ => true) c
  rwa [habandon] at h

/-! ### A warm device reset -/

theorem State.clearCounters_inlet (s : State) (c : CtxId) : (s.clearCounters.ctx c).inlet = (s.ctx c).inlet := by
  unfold State.clearCounters State.ctx
  simp [Ctx.inlet]

theorem State.warmStart_inlet (s : State) (c : CtxId) : Ctx.WarmInlet (s.ctx c).inlet (s.warmStart.ctx c).inlet := by
  have hcleared : Ctx.WarmInlet (s.ctx c).inlet (s.warmCleared.clearCounters.ctx c).inlet := by
    rw [State.clearCounters_inlet]
    exact s.warmCleared_inlet c
  unfold State.warmStart
  extract_lets s1
  have hs1 : s1 = s.warmCleared.clearCounters := rfl
  rw [← hs1] at hcleared
  clear_value s1
  obtain ⟨hbm, pwr, out, h⟩ := State.recomputeLevels_rest (_ : State)
  rw [h]
  exact hcleared

theorem State.recomputeLevels_weir (s : State) : s.recomputeLevels.weir = s.weir := by
  obtain ⟨hbm, pwr, out, h⟩ := s.recomputeLevels_rest
  rw [h]

theorem State.recomputeLevels_hbmReady (s : State) : s.recomputeLevels.hbm.ready = s.hbm.ready := by
  unfold State.recomputeLevels State.driveAlert
  dsimp only
  split <;> rfl

theorem State.boot_of_plant {s t : State} (h : t.plant = s.plant) : t.boot = s.boot := (congrArg (·.boot) h :)

theorem State.clearCounters_warms (s : State) : s.clearCounters.boot.warms = s.boot.warms := rfl

/-- What of the boot begins again at the start of a warm device reset. -/
theorem State.warmStart_boots (s : State) : s.warmStart.weir.ready = false ∧ s.warmStart.hbm.ready = false
    ∧ s.warmStart.boot.phase = .flash ∧ s.warmStart.boot.warms = satInc s.boot.warms := by
  have hboot : s.warmCleared.clearCounters.boot.warms = s.boot.warms := by
    have hcleared : s.warmCleared.boot = s.abandonUpdate.boot := State.boot_of_plant s.warmCleared_plant
    have habandon : s.abandonUpdate.boot.warms = s.boot.warms := by
      unfold State.abandonUpdate
      split <;> rfl
    rw [State.clearCounters_warms, hcleared, habandon]
  unfold State.warmStart
  extract_lets s1
  have hs1 : s1 = s.warmCleared.clearCounters := rfl
  rw [← hs1] at hboot
  clear_value s1
  rw [State.recomputeLevels_weir, State.recomputeLevels_hbmReady, State.recomputeLevels_boot]
  exact ⟨rfl, rfl, rfl, congrArg satInc hboot⟩

/-! ### The two rungs -/

section
variable {s : State} {v : Reg}

theorem State.writeReset_region {r : Fin 4} (hgo : v.getLsbD 31 = true) (hrung : v.toNat % 8 = 4) (hr : v.toNat / 256 % 4 = r.val) :
    s.writeReset v = s.startRung (.region r) false none [] := by
  have hregion : (⟨v.toNat / 256 % 4, Nat.mod_lt _ (by decide)⟩ : Fin 4) = r := Fin.ext hr
  rw [State.writeReset, hgo, hrung, hregion]
  rfl

theorem State.writeReset_warm (hgo : v.getLsbD 31 = true) (hrung : v.toNat % 8 = 5) :
    s.writeReset v = s.startRung .warm false none [] := by
  rw [State.writeReset, hgo, hrung]
  rfl

/-- RCV_LAST of rung 4 names the region. -/
theorem Rung.word_region (r : Fin 4) (start : Ns) :
    Rung.word { scope := .region r, start := start, missed := false, engine := none, todo := [] } false = r.val * 256 + 4 := by
  have hr := r.isLt
  simp only [Rung.word, scopeUnit, RungScope.code, b2n, Option.map_none, Option.getD_none]
  rw [Nat.mod_eq_of_lt (by omega)]
  simp

theorem Rung.word_warm (start : Ns) :
    Rung.word { scope := .warm, start := start, missed := false, engine := none, todo := [] } false = 5 := by
  simp [Rung.word, scopeUnit, RungScope.code, b2n]

end

/-- Settles O28: the rung that the write names starts, where none that runs holds it. -/
theorem hostStartsRungs : Obligations.HostStartsRungs := by
  intro s p v hw ho hgo
  refine ⟨fun r hrung hr hfree => ?region, fun hrung hfree => ?warm⟩
  case region =>
    have hplant := State.startRung_lower_plant false none [] hfree (by simp) (by simp)
    refine ⟨s.startRung (.region r) false none [], ?_, ?_⟩
    · rw [exec_rcvReset, exec_ownerWrite hw ho rfl]
      exact congrArg _ (State.writeReset_region hgo hrung hr)
    generalize s.startRung (.region r) false none [] = t at hplant ⊢
    refine ⟨?_, congrArg (·.rcv.counts) hplant, (congrArg (·.rcv.last) hplant).trans ?_, congrArg (·.dma.ready) hplant,
      congrArg (·.own) hplant, congrArg (·.cfg) hplant, congrArg (·.boot) hplant, congrArg (·.hbm) hplant⟩
    · rw [show t.rcv.rungs = _ from congrArg (·.rcv.rungs) hplant]
      exact List.mem_append_right _ (List.mem_singleton.2 rfl)
    · exact congrArg (BitVec.ofNat 32) (Rung.word_region r s.clk.now)
  case warm =>
    obtain ⟨hown, hcfg, hrungs, hboot, hadmit⟩ := s.warmStart_leaves
    obtain ⟨hweir, hhbm, hphase, hwarms⟩ := s.warmStart_boots
    have hfuse : s.warmStart.fuse = s.fuse := kept_fuse s.warmStart_kept
    have hinlet := s.warmStart_inlet
    obtain ⟨tel, out, hnote⟩ := s.warmStart.noteRung_eq { scope := .warm, start := s.clk.now, missed := false, engine := none, todo := [] }
    refine ⟨s.startRung .warm false none [], ?_, ?_⟩
    · rw [exec_rcvReset, exec_ownerWrite hw ho rfl]
      exact congrArg _ (State.writeReset_warm hgo hrung)
    rw [State.startRung_warm false none [] hfree rfl, hnote]
    generalize s.warmStart = w at *
    refine ⟨?_, congrArg (BitVec.ofNat 32) (Rung.word_warm s.clk.now), hadmit, hweir, hhbm, hphase, hboot, hwarms, hown, hcfg, hfuse, fun c => ?_⟩
    · exact congrArg (· ++ [_]) hrungs
    · obtain ⟨hfree, hseq, hempty⟩ := hinlet c
      have hstate : (w.ctx c).state = .free ↔ (s.ctx c).state = .free := by
        have h : ((w.ctx c).state == .free) = ((s.ctx c).state == .free) := hfree
        rw [← beq_iff_eq, h, beq_iff_eq]
      refine ⟨hstate, hseq, fun hnot => ?_⟩
      have h : ((w.ctx c).regs.window, (w.ctx c).asm) = ([], none) := hempty (beq_eq_false_iff_ne.2 hnot)
      exact ⟨congrArg (·.1) h, congrArg (·.2) h⟩

end Sys2Proof.Machine
end

section
/-! PROOFS. The replay of the journal and the image that a boot takes (R402, R408, R419, R423, R429, R435). -/

namespace Sys2Proof.Machine

theorem exec_journalReplayDone (ok : Bool) (s : State) : exec (.journalReplayDone ok) s = execJournalReplayDone ok s := rfl
theorem exec_bootImageVerified (s : State) : exec .bootImageVerified s = execBootImageVerified s := rfl

/-! ### Measurements -/

/-- A state without its measurements. -/
def State.unmeasured (s : State) : State := { s with sec := { s.sec with meas := Sec.reset.meas } }

theorem State.rest_of_unmeasured {s t : State} (h : t.unmeasured = s.unmeasured) : t = { s with sec := { s.sec with meas := t.sec.meas } } := by
  calc t = { t.unmeasured with sec := { t.unmeasured.sec with meas := t.sec.meas } } := rfl
    _ = { s with sec := { s.sec with meas := t.sec.meas } } := by rw [h]; rfl

theorem State.measure_unmeasured (s : State) (i : Fin 6) (e : BitVec 256) : (s.measure i e).unmeasured = s.unmeasured := rfl

/-! ### The replay -/

theorem State.writeHeldMiss_of_none {s : State} (h : s.rcv.heldMiss = none) : s.writeHeldMiss = s := by
  unfold State.writeHeldMiss
  rw [h]

/-- The measurement of ROM and fuse map. -/
def State.measureRom (s : State) : State := (s.measure 0 s.fuse.romHash).measure 0 s.fuse.mapHash

theorem State.measureRom_meas (s : State) : s.measureRom.sec.meas[0]
    = sha256 (digestBytes (sha256 (digestBytes s.sec.meas[0] ++ digestBytes s.fuse.romHash)) ++ digestBytes s.fuse.mapHash) := by
  simp [State.measureRom, State.measure]

theorem State.loadJournal_err (s : State) (es : List JEntry) : (s.loadJournal es).boot.err = s.boot.err := rfl

theorem State.measureRom_rest (s : State) : ∃ meas, s.measureRom = { s with sec := { s.sec with meas := meas } } :=
  ⟨_, State.rest_of_unmeasured ((State.measure_unmeasured ..).trans (State.measure_unmeasured ..))⟩

/-- What loading the journal's entries sets of the boot's copy, and what it leaves. -/
theorem State.loadJournal_leaves (s : State) (es : List JEntry) :
    let t := s.loadJournal es
    t.boot.journal = es ∧ t.boot.active = activeArea s.flash ∧ t.sec = s.sec ∧ t.flash = s.flash ∧ t.fuse = s.fuse ∧ t.mem = s.mem
      ∧ t.weir = s.weir ∧ t.own = s.own := by
  unfold State.loadJournal
  exact ⟨rfl, rfl, rfl, rfl, rfl, rfl, rfl, rfl⟩

/-- The boot once the journal's entries are loaded: the image is next. -/
def State.replayDone (s : State) (es : List JEntry) (err : Nat) : State :=
  let s1 := s.measureRom.loadJournal es
  { s1 with boot := { s1.boot with err := err, phase := .image } }

theorem State.replayDone_leaves (s : State) (es : List JEntry) (err : Nat) :
    let t := s.replayDone es err
    t.boot.phase = .image ∧ t.boot.journal = es ∧ t.boot.err = err ∧ t.boot.active = activeArea s.flash
      ∧ t.sec.meas = s.measureRom.sec.meas ∧ t.flash = s.flash ∧ t.fuse = s.fuse ∧ t.mem = s.mem ∧ t.weir = s.weir ∧ t.own = s.own := by
  have hload := s.measureRom.loadJournal_leaves es
  obtain ⟨meas, h⟩ := s.measureRom_rest
  have hrom : s.measureRom.flash = s.flash ∧ s.measureRom.fuse = s.fuse ∧ s.measureRom.mem = s.mem ∧ s.measureRom.weir = s.weir
      ∧ s.measureRom.own = s.own := by
    rw [h]
    exact ⟨rfl, rfl, rfl, rfl, rfl⟩
  unfold State.replayDone
  generalize s.measureRom = u at hload hrom ⊢
  generalize u.loadJournal es = w at hload ⊢
  obtain ⟨flash, fuse, mem, weir, own⟩ := hrom
  obtain ⟨hjournal, hactive, hsec, hflash, hfuse, hmem, hweir, hown⟩ := hload
  exact ⟨rfl, hjournal, rfl, hactive.trans (congrArg activeArea flash), congrArg (·.meas) hsec, hflash.trans flash, hfuse.trans fuse,
    hmem.trans mem, hweir.trans weir, hown.trans own⟩

section
variable {s : State}

theorem execJournalReplayDone_of_sound (hp : s.powered = true) (hphase : s.boot.phase = .powerOn ∨ s.boot.phase = .flash)
    (hf : s.boot.jrnFault = false) (hheld : s.rcv.heldMiss = none) (ok : Bool) :
    execJournalReplayDone ok s = .next (s.replayDone (if ok then replayed s.flash else []) (if ok then s.boot.err else 5)) := by
  have hrun : ¬(s.boot.phase ≠ .powerOn ∧ s.boot.phase ≠ .flash) := fun h => hphase.elim h.1 h.2
  rw [execJournalReplayDone, State.whenPowered_of_on hp, if_neg hrun]
  extract_lets s1 es s2 b2 s3 b3 s4
  have hes : es = if ok then replayed s.flash else [] := if_neg (Bool.eq_false_iff.1 hf)
  clear_value es
  subst hes
  have hs2 : s2 = s.measureRom.loadJournal (if ok then replayed s.flash else []) := rfl
  have hheld2 : s2.rcv.heldMiss = none := hheld
  have herr : s2.boot.err = s.boot.err := State.loadJournal_err ..
  have hheld4 : s4.rcv.heldMiss = none := by
    unfold s4 b3 s3 b2
    split <;> exact hheld2
  rw [State.writeHeldMiss_of_none hheld4, State.replayDone, ← hs2, ← herr]
  unfold s4 b3 s3 b2
  clear_value s2
  cases ok <;> rfl

end

/-- The journal's number is past every entry. -/
theorem State.replayDone_jrnSeq (s : State) (es : List JEntry) (err : Nat) : ∀ e ∈ es, e.seq ≤ (s.replayDone es err).boot.jrnSeq :=
  fun _ he => le_foldl_max (List.mem_map_of_mem he) _

/-! ### The image -/

theorem State.measureBoot_unmeasured (s : State) : s.measureBoot.unmeasured = s.unmeasured := by
  unfold State.measureBoot
  extract_lets bs s1 s2 s3
  have h3 : s3.unmeasured = s.unmeasured := by
    refine (State.keeps_foldl State.unmeasured _ (fun u n => ?_) _ _).trans ?_
    · split
      · rw [State.measure_unmeasured]
      · rfl
    · rw [State.measure_unmeasured, State.measure_unmeasured]
  rw [State.keeps_foldl State.unmeasured _ fun _ _ =>
    State.keeps_foldl State.unmeasured _ (fun _ _ => State.measure_unmeasured ..) _ _, h3]

/-- The measurements that follow an image are all that measuring it changes. -/
theorem State.measureBoot_rest (s : State) : ∃ meas, s.measureBoot = { s with sec := { s.sec with meas := meas } } :=
  ⟨_, State.rest_of_unmeasured s.measureBoot_unmeasured⟩

/-- The phase after an image. -/
def Boot.nextPhase (b : Boot) : Phase := if b.trained then .firmware else .training

theorem State.afterImage_eq (s : State) : s.afterImage = { s with boot := { s.boot with phase := s.boot.nextPhase } } := rfl

/-- The valid mark of a slot. -/
def Boot.valid (b : Boot) (slotB : Bool) : Bool := if slotB then b.validB else b.validA

theorem State.setValid_valid (s : State) (b ok : Bool) : (s.setValid b ok).boot.valid b = ok := by cases b <;> rfl

/-- An image that has verified: what the boot takes from it. -/
theorem State.takeImage_spec (s : State) (b : Bool) (bs : List Byte) :
    let t := s.takeImage b bs
    t.boot.phase = s.boot.nextPhase ∧ t.boot.slotB = b ∧ t.boot.store = bs.take (imageBytes bs)
      ∧ t.sec.svn = imageVersion (bs.take (imageBytes bs)) ∧ t.boot.valid b = true ∧ t.flash = s.flash ∧ t.fuse = s.fuse := by
  unfold State.takeImage
  extract_lets img c b0 sec cfg s1 t
  obtain ⟨meas, h⟩ := (s1.setValid b true).measureBoot_rest
  have ht : t = { (s1.setValid b true) with
      boot := { (s1.setValid b true).boot with phase := (s1.setValid b true).boot.nextPhase }
      sec := { (s1.setValid b true).sec with meas := meas } } := by
    unfold t
    rw [h]
    rfl
  rw [ht]
  refine ⟨?_, ?_, ?_, ?_, s1.setValid_valid b true, ?_, ?_⟩ <;> cases b <;> rfl

section
variable {s : State}

theorem execBootImageVerified_of_image (hp : s.powered = true) (hphase : s.boot.phase = .image) : execBootImageVerified s = .next
    (if s.boot.store.isEmpty then s.trySlot
      else if sectionsMatch s.boot.store then s.measureBoot.afterImage
      else { s with boot := { s.boot with store := [], err := 7 } }) := by
  rw [execBootImageVerified, State.whenPowered_of_on hp]
  exact congrArg Host.Outcome.next (if_neg (not_not_intro hphase))

/-- A boot that tries a slot. -/
def State.trying (s : State) (b : Bool) : State := { s with boot := { s.boot with tried := s.boot.tried ++ [b] } }

/-- No slot is left once this one has been tried. -/
theorem no_slot_left {order tried : List Bool} {b : Bool} (h : ∀ x ∈ order, x = b ∨ tried.contains x = true) :
    (order.any fun x => !(tried ++ [b]).contains x) = false := by
  refine List.any_eq_false.2 fun x hx => ?_
  obtain rfl | ht := h x hx
  · simp
  · simp [List.contains_iff_mem.1 ht]

theorem State.trySlot_of_good {b : Bool} (hnext : (bootOrder s.boot.strap s.flash).find? (fun b => !s.boot.tried.contains b) = some b)
    (hgood : imageVerifies s.fuse.imageKey s.fuse.fsv (s.flash.slot b) = true) :
    s.trySlot = (s.trying b).takeImage b (s.flash.slot b) := by
  unfold State.trySlot
  rw [hnext]
  exact if_pos hgood

theorem State.trySlot_of_last {b : Bool} (hnext : (bootOrder s.boot.strap s.flash).find? (fun b => !s.boot.tried.contains b) = some b)
    (hbad : imageVerifies s.fuse.imageKey s.fuse.fsv (s.flash.slot b) = false)
    (hlast : ∀ x ∈ bootOrder s.boot.strap s.flash, x = b ∨ s.boot.tried.contains x = true) :
    s.trySlot =
      let t := (s.trying b).setValid b false
      { t with boot := { t.boot with err := 4, phase := .noImage } } := by
  unfold State.trySlot
  rw [hnext]
  exact (if_neg (Bool.eq_false_iff.1 hbad)).trans (if_neg (Bool.eq_false_iff.1 (no_slot_left hlast)))

end

/-- Settles O35: the two replays, the next slot taken or the last one refused, and the stored image of a warm boot. -/
theorem bootTakesImage : Obligations.BootTakesImage := by
  intro s hp
  simp only [exec_journalReplayDone, exec_bootImageVerified]
  refine ⟨fun hphase hf hheld => ?readable, fun hphase hf hheld => ?unreadable, fun b hphase hstore hnext => ⟨fun hgood => ?taken,
    fun hbad hlast => ?refused⟩, fun hphase hstore hbad => ?dropped, fun hphase hstore hgood => ?again⟩
  case readable =>
    obtain ⟨himage, hjournal, herr, hactive, hmeas, hrest⟩ := s.replayDone_leaves (replayed s.flash) s.boot.err
    have hseq := s.replayDone_jrnSeq (replayed s.flash) s.boot.err
    rw [← hjournal] at hseq
    refine ⟨_, execJournalReplayDone_of_sound hp hphase hf hheld true, himage, hjournal, hactive, herr, hseq, ?_, hrest⟩
    exact (congrArg (·[0]) hmeas).trans s.measureRom_meas
  case unreadable =>
    obtain ⟨himage, hjournal, herr, -⟩ := s.replayDone_leaves [] 5
    exact ⟨_, execJournalReplayDone_of_sound hp hphase hf hheld false, himage, hjournal, herr⟩
  case taken =>
    obtain ⟨hnew, hslot, hbytes, hsvn, hvalid, hflash, hfuse⟩ := (s.trying b).takeImage_spec b (s.flash.slot b)
    refine ⟨(s.trying b).takeImage b (s.flash.slot b), ?_, hnew, hslot, hbytes, hsvn.trans (congrArg imageVersion hbytes.symm), hvalid,
      hflash, hfuse⟩
    rw [execBootImageVerified_of_image hp hphase, hstore, ← State.trySlot_of_good hnext hgood]
    rfl
  case refused =>
    have hvalid := (s.trying b).setValid_valid b false
    obtain ⟨va, vb, h⟩ := State.setValid_rest (s.trying b) b false
    refine ⟨s.trySlot, ?_, ?_⟩
    · rw [execBootImageVerified_of_image hp hphase, hstore]
      rfl
    rw [State.trySlot_of_last hnext hbad hlast]
    rw [h] at hvalid ⊢
    exact ⟨rfl, rfl, rfl, hvalid, by simp [State.faultOut], rfl, rfl⟩
  case dropped =>
    rw [execBootImageVerified_of_image hp hphase, if_neg (by simpa using hstore), if_neg (Bool.eq_false_iff.1 hbad)]
  case again =>
    obtain ⟨meas, h⟩ := s.measureBoot_rest
    refine ⟨s.measureBoot.afterImage, ?_, ?_⟩
    · rw [execBootImageVerified_of_image hp hphase, if_neg (by simpa using hstore), if_pos hgood]
    · rw [h]
      rfl

end Sys2Proof.Machine
end

section
/-! PROOFS. The manifest verifier takes the request at the head of its queue (R433 to R435). -/

namespace Sys2Proof.Machine

theorem exec_manifestVerified (s : State) : exec .manifestVerified s = execManifestVerified s := rfl

/-! ### The next verification -/

/-- The queue without its head: the next verification begins with the key table as it stands. -/
def State.dequeued (s : State) (rest : List Verify) : State :=
  let next := match rest with
    | [] => []
    | r :: rs => { r with keys := some s.sec.keys } :: rs
  { s with sec := { s.sec with queue := next } }

theorem State.dequeued_addr (s : State) (rest : List Verify) : (s.dequeued rest).sec.queue.map (·.addr) = rest.map (·.addr) := by
  cases rest <;> rfl

theorem State.dequeued_keys (s : State) (rest : List Verify) : ∀ n ∈ (s.dequeued rest).sec.queue.head?, n.keys = some s.sec.keys := by
  intro n hn
  cases rest with
  | nil => cases hn
  | cons r rs =>
    cases hn
    rfl

/-! ### What the two outcomes leave -/

/-- Laying bytes aside leaves contexts, the SEC_ block and the channels alone. -/
theorem State.layAside_parts (s : State) (fresh : List Range) :
    ((s.layAside fresh).ctxs, (s.layAside fresh).sec, (s.layAside fresh).hbm.chans) = (s.ctxs, s.sec, s.hbm.chans) :=
  State.keeps_foldl (fun u : State => (u.ctxs, u.sec, u.hbm.chans)) _ (fun u r => by
    dsimp only
    split <;> rfl) fresh s

/-- An allocation changes, of the contexts, the SEC_ block and the channels, only the ranges of its own context. -/
theorem State.allocate_parts (s : State) (c : CtxId) (new : List Range) :
    (s.allocate c new).sec = s.sec ∧ (s.allocate c new).hbm.chans = s.hbm.chans
      ∧ ∃ alloc, ∀ d, (s.allocate c new).ctx d = if c = d then { s.ctx c with alloc := alloc } else s.ctx d := by
  unfold State.allocate
  extract_lets fresh hbm s1 s2
  have hparts : (s1.ctxs, s1.sec, s1.hbm.chans) = (s.ctxs, s.sec, s.hbm.chans) := State.layAside_parts ..
  have hctx : ∀ d, s2.ctx d = s.ctx d := State.ctx_of_ctxs (congrArg (·.1) hparts : s1.ctxs = s.ctxs)
  refine ⟨congrArg (·.2.1) hparts, congrArg (·.2.2) hparts, (s.ctx c).alloc ++ fresh, fun d => ?_⟩
  rw [State.modCtx_ctx, hctx, hctx]

/-- The state in which an accepted manifest stands. -/
def State.manifestTaken (s : State) (q : Verify) (m : Manifest) : State :=
  (((s.adopt q.ctx [(q.addr, q.bytes.length)]).modCtx q.ctx fun x =>
    { x with manifests := m :: x.manifests.filter fun k => k.version != m.version }).measure 4 m.name).accept q.ctx
      { seq := q.seq, tag := q.tag, client := q.client } id

/-- The state in which a refused manifest has been counted and answered. -/
def State.manifestRefused (s : State) (q : Verify) : State :=
  s.failVerify.deny q.ctx { seq := q.seq, tag := q.tag, client := q.client } badSignature

theorem State.measure_ctx (s : State) (i : Fin 6) (e : BitVec 256) (c : CtxId) : (s.measure i e).ctx c = s.ctx c := rfl

/-- An accepted manifest: it stands first in its context, measurement 4 has taken it in, and it has been answered. -/
theorem State.manifestTaken_spec (s : State) (q : Verify) (m : Manifest) :
    let t := s.manifestTaken q m
    t.sec = { s.sec with meas := s.sec.meas.set 4 (sha256 (digestBytes s.sec.meas[4] ++ digestBytes m.name)) }
      ∧ t.hbm.chans = s.hbm.chans ∧ (∀ d, d ≠ q.ctx → t.ctx d = s.ctx d)
      ∧ ∃ alloc e, t.ctx q.ctx = Ctx.entered { s.ctx q.ctx with
          alloc := alloc, manifests := m :: (s.ctx q.ctx).manifests.filter fun k => k.version != m.version } e ∧ e.code = .accepted := by
  obtain ⟨hsec, hchans, alloc, hctx⟩ := s.allocate_parts q.ctx (pageRanges [(q.addr, q.bytes.length)] .scratch)
  unfold State.manifestTaken State.adopt
  generalize s.allocate q.ctx _ = u at hsec hchans hctx ⊢
  refine ⟨?_, ?_, fun d hd => ?_, alloc, ?_⟩
  · rw [State.accept_rest, ← hsec]
    rfl
  · rw [State.accept_rest]
    exact hchans
  · rw [State.accept_ctx, if_neg hd.symm]
    rw [State.measure_ctx, State.modCtx_ctx, if_neg hd.symm, hctx, if_neg hd.symm]
  · rw [State.accept_ctx, if_pos rfl, State.measure_ctx, State.modCtx_ctx, if_pos rfl, hctx, if_pos rfl]
    exact ⟨_, rfl, rfl⟩

/-- A refused manifest has been counted and answered, and nothing else. -/
theorem State.manifestRefused_spec (s : State) (q : Verify) :
    let t := s.manifestRefused q
    t.sec = { s.sec with failed := satInc s.sec.failed } ∧ t.hbm = s.hbm ∧ t.mem = s.mem ∧ (∀ d, d ≠ q.ctx → t.ctx d = s.ctx d)
      ∧ ∃ e, t.ctx q.ctx = (s.ctx q.ctx).entered e ∧ e.code = .refusedSignature := by
  unfold State.manifestRefused State.deny
  refine ⟨?_, ?_, ?_, fun d hd => ?_, ?_⟩
  · rw [State.putEntry_rest]
    rfl
  · rw [State.putEntry_rest]
    rfl
  · rw [State.putEntry_rest]
    rfl
  · exact (State.putEntry_ctx ..).trans (if_neg hd.symm)
  · rw [State.putEntry_ctx, if_pos rfl]
    exact ⟨_, rfl, rfl⟩

theorem execManifestVerified_of_active {s : State} {q : Verify} {rest : List Verify} (hup : s.up = true) (hq : s.sec.queue = q :: rest)
    (ha : (s.ctx q.ctx).state = .active) : execManifestVerified s = .next (State.evalWindow q.ctx 2048
      (match verified q with
        | some m => (s.dequeued rest).manifestTaken q m
        | none => (s.dequeued rest).manifestRefused q)) := by
  rw [execManifestVerified, State.whenUp_of_up hup, hq]
  refine congrArg Host.Outcome.next ((if_neg (not_not_intro ha)).trans ?_)
  cases verified q <;> rfl

/-- Settles O17: the two outcomes of the verifier, after which an empty window holds nothing to judge. -/
theorem verifierFinishes : Obligations.VerifierFinishes := by
  intro s q rest hup hq ha hwindow
  have haddr := s.dequeued_addr rest
  have hkeys := s.dequeued_keys rest
  rw [exec_manifestVerified, execManifestVerified_of_active hup hq ha]
  cases hv : verified q with
  | some m =>
    obtain ⟨hsec, hchans, hothers, alloc, e, hctx, hcode⟩ := (s.dequeued rest).manifestTaken_spec q m
    have hempty : (((s.dequeued rest).manifestTaken q m).ctx q.ctx).regs.window = [] := by
      rw [hctx]
      exact hwindow
    refine ⟨_, congrArg _ (State.evalWindow_of_empty hempty 2048), ?_⟩
    rw [hsec, hctx]
    refine ⟨haddr, hkeys, rfl, ?_, fun h => absurd h (Option.some_ne_none m), rfl, rfl, hothers, hchans⟩
    rintro _ ⟨⟩
    exact ⟨rfl, by simp [State.dequeued], congrArg Code.value hcode, rfl⟩
  | none =>
    obtain ⟨hsec, hhbm, hmem, hothers, e, hctx, hcode⟩ := (s.dequeued rest).manifestRefused_spec q
    have hempty : (((s.dequeued rest).manifestRefused q).ctx q.ctx).regs.window = [] := by
      rw [hctx]
      exact hwindow
    refine ⟨_, congrArg _ (State.evalWindow_of_empty hempty 2048), ?_⟩
    rw [hsec, hctx]
    refine ⟨haddr, hkeys, rfl, fun _ h => ?_, fun _ => ⟨rfl, rfl, rfl, congrArg Code.value hcode, hmem⟩, rfl, rfl, hothers,
      congrArg (·.chans) hhbm⟩
    cases h

end Sys2Proof.Machine
end

section
/-! PROOFS. A REBIND binds its context to new rings and carries the kept entries over (R395, R396). -/

namespace Sys2Proof.Machine

theorem exec_rebind (r : RecordIn) (s : State) : exec (.rebind r) s = .next (s.recordIn 0x04 r) := rfl

/-! ### Bytes that are zero -/

/-- A little-endian number is zero where all its bytes are. -/
theorem leNat_eq_zero {bs : List Byte} : leNat bs = 0 ↔ ∀ b ∈ bs, b = 0#8 := by
  induction bs with
  | nil => simp [leNat]
  | cons b bs ih =>
    have hb : b.toNat = 0 ↔ b = 0#8 := ⟨fun h => BitVec.eq_of_toNat_eq h, fun h => by rw [h]; rfl⟩
    rw [leNat, List.forall_mem_cons, ← ih, ← hb]
    omega

/-- A field within a range of zero bytes is zero. -/
theorem field_of_zeroAt {bs : List Byte} {off len o n : Nat} (h : zeroAt bs off len = true) (hlo : off ≤ o) (hhi : o + n ≤ off + len) :
    field bs o n = 0 := by
  have hall := leNat_eq_zero.1 (beq_iff_eq.1 h)
  refine leNat_eq_zero.2 fun b hb => hall b ?_
  have hsub : slice bs o n = ((slice bs off len).drop (o - off)).take n := by
    unfold slice
    rw [List.drop_take, List.take_take, List.drop_drop, Nat.add_sub_cancel' hlo, Nat.min_eq_left (by omega)]
  rw [hsub] at hb
  exact List.mem_of_mem_drop (List.mem_of_mem_take hb)

/-! ### The rebound context -/

/-- The rings that a REBIND's payload gives. -/
def Rings.rebound (r : Rings) (bs : List Byte) : Rings :=
  { r with base := field bs 0 8, log2 := field bs 8 1, tail := field bs 16 8, dBase := field bs 32 8, dLog2 := field bs 40 1
           dTail := field bs 48 8 }

/-- The entries that a REBIND writes anew. -/
def Ctx.carriedOver (x : Ctx) (bs : List Byte) : List Output :=
  rewriteRing (field bs 0 8) (field bs 8 1) (field bs 16 8) 64 x.regs.results (field bs 24 8) x.rings.kept
    ++ if zeroAt bs 32 32 then []
      else rewriteRing (field bs 32 8) (field bs 40 1) (field bs 48 8) 16 x.rings.dCount (field bs 56 8) x.rings.dKept

/-- The state in which a REBIND's rings hold and its kept entries have been written, before its answer. -/
def State.rebound (s : State) (c : CtxId) (bs : List Byte) : State :=
  (s.modCtx c fun x => { x with rings := (s.ctx c).rings.rebound bs, unbound := false }).emits ((s.ctx c).carriedOver bs)

/-- A REBIND whose shape and rings fit its context is accepted. -/
theorem State.judgeRebind_of_fit {s : State} {c : CtxId} {bs : List Byte} (hpacked : packed bs 64 = true) (hgap : gap bs 9 16 = true)
    (hgap' : gap bs 41 48 = true) (hlog : 8 ≤ field bs 8 1 ∧ field bs 8 1 ≤ 16)
    (hrole : ((s.ctx c).role = .training ∧ zeroAt bs 32 32 = true)
      ∨ ((s.ctx c).role = .serving ∧ 9 ≤ field bs 40 1 ∧ field bs 40 1 ≤ 20)) (w : Who) :
    ∃ lost, s.judgeRebind c bs w = (s.rebound c bs).accept c w fun e => { e with shortfall := lost } := by
  have hshape : ¬(((!(packed bs 64 && gap bs 9 16 && gap bs 41 48)) || decide (field bs 8 1 < 8) || decide (16 < field bs 8 1)) = true) := by
    simp only [hpacked, hgap, hgap', Bool.and_self, Bool.not_true, Bool.false_or, Bool.or_eq_true, decide_eq_true_eq]
    omega
  have htraining : ¬((s.ctx c).role = .training ∧ (!zeroAt bs 32 32) = true) := by
    rintro ⟨hr, hz⟩
    obtain ⟨-, hzero⟩ | ⟨hserving, -⟩ := hrole
    · simp [hzero] at hz
    · cases hr.symm.trans hserving
  have hserving : ¬((s.ctx c).role = .serving ∧ (field bs 40 1 < 9 ∨ 20 < field bs 40 1)
      ∧ (!(zeroAt bs 32 32 && (s.ctx c).pattern.isNone)) = true) := by
    rintro ⟨hr, hbad, -⟩
    obtain ⟨htrain, -⟩ | ⟨-, hlo, hhi⟩ := hrole
    · cases hr.symm.trans htrain
    · omega
  unfold State.judgeRebind
  dsimp only
  rw [if_neg hshape, if_neg htraining, if_neg hserving]
  exact ⟨_, rfl⟩

theorem State.rebound_ctx (s : State) (c d : CtxId) (bs : List Byte) : (s.rebound c bs).ctx d =
    if c = d then { s.ctx c with rings := (s.ctx c).rings.rebound bs, unbound := false } else s.ctx d :=
  s.modCtx_ctx c d fun x => { x with rings := (s.ctx c).rings.rebound bs, unbound := false }

/-- An entry adds to the kept ones, and leaves the rings where they are. -/
theorem Ctx.entered_rings (x : Ctx) (e : Entry64) : (x.entered e).rings = { x.rings with kept := (x.entered e).rings.kept } := by
  unfold Ctx.entered
  dsimp only

/-! ### What has been sent stays sent -/

theorem State.Sent.putEntry (s : State) (c : CtxId) (e : Entry64) : s.Sent (s.putEntry c e) := by
  unfold State.putEntry State.msixOwner
  dsimp only
  split
  · exact List.prefix_refl _
  · split
    · exact (List.prefix_append ..).trans (List.prefix_append ..)
    · exact List.prefix_append ..

/-- Every kept entry from the resume count on is written to its place in the new ring. -/
theorem mem_rewriteRing {base log2 tail size count resume : Nat} {kept : List (Nat × List Byte)} {e : Nat × List Byte} (he : e ∈ kept)
    (hresume : resume ≤ e.1) : Output.hostWrite (ringAddr base log2 e.1 size) e.2 ∈ rewriteRing base log2 tail size count resume kept :=
  List.mem_append_left _ (List.mem_map.2 ⟨e, List.mem_filter.2 ⟨he, decide_eq_true hresume⟩, rfl⟩)

/-- Settles O10: the judgement's accepting branch, whose answer and dispatch leave rings, binding and what was written as they are. -/
theorem rebindBindsContext : Obligations.RebindBindsContext := by
  intro s r htakes hactive hasm hpacked hgap hgap' hlog hrole
  have htaken : (s.taken r).ctx r.ctx = { s.ctx r.ctx with regs := ((s.taken r).ctx r.ctx).regs } := by
    rw [State.taken_ctx, if_pos rfl]
  have hresults := s.taken_results r
  obtain ⟨lost, hjudge⟩ := State.judgeRebind_of_fit (s := s.taken r) (c := r.ctx) hpacked hgap hgap' hlog (by rw [htaken]; exact hrole)
    (whoOf r)
  set u := ((s.taken r).rebound r.ctx r.payload).accept r.ctx (whoOf r) fun e => { e with shortfall := lost } with hu
  have hself : u.ctx r.ctx = Ctx.entered { s.ctx r.ctx with
      regs := ((s.taken r).ctx r.ctx).regs, rings := (s.ctx r.ctx).rings.rebound r.payload, unbound := false }
      { ((s.taken r).rebound r.ctx r.payload).acceptedEntry r.ctx (whoOf r) with shortfall := lost } := by
    rw [hu, State.accept_ctx, if_pos rfl, State.rebound_ctx, if_pos rfl, htaken]
  have hothers : ∀ d, d ≠ r.ctx → u.ctx d = s.ctx d := fun d hd => by
    rw [hu, State.accept_ctx, if_neg hd.symm, State.rebound_ctx, if_neg hd.symm, State.taken_ctx, if_neg hd.symm]
  have haside : s.Aside u := by
    show u = _
    rw [hu, State.accept_rest]
    rfl
  have hsent : ∀ o ∈ ((s.taken r).ctx r.ctx).carriedOver r.payload, o ∈ u.dispatch.out := fun o ho =>
    ((State.Sent.putEntry ..).trans (State.Sent.dispatch u)).subset (List.mem_append_right _ ho)
  clear_value u
  have hregs : (u.dispatch.ctx r.ctx).regs = (u.ctx r.ctx).regs := u.dispatch_ctx_regs r.ctx
  have hrings : (u.dispatch.ctx r.ctx).rings = (u.ctx r.ctx).rings := u.dispatch_ctx_rings r.ctx
  refine ⟨u.dispatch, ?run, haside.trans (.of_still u.dispatch_still), fun d hd => ?others, ?self, ?rings, ?regs, fun e he hfrom => ?kept,
    fun hserving e he hfrom => ?delivered⟩
  case run =>
    rw [exec_rebind, State.recordIn_judged htakes (by decide) (.inl hactive) (.inl hasm)]
    exact congrArg (fun v : State => Host.Outcome.next v.dispatch) hjudge
  case others => rw [u.dispatch_ctx, hothers d hd]
  case self =>
    rw [u.dispatch_ctx, hregs, hrings, hself]
    rfl
  case rings =>
    have hentered : (u.ctx r.ctx).rings = { (s.ctx r.ctx).rings.rebound r.payload with kept := (u.ctx r.ctx).rings.kept } := by
      rw [hself]
      exact Ctx.entered_rings ..
    rw [hrings]
    exact hentered
  case regs =>
    rw [hregs, hself, ← hresults]
    simp [Ctx.entered, State.acceptedEntry, whoOf, Code.value]
  case kept => exact hsent _ (List.mem_append_left _ (mem_rewriteRing (by rwa [htaken]) hfrom))
  case delivered =>
    have hzero : zeroAt r.payload 32 32 = false := by
      obtain ⟨htrain, -⟩ | ⟨-, hlo, -⟩ := hrole
      · cases htrain.symm.trans hserving
      · refine Bool.eq_false_iff.2 fun h => ?_
        have := field_of_zeroAt (o := 40) (n := 1) h (by decide) (by decide)
        omega
    refine hsent _ (List.mem_append_right _ ?_)
    rw [hzero]
    exact mem_rewriteRing (by rwa [htaken]) hfrom

end Sys2Proof.Machine
end

section
/-! PROOFS. A checker's mismatch ends its command's step and leaves a repeat or a record behind (R343 to R346, R357, R359, R362). -/

namespace Sys2Proof.Machine

theorem exec_checkerMismatch (r : CmdRef) (chk : Checker) (ordinal : Nat) (operands : List Byte) (s : State) :
    exec (.checkerMismatch r chk ordinal operands) s = execCheckerMismatch r chk ordinal operands s := rfl

/-! ### Evidence -/

/-- Keeping evidence takes an area or counts a drop, and marks the record. -/
theorem State.keepEvidence_rest (s : State) (r : Fin 4) (bs : List Byte) (g : Sig) : ∃ areas drops evidence evstate area,
    s.keepEvidence r bs g = ({ s with intg := { s.intg with areas := areas, evDrops := drops } },
      { g with evidence := evidence, evstate := evstate, area := area }) := by
  unfold State.keepEvidence
  split
  · split
    · exact ⟨s.intg.areas, _, g.evidence, _, g.area, rfl⟩
    · exact ⟨_, s.intg.evDrops, _, _, _, rfl⟩
  · exact ⟨s.intg.areas, _, g.evidence, _, g.area, rfl⟩

/-! ### The mark of a mismatch -/

/-- What a mismatch's record says of the command before its evidence is kept. -/
def State.mismatchSig (s : State) (r : CmdRef) (t : Step) (k : Cmd) (chk : Checker) (ordinal : Nat) : Sig :=
  { Sig.empty 1 with
    cls := some (checkerClass chk), unit := s.engineName k.entry.engine, ctx := some (r.ctx.val, (s.ctx r.ctx).regs.gen.toNat)
    step := some t.hdr.step.toNat, job := (s.ctx r.ctx).jobKey
    detail := [(1, r.idx), (2, ordinal), (5, Reason.fault.value.toNat)] }

/-- A mismatch is counted, and queued for its unit's repeat or recorded. -/
def State.mismatched (s : State) (r : CmdRef) (t : Step) (k : Cmd) (chk : Checker) (ordinal : Nat) (operands : List Byte) : State :=
  let e := (s.countChecker chk).keepEvidence (s.unitRegion k.entry.engine ordinal) operands (s.mismatchSig r t k chk ordinal)
  match s.faultyUnit r.ctx t k chk ordinal with
  | some u =>
    let g1 : Sig := match u with
      | .array _ _ _ | .laneGroup _ => { e.2 with unit := unitName u }
      | _ => e.2
    { e.1 with intg := { e.1.intg with repeats := e.1.intg.repeats ++
        [{ engine := some k.entry.engine, unit := u, since := s.clk.now, sig := g1, pending := none }] } }
  | none => e.1.record { e.2 with outcome := some 0 }

/-- The counters of R362 that checkers move. -/
def Intg.checks (i : Intg) : Reg × Reg × Reg × Reg × Reg := (i.checksum, i.combiner, i.vector, i.lockstep, i.update)

theorem Intg.parts_of_checks {i j : Intg} (h : j.checks = i.checks) : j.checksum = i.checksum ∧ j.combiner = i.combiner
    ∧ j.vector = i.vector ∧ j.lockstep = i.lockstep ∧ j.update = i.update := by simpa [Intg.checks] using h

theorem State.countChecker_rest (s : State) (chk : Checker) : ∃ a b c d e, s.countChecker chk
    = { s with intg := { s.intg with checksum := a, combiner := b, vector := c, lockstep := d, update := e } } := by
  cases chk <;> exact ⟨_, _, _, _, _, rfl⟩

section
variable {s : State} {r : CmdRef} {t : Step} {k : Cmd} {chk : Checker} {ordinal : Nat}

/-- Where the unit can be named, its repeat waits. -/
theorem State.mismatched_of_unit {unit : HwUnit} (h : s.faultyUnit r.ctx t k chk ordinal = some unit) (operands : List Byte) :
    ∃ intg q, s.mismatched r t k chk ordinal operands = { s with intg := intg } ∧ intg.checks = (s.countChecker chk).intg.checks
      ∧ intg.recSeq = s.intg.recSeq ∧ intg.repeats = s.intg.repeats ++ [q] ∧ q.unit = unit ∧ q.engine = some k.entry.engine
      ∧ q.pending = none ∧ q.sig.cls = some (checkerClass chk) := by
  obtain ⟨areas, drops, evidence, evstate, area, hkeep⟩ := State.keepEvidence_rest (s.countChecker chk)
    (s.unitRegion k.entry.engine ordinal) operands (s.mismatchSig r t k chk ordinal)
  obtain ⟨a, b, c, d, e, hcount⟩ := s.countChecker_rest chk
  unfold State.mismatched
  rw [h, hkeep, hcount]
  refine ⟨_, _, rfl, rfl, rfl, rfl, rfl, rfl, rfl, ?_⟩
  dsimp only
  split <;> rfl

/-- Where no unit can be named, a record with its outcome open is made. -/
theorem State.mismatched_of_none (h : s.faultyUnit r.ctx t k chk ordinal = none) (operands : List Byte) :
    ∃ intg out g, s.mismatched r t k chk ordinal operands = { s with intg := intg, out := out }
      ∧ intg.checks = (s.countChecker chk).intg.checks ∧ intg.repeats = s.intg.repeats ∧ intg.records = s.intg.records ++ [g] ∧ g.kind = 1
      ∧ g.outcome = some 0 ∧ g.cls = some (checkerClass chk) := by
  obtain ⟨areas, drops, evidence, evstate, area, hkeep⟩ := State.keepEvidence_rest (s.countChecker chk)
    (s.unitRegion k.entry.engine ordinal) operands (s.mismatchSig r t k chk ordinal)
  obtain ⟨a, b, c, d, e, hcount⟩ := s.countChecker_rest chk
  unfold State.mismatched
  rw [h, hkeep, hcount]
  exact ⟨_, _, _, rfl, rfl, rfl, rfl, rfl, rfl, rfl⟩

/-! ### The fault -/

theorem State.checkerFault_eq (ht : s.step? r = some t) (hk : s.cmd? r = some k) (operands : List Byte) :
    s.checkerFault r chk ordinal operands = (s.mismatched r t k chk ordinal operands).faultCmd r .fault := by
  unfold State.checkerFault
  rw [ht, hk]
  rfl

theorem execCheckerMismatch_of_running (hup : s.up = true) (ht : s.step? r = some t) (hk : s.cmd? r = some k) (hrun : k.state = .running)
    (hfits : checkerFits k.entry.engine chk = true) (operands : List Byte) :
    execCheckerMismatch r chk ordinal operands s = .next ((s.mismatched r t k chk ordinal operands).faultCmd r .fault) := by
  rw [execCheckerMismatch, State.whenUp_of_up hup, hk, ← State.checkerFault_eq ht hk]
  exact congrArg Host.Outcome.next (if_pos ⟨hrun, hfits⟩)

end

theorem State.faultCmd_intg (s : State) (r : CmdRef) (reason : Reason) : (s.faultCmd r reason).intg = s.intg :=
  (State.dispatch_intg _).trans (congrArg (·.intg) (State.Ended.abortStep ..).outer)

/-- The records, repeats and outputs from before a step's end are no part of what its end says. -/
theorem State.EndsStep.of_marked {s m u : State} {intg : Intg} {out : List Output} {c : CtxId} {uid : Nat} {code : Code}
    (hm : m = { s with intg := intg, out := out }) (h : m.EndsStep u c uid code) : s.EndsStep u c uid code := by
  subst hm
  exact ⟨h.gone, h.kept, h.others, h.told, h.same, h.version, h.rest⟩

/-- The fault of a command in a state that the mismatch has marked. -/
theorem State.faultCmd_of_marked {s m : State} {r : CmdRef} {t : Step} {intg : Intg} {out : List Output}
    (hm : m = { s with intg := intg, out := out }) (ht : s.step? r = some t) (hc : t.state ≠ .committed) :
    let u := m.faultCmd r .fault
    s.EndsStep u r.ctx r.step .abortedFault ∧ u.intg = intg ∧ u.hw = s.hw ∧ u.hbm = s.hbm := by
  have hstep : m.step? r = some t := by rw [hm]; exact ht
  have hplant := m.faultCmd_plant r .fault
  have hintg := m.faultCmd_intg r .fault
  refine ⟨(State.EndsStep.faultCmd hstep hc .fault).of_marked hm, hintg.trans ?_, (congrArg (·.hw) hplant).trans ?_,
    (congrArg (·.hbm) hplant).trans ?_⟩
  · rw [hm]
  · rw [hm]; rfl
  · rw [hm]; rfl

/-- Settles O47: the mark of the mismatch, then the fault of the command. -/
theorem checkerMismatchEndsStep : Obligations.CheckerMismatchEndsStep := by
  intro s r t k chk ordinal operands hup ht hk hlive hrun hfits i
  refine ⟨(s.mismatched r t k chk ordinal operands).faultCmd r .fault, ?_, ?_⟩
  · rw [exec_checkerMismatch, execCheckerMismatch_of_running hup ht hk hrun hfits]
  cases hunit : s.faultyUnit r.ctx t k chk ordinal with
  | some unit =>
    obtain ⟨intg, q, hm, hchecks, hseq, hrepeats, hrest⟩ := State.mismatched_of_unit hunit operands
    obtain ⟨hends, hintg, hhw, hhbm⟩ := State.faultCmd_of_marked hm ht hlive
    rw [hintg]
    obtain ⟨hsum, hcomb, hvec, hlock, hupd⟩ := Intg.parts_of_checks hchecks
    refine ⟨hends, hsum, hcomb, hvec, hlock, hupd, ?_, fun h => absurd h (Option.some_ne_none unit), hhw, hhbm⟩
    rintro _ ⟨⟩
    exact ⟨hseq, q, hrepeats, hrest⟩
  | none =>
    obtain ⟨intg, out, g, hm, hchecks, hrepeats, hrest⟩ := State.mismatched_of_none hunit operands
    obtain ⟨hends, hintg, hhw, hhbm⟩ := State.faultCmd_of_marked hm ht hlive
    rw [hintg]
    obtain ⟨hsum, hcomb, hvec, hlock, hupd⟩ := Intg.parts_of_checks hchecks
    refine ⟨hends, hsum, hcomb, hvec, hlock, hupd, fun _ h => ?_, fun _ => ⟨hrepeats, g, hrest⟩, hhw, hhbm⟩
    cases h

end Sys2Proof.Machine
end

section
/-! PROOFS. Zones, the power level and lost clocks: what the levels, the trip and the device resets make of them (R443, R445, R449 to R455). -/

namespace Sys2Proof.Machine

theorem exec_zoneTemperatureRead (z : Fin 7) (readings : List Nat) (s : State) :
    exec (.zoneTemperatureRead z readings) s = execZoneTemperatureRead z readings s := rfl
theorem exec_powerWindow (watts : Nat) (s : State) : exec (.powerWindow watts) s = execPowerWindow watts s := rfl
theorem exec_powerLevelFall (s : State) : exec .powerLevelFall s = execPowerLevelFall s := rfl
theorem exec_clockCheck (lost : List Domain) (s : State) : exec (.clockCheck lost) s = execClockCheck lost s := rfl

/-! ### Device resets that an event starts -/

theorem State.holdsScope_warm (s : State) (scope : RungScope) : s.holdsScope scope .warm = (scope == .warm || scope == .cold) := by
  cases scope <;> rfl

theorem State.holdsScope_cold (s : State) (scope : RungScope) : s.holdsScope scope .cold = (scope == .cold) := by
  cases scope <;> rfl

theorem State.warm_free {s : State} (hw : s.warming = false) (hc : s.cooling = false) :
    (s.rcv.rungs.any fun g => s.holdsScope g.scope .warm) = false := by
  refine List.any_eq_false.2 fun g hg => ?_
  have hwarm := List.any_eq_false.1 hw g hg
  have hcold := List.any_eq_false.1 hc g hg
  rw [decide_eq_true_eq] at hwarm hcold
  simp [State.holdsScope_warm, hwarm, hcold]

theorem State.cold_free {s : State} (hc : s.cooling = false) : (s.rcv.rungs.any fun g => s.holdsScope g.scope .cold) = false := by
  refine List.any_eq_false.2 fun g hg => ?_
  have hcold := List.any_eq_false.1 hc g hg
  rw [decide_eq_true_eq] at hcold
  simp [State.holdsScope_cold, hcold]

/-- A warm device reset that no running device reset absorbs. -/
theorem State.startRung_warm_begins {s : State} (hw : s.warming = false) (hc : s.cooling = false) :
    let t := s.startRung .warm false none []
    t.warming = true ∧ t.boot.warm = true ∧ t.slu.admitting = false ∧ t.own = s.own ∧ t.cfg = s.cfg ∧ t.fuse = s.fuse := by
  obtain ⟨hown, hcfg, -, hwarm, hadmit⟩ := s.warmStart_leaves
  have hfuse : s.warmStart.fuse = s.fuse := kept_fuse s.warmStart_kept
  obtain ⟨tel, out, hnote⟩ := s.warmStart.noteRung_eq { scope := .warm, start := s.clk.now, missed := false, engine := none, todo := [] }
  rw [State.startRung_warm false none [] (State.warm_free hw hc) rfl, hnote]
  generalize s.warmStart = w at *
  exact ⟨by simp [State.warming, Rcv.noted], hwarm, hadmit, hown, hcfg, hfuse⟩

/-- A cold reset that no running cold reset absorbs. -/
theorem State.startRung_cold_begins {s : State} (hc : s.cooling = false) :
    let t := s.startRung .cold false none []
    t.cooling = true ∧ t.cfg = Cfg.reset ∧ t.fuse = s.fuse ∧ t.boot.phase = if s.boot.strap = 3#2 then .held else .powerOn := by
  obtain ⟨tel, out, hnote⟩ := (s.coldStart { s.clk with now := 0 } s.boot.strap s.waitingMiss).noteRung_eq
    { scope := .cold, start := 0, missed := false, engine := none, todo := [] }
  rw [State.startRung_cold false none [] (State.cold_free hc) rfl, hnote]
  exact ⟨by simp [State.cooling, Rcv.noted], rfl, rfl, rfl⟩

/-! ### The levels follow -/

/-- The required levels act, with or without a trip: every zone has the level that it requires, and the alert is driven as the levels say. -/
theorem State.applyLevels_leaves (s : State) :
    (s.applyLevels.climate = s.climate ∨ s.applyLevels.climate = s.tripped.climate)
      ∧ (∀ y : Fin 7, s.applyLevels.pwr.zones[y].level = s.applyLevels.required y) ∧ s.applyLevels.pwr.alert = s.applyLevels.alertNow := by
  by_cases hcool : ∀ y, s.required y < 4
  · obtain ⟨hclimate, hsettled⟩ := s.followLevels_leaves
    rw [State.applyLevels_of_cool hcool]
    exact ⟨.inl hclimate, hsettled⟩
  · obtain ⟨y, hy⟩ := not_forall.1 hcool
    obtain ⟨hclimate, hsettled⟩ := s.tripNow.followLevels_leaves
    rw [State.applyLevels_of_hot (Nat.le_of_not_lt hy)]
    refine ⟨?_, hsettled⟩
    cases htrip : s.pwr.trip
    case true =>
      have hstands : s.tripNow = s := if_pos htrip
      exact .inl (hclimate.trans (congrArg State.climate hstands))
    case false => exact .inr (hclimate.trans (State.tripNow_climate htrip))

/-- What stands when the levels act. -/
theorem State.applyLevels_keeps (s : State) : s.applyLevels.cfg = s.cfg ∧ s.applyLevels.own = s.own ∧ s.applyLevels.fuse = s.fuse
    ∧ s.applyLevels.hbm = s.hbm ∧ s.applyLevels.pwr.power = s.pwr.power ∧ s.applyLevels.pwr.nowW = s.pwr.nowW
    ∧ s.applyLevels.pwr.overNow = s.pwr.overNow
    ∧ ∀ y : Fin 7, s.applyLevels.pwr.zones[y].temp = s.pwr.zones[y].temp ∧ s.applyLevels.pwr.zones[y].thermal = s.pwr.zones[y].thermal := by
  have hparts : ∀ u : State, s.applyLevels.climate = u.climate → s.applyLevels.cfg = u.cfg ∧ s.applyLevels.own = u.own
      ∧ s.applyLevels.fuse = u.fuse ∧ s.applyLevels.hbm = u.hbm ∧ s.applyLevels.pwr.power = u.pwr.power
      ∧ s.applyLevels.pwr.nowW = u.pwr.nowW ∧ s.applyLevels.pwr.overNow = u.pwr.overNow
      ∧ ∀ y : Fin 7, s.applyLevels.pwr.zones[y].temp = u.pwr.zones[y].temp ∧ s.applyLevels.pwr.zones[y].thermal = u.pwr.zones[y].thermal := by
    intro u h
    obtain ⟨hcfg, hown, hfuse, hhbm, -, hpower, -⟩ := State.parts_of_climate h
    exact ⟨hcfg, hown, hfuse, hhbm, hpower, congrArg (·.2.2.2.2.1.nowW) h, congrArg (·.2.2.2.2.1.overNow) h, State.zone_of_climate h⟩
  obtain h | h := s.applyLevels_leaves.1
  · exact hparts s h
  · exact hparts s.tripped h

/-! No rung starts or ends while the levels act. -/

theorem State.thermalAborts_rungs (s : State) (ts : List (CtxId × Step)) : (s.thermalAborts ts).rcv.rungs = s.rcv.rungs := by
  refine State.keeps_foldl (fun u : State => u.rcv.rungs) _ (fun u p => ?_) ts s
  split
  case isFalse => rfl
  case isTrue =>
    unfold State.thermalAbort
    dsimp only
    refine (congrArg (·.rcv.rungs) (State.Ended.abortStep ..).outer :).trans ?_
    split <;> rfl

theorem State.followLevels_rungs (s : State) : s.followLevels.rcv.rungs = s.rcv.rungs := by
  have hlevel : ∀ (u : State) (z : Fin 7) (l : Nat), (u.setLevel z l).rcv.rungs = u.rcv.rungs := fun u z l => by
    obtain ⟨levels, tel, h⟩ := u.setLevel_rest z l
    rw [h]
  have hlevels : ∀ u : State, u.setLevels.rcv.rungs = u.rcv.rungs := fun u => by
    unfold State.setLevels
    exact State.keeps_foldl (fun u : State => u.rcv.rungs) (fun v z => v.setLevel z (v.required z)) (fun v z => hlevel v z _) _ u
  have halert : ∀ u : State, u.driveAlert.rcv.rungs = u.rcv.rungs := fun u => by
    unfold State.driveAlert
    split <;> rfl
  unfold State.followLevels
  rw [State.dispatch_rcv, halert, hlevels, State.thermalAborts_rungs]

/-! ### A die steward's reading -/

/-- The state with a zone's reading in its place, before the levels follow. -/
def State.zoneRead (s : State) (z : Fin 7) (hot : Nat) : State := { s with pwr := { s.pwr with
  zones := s.pwr.zones.set z { s.pwr.zones[z] with temp := hot, thermal := zoneLevel z s.pwr.zones[z].thermal hot } } }

theorem State.zoneRead_temp (s : State) (z y : Fin 7) (hot : Nat) :
    (s.zoneRead z hot).pwr.zones[y].temp = if y = z then hot else s.pwr.zones[y].temp := by
  simp only [State.zoneRead, Fin.getElem_fin, Vector.getElem_set, Fin.ext_iff, eq_comm (a := y.val)]
  split <;> rfl

theorem State.zoneRead_thermal (s : State) (z y : Fin 7) (hot : Nat) : (s.zoneRead z hot).pwr.zones[y].thermal
    = if y = z then zoneLevel z s.pwr.zones[z].thermal hot else s.pwr.zones[y].thermal := by
  simp only [State.zoneRead, Fin.getElem_fin, Vector.getElem_set, Fin.ext_iff, eq_comm (a := y.val)]
  split <;> rfl

theorem execZoneTemperatureRead_of_on {s : State} (hp : s.powered = true) {z : Fin 7} {readings : List Nat} (hz : z ∉ zonesH)
    (hsome : readings ≠ []) (hlen : isCompute z = true → readings.length = 12) :
    execZoneTemperatureRead z readings s = .next (s.zoneRead z (readings.foldl max 0)).applyLevels.endTrip := by
  unfold execZoneTemperatureRead
  rw [State.whenPowered_of_on hp, if_neg]
  · rfl
  · rintro (h | h | ⟨hc, h⟩)
    exacts [hz h, hsome h, h (hlen hc)]

theorem State.cooled_of_warm_zone {s : State} {y : Fin 7} (h : 95 ≤ s.pwr.zones[y].temp) : s.cooled = false := by
  refine Bool.and_eq_false_iff.2 (.inr (List.all_eq_false.2 ⟨s.pwr.zones[y], ?_, ?_⟩))
  · exact Vector.mem_toList_iff.2 (Vector.getElem_mem _)
  · simpa using h

theorem State.cooled_of_cool {s : State} (hstacks : ∀ k : Fin 8, s.hbm.temps[k] < 95) (hzones : ∀ y : Fin 7, s.pwr.zones[y].temp < 95) :
    s.cooled = true := by
  refine Bool.and_eq_true_iff.2 ⟨List.all_eq_true.2 fun n hn => ?_, List.all_eq_true.2 fun q hq => ?_⟩
  · obtain ⟨k, hk, rfl⟩ := Vector.mem_iff_getElem.1 (Vector.mem_toList_iff.1 hn)
    exact decide_eq_true (hstacks ⟨k, hk⟩)
  · obtain ⟨y, hy, rfl⟩ := Vector.mem_iff_getElem.1 (Vector.mem_toList_iff.1 hq)
    exact decide_eq_true (hzones ⟨y, hy⟩)

/-- While a trip stands, the levels act without another. -/
theorem State.applyLevels_of_trip {s : State} (h : s.pwr.trip = true) : s.applyLevels = s.followLevels := by
  by_cases hcool : ∀ y, s.required y < 4
  · exact State.applyLevels_of_cool hcool
  · obtain ⟨y, hy⟩ := not_forall.1 hcool
    rw [State.applyLevels_of_hot (Nat.le_of_not_lt hy), show s.tripNow = s from if_pos h]

/-- A trip whose last hot zone has cooled ends in a warm device reset (R449). -/
theorem State.applyLevels_endTrip_warm {s : State} (htrip : s.pwr.trip = true) (hcooled : s.cooled = true) (hw : s.warming = false)
    (hc : s.cooling = false) :
    let t := s.applyLevels.endTrip
    t.warming = true ∧ t.boot.warm = true ∧ t.slu.admitting = false ∧ t.own = s.own ∧ t.cfg = s.cfg ∧ t.fuse = s.fuse := by
  intro t
  have ht : t = s.followLevels.endTrip := congrArg State.endTrip (State.applyLevels_of_trip htrip)
  obtain ⟨hcfg, hown, hfuse, hhbm, htrip', -⟩ := State.parts_of_climate s.followLevels_leaves.1
  have hzones := State.zone_of_climate s.followLevels_leaves.1
  have hrungs := s.followLevels_rungs
  rw [ht]
  clear_value t
  generalize s.followLevels = u at *
  have hw' : u.warming = false := (congrArg (fun l => l.any fun g => decide (g.scope = .warm)) hrungs).trans hw
  have hc' : u.cooling = false := (congrArg (fun l => l.any fun g => decide (g.scope = .cold)) hrungs).trans hc
  have hcooled' : u.cooled = true := by
    obtain ⟨hs, hz⟩ := Bool.and_eq_true_iff.1 hcooled
    refine State.cooled_of_cool (fun k => ?_) fun y => ?_
    · rw [hhbm]
      exact of_decide_eq_true (List.all_eq_true.1 hs _ (Vector.mem_toList_iff.2 (Vector.getElem_mem _)))
    · rw [(hzones y).1]
      exact of_decide_eq_true (List.all_eq_true.1 hz _ (Vector.mem_toList_iff.2 (Vector.getElem_mem _)))
  have hend : u.endTrip = u.startRung .warm false none [] := by
    refine if_pos ?_
    rw [htrip', htrip, hcooled', hw', hc']
    rfl
  obtain ⟨h1, h2, h3, hown', hcfg', hfuse'⟩ := State.startRung_warm_begins hw' hc'
  rw [hend]
  exact ⟨h1, h2, h3, hown'.trans hown, hcfg'.trans hcfg, hfuse'.trans hfuse⟩

/-! ### Windows, the fall of the power level, and clocks -/

theorem execPowerWindow_leaves {s : State} (hp : s.powered = true) (watts : Nat) : ∃ u : State, execPowerWindow watts s = .next u.applyLevels
    ∧ u.pwr.nowW = watts ∧ u.pwr.overNow = decide (s.cfg.pwrLimit < watts)
    ∧ u.pwr.power = (if s.cfg.pwrLimit < watts ∧ (s.pwr.power = 0 ∨ s.pwr.raised + 10000000 ≤ s.clk.now ∧ s.pwr.power < 3)
        then s.pwr.power + 1 else s.pwr.power)
    ∧ u.cfg = s.cfg ∧ u.own = s.own ∧ u.hbm = s.hbm := by
  unfold execPowerWindow
  rw [State.whenPowered_of_on hp]
  refine ⟨_, rfl, rfl, rfl, ?_, rfl, rfl, rfl⟩
  simp only [Bool.and_eq_true, Bool.or_eq_true, decide_eq_true_eq, beq_iff_eq]

theorem execPowerLevelFall_of_quiet {s : State} (hp : s.powered = true) (hpower : s.pwr.power ≠ 0) (h95 : s.pwr.over95 + 10000000 ≤ s.clk.now)
    (hraised : s.pwr.raised + 10000000 ≤ s.clk.now) : execPowerLevelFall s = .next (State.applyLevels { s with
      pwr := { s.pwr with power := s.pwr.power - 1, raised := s.clk.now, over95 := s.clk.now } }) := by
  unfold execPowerLevelFall
  rw [State.whenPowered_of_on hp, if_neg]
  rintro (h | h | h)
  exacts [hpower h, Nat.not_lt.2 h95 h, Nat.not_lt.2 hraised h]

/-- The state in which one clock was lost, before any device reset. -/
def State.clockLost (s : State) (d : Domain) : State :=
  { s.countClock.loseClock d with pwr := { (s.countClock.loseClock d).pwr with lostClk := [d] } }

theorem execClockCheck_one {s : State} (hp : s.powered = true) (hlost : s.pwr.lostClk = []) (d : Domain) :
    execClockCheck [d] s = .next (if d = .management then (s.clockLost d).startRung .cold false none []
      else if isWarmDomain d then (s.clockLost d).startRung .warm false none [] else s.clockLost d) := by
  have hnew : ([d].filter fun x => !s.pwr.lostClk.contains x) = [d] := by rw [hlost]; rfl
  unfold execClockCheck
  rw [State.whenPowered_of_on hp]
  dsimp only
  rw [hnew]
  simp only [List.foldl_cons, List.foldl_nil, List.isEmpty_cons, Bool.or_false, List.contains_cons, List.contains_nil, List.any_cons,
    List.any_nil, beq_iff_eq, eq_comm (a := Domain.management)]
  rfl

/-- A lost clock of the arithmetic or the mesh is only counted before the device resets. -/
theorem State.clockLost_of_reset {d : Domain} (h : d = .management ∨ isWarmDomain d = true) (s : State) :
    s.clockLost d = { s.countClock with pwr := { s.countClock.pwr with lostClk := [d] } } := by
  cases d
  case management | arithmetic | mesh => rfl
  all_goals simp [isWarmDomain] at h

/-- Settles O38: each event gives the zones a reading or the device a power level, and the levels act on it; a trip that cools, and a lost clock,
end in a device reset. -/
theorem powerAndClocksFollow : Obligations.PowerAndClocksFollow := by
  refine ⟨fun s hp => ?levels, fun s hp => ?clocks⟩
  case levels =>
    intro settled
    refine ⟨?zone, fun watts => ?window, fun hpower h95 hraised => ?fall⟩
    case zone =>
      intro z readings hz hsome hlen hot thermal
      obtain ⟨hcfg, hown, hfuse, hhbm, hpow, -, -, hzones⟩ := (s.zoneRead z hot).applyLevels_keeps
      obtain ⟨hclimate, hsettled⟩ := (s.zoneRead z hot).applyLevels_leaves
      have htemp : (s.zoneRead z hot).applyLevels.pwr.zones[z].temp = hot := by
        rw [(hzones z).1, State.zoneRead_temp, if_pos rfl]
      rw [exec_zoneTemperatureRead, execZoneTemperatureRead_of_on hp hz hsome hlen]
      refine ⟨fun htrip hpower hcool => ?cool, fun htrip hhot hfour => ?trips, fun htrip hhot hothers hstacks hw hc => ?ends⟩
      case cool =>
        have hlevels := State.applyLevels_of_cool (s := s.zoneRead z hot) fun y =>
          State.required_lt_four ((s.zoneRead_thermal z y hot).trans_lt (hcool y)) hpower
        have htripped : (s.zoneRead z hot).applyLevels.pwr.trip = false := by
          obtain ⟨-, -, -, -, h, -⟩ := State.parts_of_climate (s.zoneRead z hot).followLevels_leaves.1
          rw [hlevels]
          exact h.trans htrip
        rw [State.endTrip_of_calm (.inl htripped)]
        refine ⟨_, rfl, htemp, fun y => (hzones y).2.trans (s.zoneRead_thermal z y hot), fun y hy => ?_, hsettled, hpow, htripped, hcfg, hown,
          hfuse, hhbm⟩
        rw [(hzones y).1, State.zoneRead_temp, if_neg hy]
      case trips =>
        obtain ⟨y, hy⟩ := hfour
        have hlevels := State.applyLevels_of_hot (s := s.zoneRead z hot) (z := y)
          ((hy.trans_eq (s.zoneRead_thermal z y hot).symm).trans (State.thermal_le_required ..))
        have hkeeps := (s.zoneRead z hot).tripNow.followLevels_leaves.1.trans (State.tripNow_climate (s := s.zoneRead z hot) htrip)
        rw [← hlevels] at hkeeps
        obtain ⟨-, -, -, -, htripped, -, hadmit⟩ := State.parts_of_climate hkeeps
        rw [State.endTrip_of_calm (.inr (State.cooled_of_warm_zone (hhot.trans_eq htemp.symm)))]
        refine ⟨_, rfl, htemp, htripped, ?_, hadmit, hsettled, hcfg, hown, hfuse, hhbm⟩
        unfold State.faultOut
        rw [htripped]
        simp [State.tripped]
      case ends =>
        refine ⟨_, rfl, State.applyLevels_endTrip_warm (s := s.zoneRead z hot) htrip (State.cooled_of_cool hstacks fun y => ?_) hw hc⟩
        rw [State.zoneRead_temp]
        split
        case isTrue => exact hhot
        case isFalse hy => exact hothers y hy
    case window =>
      obtain ⟨u, hexec, hnow, hover, hpower, hcfg, hown, hhbm⟩ := execPowerWindow_leaves hp watts
      rw [exec_powerWindow]
      obtain ⟨kcfg, kown, -, khbm, kpower, know, kover, -⟩ := u.applyLevels_keeps
      exact ⟨u.applyLevels, hexec, know.trans hnow, kover.trans hover, kpower.trans hpower, u.applyLevels_leaves.2, kcfg.trans hcfg,
        kown.trans hown, khbm.trans hhbm⟩
    case fall =>
      rw [exec_powerLevelFall, execPowerLevelFall_of_quiet hp hpower h95 hraised]
      obtain ⟨hcfg, hown, -, hhbm, hpow, -, -, hzones⟩ := State.applyLevels_keeps { s with
        pwr := { s.pwr with power := s.pwr.power - 1, raised := s.clk.now, over95 := s.clk.now } }
      exact ⟨_, rfl, hpow, (State.applyLevels_leaves _).2, hzones, hcfg, hown, hhbm⟩
  case clocks =>
    refine ⟨?none, fun k hlost => ?stack, fun hlost hc => ?management, fun hlost hw hc d hd => ?warm⟩
    case none =>
      rw [exec_clockCheck, execClockCheck, State.whenPowered_of_on hp]
      simp
    case stack =>
      rw [exec_clockCheck, execClockCheck_one hp hlost]
      rfl
    case management =>
      rw [exec_clockCheck, execClockCheck_one hp hlost, if_pos rfl, State.clockLost_of_reset (.inl rfl)]
      exact ⟨_, rfl, State.startRung_cold_begins hc⟩
    case warm =>
      have hother : d ≠ .management := by
        rintro rfl
        cases hd
      rw [exec_clockCheck, execClockCheck_one hp hlost, if_neg hother, if_pos hd, State.clockLost_of_reset (.inr hd)]
      exact ⟨_, rfl, State.startRung_warm_begins hw hc⟩

end Sys2Proof.Machine
end

section
/-! PROOFS. Repeats, recomputes and votes: what decides the outcome of a mismatch, and where its record goes (R346, R347, R352 to R360,
R421). -/

namespace Sys2Proof.Machine

theorem exec_checkerRepeat (again : Bool) (s : State) : exec (.checkerRepeat again) s = execCheckerRepeat again s := rfl
theorem exec_repeatPending (s : State) : exec .repeatPending s = execRepeatPending s := rfl
theorem exec_eddyRecomputeComplete (c : CtxId) (step : Nat) (fails : List Bool) (u : Option SampleRef) (address : Bool) (s : State) :
    exec (.eddyRecomputeComplete c step fails u address) s = execEddyRecomputeComplete c step fails u address s := rfl
theorem exec_eddyVote (agrees : Bool) (s : State) : exec (.eddyVote agrees) s = execEddyVote agrees s := rfl
theorem exec_signatureRecordExport (s : State) : exec .signatureRecordExport s = execSignatureRecordExport s := rfl

/-! ### Records, and units that leave service -/

/-- A record as it stands in the queue: with its number and its time. -/
def State.stamped (s : State) (g : Sig) : Sig := { g with seq := s.intg.recSeq + 1, time := s.clk.now }

theorem State.retireSoon_rest (s : State) (u : HwUnit) : s.retireSoon u = { s with hw := (s.retireSoon u).hw } := by
  unfold State.retireSoon
  split <;> rfl

theorem State.mem_retireSoon (s : State) (u : HwUnit) : u ∈ (s.retireSoon u).hw.pendingOut := by
  unfold State.retireSoon
  split
  case isTrue h => exact List.contains_iff_mem.1 h
  case isFalse => exact List.mem_append_right _ (List.mem_singleton_self _)

/-! ### Repeats (R346) -/

theorem Repeat.final_outcome (q : Repeat) (outcome : Nat) : (q.final outcome).outcome = some outcome := by
  unfold Repeat.final
  split <;> rfl

/-- How often a unit has been transient within the last 24 h. -/
def State.transientsOf (s : State) (u : HwUnit) : Nat :=
  (s.intg.transients.filter fun v => v.1 == u && decide (s.clk.now < v.2 + 86400000000000)).length

/-- A repeat's unit is a transient. -/
def State.foundTransient (s : State) (q : Repeat) : State :=
  State.record { s with intg := { s.intg with
    repeats := s.intg.repeats.erase q, transient := satInc s.intg.transient, transients := (q.unit, s.clk.now) :: s.intg.transients } } (q.final 1)

/-- The record of a permanent unit, with OUTCOME 2 or 3. -/
def State.recordPermanent (s : State) (q : Repeat) (outcome : Nat) : State :=
  State.record { s with intg := { s.intg with
    repeats := s.intg.repeats.erase q, permanent := satInc s.intg.permanent } } (q.final outcome)

/-- A repeat's unit is permanent. -/
def State.foundPermanent (s : State) (q : Repeat) (outcome : Nat) : State := (s.recordPermanent q outcome).retireSoon q.unit

theorem State.foundPermanent_leaves (s : State) (q : Repeat) (outcome : Nat) :
    let t := s.foundPermanent q outcome
    t.intg = (s.recordPermanent q outcome).intg ∧ q.unit ∈ t.hw.pendingOut ∧ t = { s with intg := t.intg, hw := t.hw, out := t.out } := by
  intro t
  have hrest : t = { s.recordPermanent q outcome with hw := t.hw } := State.retireSoon_rest ..
  have hout : q.unit ∈ t.hw.pendingOut := State.mem_retireSoon ..
  clear_value t
  refine ⟨?_, hout, ?_⟩
  · rw [hrest]
  · rw [hrest]
    rfl

section
variable {s : State} (hup : s.up = true)
include hup

theorem execCheckerRepeat_of_found {q : Repeat} (hq : s.intg.repeats.find? s.repeatIdle = some q) (again : Bool) :
    execCheckerRepeat again s = .next (if again = false ∧ s.transientsOf q.unit < 2 then s.foundTransient q
      else s.foundPermanent q (if again then 2 else 3)) := by
  unfold execCheckerRepeat
  rw [State.whenUp_of_up hup, hq]
  refine congrArg Host.Outcome.next ?_
  change (if (if again then 2 else if 2 ≤ s.transientsOf q.unit then 3 else 1) = 1 then s.foundTransient q
    else s.foundPermanent q (if again then 2 else if 2 ≤ s.transientsOf q.unit then 3 else 1)) = _
  by_cases hmany : 2 ≤ s.transientsOf q.unit
  · cases again <;> simp [hmany, Nat.not_lt.2 hmany]
  · cases again <;> simp [hmany, Nat.lt_of_not_le hmany]

theorem execRepeatPending_of_found {q : Repeat}
    (hq : s.intg.repeats.find? (fun q => q.pending.isNone && decide (q.since + 100000000 ≤ s.clk.now)) = some q) :
    execRepeatPending s = .next { s.record { q.sig with outcome := some 0 } with
      intg := { (s.record { q.sig with outcome := some 0 }).intg with
        repeats := s.intg.repeats.map fun u => if u == q then { u with pending := some (s.intg.recSeq + 1) } else u } } := by
  unfold execRepeatPending
  rw [State.whenUp_of_up hup, hq]
  rfl

end

/-! ### Recomputes: verdicts on checkpoints change no step and no count -/

theorem State.Mirrors.judged (c : CtxId) (s : State) (kind : Nat) (step : BitVec 64) :
    State.Mirrors c s ((s.sendVerdict c kind step).modCtx c fun x => { x with ckpts := x.ckpts.filter fun q => q.step != step }) :=
  (State.Mirrors.sendVerdict ..).trans (.of_modCtx _ _ fun _ => rfl)

theorem State.Mirrors.cleanUpTo (c : CtxId) (s : State) (step : Nat) : State.Mirrors c s (s.cleanUpTo c step) := by
  refine .foldl _ (fun u k => ?_) _ s
  dsimp only
  split
  · exact .judged ..
  · exact .refl ..

theorem State.Mirrors.discardFrom (c : CtxId) (s : State) (d : Nat) : State.Mirrors c s (s.discardFrom c d) := by
  refine .foldl _ (fun u k => ?_) _ s
  dsimp only
  split
  · split
    · exact (State.Mirrors.judged ..).trans (.dropStream ..)
    · exact .judged ..
  · exact .refl ..

theorem State.cleanUpTo_of_none {s : State} {c : CtxId} (h : (s.ctx c).ckpts = []) (step : Nat) : s.cleanUpTo c step = s := by
  unfold State.cleanUpTo
  rw [h]
  rfl

/-- The recomputes of a step have ended with every known-answer test right. -/
def State.recomputed (s : State) (q : Recompute) : State := { s with intg := { s.intg with
  pending := s.intg.pending.erase q, katFails := satAdd s.intg.katFails 0, samples := satAdd s.intg.samples q.units.length } }

/-- The engine of a sampled unit, as its recompute knows it. -/
def Recompute.engineOf (q : Recompute) (u : SampleRef) : Option Engine := (q.engines.find? fun e => e.1 == u.idx).map (·.2)

/-- A unit of a recompute disagrees: confirmed where an address names the engine, or to be voted on. -/
def State.disagrees (s : State) (c : CtxId) (step : Nat) (q : Recompute) (u : SampleRef) (address : Bool) : State :=
  if address then (s.recomputed q).confirm c step u (q.engineOf u) (q.engineOf u)
  else { s.recomputed q with intg := { (s.recomputed q).intg with
    votes := s.intg.votes ++ [{ ctx := c, step := step, unit := u, engine := q.engineOf u }] } }

section
variable {s : State} (hup : s.up = true) {c : CtxId} {step : Nat} {q : Recompute}
  (hq : s.intg.pending.find? (fun r => r.ctx == c && r.step == step) = some q)
include hup hq

theorem execEddyRecomputeComplete_of_found (u : Option SampleRef) (address : Bool) :
    execEddyRecomputeComplete c step [] u address s = .next (u.elim
      ((if q.sweep then (s.recomputed q).coverTail c q.digest else s.recomputed q).cleanUpTo c step)
      fun u => s.disagrees c step q u address) := by
  have hfails : (s.allOxbows.map fun o => b2n (katOf [] o).1 + b2n (katOf [] o).2).sum = 0 :=
    List.sum_eq_zero fun n hn => by
      obtain ⟨o, -, rfl⟩ := List.mem_map.1 hn
      rfl
  have hdead : (s.allOxbows.filter fun o => (katOf [] o).2) = [] := List.filter_eq_nil_iff.2 fun _ _ => Bool.false_ne_true
  unfold execEddyRecomputeComplete
  rw [State.whenUp_of_up hup, hq]
  refine congrArg Host.Outcome.next ?_
  dsimp only
  rw [hfails, hdead]
  cases u <;> rfl

end

/-! ### A confirmed mismatch (R356) -/

/-- One step of the context of a confirmed mismatch ends. -/
def State.confirmedStep (c : CtxId) (u : State) (t : Step) : State :=
  if ((u.ctx c).step? t.uid).isSome then u.abortStep c t.uid .abortedFault .fault 0 else u

theorem State.Ended.confirmedStep (c : CtxId) (u : State) (t : Step) : State.Ended c u (State.confirmedStep c u t) := by
  unfold State.confirmedStep
  split
  · exact .abortStep ..
  · exact .refl ..

theorem State.confirmedStep_clears {c : CtxId} {u : State} {v : Step} (hd : (u.ctx c).Distinct)
    (hv : v ∈ ((State.confirmedStep c u v).ctx c).steps) : v.state = .committed := by
  have hfind := hd.step? ((State.Ended.confirmedStep c u v).steps v hv)
  by_contra hlive
  have hturn : State.confirmedStep c u v = u.abortStep c v.uid .abortedFault .fault 0 := if_pos (by rw [hfind]; rfl)
  rw [hturn] at hv
  exact State.abortStep_gone u c v.uid _ _ _ _ hfind hlive v hv rfl

/-- The state in which a confirmed mismatch is recorded: counted, the steps of its context ended, its checkpoints discarded. -/
def State.confirmed (s : State) (c : CtxId) (d : Nat) : State :=
  ((s.ctx c).steps.foldl (State.confirmedStep c) { s with intg := { s.intg with mismatches := satInc s.intg.mismatches } }).discardFrom c d

theorem State.confirmed_leaves {s : State} (hn : s.Numbered) (c : CtxId) (d : Nat) :
    let t := s.confirmed c d
    t.intg = { s.intg with mismatches := satInc s.intg.mismatches } ∧ (∀ v ∈ (t.ctx c).steps, v.state = .committed)
      ∧ t.cfg = s.cfg ∧ t.own = s.own := by
  intro t
  have he := State.Ended.foldl _ (State.Ended.confirmedStep c) (s.ctx c).steps
    { s with intg := { s.intg with mismatches := satInc s.intg.mismatches } }
  have hclears := State.Ended.foldl_clears (State.Ended.confirmedStep c) (fun _ _ => State.confirmedStep_clears) (s.ctx c).steps
    (u := { s with intg := { s.intg with mismatches := satInc s.intg.mismatches } }) (hn.distinct c)
  have hm : State.Mirrors c _ t := .discardFrom ..
  have hsteps := hm.steps
  have hrest := hm.rest
  clear_value t
  generalize (s.ctx c).steps.foldl (State.confirmedStep c) _ = u at *
  refine ⟨?_, fun v hv => ?_, ?_, ?_⟩
  · rw [hrest]
    exact congrArg (·.intg) he.outer
  · rw [hsteps] at hv
    exact hclears v hv (he.steps v hv)
  · rw [hrest]
    exact congrArg (·.cfg) he.outer
  · rw [hrest]
    exact congrArg (·.own) he.outer

/-- The record of a confirmed mismatch joins the others; the engine it names is noted, or leaves service. -/
theorem State.confirm_eq (s : State) (c : CtxId) (d : Nat) (u : SampleRef) (engine named : Option Engine) :
    ∃ (g : Sig) (areas : Vector Bool 8) (drops : Reg) (localised : List Engine) (hw : Hw) (out : List Output),
      s.confirm c d u engine named = State.dispatch { s.confirmed c d with
        intg := { (s.confirmed c d).intg with
          areas := areas, evDrops := drops, localised := localised, recSeq := (s.confirmed c d).intg.recSeq + 1
          records := (s.confirmed c d).intg.records ++ [g] }
        hw := hw, out := out } ∧ g.kind = 2 ∧ g.outcome = some 5 ∧ g.step = some d := by
  unfold State.confirm
  extract_lets x region m first intg s1 s2 s3 empty g e s4 intg4 s5
  have h3 : s3 = s.confirmed c d := rfl
  have hg : g.kind = 2 ∧ g.outcome = some 5 ∧ g.step = some d := ⟨rfl, rfl, rfl⟩
  obtain ⟨areas, drops, evidence, evstate, area, he⟩ : ∃ areas drops evidence evstate area,
      e = ({ s3 with intg := { s3.intg with areas := areas, evDrops := drops } },
        { g with evidence := evidence, evstate := evstate, area := area }) := State.keepEvidence_rest ..
  have h4 : s4 = e.1.record e.2 := rfl
  clear_value s4 e g empty s3
  have h5 : ∃ localised hw, s5 = { s4 with intg := { s4.intg with localised := localised }, hw := hw } := by
    unfold s5
    split
    · split
      · rw [State.retireSoon_rest]
        exact ⟨s4.intg.localised, _, rfl⟩
      · exact ⟨_, s4.hw, rfl⟩
    · exact ⟨s4.intg.localised, s4.hw, rfl⟩
  clear_value s5
  subst h3
  obtain ⟨localised, hw, rfl⟩ := h5
  rw [he] at h4
  subst h4
  exact ⟨_, areas, drops, localised, hw, _, rfl, hg⟩

theorem State.dispatch_committed {s : State} {c : CtxId} (h : ∀ v ∈ (s.ctx c).steps, v.state = .committed) :
    ∀ v ∈ (s.dispatch.ctx c).steps, v.state = .committed := by
  intro v hv
  have hmem : v.still ∈ (s.dispatch.ctx c).still.steps := List.mem_map_of_mem hv
  rw [State.dispatch_ctx] at hmem
  obtain ⟨z, hz, e⟩ := List.mem_map.1 hmem
  exact (congrArg (·.state) e).symm.trans (h z hz)

theorem State.confirm_leaves {s : State} (hn : s.Numbered) (c : CtxId) (d : Nat) (u : SampleRef) (engine named : Option Engine) :
    let t := s.confirm c d u engine named
    t.intg.mismatches = satInc s.intg.mismatches ∧ t.intg.checkers = s.intg.checkers ∧ t.intg.votes = s.intg.votes
      ∧ (∀ v ∈ (t.ctx c).steps, v.state = .committed) ∧ (∃ g ∈ t.intg.records, g.kind = 2 ∧ g.outcome = some 5 ∧ g.step = some d)
      ∧ t.cfg = s.cfg ∧ t.own = s.own := by
  obtain ⟨hintg, hsteps, hcfg, hown⟩ := State.confirmed_leaves hn c d
  obtain ⟨g, areas, drops, localised, hw, out, ht, hg⟩ := s.confirm_eq c d u engine named
  intro t
  change t = _ at ht
  clear_value t
  subst ht
  generalize s.confirmed c d = w at *
  refine ⟨?_, ?_, ?_, fun v hv => ?_, ⟨g, ?_, hg⟩, ?_, ?_⟩
  · rw [State.dispatch_intg, hintg]
  · rw [State.dispatch_intg, hintg]
  · rw [State.dispatch_intg, hintg]
  · refine State.dispatch_committed ?_ v hv
    exact hsteps
  · rw [State.dispatch_intg]
    exact List.mem_append_right _ (List.mem_singleton_self _)
  · rw [State.dispatch_cfg]
    exact hcfg
  · rw [State.dispatch_own]
    exact hown

/-! ### Votes (R356) -/

/-- The checker is at fault: counted and recorded, with the checking unit to be repeated. -/
theorem execEddyVote_of_checker {s : State} (hup : s.up = true) {v : Vote} {rest : List Vote} (hv : s.intg.votes = v :: rest) :
    ∃ (g : Sig) (areas : Vector Bool 8) (drops : Reg) (repeats : List Repeat) (out : List Output),
      execEddyVote true s = .next (State.cleanUpTo { s with
        intg := { s.intg with
          votes := rest, checkers := satInc s.intg.checkers, areas := areas, evDrops := drops, repeats := repeats
          recSeq := s.intg.recSeq + 1, records := s.intg.records ++ [g] }
        out := out } v.ctx v.step) ∧ g.kind = 2 ∧ g.outcome = some 4 := by
  unfold execEddyVote
  rw [State.whenUp_of_up hup, hv]
  dsimp -zeta only
  extract_lets intg s1 x region empty g counts s2 e emptyUnit kept intg3 s3
  have hg : g.kind = 2 ∧ g.outcome = some 4 := ⟨rfl, rfl⟩
  obtain ⟨areas, drops, evidence, evstate, area, he⟩ : ∃ areas drops evidence evstate area,
      e = ({ s2 with intg := { s2.intg with areas := areas, evDrops := drops } },
        { g with evidence := evidence, evstate := evstate, area := area }) := State.keepEvidence_rest ..
  have h2 : s2 = { s with intg := { s.intg with votes := rest, checkers := satInc s.intg.checkers } } := rfl
  clear_value e s2 counts g empty
  have h3 : ∃ repeats, s3 = { e.1 with intg := { e.1.intg with repeats := repeats } } := by
    unfold s3
    split
    · exact ⟨_, rfl⟩
    · exact ⟨e.1.intg.repeats, rfl⟩
  clear_value s3
  obtain ⟨repeats, rfl⟩ := h3
  subst he h2
  exact ⟨_, areas, drops, repeats, _, rfl, hg⟩

theorem execEddyVote_of_engine {s : State} (hup : s.up = true) {v : Vote} {rest : List Vote} (hv : s.intg.votes = v :: rest) :
    execEddyVote false s
      = .next (State.confirm { s with intg := { s.intg with votes := rest } } v.ctx v.step v.unit v.engine none) := by
  unfold execEddyVote
  rw [State.whenUp_of_up hup, hv]
  rfl

/-! ### A record leaves (R360, R421) -/

/-- The ring item of a record: its length, then its bytes. -/
def State.ringItem (s : State) (g : Sig) : List Byte :=
  leBytes 4 (sigBytes s.fuse.control true g).length ++ sigBytes s.fuse.control true g

/-- The oldest record has left for INTG_LASTREC, and for the ring where one is configured. -/
theorem execSignatureRecordExport_of_record {s : State} (hp : s.powered = true) {g : Sig} {rest : List Sig} (hg : s.intg.records = g :: rest) :
    ∃ u : State, execSignatureRecordExport s = .next (u.journalSig g (sigBytes s.fuse.control false g))
      ∧ u = { s with intg := u.intg, out := u.out } ∧ u.intg.records = rest ∧ u.intg.lastRec = sigBytes s.fuse.control false g
      ∧ (s.cfg.ringLog2 = 0 → u.out = s.out ∧ u.intg.ringCount = s.intg.ringCount)
      ∧ (s.cfg.ringLog2 ≠ 0 → u.intg.ringCount = s.intg.ringCount + (s.ringItem g).length
          ∧ .hostWrite (s.cfg.tailHi.toNat * 2 ^ 32 + s.cfg.tailLo.toNat) (leBytes 8 u.intg.ringCount) ∈ u.out) := by
  unfold execSignatureRecordExport
  rw [State.whenPowered_of_on hp, hg]
  dsimp only
  by_cases hring : s.cfg.ringLog2 = 0
  · rw [if_pos hring]
    exact ⟨_, rfl, rfl, rfl, rfl, fun _ => ⟨rfl, rfl⟩, fun h => absurd hring h⟩
  · rw [if_neg hring]
    refine ⟨_, rfl, rfl, rfl, rfl, fun h => absurd h hring, fun _ => ⟨rfl, ?_⟩⟩
    exact List.mem_append_right _ (List.mem_append_right _ (List.mem_singleton_self _))

theorem State.journalSig_leaves (u : State) (g : Sig) (bs : List Byte) :
    let t := u.journalSig g bs
    t = { u with boot := t.boot }
      ∧ (g.journalled = true → entryPages bs.length * 256 ≤ u.allowanceNow → t.boot.queue = u.boot.queue ++ [.signature (bs.take 4072)])
      ∧ (g.journalled = true → u.allowanceNow < entryPages bs.length * 256 →
          t.boot.queue = u.boot.queue ∧ t.boot.jrnDrops = satInc u.boot.jrnDrops)
      ∧ (g.journalled = false → t.boot = u.boot) := by
  unfold State.journalSig
  cases hj : g.journalled
  case false => exact ⟨rfl, nofun, nofun, fun _ => rfl⟩
  case true =>
    rw [if_pos rfl]
    dsimp only
    by_cases hfits : entryPages bs.length * 256 ≤ u.allowanceNow
    · rw [if_pos hfits]
      exact ⟨rfl, fun _ _ => rfl, fun _ h => absurd hfits (Nat.not_le.2 h), nofun⟩
    · rw [if_neg hfits]
      exact ⟨rfl, fun _ h => absurd h hfits, fun _ _ => ⟨rfl, rfl⟩, nofun⟩

/-! ### Together -/

/-- Settles O59: each event's equation, with what a record, a unit's retirement and a confirmation leave. -/
theorem eddyDecides : Obligations.EddyDecides := by
  intro s
  refine ⟨?again, ?pending, ?recompute, ?vote, ?leaves⟩
  case again =>
    intro q again hup hq before
    have hexec := execCheckerRepeat_of_found hup hq again
    rw [exec_checkerRepeat]
    by_cases h : again = false ∧ s.transientsOf q.unit < 2
    · rw [if_pos h] at hexec
      obtain ⟨rfl, hfew⟩ := h
      refine ⟨_, s.stamped (q.final 1), hexec, rfl, rfl, ?_, ?_, ?_, ?_, rfl⟩
      · exact (q.final_outcome 1).trans (congrArg some (if_neg (Nat.not_le.2 hfew)).symm)
      · exact (if_pos ⟨rfl, hfew⟩).symm
      · exact (if_pos ⟨rfl, hfew⟩).symm
      · exact fun h => h.elim nofun fun h => absurd hfew (Nat.not_lt.2 h)
    · rw [if_neg h] at hexec
      obtain ⟨hintg, hout, hrest⟩ := s.foundPermanent_leaves q (if again then 2 else 3)
      refine ⟨_, s.stamped (q.final (if again then 2 else 3)), hexec, ?_, ?_, ?_, ?_, ?_, fun _ => hout, hrest⟩
      · rw [hintg]
        rfl
      · rw [hintg]
        rfl
      · refine (q.final_outcome _).trans (congrArg some ?_)
        cases again
        case true => rfl
        case false => exact (if_pos (Nat.le_of_not_lt fun hfew => h ⟨rfl, hfew⟩)).symm
      · rw [hintg]
        exact (if_neg h).symm
      · rw [hintg]
        exact (if_neg h).symm
  case pending =>
    intro q hup hq
    rw [exec_repeatPending, execRepeatPending_of_found hup hq]
    exact ⟨_, s.stamped { q.sig with outcome := some 0 }, rfl, rfl, rfl, rfl, rfl⟩
  case recompute =>
    intro c step q hup hq rest
    refine ⟨fun hsweep hnone => ?agrees, fun u => ?voted, fun u hn => ?named⟩
    case agrees =>
      rw [exec_eddyRecomputeComplete, execEddyRecomputeComplete_of_found hup hq, Option.elim_none, hsweep, if_neg Bool.false_ne_true]
      exact congrArg Host.Outcome.next (State.cleanUpTo_of_none (s := s.recomputed q) hnone step)
    case voted =>
      rw [exec_eddyRecomputeComplete, execEddyRecomputeComplete_of_found hup hq]
      rfl
    case named =>
      obtain ⟨hcount, -, -, hsteps, ⟨g, hg, hkind⟩, hcfg, hown⟩ :=
        State.confirm_leaves (s := s.recomputed q) hn c step u (q.engineOf u) (q.engineOf u)
      rw [exec_eddyRecomputeComplete, execEddyRecomputeComplete_of_found hup hq]
      exact ⟨_, rfl, hcount, hsteps, ⟨g, hg, hkind⟩, hcfg, hown⟩
  case vote =>
    intro v rest hup hv
    refine ⟨?checker, fun hn => ?engine⟩
    case checker =>
      obtain ⟨g, areas, drops, repeats, out, hexec, hg⟩ := execEddyVote_of_checker hup hv
      rw [exec_eddyVote, hexec]
      refine ⟨_, rfl, ?_⟩
      have hm := State.Mirrors.cleanUpTo v.ctx { s with
        intg := { s.intg with
          votes := rest, checkers := satInc s.intg.checkers, areas := areas, evDrops := drops, repeats := repeats
          recSeq := s.intg.recSeq + 1, records := s.intg.records ++ [g] }
        out := out } v.step
      generalize State.cleanUpTo _ v.ctx v.step = t at hm ⊢
      have hintg := congrArg (·.intg) hm.rest
      refine ⟨?_, ?_, ?_, ⟨g, ?_, hg⟩, fun d => ?_, congrArg (·.cfg) hm.rest, congrArg (·.own) hm.rest⟩
      · exact congrArg (·.votes) hintg
      · exact congrArg (·.checkers) hintg
      · exact congrArg (·.mismatches) hintg
      · exact (congrArg (g ∈ ·.records) hintg).mpr (List.mem_append_right _ (List.mem_singleton_self _))
      · by_cases hd : d = v.ctx
        · rw [hd]
          exact hm.steps
        · exact congrArg (·.steps) (hm.others d hd)
    case engine =>
      obtain ⟨hcount, hcheckers, hvotes, hsteps, ⟨g, hg, hkind, hfive, -⟩, hcfg, hown⟩ :=
        State.confirm_leaves (s := { s with intg := { s.intg with votes := rest } }) hn v.ctx v.step v.unit v.engine none
      rw [exec_eddyVote, execEddyVote_of_engine hup hv]
      exact ⟨_, rfl, hvotes, hcheckers, hcount, hsteps, ⟨g, hg, hkind, hfive⟩, hcfg, hown⟩
  case leaves =>
    intro g rest hp hg short item
    obtain ⟨u, hexec, hu, hrecords, hlast, hoff, hon⟩ := execSignatureRecordExport_of_record hp hg
    obtain ⟨ht, hfits, hshort, hnot⟩ := u.journalSig_leaves g short
    have hallow : u.allowanceNow = s.allowanceNow := by rw [hu]; rfl
    have hboot : u.boot = s.boot := by rw [hu]
    rw [hallow] at hfits hshort
    rw [hboot] at hfits hshort hnot
    rw [exec_signatureRecordExport, hexec]
    change ∃ t, Host.Outcome.next (u.journalSig g short) = .next t ∧ _
    generalize u.journalSig g short = t at *
    have hintg : t.intg = u.intg := congrArg (·.intg) ht
    have hout : t.out = u.out := congrArg (·.out) ht
    refine ⟨t, rfl, ?_, ?_, ?_, ?_, ?_, hfits, hshort, hnot⟩
    · rw [ht, hu]
    · rw [hintg, hrecords]
    · rw [hintg, hlast]
    · rw [hintg, hout]
      exact hoff
    · rw [hintg, hout]
      exact hon

end Sys2Proof.Machine
end
